-- ==== Sys2Proof/Word.lean ====
section
/-! DEFINITION. The word types of the Phinos PX9 and their plainest arithmetic: nothing here depends on an
instruction. Bits are numbered from 0, the least significant (R7). -/

namespace Sys2Proof

/-- A 64-bit register value or virtual address. -/
abbrev W64 := BitVec 64
/-- A 32-bit value. -/
abbrev W32 := BitVec 32
/-- A byte of memory. -/
abbrev Byte := BitVec 8

/-- `true` is 1. -/
def ofBool64 (b : Bool) : W64 := if b then 1 else 0

/-- All 64 bits 1. -/
abbrev allOnes64 : W64 := 0xFFFFFFFFFFFFFFFF

end Sys2Proof
end

