-- ==== Sys2Proof/Config.lean ====
section
/-! DEFINITION. What an implementation fixes (constants of R3 and its neighbours) and the free values: constants
with no body, so that nothing can be proved of the values the manual leaves open (R10). -/

namespace Sys2Proof.Config

/-! ### Free values (assumption log 1) -/

/-- An unpredictable 64-bit value; the argument is the counter of the state that draws it. -/
opaque freeWord : Nat → W64
/-- The unpredictable value of register `r` in a register file whose contents were left open by draw `seed`. -/
opaque freeReg : (seed : Nat) → (r : Nat) → W64
/-- Element `k` of a block of unpredictable bytes. -/
opaque freeByte : Nat → Nat → Byte
/-- An open choice between two outcomes. -/
opaque freeBit : Nat → Nat → Bool
/-- The key by which the accesses of one instruction, unordered among themselves (R169), are ordered (log 5). -/
opaque freeKey : Nat → Nat → Nat
/-- Nanoseconds of reference time that pass over one step that is not an input (log 8). -/
opaque elapsed : Nat → Nat

/-! ### Named by the manual, with no definition in it (assumption log 9, 10, 13) -/

/-- The public half of the device key, and the signature that the device makes with the private half (R428). -/
opaque deviceKey : List Byte
opaque deviceSign : List Byte → BitVec 26472
/-- A certificate of the device key verifies under the root key; the one made at manufacture does (R428, R429). -/
opaque certVerifies : List Byte → Bool
/-- The way that holds a line in the L2 cache: 18d + w (R430). -/
opaque lineWay : Nat → Nat
/-- The root key hash held in mask ROM (R426). -/
opaque rootKeyHash : List Byte
/-- CRC-64 over the first 248 bytes of a flit (R422). -/
opaque crc64 : List Byte → W64
/-- The channel group that holds a 128-byte line (R431). -/
opaque lineGroup : Nat → Nat
/-- The instruction chosen for tagging, of each P that a core issues (R439). -/
opaque pickSample : Nat → Nat
/-- IDENT.STEP, fixed at manufacture (R440). -/
opaque identStep : BitVec 8
/-- IDENT.SERIAL, written at manufacture: neither 0 nor all ones (R440). -/
opaque serialDraw : Nat
def identSerial : W32 := BitVec.ofNat 32 (1 + serialDraw % 0xFFFFFFFE)

/-! ### Figures of the in-service configuration (R3) -/

/-- Compute dies D0 to D3. -/
abbrev dies : Nat := 4
/-- Yards built per die; eight are in service. -/
abbrev yardsBuilt : Nat := 9
/-- Cores in one yard. -/
abbrev coresPerYard : Nat := 6
/-- Strand slots of a core (R14). -/
abbrev strandSlots : Nat := 32
/-- Lane rows of a core (R14). -/
abbrev laneRows : Nat := 16
/-- Lanes of a lane row. -/
abbrev lanes : Nat := 64
/-- Bytes of the main register file of a core (R335). -/
abbrev regFileBytes : Nat := 524288
/-- Scratchpad bytes of a core (R3). -/
abbrev scratchBytes : Nat := 1572864
/-- Accumulator tiles of a core (R288). -/
abbrev tilesPerCore : Nat := 32
/-- Range-Lock Table entries of the package (R214). -/
abbrev rangeEntries : Nat := 16384
/-- Spawn bins of a die (R48). -/
abbrev binsPerDie : Nat := 128
/-- Operations that an engine queue holds (R287). -/
abbrev engineQueueDepth : Nat := 16
/-- Graphs that a context runs at once (R350). -/
abbrev graphsPerContext : Nat := 16
/-- Bytes of DRAM behind one die (R197). -/
abbrev dieDramBytes : Nat := 0x6000000000
/-- First local address past the package's DRAM (R197). -/
abbrev localLimit : Nat := 0x18000000000
/-- Incumbent Cells of the package (R3). -/
abbrev cells : Nat := 256
/-- Link ports (R3). -/
abbrev ports : Nat := 24

end Sys2Proof.Config
end

