-- ==== Sys2Proof/Syntax.lean ====
section
/-! DEFINITION. The syntax of Dzinum-3: operand fields, the eight formats (R77), the variants of each major form
(R80), and `Instr`, one constructor for each row of the table of operations and events. A row is either an
instruction word or an event of the device; an event carries the identifiers and outside decisions it needs. -/

namespace Sys2Proof

/-! ### Operand fields (R71, R72, R75, R76) -/

/-- The file code of an operand field (R72). -/
inductive File where
  | g | o | h | special
  deriving DecidableEq, Repr

/-- A ten-bit operand field: file code and index (R72). -/
structure Opd where
  file : File
  idx : BitVec 8
  deriving DecidableEq, Repr

/-- GD (R71); the value 11 is reserved. -/
inductive Guard where
  | always | top | inverse
  deriving DecidableEq, Repr

/-- A source modifier (R75). -/
inductive Mod where
  | none | neg | abs | negAbs
  deriving DecidableEq, Repr

/-- A clamp (R76). -/
inductive Clamp where
  | none | sat | c01 | c11
  deriving DecidableEq, Repr

/-- SPACE and the WM space code (R78, R228); the value 11 is reserved. -/
inductive Space where
  | global | scratch | priv
  deriving DecidableEq, Repr

/-- HINT (R78). -/
inductive Hint where
  | normal | stream | keep | shed
  deriving DecidableEq, Repr

/-! ### The eight formats (R77): the fields of a word but its OPC. A field that is 0 in every word (R71) is not kept. -/

structure FmtA where
  gd : Guard
  d : Opd
  a : Opd
  b : Opd
  c : Opd
  ma : Mod
  mb : Mod
  mc : Mod
  cl : Clamp
  sc : BitVec 3
  deriving DecidableEq, Repr

structure FmtI where
  gd : Guard
  d : Opd
  a : Opd
  imm : W32
  deriving DecidableEq, Repr

structure FmtM where
  gd : Guard
  v : Opd
  base : Opd
  off : BitVec 20
  space : Space
  hint : Hint
  deriving DecidableEq, Repr

structure FmtG where
  gd : Guard
  v : Opd
  base : Opd
  idx : Opd
  rmp : BitVec 3
  scl : BitVec 2
  deriving DecidableEq, Repr

structure FmtB where
  gd : Guard
  a : Opd
  tgt : BitVec 26
  spl : BitVec 16
  deriving DecidableEq, Repr

structure FmtE where
  gd : Guard
  d : Opd
  a : Opd
  b : Opd
  acc : BitVec 5
  pa : BitVec 3
  pb : BitVec 3
  zc : Bool
  bsel : BitVec 2
  gng : Bool
  spa : Bool
  spb : Bool
  flg : BitVec 4
  deriving DecidableEq, Repr

structure FmtS where
  gd : Guard
  d : Opd
  a : Opd
  srn : BitVec 12
  deriving DecidableEq, Repr

structure FmtQ where
  gd : Guard
  d : Opd
  a : Opd
  b : Opd
  flg : BitVec 4
  wm : BitVec 2
  deriving DecidableEq, Repr

/-! ### Variants of the major forms (R80) -/

inductive IntW where | i32 | i64
  deriving DecidableEq, Repr
inductive Sgn where | s | n
  deriving DecidableEq, Repr
inductive CmpCC where | eq | ne | lts | les | gts | ges | ltn | len | gtn | gen
  deriving DecidableEq, Repr
inductive LdV where | n8 | s8 | n16 | s16 | n32 | s32 | b64 | b128
  deriving DecidableEq, Repr
inductive StV where | b8 | b16 | b32 | b64 | b128
  deriving DecidableEq, Repr
inductive LdsV where | b32 | b64 | b128
  deriving DecidableEq, Repr
inductive AtomOp where | add32 | add64 | and | or | xor | mins | maxs | minn | maxn | xchg
  deriving DecidableEq, Repr
inductive CasW where | i32 | i64 | i128
  deriving DecidableEq, Repr
inductive AtomfT where | f32 | f64 | bf16x2
  deriving DecidableEq, Repr
inductive BarS where | pen | yard
  deriving DecidableEq, Repr
inductive ElemW where | b32 | b64
  deriving DecidableEq, Repr
inductive ScataT where | add32 | add64 | addf32
  deriving DecidableEq, Repr
inductive FTy where | f64 | f32 | f16x4 | bf16x4
  deriving DecidableEq, Repr
inductive FP where | f64 | f32
  deriving DecidableEq, Repr
inductive FcmpCC where | eq | ne | lt | le | un
  deriving DecidableEq, Repr
inductive CvtV where
  | f64f32 | f32f64 | bf16f32 | f16f32 | f32f16 | f32bf16 | e4m3f32 | e5m2f32
  | e2m1f32 | lns6f32 | f32lns6 | f64s64 | s64f64 | f32s32 | s32f32 | f64n64
  deriving DecidableEq, Repr
inductive FrndM where | rn | rz | rd | ru
  deriving DecidableEq, Repr
inductive RedOp where | iadd64 | fadd64 | fadd32 | imin | imax | fmin32 | fmax32 | and | or
  deriving DecidableEq, Repr
inductive ScanOp where | iadd64 | fadd32
  deriving DecidableEq, Repr
inductive ShflM where | idx | up | down | xor
  deriving DecidableEq, Repr
inductive VoteM where | any | all | count
  deriving DecidableEq, Repr
inductive BsF where | i8 | i4 | e4m3 | e2m1
  deriving DecidableEq, Repr
inductive PlaneW where | p4 | p8
  deriving DecidableEq, Repr
inductive MmapV where | ss | sn | ns | nn
  deriving DecidableEq, Repr
inductive MmafV where | bf16 | f16 | e4m3 | e5m2 | e2m1
  deriving DecidableEq, Repr
inductive MmaspV where | plane | float | lns
  deriving DecidableEq, Repr
inductive DrainV where | f32 | bf16 | f16 | e4m3 | i8
  deriving DecidableEq, Repr
inductive CycV where | cyc | ref | step
  deriving DecidableEq, Repr

/-! ### What an event carries from outside -/

/-- Who holds a local copy of an Incumbent Cell's key (R361). -/
inductive KeyLoc where
  | die (d : Nat)
  | core (c : Nat)
  deriving DecidableEq, Repr

/-- A store that Turjo makes, as an ordinary 8-byte store to a physical address (R204). -/
structure SysStore where
  pa : Nat
  value : W64
  deriving DecidableEq, Repr

/-- What Turjo does with a parked thread it services (R394): it maps with the stores given and resumes the thread
(for STACKGROW, raising $hwm by `raise` pages), from the system core given, or forwards the record. -/
inductive TurjoAct where
  | resume (stores : List SysStore) (raise : Nat) (sysCore : Nat := 0)
  | forward
  deriving DecidableEq, Repr

/-- A unit that can be retired (R430). -/
inductive PkgUnit where
  | yard (die y : Nat)
  | sysCore (k : Nat)
  | copyEngine (k : Nat)
  | way (die w : Nat)
  | dramLane (group lane : Nat)
  | linkLane (port lane : Nat)
  deriving DecidableEq, Repr

/-- A boot image as received (R426). -/
structure BootImage where
  bytes : List Byte
  deriving DecidableEq, Repr

/-- The configuration record's fields (R428), its maps and the owner's key hash. -/
structure CfgRec where
  seq : W64
  grade : BitVec 8
  pkg : BitVec 6
  ownv : Bool
  yards : BitVec 36
  sysc : BitVec 18
  copy : BitVec 18
  ways : BitVec 72
  dramMap : List Byte
  linkMap : List Byte
  owner : List Byte
  deriving DecidableEq, Repr

/-- What the mask ROM meets outside itself at a boot (R425, R427): whether each DHCP server answers, the image that
TFTP delivers, a configuration record sent with it and its signature, and whether DRAM and the ports train. -/
structure BootInput where
  dhcp6 : Bool
  dhcp4 : Bool
  image : BootImage
  record : Option (CfgRec × List Byte)
  hardwareOk : Bool
  deriving DecidableEq, Repr

/-- A package that leaves the domain: by its reset, or because no port reaches it (R424). -/
structure Leaver where
  num : Nat
  reset : Bool
  deriving DecidableEq, Repr

/-- A package that joins the domain, the ports that have it at their other end, and those that reach it through other packages
(R424). -/
structure Joiner where
  num : Nat
  ports : List Nat
  via : List Nat
  deriving DecidableEq, Repr

/-- A host AtomicOp (R419). -/
inductive HostAtomic where
  | fetchAdd | swap | cas
  deriving DecidableEq, Repr

/-- A context as Turjo creates it when its function is enabled (R421). -/
structure CtxInit where
  root : Nat
  privateBase : W64
  pid : W32
  vw : W64
  faultLog : Option W64
  dispatchQueues : List W64
  copyQueues : List W64
  budgetMiB : Nat
  samplePeriod : Nat
  sampleQueue : W64
  deriving DecidableEq, Repr

/-- What the pipeline of a core measured for an instruction that it tagged for a context (R439). -/
structure SampleData where
  ctx : Nat
  core : Nat
  /-- Which of the core's tagged instructions it is, from 0, the oldest. -/
  tag : Nat
  fetch : BitVec 16
  issue : BitVec 16
  opnd : BitVec 16
  exec : BitVec 32
  wb : BitVec 16
  level : BitVec 4
  deriving DecidableEq, Repr

/-- One constructor for each row of the table of operations and events. -/
inductive Instr where
  -- Block 0: integer and address arithmetic (R137)
  | iadd (w : IntW) (x : FmtA)
  | isub (w : IntW) (x : FmtA)
  | imul (w : IntW) (x : FmtA)
  | imulh (v : Sgn) (x : FmtA)
  | imad (w : IntW) (x : FmtA)
  | idiv (v : Sgn) (x : FmtA)
  | irem (v : Sgn) (x : FmtA)
  | imin (v : Sgn) (x : FmtA)
  | imax (v : Sgn) (x : FmtA)
  | iabs (x : FmtA)
  | and (x : FmtA)
  | or (x : FmtA)
  | xor (x : FmtA)
  | not (x : FmtA)
  | shl (x : FmtA)
  | shr (v : Sgn) (x : FmtA)
  | rot (x : FmtA)
  | bfx (v : Sgn) (x : FmtA)
  | bfi (x : FmtA)
  | popc (x : FmtA)
  | clz (x : FmtA)
  | ctz (x : FmtA)
  | iclamp (v : Sgn) (x : FmtA)
  | sel (x : FmtA)
  | mov (x : FmtA)
  | movi (x : FmtI)
  | movhi (x : FmtI)
  | lea (x : FmtA)
  | addi (x : FmtI)
  | imulw (v : Sgn) (x : FmtA)
  | bswap (x : FmtA)
  | brev (x : FmtA)
  -- Block 1: predicates, control, strands and threads (R145 to R165)
  | cmp (cc : CmpCC) (x : FmtA)
  | pand (x : FmtA)
  | por (x : FmtA)
  | pnot (x : FmtA)
  | ppop (x : FmtA)
  | ptest (x : FmtA)
  | bra (x : FmtB)
  | brx (x : FmtB)
  | call (x : FmtB)
  | callx (x : FmtB)
  | ret (x : FmtB)
  | splice (x : FmtI)
  | exit (x : FmtA)
  | loop (x : FmtB)
  | nop (x : FmtA)
  | movix (x : FmtA)
  | range (x : FmtA)
  | formq (x : FmtA)
  | laydn (x : FmtA)
  | yield (x : FmtA)
  | kpoint (x : FmtA)
  -- Block 2: plain memory and rings (R166 to R187)
  | ld (v : LdV) (x : FmtM)
  | st (v : StV) (x : FmtM)
  | lds (v : LdsV) (x : FmtM)
  | sts (v : LdsV) (x : FmtM)
  | pref (x : FmtM)
  | cpsIn (x : FmtM)
  | cpsOut (x : FmtM)
  | rngwait (x : FmtQ)
  | rngfree (x : FmtQ)
  | rngfill (x : FmtQ)
  | rngclaim (x : FmtQ)
  | rngcfgConfigure (x : FmtQ)
  | rngcfgQuery (x : FmtQ)
  | ringWaiterRetest (isEngine : Bool) (id lane : Nat)
  -- Block 3: synchronisation (R227 to R256)
  | atom (op : AtomOp) (x : FmtQ)
  | cas (w : CasW) (x : FmtQ)
  | atomf (t : AtomfT) (x : FmtQ)
  | waita (x : FmtQ)
  | waitaTimeout (gid lane : Nat)
  | waitaDeviceWake (gid lane : Nat)
  | wake (x : FmtQ)
  | barArriveWait (s : BarS) (x : FmtQ)
  | barWait (s : BarS) (x : FmtQ)
  | bararv (s : BarS) (x : FmtQ)
  | barrierWaitEnd (gid lane : Nat)
  | gather (w : ElemW) (x : FmtG)
  | scatter (w : ElemW) (x : FmtG)
  | scata (t : ScataT) (x : FmtG)
  | rmapset (x : FmtA)
  | engfence (x : FmtQ)
  -- Block 4: floating point (R261 to R267)
  | fadd (t : FTy) (x : FmtA)
  | fsub (t : FTy) (x : FmtA)
  | fmul (t : FTy) (x : FmtA)
  | fma (t : FTy) (x : FmtA)
  | fdiv (t : FP) (x : FmtA)
  | fsqrt (t : FP) (x : FmtA)
  | frcp (x : FmtA)
  | frsq (x : FmtA)
  | fexp2 (x : FmtA)
  | flog2 (x : FmtA)
  | fmin (t : FP) (x : FmtA)
  | fmax (t : FP) (x : FmtA)
  | fcmp (cc : FcmpCC) (t : FP) (x : FmtA)
  | cvt (v : CvtV) (x : FmtA)
  | frnd (m : FrndM) (t : FP) (x : FmtA)
  -- Block 5: cross-lane and packing (R268 to R284)
  | red (op : RedOp) (x : FmtA)
  | scan (op : ScanOp) (x : FmtA)
  | shfl (m : ShflM) (x : FmtA)
  | vote (m : VoteM) (x : FmtA)
  | elect (x : FmtA)
  | convergentWindowExpiry (gid : Nat) (pc : W64)
  | bspack (f : BsF) (x : FmtA)
  | bsunpk (f : BsF) (x : FmtA)
  | lmul (x : FmtA)
  | lacc (x : FmtA)
  | bplane (w : PlaneW) (x : FmtA)
  | qdot (v : Sgn) (x : FmtA)
  -- Block 6: the Matrix Engine (R285 to R320)
  | mmap (v : MmapV) (x : FmtE)
  | mmaf (v : MmafV) (x : FmtE)
  | mmal (x : FmtE)
  | mmasp (v : MmaspV) (x : FmtE)
  | mwait (x : FmtE)
  | accz (x : FmtE)
  | accld (x : FmtE)
  | accst (x : FmtE)
  | drain (v : DrainV) (x : FmtE)
  | gangset (x : FmtE)
  | hitch (x : FmtE)
  | gangtoExpiry (pen : Nat)
  | rpred (x : FmtE)
  | rcheck (x : FmtE)
  | rgath (x : FmtE)
  | mprog (x : FmtE)
  | mcancel (x : FmtE)
  | engineQueueRoom (gid : Nat)
  | rangeLockIssueRetry (gid : Nat)
  | engineOpStart (op : Nat)
  | engineOpCompletion (op : Nat)
  -- Block 7: tasks, queues, graphs (R364 to R382) and their events
  | qpush (x : FmtQ)
  | qpop (x : FmtQ)
  | queueWaiterRetest (gid lane : Nat)
  | copyD1 (x : FmtQ)
  | copyD2 (x : FmtQ)
  | copyGather (x : FmtQ)
  | spawnRange (x : FmtQ)
  | spawnSingle (x : FmtQ)
  | binTimerExpiry (die ctx : Nat) (entry : W64)
  | spawnBinFree (gid : Nat)
  | cont (x : FmtI)
  | continuationResume (ctx : Nat) (addr : W64) (pen : Nat)
  | depset (x : FmtQ)
  | depdec (x : FmtQ)
  | depActionPush (id : Nat)
  | graphrun (x : FmtQ)
  | graphNodeFire (run : Nat) (node : W64)
  | graphRunEnd (run : Nat)
  | condw (x : FmtQ)
  | histadd (x : FmtQ)
  | histlatchLatch (x : FmtQ)
  | histlatchConfigure (x : FmtQ)
  | wsdecl (x : FmtQ)
  | incupd (x : FmtQ)
  | incrdKey (x : FmtQ)
  | incrdCounters (x : FmtQ)
  | incumbentKeyPropagate (cell : Nat) (loc : KeyLoc)
  | tbsetNextTask (x : FmtQ)
  | tbsetOwnTask (x : FmtQ)
  | tbsetNextCounter (x : FmtQ)
  | stage (x : FmtQ)
  | pflag (x : FmtQ)
  | govsetQueue (x : FmtQ)
  | govsetThresholds (x : FmtQ)
  | govsetControl (x : FmtQ)
  | governorPeriod (launch : Nat)
  | killtParked (x : FmtQ)
  | killtSelf (x : FmtQ)
  -- Block 7: system (R411 to R418) and its events
  | cycrd (v : CycV) (x : FmtS)
  | trap (x : FmtI)
  | assert (x : FmtI)
  | syscall (x : FmtI)
  | syscallReply (gid lane : Nat) (result : W64)
  | brk (x : FmtI)
  | rdsr (x : FmtS)
  | wrsr (x : FmtS)
  | eretHandler (x : FmtA)
  | eretResume (x : FmtA)
  -- Events of issue and waiting
  | clauseStart (gid : Nat)
  | laneRowGrant (gid : Nat)
  | spliceWaitExpiry (gid : Nat)
  | memoryOpCompletion (op : Nat)
  | turjoService (handle : Nat) (act : TurjoAct)
  | contextStop (ctx : Nat)
  | contextResume (ctx : Nat)
  -- Events of dispatch and placement
  | launchPacket (ctx : Nat) (queue : W64)
  | graphRunPacket (ctx : Nat) (queue : W64)
  | copyQueuePacket (ctx : Nat) (queue : W64)
  | placeMember (die : Nat)
  | reservationExpiry (member : Nat)
  | coreWake (core : Nat)
  | penSave (pen : Nat)
  | penRestore (pen yard : Nat)
  | savedImageCompletion (op : Nat)
  | taskEnd (task : Nat)
  | deviceAccessRetry (id : Nat) (act : TurjoAct)
  | stagingTransfer (task : Nat)
  | lostWriteback (line ctx die : Nat) (shed : Bool)
  | shootdownComplete (id : Nat)
  -- Events of contexts, host and gang launches
  | vfReset (ctx : Nat)
  | pfFlr
  | vfEnable (ctx : Nat) (init : CtxInit)
  | vfDisable (ctx : Nat)
  | bar2Access (ctx : Nat) (off : Nat) (size : Nat) (write : Option Nat)
  | hostAtomicop (ctx : Nat) (off : Nat) (op : HostAtomic) (wide : Bool) (operand compare : W64)
  | gangLaunchStart (ctx : Nat) (addr : W64)
  | gangLaunchTimeout (ctx : Nat) (addr : W64)
  -- Events of the links and the domain
  | flitReceive (port : Nat) (bytes : List Byte)
  | replayRequest (port : Nat) (expected : BitVec 12)
  | replayTimeout (port : Nat)
  | packageLeaveDomain (pkg : Leaver)
  | domainJoin (pkg : Joiner) (timer : Nat)
  -- Events of boot, spares, clocks, power and registers
  | powerGood (b : BootInput)
  | dhcpv6Timeout (b : BootInput)
  | recoveryRetry (b : BootInput)
  | selfTest (failed : List PkgUnit)
  | diefreqWrite (die : Nat) (value : W64)
  | relockComplete (die : Nat)
  | powerSample (mean10 mean1 : Nat) (temps : List Nat)
  | healthWrite (value : W64)
  | cecntWrite (value : W64)
  | registerWrite (off : Nat) (value : W64)
  | sampleTag (d : SampleData)
  | foldWindowExpiry (gid : Nat) (pc : W64)
  | unassignedOpcode (w : W64)
  | priorityAging (member : Nat)
  | powerLoss (midWrite : Bool)
  | correctedErrorThreshold (u : PkgUnit)
  | retrainComplete (u : PkgUnit)
  | debuggerResume (handle : Nat) (kill : Bool)
  | shedWayGrant (ctx die ways : Nat)
  | incumbentCellAllocate (ctx cell : Nat)
  | gangLaunchAck (ctx : Nat) (addr : W64) (pkg : Nat)
  | configRecordService (r : CfgRec)
  deriving DecidableEq, Repr

/-- An input of the machine: an event of the table, or an act from outside that the table does not list. -/
inductive Input where
  /-- An event of the table. -/
  | event (i : Instr)
  /-- An uncorrectable error arises in the 128-byte line of that number (R223). -/
  | corrupt (line : Nat)
  /-- An uncorrectable error arises in a 128-byte line of a pen's scratch (R166, R223). -/
  | corruptScratch (pen line : Nat)
  /-- ECC corrects `n` errors of the class: 0 DRAM, 1 L2, 2 Phinos Link, 3 core arrays (R432); in a unit's arrays, they
  count for its threshold (R430). -/
  | corrected (cls n : Nat) (unit : Option PkgUnit)
  /-- A unit reports an uncorrectable error in its own arrays (R430). -/
  | unitError (u : PkgUnit)
  /-- Turjo sets the hourly threshold of a class of units (R430). -/
  | threshold (cls n : Nat)
  /-- A line is written back to memory from the L2 cache of a die, or from the shed where it stands there (R225). -/
  | writeBack (line die : Nat)
  /-- A Matrix Engine performs up to `n` further steps of an operation (R294). -/
  | engineAdvance (op n : Nat)
  /-- A store by a thread of another package, unchecked by the Range-Lock Table (R220). -/
  | peerStore (pa size : Nat) (value : W64)
  /-- A thread of another package begins to wait at an address, or no longer does (R238). -/
  | peerWait (ctx pa : Nat) (begins : Bool)
  /-- A WAKE of another package chooses the oldest waiter of the context at an address, here (R238). -/
  | peerWake (ctx pa : Nat)
  /-- Turjo edits page-table entries of a context for the pages of [lo, hi) (R204, R438). -/
  | tableEdit (ctx : Nat) (lo hi : W64) (stores : List SysStore) (sysCore : Nat)
  /-- Turjo issues a translation shoot-down of the pages of [lo, hi) (R204, R438). -/
  | shootDown (ctx : Nat) (lo hi : W64) (sysCore : Nat)
  /-- Turjo stores into memory it owns or loads an image into; a store into a translation table is an edit (R5, R192, R204). -/
  | sysStore (s : SysStore) (sysCore : Nat)
  /-- The part of the persistent store that holds this copy of the configuration record no longer takes a write (R429). -/
  | storeFail (copy : Nat)
  /-- Turjo allocates the histogram to the context under a number (R352). -/
  | histAllocate (hist ctx num : Nat)
  /-- Turjo sets a die's staging share in eighths (R359). -/
  | stagingShare (die eighths : Nat)
  /-- The debugger attaches to a context or detaches from it (R416). -/
  | debugger (ctx : Nat) (attached : Bool)
  /-- Turjo resumes the contexts stopped by a thermal trip once the temperature is below 95 °C (R435). -/
  | thermalResume
  /-- Turjo starts once the ROM has tested the package (R425). -/
  | turjoStart
  /-- Turjo sets a context's sampling period (R439). -/
  | samplePeriod (ctx p : Nat) (queue : W64)
  /-- Software sets an entry of a function's MSI-X table (R419). -/
  | msixEntry (fn vec : Nat) (addr : W64) (data : W32)
  /-- The host reads BAR0 of a function, or Turjo does (R420, R440). -/
  | bar0Read (fn off : Nat)
  deriving DecidableEq, Repr

end Sys2Proof
end

