-- ==== Sys2Proof/WellFormed.lean ====
section
/-! DEFINITION. Which instructions are well formed: the checks on an instruction's fields that need nothing but the
word (R71 to R78, R133, and the field columns of each chapter's tables). A word whose instruction is not well formed
raises ILLFMT. Checks that need the launch's register count, the clause or the pen are made when it executes. -/

namespace Sys2Proof

/-- What an instruction's entry says of an operand field. -/
inductive Use where
  /-- Unused: every bit 0 (R71). -/
  | no
  /-- A source read as an integer or as raw bits: one half is not one (R73). -/
  | src
  /-- A source for which every special code has a value. -/
  | fsrc
  /-- A destination of a short-latency instruction (R72). -/
  | dst
  /-- A g or o register. -/
  | go
  /-- An even g or o register with its successor (R74). -/
  | pair
  /-- A register block (R364). -/
  | blk
  deriving DecidableEq, Repr

/-- The operand field whose bits are all 0. -/
abbrev Opd.zero : Opd := ⟨.g, 0⟩

/-- A source index of its file (R72). -/
def Opd.srcOk (o : Opd) (half : Bool) : Bool :=
  match o.file with
  | .g => true
  | .o => decide (o.idx.toNat ≤ 15)
  | .h => decide (o.idx.toNat ≤ 3)
  | .special => decide (o.idx.toNat ≤ 4) || (half && o.idx == 5)

/-- A g or o register of its file (R72). -/
def Opd.isGO (o : Opd) : Bool :=
  match o.file with
  | .g => true
  | .o => decide (o.idx.toNat ≤ 15)
  | _ => false

/-- The special code "history only" of a destination (R72). -/
abbrev Opd.histOnly : Opd := ⟨.special, 2⟩

/-- The operand meets what the entry says of its field. -/
def Use.ok (u : Use) (o : Opd) : Bool :=
  match u with
  | .no => o == Opd.zero
  | .src => o.srcOk false
  | .fsrc => o.srcOk true
  | .dst => o.isGO || o == Opd.histOnly
  | .go => o.isGO
  | .pair => o.isGO && o.idx.toNat % 2 == 0
  | .blk => o.file == .g && o.idx.toNat % 8 == 0

/-- A field used by the entry, or 0. -/
def usedOr0 (u : Bool) {w : Nat} (x : BitVec w) : Bool := u || x == 0
def flagOr0 (u x : Bool) : Bool := u || !x
/-- FLG of a long-latency instruction: f0 to f11, or 0xF (R66). -/
def flgOk (f : BitVec 4) : Bool := decide (f.toNat ≤ 11) || f == 15
/-- A modifier on a source the entry lists, or none. -/
def Mod.ok (u : Bool) (m : Mod) : Bool := u || m == .none

/-- Which clamps an entry admits (R76). -/
inductive ClUse where | no | sat | all
  deriving DecidableEq, Repr
def ClUse.ok (u : ClUse) (c : Clamp) : Bool :=
  match u with
  | .no => c == .none
  | .sat => c == .none || c == .sat
  | .all => true

/-- Format A with the field uses D, A, B, C, the modifiers of A, B and C, the clamps, SC, and GD 00 only. -/
def FmtA.ok (x : FmtA) (d a b c : Use) (ma mb mc : Bool := false) (cl : ClUse := .no) (sc : Bool := false)
    (gd0 : Bool := false) : Bool :=
  d.ok x.d && a.ok x.a && b.ok x.b && c.ok x.c && Mod.ok ma x.ma && Mod.ok mb x.mb && Mod.ok mc x.mc
    && cl.ok x.cl && usedOr0 sc x.sc && (!gd0 || x.gd == .always)
def FmtI.ok (x : FmtI) (d a : Use) (gd0 : Bool := false) : Bool :=
  d.ok x.d && a.ok x.a && (!gd0 || x.gd == .always)
def FmtM.ok (x : FmtM) (v : Use) (space hint scr : Bool) : Bool :=
  v.ok x.v && Use.src.ok x.base && (space || x.space == .global) && (hint || x.hint == .normal)
    && (scr || x.space != .scratch)
/-- Format G: RMP 5 to 7 is reserved (R78). -/
def FmtG.ok (x : FmtG) (v : Use) : Bool :=
  v.ok x.v && Use.src.ok x.base && Use.src.ok x.idx && decide (x.rmp.toNat ≤ 4)
def FmtB.ok (x : FmtB) (a : Use) (tgt : Bool) : Bool := a.ok x.a && usedOr0 tgt x.tgt
/-- Format E. `flg` is used by the engine-class long-latency instructions. Guards other than 00 are refused (R285). -/
def FmtE.ok (x : FmtE) (d a b : Use) (acc pa pb zc bsel gng sp flg : Bool) : Bool :=
  x.gd == .always && d.ok x.d && a.ok x.a && b.ok x.b && usedOr0 acc x.acc && usedOr0 pa x.pa && usedOr0 pb x.pb
    && flagOr0 zc x.zc && usedOr0 bsel x.bsel && flagOr0 gng x.gng && flagOr0 sp x.spa && flagOr0 sp x.spb
    && (if flg then flgOk x.flg else x.flg == 0)
def FmtS.ok (x : FmtS) (d a : Use) (srn : Bool) : Bool := d.ok x.d && a.ok x.a && usedOr0 srn x.srn
/-- Format Q. `wm` is the condition on WM; `flg` whether FLG is used. -/
def FmtQ.ok (x : FmtQ) (d a b : Use) (flg : Bool) (wm : Bool) (gd0 : Bool := false) : Bool :=
  d.ok x.d && a.ok x.a && b.ok x.b && (if flg then flgOk x.flg else x.flg == 0) && wm && (!gd0 || x.gd == .always)

/-- The WM code of a space (R228). -/
def wmSpace (wm : BitVec 2) : Bool := decide (wm.toNat ≤ 2)
def wmBit (wm : BitVec 2) : Bool := decide (wm.toNat ≤ 1)
def Sgn.signed : Sgn → Bool | .s => true | .n => false
/-- The block field of SPLICE: bits 9:4 must be 0 (R155). -/
def Opd.block (o : Opd) : Bool := o.file == .g && decide (o.idx.toNat ≤ 15)
/-- The selector of MOVIX: A[9:3] must be 0, and 6 and 7 are reserved (R160). -/
def Opd.selector (o : Opd) : Bool := o.file == .g && decide (o.idx.toNat ≤ 5)
/-- SRN of an RDSR or WRSR: a number listed in R410, or a system register. -/
def srnOk (n : BitVec 12) : Bool :=
  decide (n.toNat ≤ 0x0E) || decide (0x10 ≤ n.toNat ∧ n.toNat ≤ 0x13) || decide (0x800 ≤ n.toNat)

def fopOk (x : FmtA) (b c : Bool) : Bool :=
  x.ok .dst .fsrc (if b then .fsrc else .no) (if c then .fsrc else .no) true b c .all true

/-- The static checks of every instruction. An event has no word and is well formed. -/
def Instr.wf : Instr → Bool
  | .iadd _ x | .isub _ x | .imul _ x => x.ok .dst .src .src .no true true false .sat
  | .imulh v x => x.ok .dst .src .src .no v.signed v.signed
  | .imad _ x => x.ok .dst .src .src .src true true true .sat
  | .idiv v x => x.ok .dst .src .src .no v.signed v.signed false (if v.signed then .sat else .no)
  | .irem v x | .imin v x | .imax v x => x.ok .dst .src .src .no v.signed v.signed
  | .iabs x => x.ok .dst .src .no .no true false false .sat
  | .and x | .or x | .xor x | .shl x | .shr _ x | .rot x | .bfx _ x => x.ok .dst .src .src .no
  | .not x | .popc x | .clz x | .ctz x | .mov x | .bswap x | .brev x => x.ok .dst .src .no .no
  | .bfi x | .sel x => x.ok .dst .src .src .src
  | .iclamp v x => x.ok .dst .src .src .src v.signed v.signed v.signed
  | .movi x => x.ok .dst .no
  | .movhi x | .addi x => x.ok .dst .src
  | .lea x => x.ok .dst .src .src .src true true
  | .imulw v x => x.ok .pair .src .src .no v.signed v.signed
  | .cmp cc x =>
    let m := match cc with | .ltn | .len | .gtn | .gen => false | _ => true
    x.ok .no .src .src .no m m
  | .ptest x => x.ok .no .src .src .no
  | .pand x | .por x | .pnot x | .ppop x | .laydn x | .yield x | .kpoint x => x.ok .no .no .no .no (gd0 := true)
  | .bra x | .call x => x.ok .no true
  | .brx x | .callx x | .ret x => x.ok .src false
  | .loop x => x.ok .go true
  | .splice x => x.gd == .always && x.d.block && x.a.block
  | .exit x | .nop x => x.ok .no .no .no .no
  | .movix x => { x with a := Opd.zero }.ok .dst .no .no .no && x.a.selector
  | .range x => x.ok .dst .no .no .no
  | .formq x => x.ok .dst .fsrc .no .no
  | .ld v x => x.ok (if v == .b128 then .pair else .go) true true true
  | .st v x => x.ok (if v == .b128 then .pair else .src) true true true
  | .lds v x => x.ok (if v == .b128 then .pair else .dst) false false true
  | .sts v x => x.ok (if v == .b128 then .pair else .src) false false true
  | .pref x => x.ok .no true true false
  | .cpsIn x | .cpsOut x => x.ok .src true true false
  | .rngwait x | .rngclaim x => x.ok .dst .src .no false (wmBit x.wm)
  | .rngfree x | .rngfill x => x.ok .no .src .src false (x.wm == 0)
  | .rngcfgConfigure x => x.ok .dst .src .src false (x.wm == 0)
  | .rngcfgQuery x => x.ok .dst .src .src false (x.wm == 1)
  | .atom _ x | .waita x => x.ok .go .src .src true (wmSpace x.wm)
  | .atomf _ x => x.ok .go .src .fsrc true (wmSpace x.wm)
  | .cas w x =>
    let p := if w == .i128 then Use.pair else Use.go
    x.ok p .src (if w == .i128 then .pair else .src) true (wmSpace x.wm)
  | .wake x => x.ok .dst .src .src false (wmSpace x.wm)
  | .barArriveWait _ x => x.ok .dst .src .no false (x.wm == 0) true
  | .barWait _ x => x.ok .dst .src .src false (x.wm == 1) true
  | .bararv _ x => x.ok .dst .src .no false (x.wm == 0) true
  | .gather _ x => x.ok .go
  | .scatter _ x => x.ok .src
  | .scata ty x => x.ok (if ty == .addf32 then .fsrc else .src)
  | .rmapset x => x.ok .no .src .src .src
  | .engfence x => x.ok .dst .no .no false (wmBit x.wm) true
  | .fadd _ x | .fsub _ x | .fmul _ x | .fdiv _ x => fopOk x true false
  | .fma _ x => fopOk x true true
  | .fsqrt _ x | .frcp x | .frsq x | .fexp2 x | .flog2 x => fopOk x false false
  | .fmin _ x | .fmax _ x => x.ok .dst .fsrc .fsrc .no true true false .all
  | .fcmp _ _ x => x.ok .no .fsrc .fsrc .no true true
  | .cvt v x =>
    match v with
    | .s64f64 | .s32f32 => x.ok .dst .fsrc .no .no true false false .sat
    | .f64s64 | .f32s32 => x.ok .dst .src .no .no true false false .all true
    | .f64n64 | .f32lns6 => x.ok .dst .src .no .no false false false .all true
    | _ => x.ok .dst .fsrc .no .no true false false .all true
  | .frnd _ _ x => x.ok .dst .fsrc .no .no true false false .all
  | .red op x =>
    let u := match op with | .fadd64 | .fadd32 | .fmin32 | .fmax32 => Use.fsrc | _ => Use.src
    x.ok .dst u .no .no (gd0 := true)
  | .scan op x => x.ok .dst (if op == .fadd32 then .fsrc else .src) .no .no (gd0 := true)
  | .shfl _ x => x.ok .dst .src .src .no (gd0 := true)
  | .vote _ x => x.ok .dst .src .no .no (gd0 := true)
  | .elect x => x.ok .dst .no .no .no (gd0 := true)
  | .bspack _ x => x.ok .dst .fsrc .src .src
  | .bsunpk _ x => x.ok .dst .src .src .no
  | .lmul x => x.ok .dst .src .src .no
  | .lacc x | .qdot _ x => x.ok .dst .src .src .src (cl := .sat)
  | .bplane _ x => x.ok .dst .src .no .no
  | .mmap _ x => x.ok .pair .src .src true true true true true true true true
  | .mmaf _ x | .mmal x => x.ok .pair .src .src true false false false true true true true
  | .mmasp v x =>
    let p := v == .plane
    x.ok .pair .src .src true p p p true true true true && (x.spa || x.spb)
  | .mwait x | .accz x | .mcancel x => x.ok .no .no .no true false false false false false false false
  | .accld x | .accst x | .drain _ x => x.ok .go .no .no true false false false false false false true
  | .gangset x => x.ok .no .src .go false false false false false false false false
  | .hitch x => x.ok .no .no .no false false false false false false false false
  | .rpred x => x.ok .go .no .go false false false false false false false true
  | .rcheck x => x.ok .go .src .go false true false false false false false true && x.pa != 0
  | .rgath x => x.ok .go .src .no false true false false false false false true
  | .mprog x => x.ok .no .no .go true false false false false false false false
  | .qpush x => x.ok .dst .src .blk false (wmBit x.wm)
  | .qpop x => x.ok .blk .src .no true (wmBit x.wm)
  | .copyD1 x | .copyD2 x | .copyGather x => x.ok .go .src .no true (x.wm == 0)
  | .spawnRange x => x.ok .src .src .src false (x.wm == 0)
  | .spawnSingle x => x.ok .src .src .src false (x.wm == 1)
  | .cont x => x.ok .src .src && x.imm.toNat / 0x100000 == 0
  | .depset x => x.ok .src .src .src false (x.wm == 0)
  | .depdec x => x.ok .dst .src .src false (x.wm == 0)
  | .graphrun x | .histadd x => x.ok .no .src .src false (x.wm == 0)
  | .condw x => x.ok .no .src .src false (decide (x.wm.toNat ≤ 2))
  | .histlatchLatch x => x.ok .dst .src .src false (x.wm == 0)
  | .histlatchConfigure x => x.ok .dst .src .src false (x.wm == 1)
  | .wsdecl x => x.ok .no .src .src false true
  | .incupd x => x.ok .dst .src .src false (x.wm == 0)
  | .incrdKey x => x.ok .pair .src .no true (x.wm == 0)
  | .incrdCounters x => x.ok .pair .src .no true (x.wm == 1)
  | .tbsetNextTask x => x.ok .no .src .src false (x.wm == 0)
  | .tbsetOwnTask x => x.ok .no .src .src false (x.wm == 1)
  | .tbsetNextCounter x => x.ok .no .no .src false (x.wm == 2)
  | .stage x => x.ok .go .src .src true (x.wm == 0)
  | .pflag x => x.ok .dst .no .no false (x.wm == 0)
  | .govsetQueue x => x.ok .no .src .src false (x.wm == 0)
  | .govsetThresholds x => x.ok .no .src .src false (x.wm == 1)
  | .govsetControl x => x.ok .no .src .src false (x.wm == 2)
  | .killtParked x => x.ok .no .src .no false (x.wm == 0)
  | .killtSelf x => x.ok .no .src .no false (x.wm == 1)
  | .cycrd v x => if v == .step then x.ok .pair .src false else x.ok .dst .no false
  | .trap x | .brk x => x.ok .no .no
  | .assert x => x.ok .src .src
  | .syscall x => x.ok .go .blk
  | .rdsr x => x.ok .go .no true && srnOk x.srn
  | .wrsr x => x.ok .no .src true && srnOk x.srn
  | .eretHandler x => x.ok .no .src .no .no (gd0 := true) && x.a == ⟨.special, 2⟩
  | .eretResume x => x.ok .no .src .no .no (gd0 := true) && x.a != ⟨.special, 2⟩
  | _ => true

/-- The operand fields of an instruction, to hold against the launch's register count (R72). An unused field is g0. -/
def Instr.opds : Instr → List Opd
  | .iadd _ x | .isub _ x | .imul _ x | .imulh _ x | .imad _ x | .idiv _ x | .irem _ x | .imin _ x | .imax _ x
  | .iabs x | .and x | .or x | .xor x | .not x | .shl x | .shr _ x | .rot x | .bfx _ x | .bfi x | .popc x | .clz x
  | .ctz x | .iclamp _ x | .sel x | .mov x | .lea x | .imulw _ x | .bswap x | .brev x | .cmp _ x | .pand x | .por x
  | .pnot x | .ppop x | .ptest x | .exit x | .nop x | .movix x | .range x | .formq x | .laydn x | .yield x | .kpoint x
  | .rmapset x | .fadd _ x | .fsub _ x | .fmul _ x | .fma _ x | .fdiv _ x | .fsqrt _ x | .frcp x | .frsq x | .fexp2 x
  | .flog2 x | .fmin _ x | .fmax _ x | .fcmp _ _ x | .cvt _ x | .frnd _ _ x | .red _ x | .scan _ x | .shfl _ x
  | .vote _ x | .elect x | .bspack _ x | .bsunpk _ x | .lmul x | .lacc x | .bplane _ x | .qdot _ x
  | .eretHandler x | .eretResume x => [x.d, x.a, x.b, x.c]
  | .movi x | .movhi x | .addi x | .splice x | .cont x | .trap x | .assert x | .syscall x | .brk x => [x.d, x.a]
  | .ld _ x | .st _ x | .lds _ x | .sts _ x | .pref x | .cpsIn x | .cpsOut x => [x.v, x.base]
  | .gather _ x | .scatter _ x | .scata _ x => [x.v, x.base, x.idx]
  | .bra x | .brx x | .call x | .callx x | .ret x | .loop x => [x.a]
  | .mmap _ x | .mmaf _ x | .mmal x | .mmasp _ x | .mwait x | .accz x | .accld x | .accst x | .drain _ x | .gangset x
  | .hitch x | .rpred x | .rcheck x | .rgath x | .mprog x | .mcancel x => [x.d, x.a, x.b]
  | .cycrd _ x | .rdsr x | .wrsr x => [x.d, x.a]
  | .rngwait x | .rngfree x | .rngfill x | .rngclaim x | .rngcfgConfigure x | .rngcfgQuery x | .atom _ x | .cas _ x
  | .atomf _ x | .waita x | .wake x | .barArriveWait _ x | .barWait _ x | .bararv _ x | .engfence x | .qpush x
  | .qpop x | .copyD1 x | .copyD2 x | .copyGather x | .spawnRange x | .spawnSingle x | .depset x | .depdec x
  | .graphrun x | .condw x | .histadd x | .histlatchLatch x | .histlatchConfigure x | .wsdecl x | .incupd x
  | .incrdKey x | .incrdCounters x | .tbsetNextTask x | .tbsetOwnTask x | .tbsetNextCounter x | .stage x | .pflag x
  | .govsetQueue x | .govsetThresholds x | .govsetControl x | .killtParked x | .killtSelf x => [x.d, x.a, x.b]
  | _ => []

/-- A g register within a declared count of n, or one of g252 to g255 (R72). -/
def gOk (n r : Nat) : Bool := decide (r < n) || decide (252 ≤ r)

/-- The registers that SPLICE names live, besides g252 to g255 (R155). -/
def spliceRegs (x : FmtI) : List Nat :=
  (List.range 16).filterMap (fun k => if x.imm.getLsbD k then some (16 * x.a.idx.toNat + k) else none)
  ++ (List.range 16).filterMap (fun k => if x.imm.getLsbD (16 + k) then some (16 * x.d.idx.toNat + k) else none)
/-- The registers that CONT saves, slot by slot (R370). -/
def contRegs (x : FmtI) : List (Nat × Nat) :=
  let j := x.imm.toNat / 0x10000 % 16
  (List.range 16).filterMap (fun k => if x.imm.getLsbD k then some (k, 16 * j + k) else none)

/-- Every g register that the instruction names lies within the declared count n (R72, R155, R370). -/
def Instr.regsOk (n : Nat) (i : Instr) : Bool :=
  i.opds.all (fun o => o.file != .g || gOk n o.idx.toNat)
    && match i with
       | .splice x => (spliceRegs x).all (gOk n)
       | .cont x => (contRegs x).all (fun p => gOk n p.2)
       | _ => true

end Sys2Proof
end

