-- ==== Sys2Proof/Decode.lean ====
section
/-! DEFINITION. Decoding of instruction words and clause headers, total on all 64 bits, and the encoder written from
the same tables (R58, R62, R71 to R81). Decoding refuses by name: an opcode that the grid does not assign is ILLOP,
every other refusal ILLFMT. -/

namespace Sys2Proof

/-! ### Fields of a word -/

/-- Bits hi down to lo of a word (R7, R11). -/
def bits {n : Nat} (w : BitVec n) (hi lo : Nat) : BitVec (hi - lo + 1) := w.extractLsb hi lo

def fileOf (x : BitVec 2) : File := match x with | 0 => .g | 1 => .o | 2 => .h | _ => .special
def File.code : File → BitVec 2 | .g => 0 | .o => 1 | .h => 2 | .special => 3
/-- An operand field: file code in bits 9:8, index in bits 7:0 (R72). -/
def opdOf (x : BitVec 10) : Opd := ⟨fileOf (bits x 9 8), bits x 7 0⟩
def Opd.code (o : Opd) : BitVec 10 := o.file.code ++ o.idx
def guardOf (x : BitVec 2) : Option Guard := match x with | 0 => some .always | 1 => some .top | 2 => some .inverse | _ => none
def Guard.code : Guard → BitVec 2 | .always => 0 | .top => 1 | .inverse => 2
def modOf (x : BitVec 2) : Mod := match x with | 0 => .none | 1 => .neg | 2 => .abs | _ => .negAbs
def Mod.code : Mod → BitVec 2 | .none => 0 | .neg => 1 | .abs => 2 | .negAbs => 3
def clampOf (x : BitVec 2) : Clamp := match x with | 0 => .none | 1 => .sat | 2 => .c01 | _ => .c11
def Clamp.code : Clamp → BitVec 2 | .none => 0 | .sat => 1 | .c01 => 2 | .c11 => 3
def spaceOf (x : BitVec 2) : Option Space := match x with | 0 => some .global | 1 => some .scratch | 2 => some .priv | _ => none
def Space.code : Space → BitVec 2 | .global => 0 | .scratch => 1 | .priv => 2
def hintOf (x : BitVec 2) : Hint := match x with | 0 => .normal | 1 => .stream | 2 => .keep | _ => .shed
def Hint.code : Hint → BitVec 2 | .normal => 0 | .stream => 1 | .keep => 2 | .shed => 3
def bit1 (b : Bool) : BitVec 1 := if b then 1 else 0
def isSet {n : Nat} (w : BitVec n) (k : Nat) : Bool := w.getLsbD k

/-- OPC, bits 63:55 (R71). -/
def opcOf (w : W64) : BitVec 9 := bits w 63 55

/-! ### The eight formats (R77): bits 54:0 to fields and back -/

def parseA (w : W64) : Option FmtA :=
  if bits w 1 0 == 0 then
    (guardOf (bits w 54 53)).map fun gd =>
      { gd := gd, d := opdOf (bits w 52 43), a := opdOf (bits w 42 33), b := opdOf (bits w 32 23),
        c := opdOf (bits w 22 13), ma := modOf (bits w 12 11), mb := modOf (bits w 10 9), mc := modOf (bits w 8 7),
        cl := clampOf (bits w 6 5), sc := bits w 4 2 }
  else none
def FmtA.bits (x : FmtA) : BitVec 55 :=
  x.gd.code ++ x.d.code ++ x.a.code ++ x.b.code ++ x.c.code ++ x.ma.code ++ x.mb.code ++ x.mc.code ++ x.cl.code
    ++ x.sc ++ (0 : BitVec 2)

def parseI (w : W64) : Option FmtI :=
  if bits w 0 0 == 0 then
    (guardOf (bits w 54 53)).map fun gd =>
      { gd := gd, d := opdOf (bits w 52 43), a := opdOf (bits w 42 33), imm := bits w 32 1 }
  else none
def FmtI.bits (x : FmtI) : BitVec 55 := x.gd.code ++ x.d.code ++ x.a.code ++ x.imm ++ (0 : BitVec 1)

/-- Format M. RMP is used by no instruction of this format, so bits 8:0 are 0 (R78). -/
def parseM (w : W64) : Option FmtM :=
  if bits w 8 0 == 0 then
    match guardOf (bits w 54 53), spaceOf (bits w 12 11) with
    | some gd, some sp =>
      some { gd := gd, v := opdOf (bits w 52 43), base := opdOf (bits w 42 33), off := bits w 32 13,
             space := sp, hint := hintOf (bits w 10 9) }
    | _, _ => none
  else none
def FmtM.bits (x : FmtM) : BitVec 55 :=
  x.gd.code ++ x.v.code ++ x.base.code ++ x.off ++ x.space.code ++ x.hint.code ++ (0 : BitVec 9)

def parseG (w : W64) : Option FmtG :=
  if bits w 17 0 == 0 then
    (guardOf (bits w 54 53)).map fun gd =>
      { gd := gd, v := opdOf (bits w 52 43), base := opdOf (bits w 42 33), idx := opdOf (bits w 32 23),
        rmp := bits w 22 20, scl := bits w 19 18 }
  else none
def FmtG.bits (x : FmtG) : BitVec 55 :=
  x.gd.code ++ x.v.code ++ x.base.code ++ x.idx.code ++ x.rmp ++ x.scl ++ (0 : BitVec 18)

def parseB (w : W64) : Option FmtB :=
  if bits w 0 0 == 0 then
    (guardOf (bits w 54 53)).map fun gd =>
      { gd := gd, a := opdOf (bits w 52 43), tgt := bits w 42 17, spl := bits w 16 1 }
  else none
def FmtB.bits (x : FmtB) : BitVec 55 := x.gd.code ++ x.a.code ++ x.tgt ++ x.spl ++ (0 : BitVec 1)

def parseE (w : W64) : Option FmtE :=
  if bits w 1 0 == 0 then
    (guardOf (bits w 54 53)).map fun gd =>
      { gd := gd, d := opdOf (bits w 52 43), a := opdOf (bits w 42 33), b := opdOf (bits w 32 23),
        acc := bits w 22 18, pa := bits w 17 15, pb := bits w 14 12, zc := isSet w 11, bsel := bits w 10 9,
        gng := isSet w 8, spa := isSet w 7, spb := isSet w 6, flg := bits w 5 2 }
  else none
def FmtE.bits (x : FmtE) : BitVec 55 :=
  x.gd.code ++ x.d.code ++ x.a.code ++ x.b.code ++ x.acc ++ x.pa ++ x.pb ++ bit1 x.zc ++ x.bsel ++ bit1 x.gng
    ++ bit1 x.spa ++ bit1 x.spb ++ x.flg ++ (0 : BitVec 2)

/-- Format S. No instruction uses IMM20. -/
def parseS (w : W64) : Option FmtS :=
  if bits w 20 0 == 0 then
    (guardOf (bits w 54 53)).map fun gd =>
      { gd := gd, d := opdOf (bits w 52 43), a := opdOf (bits w 42 33), srn := bits w 32 21 }
  else none
def FmtS.bits (x : FmtS) : BitVec 55 := x.gd.code ++ x.d.code ++ x.a.code ++ x.srn ++ (0 : BitVec 21)

def parseQ (w : W64) : Option FmtQ :=
  if bits w 16 0 == 0 then
    (guardOf (bits w 54 53)).map fun gd =>
      { gd := gd, d := opdOf (bits w 52 43), a := opdOf (bits w 42 33), b := opdOf (bits w 32 23),
        flg := bits w 22 19, wm := bits w 18 17 }
  else none
def FmtQ.bits (x : FmtQ) : BitVec 55 :=
  x.gd.code ++ x.d.code ++ x.a.code ++ x.b.code ++ x.flg ++ x.wm ++ (0 : BitVec 17)

/-! ### The opcode map (R80, R81) -/

/-- The instruction of a row, made from the fields of its format. -/
inductive Mk where
  | A (f : FmtA → Instr) | I (f : FmtI → Instr) | M (f : FmtM → Instr) | G (f : FmtG → Instr)
  | B (f : FmtB → Instr) | E (f : FmtE → Instr) | S (f : FmtS → Instr) | Q (f : FmtQ → Instr)

/-- An assigned opcode value. -/
structure Row where
  opc : Nat
  kind : Mk

/- Opcodes whose rows of the table of operations are told apart by WM or by a field. -/
def mkRngcfg (x : FmtQ) : Instr := if x.wm == 1 then .rngcfgQuery x else .rngcfgConfigure x
def mkBar (s : BarS) (x : FmtQ) : Instr := if x.wm == 1 then .barWait s x else .barArriveWait s x
def mkSpawn (x : FmtQ) : Instr := if x.wm == 1 then .spawnSingle x else .spawnRange x
def mkHistlatch (x : FmtQ) : Instr := if x.wm == 1 then .histlatchConfigure x else .histlatchLatch x
def mkIncrd (x : FmtQ) : Instr := if x.wm == 1 then .incrdCounters x else .incrdKey x
def mkTbset (x : FmtQ) : Instr :=
  if x.wm == 1 then .tbsetOwnTask x else if x.wm == 2 then .tbsetNextCounter x else .tbsetNextTask x
def mkGovset (x : FmtQ) : Instr :=
  if x.wm == 1 then .govsetThresholds x else if x.wm == 2 then .govsetControl x else .govsetQueue x
def mkKillt (x : FmtQ) : Instr := if x.wm == 1 then .killtSelf x else .killtParked x
def mkEret (x : FmtA) : Instr := if x.a == ⟨.special, 2⟩ then .eretHandler x else .eretResume x

/-- Block 0 of the grid (R80), part 1. -/
def rows0a : List Row :=
  [⟨0x000, .A (.iadd .i32)⟩,
   ⟨0x001, .A (.iadd .i64)⟩,
   ⟨0x002, .A (.isub .i32)⟩,
   ⟨0x003, .A (.isub .i64)⟩,
   ⟨0x004, .A (.imul .i32)⟩,
   ⟨0x005, .A (.imul .i64)⟩,
   ⟨0x006, .A (.imulh .s)⟩,
   ⟨0x007, .A (.imulh .n)⟩,
   ⟨0x008, .A (.imad .i32)⟩,
   ⟨0x009, .A (.imad .i64)⟩,
   ⟨0x00A, .A (.idiv .s)⟩,
   ⟨0x00B, .A (.idiv .n)⟩,
   ⟨0x00C, .A (.irem .s)⟩,
   ⟨0x00D, .A (.irem .n)⟩,
   ⟨0x00E, .A (.imin .s)⟩,
   ⟨0x00F, .A (.imin .n)⟩,
   ⟨0x010, .A (.imax .s)⟩,
   ⟨0x011, .A (.imax .n)⟩,
   ⟨0x012, .A .iabs⟩,
   ⟨0x013, .A .and⟩,
   ⟨0x014, .A .or⟩,
   ⟨0x015, .A .xor⟩,
   ⟨0x016, .A .not⟩,
   ⟨0x017, .A .shl⟩,
   ⟨0x018, .A (.shr .s)⟩,
   ⟨0x019, .A (.shr .n)⟩,
   ⟨0x01A, .A .rot⟩,
   ⟨0x01B, .A (.bfx .s)⟩,
   ⟨0x01C, .A (.bfx .n)⟩,
   ⟨0x01D, .A .bfi⟩,
   ⟨0x01E, .A .popc⟩,
   ⟨0x01F, .A .clz⟩]

/-- Block 0 of the grid (R80), part 2. -/
def rows0b : List Row :=
  [⟨0x020, .A .ctz⟩,
   ⟨0x021, .A (.iclamp .s)⟩,
   ⟨0x022, .A (.iclamp .n)⟩,
   ⟨0x023, .A .sel⟩,
   ⟨0x024, .A .mov⟩,
   ⟨0x025, .I .movi⟩,
   ⟨0x026, .I .movhi⟩,
   ⟨0x027, .A .lea⟩,
   ⟨0x028, .I .addi⟩,
   ⟨0x029, .A (.imulw .s)⟩,
   ⟨0x02A, .A (.imulw .n)⟩,
   ⟨0x02B, .A .bswap⟩,
   ⟨0x02C, .A .brev⟩]

/-- Block 1 of the grid (R80), part 1. -/
def rows1a : List Row :=
  [⟨0x040, .A (.cmp .eq)⟩,
   ⟨0x041, .A (.cmp .ne)⟩,
   ⟨0x042, .A (.cmp .lts)⟩,
   ⟨0x043, .A (.cmp .les)⟩,
   ⟨0x044, .A (.cmp .gts)⟩,
   ⟨0x045, .A (.cmp .ges)⟩,
   ⟨0x046, .A (.cmp .ltn)⟩,
   ⟨0x047, .A (.cmp .len)⟩,
   ⟨0x048, .A (.cmp .gtn)⟩,
   ⟨0x049, .A (.cmp .gen)⟩,
   ⟨0x04A, .A .pand⟩,
   ⟨0x04B, .A .por⟩,
   ⟨0x04C, .A .pnot⟩,
   ⟨0x04D, .A .ppop⟩,
   ⟨0x04E, .A .ptest⟩,
   ⟨0x04F, .B .bra⟩,
   ⟨0x050, .B .brx⟩,
   ⟨0x051, .B .call⟩,
   ⟨0x052, .B .callx⟩,
   ⟨0x053, .B .ret⟩,
   ⟨0x054, .I .splice⟩,
   ⟨0x055, .A .exit⟩,
   ⟨0x056, .B .loop⟩,
   ⟨0x057, .A .nop⟩,
   ⟨0x058, .A .movix⟩,
   ⟨0x059, .A .range⟩,
   ⟨0x05A, .A .formq⟩,
   ⟨0x05B, .A .laydn⟩,
   ⟨0x05C, .A .yield⟩,
   ⟨0x05D, .A .kpoint⟩]

/-- Block 2 of the grid (R80), part 1. -/
def rows2a : List Row :=
  [⟨0x080, .M (.ld .n8)⟩,
   ⟨0x081, .M (.ld .s8)⟩,
   ⟨0x082, .M (.ld .n16)⟩,
   ⟨0x083, .M (.ld .s16)⟩,
   ⟨0x084, .M (.ld .n32)⟩,
   ⟨0x085, .M (.ld .s32)⟩,
   ⟨0x086, .M (.ld .b64)⟩,
   ⟨0x087, .M (.ld .b128)⟩,
   ⟨0x088, .M (.st .b8)⟩,
   ⟨0x089, .M (.st .b16)⟩,
   ⟨0x08A, .M (.st .b32)⟩,
   ⟨0x08B, .M (.st .b64)⟩,
   ⟨0x08C, .M (.st .b128)⟩,
   ⟨0x08D, .M (.lds .b32)⟩,
   ⟨0x08E, .M (.lds .b64)⟩,
   ⟨0x08F, .M (.lds .b128)⟩,
   ⟨0x090, .M (.sts .b32)⟩,
   ⟨0x091, .M (.sts .b64)⟩,
   ⟨0x092, .M (.sts .b128)⟩,
   ⟨0x093, .M .pref⟩,
   ⟨0x094, .Q .rngwait⟩,
   ⟨0x095, .Q .rngfree⟩,
   ⟨0x096, .Q .rngfill⟩,
   ⟨0x097, .Q .rngclaim⟩,
   ⟨0x098, .Q mkRngcfg⟩,
   ⟨0x099, .M .cpsIn⟩,
   ⟨0x09A, .M .cpsOut⟩]

/-- Block 3 of the grid (R80), part 1. -/
def rows3a : List Row :=
  [⟨0x0C0, .Q (.atom .add32)⟩,
   ⟨0x0C1, .Q (.atom .add64)⟩,
   ⟨0x0C2, .Q (.atom .and)⟩,
   ⟨0x0C3, .Q (.atom .or)⟩,
   ⟨0x0C4, .Q (.atom .xor)⟩,
   ⟨0x0C5, .Q (.atom .mins)⟩,
   ⟨0x0C6, .Q (.atom .maxs)⟩,
   ⟨0x0C7, .Q (.atom .minn)⟩,
   ⟨0x0C8, .Q (.atom .maxn)⟩,
   ⟨0x0C9, .Q (.atom .xchg)⟩,
   ⟨0x0CA, .Q (.cas .i32)⟩,
   ⟨0x0CB, .Q (.cas .i64)⟩,
   ⟨0x0CC, .Q (.cas .i128)⟩,
   ⟨0x0CD, .Q (.atomf .f32)⟩,
   ⟨0x0CE, .Q (.atomf .f64)⟩,
   ⟨0x0CF, .Q (.atomf .bf16x2)⟩,
   ⟨0x0D0, .Q .waita⟩,
   ⟨0x0D1, .Q .wake⟩,
   ⟨0x0D2, .Q (mkBar .pen)⟩,
   ⟨0x0D3, .Q (mkBar .yard)⟩,
   ⟨0x0D4, .Q (.bararv .pen)⟩,
   ⟨0x0D5, .Q (.bararv .yard)⟩,
   ⟨0x0D6, .G (.gather .b32)⟩,
   ⟨0x0D7, .G (.gather .b64)⟩,
   ⟨0x0D8, .G (.scatter .b32)⟩,
   ⟨0x0D9, .G (.scatter .b64)⟩,
   ⟨0x0DA, .G (.scata .add32)⟩,
   ⟨0x0DB, .G (.scata .add64)⟩,
   ⟨0x0DC, .G (.scata .addf32)⟩,
   ⟨0x0DD, .A .rmapset⟩,
   ⟨0x0DE, .Q .engfence⟩]

/-- Block 4 of the grid (R80), part 1. -/
def rows4a : List Row :=
  [⟨0x100, .A (.fadd .f64)⟩,
   ⟨0x101, .A (.fadd .f32)⟩,
   ⟨0x102, .A (.fadd .f16x4)⟩,
   ⟨0x103, .A (.fadd .bf16x4)⟩,
   ⟨0x104, .A (.fsub .f64)⟩,
   ⟨0x105, .A (.fsub .f32)⟩,
   ⟨0x106, .A (.fsub .f16x4)⟩,
   ⟨0x107, .A (.fsub .bf16x4)⟩,
   ⟨0x108, .A (.fmul .f64)⟩,
   ⟨0x109, .A (.fmul .f32)⟩,
   ⟨0x10A, .A (.fmul .f16x4)⟩,
   ⟨0x10B, .A (.fmul .bf16x4)⟩,
   ⟨0x10C, .A (.fma .f64)⟩,
   ⟨0x10D, .A (.fma .f32)⟩,
   ⟨0x10E, .A (.fma .f16x4)⟩,
   ⟨0x10F, .A (.fma .bf16x4)⟩,
   ⟨0x110, .A (.fdiv .f64)⟩,
   ⟨0x111, .A (.fdiv .f32)⟩,
   ⟨0x112, .A (.fsqrt .f64)⟩,
   ⟨0x113, .A (.fsqrt .f32)⟩,
   ⟨0x114, .A .frcp⟩,
   ⟨0x115, .A .frsq⟩,
   ⟨0x116, .A .fexp2⟩,
   ⟨0x117, .A .flog2⟩,
   ⟨0x118, .A (.fmin .f64)⟩,
   ⟨0x119, .A (.fmin .f32)⟩,
   ⟨0x11A, .A (.fmax .f64)⟩,
   ⟨0x11B, .A (.fmax .f32)⟩,
   ⟨0x11C, .A (.fcmp .eq .f64)⟩,
   ⟨0x11D, .A (.fcmp .eq .f32)⟩,
   ⟨0x11E, .A (.fcmp .ne .f64)⟩,
   ⟨0x11F, .A (.fcmp .ne .f32)⟩]

/-- Block 4 of the grid (R80), part 2. -/
def rows4b : List Row :=
  [⟨0x120, .A (.fcmp .lt .f64)⟩,
   ⟨0x121, .A (.fcmp .lt .f32)⟩,
   ⟨0x122, .A (.fcmp .le .f64)⟩,
   ⟨0x123, .A (.fcmp .le .f32)⟩,
   ⟨0x124, .A (.fcmp .un .f64)⟩,
   ⟨0x125, .A (.fcmp .un .f32)⟩,
   ⟨0x126, .A (.cvt .f64f32)⟩,
   ⟨0x127, .A (.cvt .f32f64)⟩,
   ⟨0x128, .A (.cvt .bf16f32)⟩,
   ⟨0x129, .A (.cvt .f16f32)⟩,
   ⟨0x12A, .A (.cvt .f32f16)⟩,
   ⟨0x12B, .A (.cvt .f32bf16)⟩,
   ⟨0x12C, .A (.cvt .e4m3f32)⟩,
   ⟨0x12D, .A (.cvt .e5m2f32)⟩,
   ⟨0x12E, .A (.cvt .e2m1f32)⟩,
   ⟨0x12F, .A (.cvt .lns6f32)⟩,
   ⟨0x130, .A (.cvt .f32lns6)⟩,
   ⟨0x131, .A (.cvt .f64s64)⟩,
   ⟨0x132, .A (.cvt .s64f64)⟩,
   ⟨0x133, .A (.cvt .f32s32)⟩,
   ⟨0x134, .A (.cvt .s32f32)⟩,
   ⟨0x135, .A (.cvt .f64n64)⟩,
   ⟨0x136, .A (.frnd .rn .f64)⟩,
   ⟨0x137, .A (.frnd .rn .f32)⟩,
   ⟨0x138, .A (.frnd .rz .f64)⟩,
   ⟨0x139, .A (.frnd .rz .f32)⟩,
   ⟨0x13A, .A (.frnd .rd .f64)⟩,
   ⟨0x13B, .A (.frnd .rd .f32)⟩,
   ⟨0x13C, .A (.frnd .ru .f64)⟩,
   ⟨0x13D, .A (.frnd .ru .f32)⟩]

/-- Block 5 of the grid (R80), part 1. -/
def rows5a : List Row :=
  [⟨0x140, .A (.red .iadd64)⟩,
   ⟨0x141, .A (.red .fadd64)⟩,
   ⟨0x142, .A (.red .fadd32)⟩,
   ⟨0x143, .A (.red .imin)⟩,
   ⟨0x144, .A (.red .imax)⟩,
   ⟨0x145, .A (.red .fmin32)⟩,
   ⟨0x146, .A (.red .fmax32)⟩,
   ⟨0x147, .A (.red .and)⟩,
   ⟨0x148, .A (.red .or)⟩,
   ⟨0x149, .A (.scan .iadd64)⟩,
   ⟨0x14A, .A (.scan .fadd32)⟩,
   ⟨0x14B, .A (.shfl .idx)⟩,
   ⟨0x14C, .A (.shfl .up)⟩,
   ⟨0x14D, .A (.shfl .down)⟩,
   ⟨0x14E, .A (.shfl .xor)⟩,
   ⟨0x14F, .A (.vote .any)⟩,
   ⟨0x150, .A (.vote .all)⟩,
   ⟨0x151, .A (.vote .count)⟩,
   ⟨0x152, .A .elect⟩,
   ⟨0x153, .A (.bspack .i8)⟩,
   ⟨0x154, .A (.bspack .i4)⟩,
   ⟨0x155, .A (.bspack .e4m3)⟩,
   ⟨0x156, .A (.bspack .e2m1)⟩,
   ⟨0x157, .A (.bsunpk .i8)⟩,
   ⟨0x158, .A (.bsunpk .i4)⟩,
   ⟨0x159, .A (.bsunpk .e4m3)⟩,
   ⟨0x15A, .A (.bsunpk .e2m1)⟩,
   ⟨0x15B, .A .lmul⟩,
   ⟨0x15C, .A .lacc⟩,
   ⟨0x15D, .A (.bplane .p4)⟩,
   ⟨0x15E, .A (.bplane .p8)⟩,
   ⟨0x15F, .A (.qdot .s)⟩]

/-- Block 5 of the grid (R80), part 2. -/
def rows5b : List Row :=
  [⟨0x160, .A (.qdot .n)⟩]

/-- Block 6 of the grid (R80), part 1. -/
def rows6a : List Row :=
  [⟨0x180, .E (.mmap .ss)⟩,
   ⟨0x181, .E (.mmap .sn)⟩,
   ⟨0x182, .E (.mmap .ns)⟩,
   ⟨0x183, .E (.mmap .nn)⟩,
   ⟨0x184, .E (.mmaf .bf16)⟩,
   ⟨0x185, .E (.mmaf .f16)⟩,
   ⟨0x186, .E (.mmaf .e4m3)⟩,
   ⟨0x187, .E (.mmaf .e5m2)⟩,
   ⟨0x188, .E (.mmaf .e2m1)⟩,
   ⟨0x189, .E .mmal⟩,
   ⟨0x18A, .E (.mmasp .plane)⟩,
   ⟨0x18B, .E (.mmasp .float)⟩,
   ⟨0x18C, .E (.mmasp .lns)⟩,
   ⟨0x18D, .E .mwait⟩,
   ⟨0x18E, .E .accz⟩,
   ⟨0x18F, .E .accld⟩,
   ⟨0x190, .E .accst⟩,
   ⟨0x191, .E (.drain .f32)⟩,
   ⟨0x192, .E (.drain .bf16)⟩,
   ⟨0x193, .E (.drain .f16)⟩,
   ⟨0x194, .E (.drain .e4m3)⟩,
   ⟨0x195, .E (.drain .i8)⟩,
   ⟨0x196, .E .gangset⟩,
   ⟨0x197, .E .hitch⟩,
   ⟨0x198, .E .rpred⟩,
   ⟨0x199, .E .rcheck⟩,
   ⟨0x19A, .E .rgath⟩,
   ⟨0x19B, .E .mprog⟩,
   ⟨0x19C, .E .mcancel⟩]

/-- Block 7 of the grid (R80), part 1. -/
def rows7a : List Row :=
  [⟨0x1C0, .Q .qpush⟩,
   ⟨0x1C1, .Q .qpop⟩,
   ⟨0x1C2, .Q .copyD1⟩,
   ⟨0x1C3, .Q .copyD2⟩,
   ⟨0x1C4, .Q .copyGather⟩,
   ⟨0x1C5, .Q mkSpawn⟩,
   ⟨0x1C6, .I .cont⟩,
   ⟨0x1C7, .Q .depset⟩,
   ⟨0x1C8, .Q .depdec⟩,
   ⟨0x1C9, .Q .graphrun⟩,
   ⟨0x1CA, .Q .condw⟩,
   ⟨0x1CB, .Q .histadd⟩,
   ⟨0x1CC, .Q mkHistlatch⟩,
   ⟨0x1CD, .Q .wsdecl⟩,
   ⟨0x1CE, .Q .incupd⟩,
   ⟨0x1CF, .Q mkIncrd⟩,
   ⟨0x1D0, .Q mkTbset⟩,
   ⟨0x1D1, .S (.cycrd .cyc)⟩,
   ⟨0x1D2, .S (.cycrd .ref)⟩,
   ⟨0x1D3, .S (.cycrd .step)⟩,
   ⟨0x1D4, .I .trap⟩,
   ⟨0x1D5, .I .assert⟩,
   ⟨0x1D6, .I .syscall⟩,
   ⟨0x1D7, .I .brk⟩,
   ⟨0x1D8, .S .rdsr⟩,
   ⟨0x1D9, .S .wrsr⟩,
   ⟨0x1DA, .A mkEret⟩,
   ⟨0x1DB, .Q .stage⟩,
   ⟨0x1DC, .Q .pflag⟩,
   ⟨0x1DD, .Q mkGovset⟩,
   ⟨0x1DE, .Q mkKillt⟩]

/-- Every assigned opcode value, in order: 288 rows. -/
def allRows : List Row := rows0a ++ rows0b ++ rows1a ++ rows2a ++ rows3a ++ rows4a ++ rows4b ++ rows5a ++ rows5b ++ rows6a ++ rows7a

/-- The row of an opcode value. -/
def rowOf (opc : Nat) : Option Mk := (allRows.find? (fun r => r.opc == opc)).map (·.kind)

/-- The fields of a word in its row's format, as an instruction. -/
def Mk.parse (m : Mk) (w : W64) : Option Instr :=
  match m with
  | .A f => (parseA w).map f
  | .I f => (parseI w).map f
  | .M f => (parseM w).map f
  | .G f => (parseG w).map f
  | .B f => (parseB w).map f
  | .E f => (parseE w).map f
  | .S f => (parseS w).map f
  | .Q f => (parseQ w).map f

/-- What a word decodes to. -/
inductive Decoded where
  | ok (i : Instr)
  | illop
  | illfmt
  deriving DecidableEq, Repr

/-- The decoder of Dzinum-3 words (R71). -/
def decodeWord (w : W64) : Decoded :=
  match rowOf (opcOf w).toNat with
  | none => .illop
  | some m =>
    match m.parse w with
    | some i => if i.wf then .ok i else .illfmt
    | none => .illfmt

/-- The instruction that a word stands for; an unassigned opcode is the event of that name. -/
def decodeInstr (w : W64) : Option Instr :=
  match decodeWord w with
  | .ok i => some i
  | .illop => some (.unassignedOpcode w)
  | .illfmt => none

/-- The instruction of a table row's bits: every instruction is one 64-bit word; bits above nbits are 0. -/
def decodeTableWord (nbits w : Nat) : Option Instr := decodeInstr (BitVec.ofNat 64 (w % 2 ^ nbits))

/-! ### Dzinum-2 words (R98, R99) -/

/-- The opcode is assigned in Dzinum-2 code (R99). -/
def dz2Opc (opc : Nat) : Bool :=
  match opc / 0x40 with
  | 0 => true
  | 1 => !([0x54, 0x58, 0x59, 0x5A, 0x5B, 0x5D].contains opc)
  | 2 => decide (opc ≤ 0x93)
  | 3 => opc != 0xDD && opc != 0xDE
  | 4 => true
  | 5 => decide (opc ≤ 0x152)
  | 7 => decide (0x1D1 ≤ opc ∧ opc ≤ 0x1DA)
  | _ => false

/-- The file codes 01 and 10 and the special code LIT are refused in Dzinum-2 words (R98). -/
def Opd.dz2Ok (o : Opd) : Bool :=
  match o.file with
  | .g => true
  | .special => o.idx != 0
  | _ => false

/-- SPL16 and RMP must be 0 (R98). -/
def Instr.dz2Fields : Instr → Bool
  | .bra x | .brx x | .call x | .callx x | .ret x | .loop x => x.spl == 0
  | .gather _ x | .scatter _ x | .scata _ x => x.rmp == 0
  | _ => true

/-- Format Q among the Dzinum-2 opcodes: ATOM to BARARV. -/
def dz2Q (opc : Nat) : Bool := decide (0x0C0 ≤ opc ∧ opc ≤ 0x0D5)
/-- WAKE, BAR and BARARV name no flag: their FLG is unused, and 0 in a Dzinum-3 word. -/
def dz2NoFlag (opc : Nat) : Bool := decide (0x0D1 ≤ opc ∧ opc ≤ 0x0D5)
/-- The decoder of Dzinum-2 words. In format Q, FLG (22:19) must be 0xF, in WAKE, BAR and BARARV too (R98). -/
def decodeDz2 (w : W64) : Decoded :=
  let opc := (opcOf w).toNat
  if !dz2Opc opc then .illop
  else if dz2Q opc && bits w 22 19 != 15 then .illfmt
  else
    match decodeWord (if dz2NoFlag opc then w &&& ~~~(0x780000 : W64) else w) with
    | .ok i => if i.dz2Fields && i.opds.all Opd.dz2Ok then .ok i else .illfmt
    | r => r

/-! ### The encoder -/

/-- The opcode value and the bits below it. -/
def Instr.word? : Instr → Option (Nat × BitVec 55)
  | .iadd .i32 x => some (0x000, x.bits)
  | .iadd .i64 x => some (0x001, x.bits)
  | .isub .i32 x => some (0x002, x.bits)
  | .isub .i64 x => some (0x003, x.bits)
  | .imul .i32 x => some (0x004, x.bits)
  | .imul .i64 x => some (0x005, x.bits)
  | .imulh .s x => some (0x006, x.bits)
  | .imulh .n x => some (0x007, x.bits)
  | .imad .i32 x => some (0x008, x.bits)
  | .imad .i64 x => some (0x009, x.bits)
  | .idiv .s x => some (0x00A, x.bits)
  | .idiv .n x => some (0x00B, x.bits)
  | .irem .s x => some (0x00C, x.bits)
  | .irem .n x => some (0x00D, x.bits)
  | .imin .s x => some (0x00E, x.bits)
  | .imin .n x => some (0x00F, x.bits)
  | .imax .s x => some (0x010, x.bits)
  | .imax .n x => some (0x011, x.bits)
  | .iabs x => some (0x012, x.bits)
  | .and x => some (0x013, x.bits)
  | .or x => some (0x014, x.bits)
  | .xor x => some (0x015, x.bits)
  | .not x => some (0x016, x.bits)
  | .shl x => some (0x017, x.bits)
  | .shr .s x => some (0x018, x.bits)
  | .shr .n x => some (0x019, x.bits)
  | .rot x => some (0x01A, x.bits)
  | .bfx .s x => some (0x01B, x.bits)
  | .bfx .n x => some (0x01C, x.bits)
  | .bfi x => some (0x01D, x.bits)
  | .popc x => some (0x01E, x.bits)
  | .clz x => some (0x01F, x.bits)
  | .ctz x => some (0x020, x.bits)
  | .iclamp .s x => some (0x021, x.bits)
  | .iclamp .n x => some (0x022, x.bits)
  | .sel x => some (0x023, x.bits)
  | .mov x => some (0x024, x.bits)
  | .movi x => some (0x025, x.bits)
  | .movhi x => some (0x026, x.bits)
  | .lea x => some (0x027, x.bits)
  | .addi x => some (0x028, x.bits)
  | .imulw .s x => some (0x029, x.bits)
  | .imulw .n x => some (0x02A, x.bits)
  | .bswap x => some (0x02B, x.bits)
  | .brev x => some (0x02C, x.bits)
  | .cmp .eq x => some (0x040, x.bits)
  | .cmp .ne x => some (0x041, x.bits)
  | .cmp .lts x => some (0x042, x.bits)
  | .cmp .les x => some (0x043, x.bits)
  | .cmp .gts x => some (0x044, x.bits)
  | .cmp .ges x => some (0x045, x.bits)
  | .cmp .ltn x => some (0x046, x.bits)
  | .cmp .len x => some (0x047, x.bits)
  | .cmp .gtn x => some (0x048, x.bits)
  | .cmp .gen x => some (0x049, x.bits)
  | .pand x => some (0x04A, x.bits)
  | .por x => some (0x04B, x.bits)
  | .pnot x => some (0x04C, x.bits)
  | .ppop x => some (0x04D, x.bits)
  | .ptest x => some (0x04E, x.bits)
  | .bra x => some (0x04F, x.bits)
  | .brx x => some (0x050, x.bits)
  | .call x => some (0x051, x.bits)
  | .callx x => some (0x052, x.bits)
  | .ret x => some (0x053, x.bits)
  | .splice x => some (0x054, x.bits)
  | .exit x => some (0x055, x.bits)
  | .loop x => some (0x056, x.bits)
  | .nop x => some (0x057, x.bits)
  | .movix x => some (0x058, x.bits)
  | .range x => some (0x059, x.bits)
  | .formq x => some (0x05A, x.bits)
  | .laydn x => some (0x05B, x.bits)
  | .yield x => some (0x05C, x.bits)
  | .kpoint x => some (0x05D, x.bits)
  | .ld .n8 x => some (0x080, x.bits)
  | .ld .s8 x => some (0x081, x.bits)
  | .ld .n16 x => some (0x082, x.bits)
  | .ld .s16 x => some (0x083, x.bits)
  | .ld .n32 x => some (0x084, x.bits)
  | .ld .s32 x => some (0x085, x.bits)
  | .ld .b64 x => some (0x086, x.bits)
  | .ld .b128 x => some (0x087, x.bits)
  | .st .b8 x => some (0x088, x.bits)
  | .st .b16 x => some (0x089, x.bits)
  | .st .b32 x => some (0x08A, x.bits)
  | .st .b64 x => some (0x08B, x.bits)
  | .st .b128 x => some (0x08C, x.bits)
  | .lds .b32 x => some (0x08D, x.bits)
  | .lds .b64 x => some (0x08E, x.bits)
  | .lds .b128 x => some (0x08F, x.bits)
  | .sts .b32 x => some (0x090, x.bits)
  | .sts .b64 x => some (0x091, x.bits)
  | .sts .b128 x => some (0x092, x.bits)
  | .pref x => some (0x093, x.bits)
  | .rngwait x => some (0x094, x.bits)
  | .rngfree x => some (0x095, x.bits)
  | .rngfill x => some (0x096, x.bits)
  | .rngclaim x => some (0x097, x.bits)
  | .rngcfgConfigure x | .rngcfgQuery x => some (0x098, x.bits)
  | .cpsIn x => some (0x099, x.bits)
  | .cpsOut x => some (0x09A, x.bits)
  | .atom .add32 x => some (0x0C0, x.bits)
  | .atom .add64 x => some (0x0C1, x.bits)
  | .atom .and x => some (0x0C2, x.bits)
  | .atom .or x => some (0x0C3, x.bits)
  | .atom .xor x => some (0x0C4, x.bits)
  | .atom .mins x => some (0x0C5, x.bits)
  | .atom .maxs x => some (0x0C6, x.bits)
  | .atom .minn x => some (0x0C7, x.bits)
  | .atom .maxn x => some (0x0C8, x.bits)
  | .atom .xchg x => some (0x0C9, x.bits)
  | .cas .i32 x => some (0x0CA, x.bits)
  | .cas .i64 x => some (0x0CB, x.bits)
  | .cas .i128 x => some (0x0CC, x.bits)
  | .atomf .f32 x => some (0x0CD, x.bits)
  | .atomf .f64 x => some (0x0CE, x.bits)
  | .atomf .bf16x2 x => some (0x0CF, x.bits)
  | .waita x => some (0x0D0, x.bits)
  | .wake x => some (0x0D1, x.bits)
  | .barArriveWait .pen x | .barWait .pen x => some (0x0D2, x.bits)
  | .barArriveWait .yard x | .barWait .yard x => some (0x0D3, x.bits)
  | .bararv .pen x => some (0x0D4, x.bits)
  | .bararv .yard x => some (0x0D5, x.bits)
  | .gather .b32 x => some (0x0D6, x.bits)
  | .gather .b64 x => some (0x0D7, x.bits)
  | .scatter .b32 x => some (0x0D8, x.bits)
  | .scatter .b64 x => some (0x0D9, x.bits)
  | .scata .add32 x => some (0x0DA, x.bits)
  | .scata .add64 x => some (0x0DB, x.bits)
  | .scata .addf32 x => some (0x0DC, x.bits)
  | .rmapset x => some (0x0DD, x.bits)
  | .engfence x => some (0x0DE, x.bits)
  | .fadd .f64 x => some (0x100, x.bits)
  | .fadd .f32 x => some (0x101, x.bits)
  | .fadd .f16x4 x => some (0x102, x.bits)
  | .fadd .bf16x4 x => some (0x103, x.bits)
  | .fsub .f64 x => some (0x104, x.bits)
  | .fsub .f32 x => some (0x105, x.bits)
  | .fsub .f16x4 x => some (0x106, x.bits)
  | .fsub .bf16x4 x => some (0x107, x.bits)
  | .fmul .f64 x => some (0x108, x.bits)
  | .fmul .f32 x => some (0x109, x.bits)
  | .fmul .f16x4 x => some (0x10A, x.bits)
  | .fmul .bf16x4 x => some (0x10B, x.bits)
  | .fma .f64 x => some (0x10C, x.bits)
  | .fma .f32 x => some (0x10D, x.bits)
  | .fma .f16x4 x => some (0x10E, x.bits)
  | .fma .bf16x4 x => some (0x10F, x.bits)
  | .fdiv .f64 x => some (0x110, x.bits)
  | .fdiv .f32 x => some (0x111, x.bits)
  | .fsqrt .f64 x => some (0x112, x.bits)
  | .fsqrt .f32 x => some (0x113, x.bits)
  | .frcp x => some (0x114, x.bits)
  | .frsq x => some (0x115, x.bits)
  | .fexp2 x => some (0x116, x.bits)
  | .flog2 x => some (0x117, x.bits)
  | .fmin .f64 x => some (0x118, x.bits)
  | .fmin .f32 x => some (0x119, x.bits)
  | .fmax .f64 x => some (0x11A, x.bits)
  | .fmax .f32 x => some (0x11B, x.bits)
  | .fcmp .eq .f64 x => some (0x11C, x.bits)
  | .fcmp .eq .f32 x => some (0x11D, x.bits)
  | .fcmp .ne .f64 x => some (0x11E, x.bits)
  | .fcmp .ne .f32 x => some (0x11F, x.bits)
  | .fcmp .lt .f64 x => some (0x120, x.bits)
  | .fcmp .lt .f32 x => some (0x121, x.bits)
  | .fcmp .le .f64 x => some (0x122, x.bits)
  | .fcmp .le .f32 x => some (0x123, x.bits)
  | .fcmp .un .f64 x => some (0x124, x.bits)
  | .fcmp .un .f32 x => some (0x125, x.bits)
  | .cvt .f64f32 x => some (0x126, x.bits)
  | .cvt .f32f64 x => some (0x127, x.bits)
  | .cvt .bf16f32 x => some (0x128, x.bits)
  | .cvt .f16f32 x => some (0x129, x.bits)
  | .cvt .f32f16 x => some (0x12A, x.bits)
  | .cvt .f32bf16 x => some (0x12B, x.bits)
  | .cvt .e4m3f32 x => some (0x12C, x.bits)
  | .cvt .e5m2f32 x => some (0x12D, x.bits)
  | .cvt .e2m1f32 x => some (0x12E, x.bits)
  | .cvt .lns6f32 x => some (0x12F, x.bits)
  | .cvt .f32lns6 x => some (0x130, x.bits)
  | .cvt .f64s64 x => some (0x131, x.bits)
  | .cvt .s64f64 x => some (0x132, x.bits)
  | .cvt .f32s32 x => some (0x133, x.bits)
  | .cvt .s32f32 x => some (0x134, x.bits)
  | .cvt .f64n64 x => some (0x135, x.bits)
  | .frnd .rn .f64 x => some (0x136, x.bits)
  | .frnd .rn .f32 x => some (0x137, x.bits)
  | .frnd .rz .f64 x => some (0x138, x.bits)
  | .frnd .rz .f32 x => some (0x139, x.bits)
  | .frnd .rd .f64 x => some (0x13A, x.bits)
  | .frnd .rd .f32 x => some (0x13B, x.bits)
  | .frnd .ru .f64 x => some (0x13C, x.bits)
  | .frnd .ru .f32 x => some (0x13D, x.bits)
  | .red .iadd64 x => some (0x140, x.bits)
  | .red .fadd64 x => some (0x141, x.bits)
  | .red .fadd32 x => some (0x142, x.bits)
  | .red .imin x => some (0x143, x.bits)
  | .red .imax x => some (0x144, x.bits)
  | .red .fmin32 x => some (0x145, x.bits)
  | .red .fmax32 x => some (0x146, x.bits)
  | .red .and x => some (0x147, x.bits)
  | .red .or x => some (0x148, x.bits)
  | .scan .iadd64 x => some (0x149, x.bits)
  | .scan .fadd32 x => some (0x14A, x.bits)
  | .shfl .idx x => some (0x14B, x.bits)
  | .shfl .up x => some (0x14C, x.bits)
  | .shfl .down x => some (0x14D, x.bits)
  | .shfl .xor x => some (0x14E, x.bits)
  | .vote .any x => some (0x14F, x.bits)
  | .vote .all x => some (0x150, x.bits)
  | .vote .count x => some (0x151, x.bits)
  | .elect x => some (0x152, x.bits)
  | .bspack .i8 x => some (0x153, x.bits)
  | .bspack .i4 x => some (0x154, x.bits)
  | .bspack .e4m3 x => some (0x155, x.bits)
  | .bspack .e2m1 x => some (0x156, x.bits)
  | .bsunpk .i8 x => some (0x157, x.bits)
  | .bsunpk .i4 x => some (0x158, x.bits)
  | .bsunpk .e4m3 x => some (0x159, x.bits)
  | .bsunpk .e2m1 x => some (0x15A, x.bits)
  | .lmul x => some (0x15B, x.bits)
  | .lacc x => some (0x15C, x.bits)
  | .bplane .p4 x => some (0x15D, x.bits)
  | .bplane .p8 x => some (0x15E, x.bits)
  | .qdot .s x => some (0x15F, x.bits)
  | .qdot .n x => some (0x160, x.bits)
  | .mmap .ss x => some (0x180, x.bits)
  | .mmap .sn x => some (0x181, x.bits)
  | .mmap .ns x => some (0x182, x.bits)
  | .mmap .nn x => some (0x183, x.bits)
  | .mmaf .bf16 x => some (0x184, x.bits)
  | .mmaf .f16 x => some (0x185, x.bits)
  | .mmaf .e4m3 x => some (0x186, x.bits)
  | .mmaf .e5m2 x => some (0x187, x.bits)
  | .mmaf .e2m1 x => some (0x188, x.bits)
  | .mmal x => some (0x189, x.bits)
  | .mmasp .plane x => some (0x18A, x.bits)
  | .mmasp .float x => some (0x18B, x.bits)
  | .mmasp .lns x => some (0x18C, x.bits)
  | .mwait x => some (0x18D, x.bits)
  | .accz x => some (0x18E, x.bits)
  | .accld x => some (0x18F, x.bits)
  | .accst x => some (0x190, x.bits)
  | .drain .f32 x => some (0x191, x.bits)
  | .drain .bf16 x => some (0x192, x.bits)
  | .drain .f16 x => some (0x193, x.bits)
  | .drain .e4m3 x => some (0x194, x.bits)
  | .drain .i8 x => some (0x195, x.bits)
  | .gangset x => some (0x196, x.bits)
  | .hitch x => some (0x197, x.bits)
  | .rpred x => some (0x198, x.bits)
  | .rcheck x => some (0x199, x.bits)
  | .rgath x => some (0x19A, x.bits)
  | .mprog x => some (0x19B, x.bits)
  | .mcancel x => some (0x19C, x.bits)
  | .qpush x => some (0x1C0, x.bits)
  | .qpop x => some (0x1C1, x.bits)
  | .copyD1 x => some (0x1C2, x.bits)
  | .copyD2 x => some (0x1C3, x.bits)
  | .copyGather x => some (0x1C4, x.bits)
  | .spawnRange x | .spawnSingle x => some (0x1C5, x.bits)
  | .cont x => some (0x1C6, x.bits)
  | .depset x => some (0x1C7, x.bits)
  | .depdec x => some (0x1C8, x.bits)
  | .graphrun x => some (0x1C9, x.bits)
  | .condw x => some (0x1CA, x.bits)
  | .histadd x => some (0x1CB, x.bits)
  | .histlatchLatch x | .histlatchConfigure x => some (0x1CC, x.bits)
  | .wsdecl x => some (0x1CD, x.bits)
  | .incupd x => some (0x1CE, x.bits)
  | .incrdKey x | .incrdCounters x => some (0x1CF, x.bits)
  | .tbsetNextTask x | .tbsetOwnTask x | .tbsetNextCounter x => some (0x1D0, x.bits)
  | .cycrd .cyc x => some (0x1D1, x.bits)
  | .cycrd .ref x => some (0x1D2, x.bits)
  | .cycrd .step x => some (0x1D3, x.bits)
  | .trap x => some (0x1D4, x.bits)
  | .assert x => some (0x1D5, x.bits)
  | .syscall x => some (0x1D6, x.bits)
  | .brk x => some (0x1D7, x.bits)
  | .rdsr x => some (0x1D8, x.bits)
  | .wrsr x => some (0x1D9, x.bits)
  | .eretHandler x | .eretResume x => some (0x1DA, x.bits)
  | .stage x => some (0x1DB, x.bits)
  | .pflag x => some (0x1DC, x.bits)
  | .govsetQueue x | .govsetThresholds x | .govsetControl x => some (0x1DD, x.bits)
  | .killtParked x | .killtSelf x => some (0x1DE, x.bits)
  | _ => none

/-- The word of an instruction; none for an event of the device. -/
def encode (i : Instr) : Option W64 := i.word?.map fun p => BitVec.ofNat 9 p.1 ++ p.2

/-! ### Clause headers (R62) -/

structure Header where
  ecl : BitVec 3
  cnt : BitVec 4
  wait : BitVec 12
  seta : BitVec 4
  setb : BitVec 4
  yld : Bool
  lit : W32
  deriving DecidableEq, Repr

/-- A flag field of a header: 12, 13 and 14 are reserved. -/
def hdrFlagOk (x : BitVec 4) : Bool := decide (x.toNat ≤ 11) || x == 15

/-- The header checks of R62; `none` raises ILLFMT. -/
def decodeHeader (w : W64) : Option Header :=
  let h : Header := { ecl := bits w 59 57, cnt := bits w 56 53, wait := bits w 52 41, seta := bits w 40 37,
                      setb := bits w 36 33, yld := isSet w 32, lit := bits w 31 0 }
  if bits w 63 60 == 0xC && decide (h.ecl.toNat ≤ 5) && hdrFlagOk h.seta && hdrFlagOk h.setb then some h else none

def Header.encode (h : Header) : W64 :=
  (0xC : BitVec 4) ++ h.ecl ++ h.cnt ++ h.wait ++ h.seta ++ h.setb ++ bit1 h.yld ++ h.lit

/-- The engine class admits the opcode's block; NOP is admitted by every class (R63). -/
def eclAdmits (ecl : BitVec 3) (opc : Nat) : Bool :=
  opc == 0x057 ||
  match ecl.toNat, opc / 0x40 with
  | 0, b => decide (b ≤ 1)
  | 1, b => b == 2 || b == 3
  | 2, b => b == 4 || b == 5
  | 3, b => b == 6
  | 4, b => b == 7
  | 5, _ => true
  | _, _ => false

end Sys2Proof
end

