-- ==== Sys2Proof/Machine/State.lean ====
section
/-! DEFINITION. The state of the PX9 as plain data, and the state right after reset. Every field names the rule of the
manual that gives the machine that piece of state; fields that are the model's own say so. Quantities that software can
see as words are bit vectors; identifiers, counts, indices and addresses are natural numbers. -/

namespace Sys2Proof.Machine

/-! ### Threads -/

/-- The form in which a register holds its value over a range (R15): `a b s` has s ≠ 0. -/
inductive Form where
  | u (v : W64)
  | a (b s : W64)
  deriving DecidableEq, Repr

/-- The g and o registers (R15, R72): register r of g has key r, of o key 256 + r. A key not listed holds U 0 when
`fill` is 0 and otherwise the unpredictable value of draw `fill` (R53, R192; log 1). `late` holds results that have been
written while a completion flag still makes a read of them unpredictable: the register, its value, the flag, or 16 + an
operation that names none (R68). -/
structure RegFile where
  fill : Nat
  cells : List (Nat × Form)
  late : List (Nat × Form × Nat) := []
  deriving DecidableEq, Repr

/-- The history file, newest first, at most four entries; an entry not listed is unpredictable, of draw `seed` (R69). -/
structure Hist where
  seed : Nat
  items : List Form
  deriving DecidableEq, Repr

/-- An interval [lo, lo + len) of indices (R32). -/
structure Ivl where
  lo : Nat
  len : Nat
  deriving DecidableEq, Repr

/-- A splice record (R35). -/
structure SpliceRec where
  tag : Nat
  addr : W64
  deriving DecidableEq, Repr

/-- The result owed by a long-latency operation in flight (R66 to R68, R402). `flag` 12 means that it names no flag, so
that the next clause waits for it (R67). A QPOP that waits on a queue names the header (R331). -/
structure Pend where
  op : Nat
  flag : Nat
  writes : List (Nat × Form)
  fpx : BitVec 6
  engine : Bool
  queue : Option W64
  pc : W64
  /-- Only some of the indices of a merged strand owe the result, which no form says: a draw for what the strand's register
  then holds (R38, R41, R68; log 95). -/
  mixed : Option Nat := none
  deriving DecidableEq, Repr

/-- A working-set declaration (R356). -/
structure Decl where
  addr : W64
  word : W64
  deriving DecidableEq, Repr

/-- A bound and its Incumbent Cell (R322, R377). -/
structure Bound where
  v : Bool
  cell : BitVec 8
  bound : W64
  deriving DecidableEq, Repr

/-- A location: a physical byte address, or an offset in the scratch of a pen (R195). -/
inductive Loc where
  | phys (pa : Nat)
  | scr (pen off : Nat)
  deriving DecidableEq, Repr

/-- The monitor of a WAITA (R237, R240): where, the expected value, the place of its read, and its timeout. -/
structure Monitor where
  loc : Loc
  ea : W64
  space : Space
  b : W64
  order : Nat
  start : Nat
  op : Nat
  deriving DecidableEq, Repr

/-- What a thread is doing between clauses (R26, R184, R229, R286, R331, R388). -/
inductive Status where
  | ready
  /-- Continuing its clause after a wait at the clause's first instruction: history and flags as they stand. -/
  | resume
  | exited
  /-- At a SPLICE, from that die cycle count and that issue slot, by the draw of its step (R39, R41, R42). -/
  | splice (since slot : Nat)
  /-- At a convergent operation (R42, R43). -/
  | conv (since slot : Nat)
  | waita (m : Monitor)
  /-- At a barrier whose phase it has read, by the address `ea`; `pc` and `hdr` are those of the instruction that waits. -/
  | bar (loc : Loc) (ea : W64) (phase : W32) (dest : Opd) (pc hdr : W64)
  | ring (num : Nat) (claim : Bool) (dest : Opd)
  | push (header : W64) (pkt : BitVec 512) (dest : Opd)
  | fence (ops : List Nat) (fail : Bool) (dest : Opd)
  | mwait (ops : List Nat)
  | hitch
  | syscall (dest : Opd)
  | parked (handle : Nat)
  /-- Stopped at a failing ASSERT until its context resumes (R414). -/
  | asserted
  deriving DecidableEq, Repr

/-- A clause as read at its start: its header and its words (R59, R100, R212). -/
structure Fetched where
  hdr : W64
  head : Header
  words : List W64
  dz2 : Bool
  deriving DecidableEq, Repr

/-- A CPS that has stopped between two of its accesses: the values loaded, and how many of them are stored (R175). -/
structure CpsPart where
  loaded : List W64
  stored : Nat
  deriving DecidableEq, Repr

/-- A thread that issues: a strand on [lo, lo + n), or the lane thread of one lane (n = 1) (R15, R25). -/
structure Thread where
  lo : Nat
  n : Nat
  lane : Nat
  task : Nat
  pc : W64
  /-- The header that governs the words from `pc` on (R59). -/
  hdr : W64
  regs : RegFile
  hist : Hist
  preds : List Ivl
  splices : List SpliceRec
  flags : BitVec 12
  pend : List Pend
  fpx : BitVec 6
  part : Bool
  hwm : BitVec 40
  wto : W32
  epc : W64
  /-- The header that governs $epc.ADDR when $epc.HDR = 0 (the model's; R59). -/
  epcHdr : W64
  ecause : W64
  /-- The issue of TRAP by which the thread entered its handler, and all those by which it has entered one (R398). -/
  cohort : Nat
  cohorts : List Nat
  role : W64
  decls : List Decl
  bound : Bound
  ctr : W64
  age : Nat
  ageAt : Nat
  /-- Engine operations outstanding that this thread or one it descends from issued, and whether one failed (R256). -/
  engOps : List Nat
  engFail : Bool
  /-- A CPS that a fault has stopped between two of its accesses (R175). -/
  cps : Option CpsPart
  /-- The phase of an arrival that a BAR has performed, when its wait was stopped by a fault (R245, R389). -/
  arrived : Option W32
  /-- The clause that a thread waiting at its first instruction has started, whose words it goes on with (R212). -/
  kept : Option Fetched
  /-- The draw of the number of the OS thread under which the thread's requests are served (JN.OST, R437; log 1). -/
  ost : Nat
  status : Status
  deriving DecidableEq, Repr

/-- A clause being run, as read at its start (R65, R212). -/
structure Run where
  hdr : W64
  head : Header
  words : List W64
  pos : Nat
  /-- Lanes selected; for a strand, lane 0. -/
  sel : List Nat
  /-- Lanes below this have performed the instruction at `pos` already. -/
  from' : Nat
  /-- The clause runs as a convergent operation (R44). -/
  conv : Bool
  dz2 : Bool
  /-- The word at `pos` has been issued, and counted for sampling, and waits with nothing of it performed (R439). -/
  counted : Bool := false
  deriving DecidableEq, Repr

/-- Why a group waits inside a clause with the instruction not performed. -/
inductive Stall where
  /-- For a lane row (R22): the place of its wait among all waits, a value of the counter `fresh` (R56). -/
  | row (since : Nat)
  /-- For room in the engine queue (R287), the Range-Lock Table (R214). -/
  | queue | range
  /-- For a spawn bin (R48), a graph run (R350), a ring that an engine holds (R180). -/
  | bin | graph | ring
  /-- For room for so many bytes in the staging budget (R379). -/
  | budget (bytes : Nat)
  deriving DecidableEq, Repr

/-- Where a group is (R14, R333, R337). -/
inductive Place where
  | slot (k : Nat)
  | row (k : Nat)
  /-- Saved in its pen's image, to be placed as a ready member. -/
  | saved
  /-- Descheduled onto a tether list. -/
  | tether
  deriving DecidableEq, Repr

/-- A strand (one thread) or a lane group (R14). -/
structure Group where
  id : Nat
  pen : Nat
  lanes : Bool
  place : Place
  threads : List Thread
  run : Option Run
  stall : Option Stall
  /-- SPLICEs whose fold failed, by address, with the lanes that have passed them; the others pass without waiting (R41). -/
  failFolds : List (W64 × List Nat)
  /-- Issue slots held (R29, R30). -/
  slots : Nat
  /-- Owes a turn of the rotation after YIELD or YLD (R164, R64). -/
  yielded : Bool
  /-- The cycle count of its die when it was last saved: windows stand still from then on (R56). -/
  savedAt : Nat
  placedAt : Nat
  deriving DecidableEq, Repr

/-! ### Pens -/

/-- State of a ring slot (R176). -/
inductive Slot where
  | free | claimed | filled | taken
  /-- CLAIMED by a copy operation (R344). -/
  | engine (op : Nat)
  deriving DecidableEq, Repr

/-- A scratch ring (R176, R177). -/
structure Ring where
  cfg : W64
  head : Nat
  tail : Nat
  slots : List Slot
  deriving DecidableEq, Repr

/-- A remap slot (R254). -/
structure Remap where
  cfg : W64
  par : W64
  deriving DecidableEq, Repr

/-- A pen waiting at a hitch event (R299, R300): its group and lanes, the operation it would issue, the instruction with
its header, the reference time of the arrival. -/
structure HitchWait where
  gid : Nat
  lanes : List Nat
  op : Option Nat
  pc : W64
  hdr : W64
  since : Nat
  deriving DecidableEq, Repr

structure Pen where
  id : Nat
  launch : Nat
  /-- Virtual core number j (R13). -/
  vcore : Nat
  core : Option Nat
  /-- The team has not been placed yet, or is saved. -/
  saved : Bool
  scratch : List Host.Cell
  scsz : Nat
  /-- 128-byte lines of the scratch that hold an uncorrectable error (R166, R223). -/
  bad : List Nat
  /-- Elements of the accumulator tiles whose bits are not 0, by 4096·tile + 64·r + c (R288). -/
  tiles : List (Nat × W32)
  accn : Nat
  spw : BitVec 16
  gangMask : BitVec 6
  gangSeq : W32
  rtau : W32
  thv : W64
  remaps : List Remap
  rings : List Ring
  /-- PROG.LAST of each tile that is not 0 (R296). -/
  last : List (Nat × Nat)
  /-- Hitch events of the pen, in the order of their arrivals; the first is the one with SEQ (log 26). -/
  hitch : List HitchWait
  engFail : Bool
  placedAt : Nat
  deriving DecidableEq, Repr

/-! ### Tasks, launches, queues of the scheduler -/

/-- A task (R321 to R323). `launchOwn` marks the task that is its launch. -/
structure Task where
  id : Nat
  launch : Nat
  launchOwn : Bool
  tdep : W64
  cell : Bound
  karg : W64
  prio : Nat
  decls : List Decl
  contEnd : Bool
  killed : Bool
  /-- Bytes counted against the staging budget: shed-bound and scratch-bound (R358). -/
  staged : Nat
  scrStaged : Nat
  /-- Its staging has begun (R357, R358). -/
  begun : Bool
  /-- The die chosen for it when it became ready, if it has declarations (R357). -/
  home : Option Nat
  /-- It has been dispatched (R357 to R359). -/
  ran : Bool
  /-- Declarations of its staging that wait for room in the Range-Lock Table, each with its pen (R214, R357). -/
  jobs : List (Decl × Nat)
  deriving DecidableEq, Repr

/-- A pipeline stage (R381). -/
structure Stage where
  queue : W64
  low : Nat
  high : Nat
  min : Nat
  max : Nat
  deriving DecidableEq, Repr

/-- What GOVSET sets (R381). -/
structure GovSet where
  stages : List (Nat × Stage)
  enabled : Bool
  yardUnit : Bool
  period : Nat
  deriving DecidableEq, Repr

/-- The Pipeline Governor of a launch (R354, R355): its settings in force, those that wait for the next period, the end
of the period, MOVES, and the role of each unit. -/
structure Gov where
  set : GovSet
  want : Option GovSet
  nextAt : Nat
  moves : W32
  roles : List (Nat × Nat)
  deriving DecidableEq, Repr

structure Launch where
  id : Nat
  ctx : Nat
  entry : W64
  n : Nat
  yards : Nat
  c : Nat
  regs : Nat
  scr : Nat
  accn : Nat
  gp : W64
  stk : W64
  z : Nat
  karg : W64
  dep : W64
  prio : Nat
  /-- Continuation records outstanding, by the addresses at which CONT wrote them (R55, R324). -/
  conts : List W64
  /-- Virtual yards not placed yet. -/
  unplaced : List Nat
  /-- The dispatch queue it came from. -/
  queue : W64
  /-- The graph run and node it was fired by. -/
  node : Option (Nat × W64)
  gov : Gov
  /-- The gang-launch record whose part this is (R406). -/
  gang : Option W64
  deriving DecidableEq, Repr

/-- What waits to be placed (R334). -/
inductive MemberKind where
  /-- The pens of a virtual yard of a launch. -/
  | team (launch vyard : Nat)
  /-- A group: spawned, launched from a bin, resumed, evicted or descheduled. `fresh`: not dispatched before. -/
  | group (gid : Nat) (fresh : Bool)
  /-- A saved yard team. -/
  | pens (launch vyard : Nat)
  deriving DecidableEq, Repr

structure Member where
  id : Nat
  kind : MemberKind
  prio : Nat
  since : Nat
  /-- Priority gained by waiting (R334). -/
  aged : Nat
  /-- It has failed to fit before (R334). -/
  tried : Bool
  deriving DecidableEq, Repr

/-- Room reserved on a core for a member that did not fit: the kinds of room it lacks there, the end (R334). -/
structure Reservation where
  member : Nat
  core : Nat
  lacks : List Nat
  until' : Nat
  deriving DecidableEq, Repr

/-- A single spawn in a bin (R49, R369). -/
structure Spawn where
  idx : Nat
  g0 : W64
  task : Nat
  deriving DecidableEq, Repr

/-- A spawn bin in use (R48). -/
structure Bin where
  ctx : Nat
  entry : W64
  launch : Nat
  first : Nat
  spawns : List Spawn
  deriving DecidableEq, Repr

/-- A resumable or waiting continuation record (R53): its context, address, launch, whether its counter has reached
zero, and the operations that its thread had in flight. -/
structure Cont where
  ctx : Nat
  addr : W64
  launch : Nat
  zero : Bool
  ops : List Nat
  /-- Those of the operations that are QPOPs waiting for a packet, with their headers (R53, R331). -/
  pops : List (Nat × W64)
  deriving DecidableEq, Repr

/-- A waiter of a tether list: its group and lane, and the QPOP that takes the packet (R333). -/
structure Waiter where
  gid : Nat
  lane : Nat
  op : Nat
  deriving DecidableEq, Repr

/-- A wait list kept by the device for a queue in mode H, oldest first (R325, R333). -/
structure Tether where
  pa : Nat
  pushing : Bool
  waiters : List Waiter
  deriving DecidableEq, Repr

/-! ### Engine operations -/

/-- A registered range of whole lines: [lo, hi) in 128-byte lines (R213). -/
structure Rng where
  pen : Option Nat
  lo : Nat
  hi : Nat
  dst : Bool
  /-- It goes on the range before it, whose pages are not adjacent: one entry of the table holds both. -/
  more : Bool
  deriving DecidableEq, Repr

/-- Element formats of the matrix paths and of DRAIN (R104). -/
inductive EFmt where
  | bf16 | f16 | e4m3 | e5m2 | e2m1 | lns6
  deriving DecidableEq, Repr

/-- The path of an MMA operation (R119 to R122). -/
inductive Path where
  | plane (pa pb : Nat) (sa sb : Bool)
  | float (f : EFmt)
  | lns
  deriving DecidableEq, Repr

/-- An MMA operation as issued (R291, R308, R309). Scale registers are by row and column. -/
structure Mma where
  path : Path
  k : Nat
  aoff : Nat
  boff : Nat
  abmp : Nat
  bbmp : Nat
  spa : Bool
  spb : Bool
  compressed : Bool
  zc : Bool
  bsel : Nat
  scaleA : List W64
  scaleB : List W64
  /-- OPC, PA, PB and MD.FMT, compared at the hitch (R299). -/
  sig : List Nat
  /-- Steps performed and operands read, once it has started: slices of A, of B, the bitmaps (R294, R295). -/
  steps : Nat
  slicesA : List Nat
  slicesB : List Nat
  bitsA : List W64
  bitsB : List W64
  /-- Rows of A and columns of B, by k, whose elements were read from a line with an uncorrectable error; the k of which a
  word of a bitmap was (R224). -/
  badA : List W64
  badB : List W64
  badMap : List Nat
  deriving DecidableEq, Repr

/-- A copy as issued (R342, R343): the index array is as read at issue. -/
structure Copy where
  kind : Nat
  srcScr : Bool
  dstScr : Bool
  src : W64
  dst : W64
  sstr : W64
  dstr : W64
  rows : Nat
  len : Nat
  lesz : Nat
  idx : List Nat
  ring : Option Nat
  dep : W64
  deriving DecidableEq, Repr

/-- A predicted-row operation's record and operands (R303, R316 to R318). -/
structure Prb where
  word : BitVec 512
  p : Nat
  mask : W64
  tau : W32
  deriving DecidableEq, Repr

inductive OpKind where
  | mma (m : Mma)
  | accz
  | accld (scr : Bool) (addr : W64)
  | accst (scr : Bool) (addr : W64)
  | drain (v : DrainV) (scr : Bool) (addr : W64)
  | rpred (r : Prb)
  | rcheck (r : Prb)
  | rgath (r : Prb)
  | copy (c : Copy)
  /-- A staging transfer of one declaration for a pen; `none` stages for a task not placed yet (R357, R379). -/
  | stage (d : Decl)
  deriving DecidableEq, Repr

/-- An engine operation outstanding (R213 to R217, R287). -/
structure EngOp where
  id : Nat
  kind : OpKind
  ctx : Nat
  launch : Nat
  pen : Option Nat
  /-- The tile it names. -/
  tile : Option Nat
  task : Option Nat
  ranges : List Rng
  /-- Operations of a joint operation share a number (R301). -/
  joint : Option Nat
  /-- It waits at the hitch. -/
  atHitch : Bool
  started : Bool
  cancelled : Bool
  /-- A read found an uncorrectable error: the physical address of its line (R224). -/
  bad : Option Nat
  /-- The bytes that it writes, from what it read at its start. -/
  data : Nat
  /-- Physical address of each virtual 64-KiB page that it names, as translated at its issue. -/
  pages : List (Nat × Nat)
  /-- The pages that it reads (false) and those that it writes (true) (R202, R204). -/
  uses : List (Nat × Bool)
  /-- An MMA operation, ACCZ or ACCLD overlapped its tile reads (R297). -/
  overlap : Bool
  /-- Phase reached by a copy into a ring, two for each row, and the slot claimed for the row (R344). -/
  row : Nat
  ringSlot : Nat
  result : W64
  /-- Destination register, in the threads that owe it. -/
  dest : Option Nat
  deriving DecidableEq, Repr

/-! ### Contexts and the package -/

/-- A tagged instruction on its way to write-back (R439). -/
structure Tag where
  gid : Nat
  lane : Nat
  name : Nat
  launch : Nat
  vcore : Nat
  slot : Nat
  index : Nat
  pc : W64
  opc : BitVec 9
  time : Nat
  deriving DecidableEq, Repr

/-- The sampling of one core for a context: instructions issued of the present P, the one chosen, and the tagged ones that
have not been written back (R439). -/
structure Sampler where
  core : Nat
  count : Nat
  pick : Nat
  tags : List Tag
  deriving DecidableEq, Repr

structure Context where
  id : Nat
  root : Nat
  privBase : W64
  pid : W32
  vw : W64
  bintm : BitVec 10
  flov : W32
  faultLog : Option W64
  stopped : Bool
  /-- Stopped by the thermal trip (R435). -/
  thermal : Bool
  debugger : Bool
  dispatchQueues : List W64
  copyQueues : List W64
  budget : Nat
  staged : Nat
  samplePeriod : Nat
  sampleQueue : W64
  /-- Samples dropped for want of room, counted by Turjo (R439). -/
  sampleDrops : Nat
  samplers : List Sampler
  /-- Shed ways held on each die, and the lines placed there: die and physical line (R199). -/
  shed : List Nat
  shedLines : List (Nat × Nat)
  deriving DecidableEq, Repr

/-- One entry of a die's step log (R418). -/
structure StepRec where
  num : Nat
  time : Nat
  cycle : Nat
  old : Nat
  new : Nat
  deriving DecidableEq, Repr

structure Die where
  bins : List Bin
  /-- Frequency code set by Turjo, in force, and sought by a relock in progress (R433). -/
  setCode : Nat
  code : Nat
  relock : Option Nat
  /-- Cycle count at reference time `cycAt`. -/
  cycles : Nat
  cycAt : Nat
  steps : List StepRec
  share : Nat
  deriving DecidableEq, Repr

structure Parked where
  handle : Nat
  ctx : Nat
  gid : Nat
  lanes : List Nat
  record : BitVec 512
  /-- The location of an access that raised RLOCK (R394). -/
  loc : Option Loc
  /-- The draw of JN.OST in the joined name of the stop (R437). -/
  ost : Nat
  /-- The record has reached the fault log or Turjo's log (R413). -/
  forwarded : Bool
  deriving DecidableEq, Repr

structure Cell where
  owner : Option Nat
  key : W64
  tag : W64
  drops : W64
  kills : W64
  /-- The key that unlisted local copies hold, and the copies that hold another; the times at which INCUPDs set the key,
  newest first (R361). -/
  base : W64
  locals : List (KeyLoc × W64)
  updates : List (Nat × W64)
  deriving DecidableEq, Repr

structure Histogram where
  ctx : Nat
  num : Nat
  nb : Nat
  bins : List (Nat × W32)
  deriving DecidableEq, Repr

/-- A graph run (R349, R350). -/
structure GraphRun where
  id : Nat
  ctx : Nat
  entry : W64
  counter : W64
  prio : Nat
  /-- Nodes that have fired and whose effects are to come. -/
  ready : List W64
  /-- Launches of task nodes that run, with the successors of their nodes. -/
  running : List (Nat × W64 × W64)
  reached : List W64
  /-- Arrivals sent and not taken yet. -/
  arrivals : List W64
  /-- The entry node's record as GRAPHRUN read it (R372). -/
  first : Option Nat
  deriving DecidableEq, Repr

/-- An action taken by a counter, not performed yet (R341). -/
structure DepAct where
  id : Nat
  ctx : Nat
  kind : Nat
  addr : W64
  deriving DecidableEq, Repr

/-- What a device access that waits for Turjo was doing (R442). -/
inductive DevAcc where
  | decrement (addr : W64)
  | action (a : DepAct)
  | resume (c : Cont)
  | node (run : Nat) (addr : W64)
  | gather (ctx : Nat) (pkt : BitVec 512)
  deriving DecidableEq, Repr

structure DevWait where
  id : Nat
  ctx : Nat
  acc : DevAcc
  va : W64
  code : Nat
  deriving DecidableEq, Repr

/-- An edit of page-table entries with the words that it replaced, or a translation shoot-down in progress. Accesses may use
the entries from before an edit until a shoot-down issued after it has completed (R204, R438). -/
structure Shoot where
  id : Nat
  ctx : Nat
  lo : W64
  hi : W64
  /-- The words that the edit replaced; a shoot-down replaces none. -/
  old : List SysStore
  sysCore : Nat
  time : Nat
  /-- Of a shoot-down: where its record stands in the log. -/
  logAt : Option Nat
  deriving DecidableEq, Repr

/-- A multi-package gang launch started here (R406 to R408). -/
structure Gang where
  ctx : Nat
  addr : W64
  start : Nat
  failed : Bool
  /-- The launch that is this package's part, 0 where it has none. -/
  launch : Nat
  deriving DecidableEq, Repr

/-- A flit: the fields of its header, and its payload (R422). -/
structure Flit where
  dst : BitVec 6
  src : BitVec 6
  vc : BitVec 3
  seq : BitVec 12
  len : BitVec 8
  payload : List Byte
  deriving DecidableEq, Repr

structure Port where
  trained : Bool
  inService : Bool
  /-- The package at its other end, once it has joined the domain, and those that it reaches through that one (R424). -/
  peer : Option Nat
  beyond : List Nat
  /-- Sequence number expected next by the receiver (R423). -/
  expect : BitVec 12
  /-- Since when replay has been asked for from the expected number, without an answer (R423). -/
  asked : Option Nat
  /-- Flits kept for replay, oldest first (R423). -/
  sent : List Flit
  deriving DecidableEq, Repr

/-- A copy of the configuration record in the persistent store (R428, R429): its fields and its signature, which is the
device's own where none is given. -/
structure CfgCopy where
  rec' : CfgRec
  sig : Option (List Byte)
  deriving DecidableEq, Repr

/-- Where the package stands in its boot (R425, R427). -/
inductive Boot where
  | reset
  /-- Waiting for DHCPv6 to time out. -/
  | dhcp
  /-- The image is verified and loaded; DRAM, units and ports are tested and trained. -/
  | verified
  /-- The host port is enabled, and Turjo starts. -/
  | tested
  | recovery
  | running
  deriving DecidableEq, Repr

/-- Units of the package (R430): spares left and units out of service. -/
structure Units where
  /-- Bit 9d + y: yard y of die d in service. -/
  yards : BitVec 36
  sysc : BitVec 18
  copy : BitVec 18
  ways : BitVec 72
  /-- Units retired, which never serve again. -/
  retired : List PkgUnit
  /-- Channel groups covered by ECC symbol correction; ports run at 4 lanes (R430, R431). -/
  eccGroups : List Nat
  narrowPorts : List Nat
  dramMap : List Byte
  linkMap : List Byte
  /-- Groups and ports that retrain. -/
  retraining : List PkgUnit
  /-- Channel groups that have failed beyond ECC symbol correction (R431). -/
  deadGroups : List Nat
  /-- Corrected errors: unit, time, number; and the threshold of each class that Turjo has set (R430). -/
  corrected : List (PkgUnit × Nat × Nat)
  thresholds : List (Nat × Nat)
  deriving DecidableEq, Repr

/-- A QPOP that waits on a queue and whose thread has ended: it takes its packet all the same (R157, R404). -/
structure LostPop where
  op : Nat
  ctx : Nat
  pen : Nat
  header : W64
  /-- It has taken its packet, and reaches its completion (R158). -/
  done : Bool
  deriving DecidableEq, Repr

/-- A waiter in WAITA of another package of the domain: the context, the location, the place of its read (R238). -/
structure PeerWait where
  ctx : Nat
  pa : Nat
  order : Nat
  deriving DecidableEq, Repr

structure State where
  /-- The model's own: the inputs to come and the nanoseconds before each (log 3). -/
  agenda : List (Nat × Input)
  /-- The model's own: a plain counter for free values, identifiers, tags and handles (log 1, 17). -/
  fresh : Nat
  /-- The model's own: the group that issues in this step (log 4). -/
  cur : Option Nat
  /-- The model's own: the draw of the step, from which its choices between translations come (log 1). -/
  draw : Nat
  /-- The rotation pointer of each core that has moved (R30), and the core whose turn it is (log 4). -/
  rot : List (Nat × Nat)
  turn : Nat
  /-- The model's own: turns that the device has had, and issues since the last of them (log 4). -/
  devTurn : Nat
  duty : Nat
  /-- The model's own: turns that events whose time has come have had (log 4). -/
  timeTurn : Nat
  /-- The model's own: the context for which the device acts, 0 for none (R225; log 34). -/
  actor : Nat
  /-- The package reference timer (R434) and its forward steps, which no timeout counts (R424). -/
  now : Nat
  stepped : Nat
  mem : List Host.Cell
  /-- What DRAM holds, which a line's write-back brings up to `mem` (R225). -/
  dram : List Host.Cell
  /-- Lines written since their last write-back, each with the context that wrote it last, 0 for none (R225). -/
  writers : List (Nat × Nat)
  /-- 128-byte lines that hold an uncorrectable error (R223). -/
  poison : List Nat
  groups : List Group
  pens : List Pen
  tasks : List Task
  launches : List Launch
  ctxs : List Context
  members : List Member
  reservations : List Reservation
  conts : List Cont
  tethers : List Tether
  lostPops : List LostPop
  ops : List EngOp
  parked : List Parked
  cells : List Cell
  hists : List (Option Histogram)
  runs : List GraphRun
  /-- The dispatch queue that the root took a packet from last: the next turn goes on from it (R330). -/
  lastQueue : Option (Nat × W64)
  depActs : List DepAct
  devWaits : List DevWait
  shoots : List Shoot
  gangs : List Gang
  dies : List Die
  /-- Package numbers of the other members of the load-store domain (R424). -/
  domain : List Nat
  /-- Packages that have left and not been reset since; those that no port reaches, since when (R424). -/
  left : List Nat
  unreached : List (Nat × Nat)
  peerWaits : List PeerWait
  ports : List Port
  boot : Boot
  /-- The image body in system-core memory (R425). -/
  image : List Byte
  /-- The two copies of the configuration record, and the one in use (R429). -/
  cfg : List CfgCopy
  cfgUse : Nat
  /-- The certificate of the device key in the store, bytes; none for the one made at manufacture, which verifies under the
  root key (R428, R429; log 13). -/
  cert : Option (List Byte)
  /-- Copies of the record in whose part of the store a write does not hold (R429; log 13). -/
  storeFails : List Nat
  /-- The timer at the ROM's last request for an address or an image (R425, R427). -/
  bootAt : Nat
  /-- The timer at the last self-test (R430). -/
  selfTestAt : Nat
  units : Units
  /-- HEALTH (R440), CECNT (R432). -/
  healthReplace : Bool
  healthTrip : Bool
  healthBoot : Nat
  healthExh : BitVec 12
  cecnt : W64
  /-- Junction temperature of each die as last measured, and whether a trip holds the dies at 0.8 GHz (R435). -/
  temps : List Nat
  tripHold : Bool
  /-- The time at which power or heat last made the device lower a die (R435). -/
  loweredAt : Option Nat
  /-- Turjo's device error log and shoot-down log, newest last (R225, R390, R438). -/
  errLog : List (BitVec 512)
  shootLog : List (BitVec 512)
  /-- MSI-X vectors sent: context, vector, and what was written to the host (R341); the tables of the functions, of 2,048
  vectors each: address and data of the entries that are not 0 (R419). -/
  msix : List (Nat × Nat × W64 × W32)
  msixTable : List ((Nat × Nat) × W64 × W32)
  /-- Completions returned to the host: a little-endian number, or none for Unsupported Request (R419, R420). -/
  hostReplies : List (Option Nat)
  /-- Functions whose reset has been reported complete, newest last (R405). -/
  resetsDone : List Nat
  /-- SYSCALL requests forwarded to system cores: joined name, call number, arguments (R415). -/
  syscalls : List (BitVec 160 × W32 × List W64)
  /-- Bytes of the management mailbox that are not 0 (R420, R421; log 31). -/
  mailbox : List Host.Cell
  deriving DecidableEq, Repr

/-- Why the model stops. The manual stops the machine nowhere: every fault of R383 is a next state. -/
inductive Fault where
  /-- An instruction word is executed where no group is issuing. Raised by `exec` alone, never by `step`. Safe: the
  machine never executes a word outside a clause. -/
  | noIssuer
  deriving DecidableEq, Repr

/-- Why the model declines. -/
inductive Refusal where
  /-- The instruction has no meaning yet. Raised by an arm of `exec`. Safe. -/
  | notModelled (mnemonic : String)
  deriving DecidableEq, Repr

/-! ### Reset -/

def GovSet.reset : GovSet := { stages := [], enabled := false, yardUnit := false, period := 0 }
def Gov.reset : Gov := { set := GovSet.reset, want := none, nextAt := 0, moves := 0, roles := [] }

/-- A die at its reset: code 13, no step, empty bins, share 1/8 (R359, R433, R440). -/
def Die.reset : Die :=
  { bins := [], setCode := 13, code := 13, relock := none, cycles := 0, cycAt := 0, steps := [], share := 1 }

def Cell.reset : Cell :=
  { owner := none, key := 0x7FFFFFFFFFFFFFFF, tag := 0, drops := 0, kills := 0, base := 0x7FFFFFFFFFFFFFFF, locals := [],
    updates := [] }

def Port.reset : Port := { trained := false, inService := true, peer := none, beyond := [], expect := 0, asked := none, sent := [] }

/-- The configuration record that the model's package holds at reset (log 13): eight yards of each die, sixteen system
cores, Copy Engines and L2 ways in service. -/
def CfgRec.factory : CfgRec :=
  { seq := 1, grade := 0, pkg := 0, ownv := false, yards := 0x7FBFDFEFF, sysc := 0xFFFF, copy := 0xFFFF,
    ways := 0x3FFFCFFFF3FFFCFFFF, dramMap := List.replicate 512 0xFF, linkMap := List.replicate 48 0xFF,
    owner := List.replicate 64 0 }

def Units.ofCfg (c : CfgRec) : Units :=
  { yards := c.yards, sysc := c.sysc, copy := c.copy, ways := c.ways, retired := [], eccGroups := [],
    narrowPorts := [], dramMap := c.dramMap, linkMap := c.linkMap, retraining := [], deadGroups := [],
    corrected := [], thresholds := [] }

/-- The machine right after package reset: nothing is booted, no context exists, memory lists nothing (R425, R434). -/
def State.reset : State :=
  { agenda := [], fresh := 1, cur := none, draw := 0, rot := [], turn := 0, devTurn := 0, duty := 0, timeTurn := 0, actor := 0, now := 0, stepped := 0, mem := [], dram := [],
    writers := [], poison := [],
    groups := [], pens := [], tasks := [], launches := [], ctxs := [], members := [], reservations := [], conts := [],
    tethers := [], lostPops := [], ops := [], parked := [], cells := List.replicate 256 Cell.reset, hists := List.replicate 64 none,
    runs := [], lastQueue := none, depActs := [], devWaits := [], shoots := [], gangs := [], dies := List.replicate 4 Die.reset,
    domain := [], left := [], unreached := [], peerWaits := [], ports := List.replicate 24 Port.reset, boot := .reset,
    image := [], cfg := [⟨CfgRec.factory, none⟩, ⟨CfgRec.factory, none⟩], cfgUse := 0, cert := none, storeFails := [], bootAt := 0, selfTestAt := 0,
    units := Units.ofCfg CfgRec.factory,
    healthReplace := false, healthTrip := false, healthBoot := 0, healthExh := 0, cecnt := 0, temps := [],
    tripHold := false, loweredAt := none, errLog := [], shootLog := [], msix := [], msixTable := [], hostReplies := [], resetsDone := [], syscalls := [], mailbox := [] }

end Sys2Proof.Machine
end

