-- ==== Sys2Proof/Machine/Fp.lean ====
section
/-! DEFINITION. Floating point (R104 to R132, R261 to R267): exact arithmetic on integers, then one rounding into the
destination format. A number is (−1)^s · m · 2^e. A value that is not exact is cut to many bits and its lowest bit is
set ("jammed"), which one later rounding to fewer bits cannot tell from the exact value. -/

namespace Sys2Proof.Machine

/-- Flags in the order of $fpx: IDZ NV DZ OF UF NX (R111). -/
abbrev Fpx := BitVec 6
def fxNone : Fpx := 0
def fxNX : Fpx := 1
def fxUF : Fpx := 2
def fxOF : Fpx := 4
def fxDZ : Fpx := 8
def fxNV : Fpx := 16
def fxIDZ : Fpx := 32
def fxIf (c : Bool) (f : Fpx) : Fpx := if c then f else 0

/-- A floating-point format (R104): exponent and mantissa widths, bias, the largest finite code, whether it has
infinities and NaN codes. -/
structure FFmt where
  ew : Nat
  mw : Nat
  bias : Int
  maxCode : Nat
  hasInf : Bool
  hasNan : Bool
  nan : Nat
  deriving DecidableEq, Repr

def F64 : FFmt := ⟨11, 52, 1023, 0x7FEFFFFFFFFFFFFF, true, true, 0x7FF8000000000000⟩
def F32 : FFmt := ⟨8, 23, 127, 0x7F7FFFFF, true, true, 0x7FC00000⟩
def F16 : FFmt := ⟨5, 10, 15, 0x7BFF, true, true, 0x7E00⟩
def BF16 : FFmt := ⟨8, 7, 127, 0x7F7F, true, true, 0x7FC0⟩
def E4M3 : FFmt := ⟨4, 3, 7, 0x7E, false, true, 0x7F⟩
def E5M2 : FFmt := ⟨5, 2, 15, 0x7B, true, true, 0x7E⟩
def E2M1 : FFmt := ⟨2, 1, 1, 0x7, false, false, 0⟩

def FFmt.width (f : FFmt) : Nat := 1 + f.ew + f.mw
def FFmt.signBit (f : FFmt) : Nat := 2 ^ (f.ew + f.mw)
def FFmt.inf (f : FFmt) : Nat := (2 ^ f.ew - 1) * 2 ^ f.mw
/-- Exponent of the smallest subnormal. -/
def FFmt.qmin (f : FFmt) : Int := 1 - f.bias - f.mw

/-- What a code stands for. -/
inductive FVal where
  | nan (signalling : Bool)
  | inf (s : Bool)
  | fin (s : Bool) (m : Nat) (e : Int)
  deriving DecidableEq, Repr

/-- The value of a code (R104 to R106, R109). -/
def FFmt.decode (f : FFmt) (code : Nat) : FVal :=
  let c := code % 2 ^ f.width
  let s := decide (c / f.signBit = 1)
  let mag := c % f.signBit
  let x := mag / 2 ^ f.mw
  let fr := mag % 2 ^ f.mw
  if f.hasInf && mag == f.inf then .inf s
  else if f.hasNan && decide (mag > f.maxCode) then .nan (f.hasInf && decide (fr < 2 ^ (f.mw - 1)))
  else if x = 0 then .fin s fr f.qmin
  else .fin s (2 ^ f.mw + fr) (f.qmin + (x - 1 : Nat))

/-- m / 2^sh rounded to nearest, ties to even. -/
def rneShift (m sh : Nat) : Nat :=
  let q := m / 2 ^ sh
  let r := m % 2 ^ sh
  let half := 2 ^ sh / 2
  if sh = 0 then m else if r > half ∨ (r = half ∧ q % 2 = 1) then q + 1 else q

/-- m · 2^d, rounded to nearest, ties to even, where d may be negative. -/
def rneScale (m : Nat) (d : Int) : Nat := if 0 ≤ d then m * 2 ^ d.toNat else rneShift m (-d).toNat
/-- m · 2^d cut toward zero. -/
def rtzScale (m : Nat) (d : Int) : Nat := if 0 ≤ d then m * 2 ^ d.toNat else m / 2 ^ (-d).toNat

/-- Bit length. -/
def blen (m : Nat) : Nat := if m = 0 then 0 else m.log2 + 1
def withSign (f : FFmt) (s : Bool) (code : Nat) : Nat := if s then f.signBit + code else code

/-- (−1)^s · m · 2^e rounded once to nearest-even into the format: code and flags (R110, R112, R126). -/
def FFmt.round (f : FFmt) (s : Bool) (m : Nat) (e : Int) : Nat × Fpx :=
  if m = 0 then (withSign f s 0, 0) else
  let top : Int := e + (blen m : Int) - 1
  let q := max (top - f.mw) f.qmin
  let r := rneScale m (e - q)
  let inexact := decide (e < q) && decide (m % 2 ^ (q - e).toNat ≠ 0)
  let code := r + (q - f.qmin).toNat * 2 ^ f.mw
  let emin : Int := 1 - f.bias
  let tiny := decide (top < emin) &&
    !(decide (top = emin - 1) && decide (rneScale m (e - (top - f.mw)) = 2 ^ (f.mw + 1)))
  if code > f.maxCode then
    (withSign f s (if f.hasInf then f.inf else f.maxCode), fxOF ||| fxNX)
  else (withSign f s code, fxIf inexact fxNX ||| fxIf (tiny && inexact) fxUF)

/-- rtz of R11: cut toward zero, saturating at the largest finite value. -/
def FFmt.cut (f : FFmt) (s : Bool) (m : Nat) (e : Int) : Nat :=
  if m = 0 then withSign f s 0 else
  let top : Int := e + (blen m : Int) - 1
  let q := max (top - f.mw) f.qmin
  let code := rtzScale m (e - q) + (q - f.qmin).toNat * 2 ^ f.mw
  withSign f s (min code f.maxCode)

/-! ### Exact results -/

/-- An exact or jammed real, or a special result with its flags. -/
inductive Ex where
  | nan (fl : Fpx)
  | inf (s : Bool) (fl : Fpx)
  | num (s : Bool) (m : Nat) (e : Int)
  deriving DecidableEq, Repr

def FVal.isNan : FVal → Bool | .nan _ => true | _ => false
def FVal.isSnan : FVal → Bool | .nan s => s | _ => false
def FVal.neg : FVal → FVal | .nan q => .nan q | .inf s => .inf (!s) | .fin s m e => .fin (!s) m e
/-- NV when an operand is a signalling NaN. -/
def nvOf (l : List FVal) : Fpx := fxIf (l.any FVal.isSnan) fxNV

/-- The signed integer of m · 2^(e − q). -/
def alignTo (s : Bool) (m : Nat) (e q : Int) : Int :=
  let v : Int := (m * 2 ^ (e - q).toNat : Nat)
  if s then -v else v
/-- A signed integer times 2^q; an exact zero has the sign given. -/
def exOfInt (v : Int) (q : Int) (zs : Bool) : Ex := if v = 0 then .num zs 0 q else .num (decide (v < 0)) v.natAbs q

/-- a + b (R262). A zero sum of finite operands is +0, or −0 when both are −0. -/
def exAdd (a b : FVal) : Ex :=
  match a, b with
  | .nan _, _ => .nan (nvOf [a, b])
  | _, .nan _ => .nan (nvOf [a, b])
  | .inf s, .inf t => if s = t then .inf s 0 else .nan fxNV
  | .inf s, _ => .inf s 0
  | _, .inf t => .inf t 0
  | .fin s m e, .fin t n f =>
    let q := min e f
    exOfInt (alignTo s m e q + alignTo t n f q) q (s && t)

def exMul (a b : FVal) : Ex :=
  match a, b with
  | .nan _, _ => .nan (nvOf [a, b])
  | _, .nan _ => .nan (nvOf [a, b])
  | .inf s, .inf t => .inf (s != t) 0
  | .inf s, .fin t n _ => if n = 0 then .nan fxNV else .inf (s != t) 0
  | .fin s m _, .inf t => if m = 0 then .nan fxNV else .inf (s != t) 0
  | .fin s m e, .fin t n f => .num (s != t) (m * n) (e + f)

/-- a · b + c with one rounding to come; 0 · ∞ is invalid whatever c is (R262). -/
def exFma (a b c : FVal) : Ex :=
  match exMul a b with
  | .nan fl => .nan (fl ||| nvOf [c])
  | .inf s fl =>
    match c with
    | .nan _ => .nan (fl ||| nvOf [c])
    | .inf t => if s = t then .inf s fl else .nan fxNV
    | .fin _ _ _ => .inf s fl
  | .num s m e => exAdd (.fin s m e) c

/-- num / den · 2^e with 130 bits or more, jammed. -/
def jamDiv (num den : Nat) (e : Int) : Nat × Int :=
  let k := 130 + blen den
  let n := num * 2 ^ k
  (2 * (n / den) + (if n % den = 0 then 0 else 1), e - k - 1)

def exDiv (a b : FVal) : Ex :=
  match a, b with
  | .nan _, _ => .nan (nvOf [a, b])
  | _, .nan _ => .nan (nvOf [a, b])
  | .inf _, .inf _ => .nan fxNV
  | .inf s, .fin t _ _ => .inf (s != t) 0
  | .fin s _ e, .inf t => .num (s != t) 0 e
  | .fin s m e, .fin t n f =>
    if n = 0 then (if m = 0 then .nan fxNV else .inf (s != t) fxDZ)
    else let r := jamDiv m n (e - f); .num (s != t) r.1 r.2

/-- √(m · 2^e) with 130 bits or more, jammed. -/
def jamSqrt (m : Nat) (e : Int) : Nat × Int :=
  let m1 := if e % 2 = 0 then m else 2 * m
  let e1 := if e % 2 = 0 then e else e - 1
  let n := m1 * 2 ^ 280
  let r := n.sqrt
  (2 * r + (if r * r = n then 0 else 1), e1 / 2 - 141)

def exSqrt (a : FVal) : Ex :=
  match a with
  | .nan q => .nan (fxIf q fxNV)
  | .inf s => if s then .nan fxNV else .inf false 0
  | .fin s m e =>
    if m = 0 then .num s 0 e
    else if s then .nan fxNV
    else let r := jamSqrt m e; .num false r.1 r.2

/-- 1/x (R132). -/
def exRcp (a : FVal) : Ex :=
  match a with
  | .nan q => .nan (fxIf q fxNV)
  | .inf s => .num s 0 0
  | .fin s m e => if m = 0 then .inf s fxDZ else let r := jamDiv 1 m (-e); .num s r.1 r.2

/-- 1/√x (R132). -/
def exRsq (a : FVal) : Ex :=
  match a with
  | .nan q => .nan (fxIf q fxNV)
  | .inf s => if s then .nan fxNV else .num false 0 0
  | .fin s m e =>
    if m = 0 then .inf s fxDZ
    else if s then .nan fxNV
    else
      let m1 := if e % 2 = 0 then m else 2 * m
      let e1 := if e % 2 = 0 then e else e - 1
      let n := 2 ^ 400
      let r := (n / m1).sqrt
      .num false (2 * r + (if r * r * m1 = n then 0 else 1)) (-(e1 / 2) - 201)

/-- The working precision of FEXP2 and FLOG2 (log 20). -/
abbrev fpWork : Nat := 512

/-- Product of 2^(2^−j) over the set bits of a fraction, most significant first, as a lower bound with `fpWork`
fraction bits; c is 2^(2^−j) for the next bit. -/
def exp2Bits : List Bool → (c acc : Nat) → Nat
  | [], _, acc => acc
  | b :: bs, c, acc =>
    exp2Bits bs (c * 2 ^ fpWork).sqrt (if b then acc * c / 2 ^ fpWork else acc)

/-- 2^x (R132). Beyond ±400 the result is past every rounding boundary. -/
def exExp2 (a : FVal) : Ex :=
  match a with
  | .nan q => .nan (fxIf q fxNV)
  | .inf s => if s then .num false 0 0 else .inf false 0
  | .fin s m e =>
    if m = 0 then .num false 1 0
    else if 9 < e + (blen m : Int) then .num false 3 (if s then -400 else 400)
    else
      -- x · 2^160 exactly: binary32 has no bit below 2^−149
      let v : Int := alignTo s m e (-160)
      let i := v / 2 ^ 160
      let f := (v % 2 ^ 160).toNat
      if f = 0 then .num false 1 i
      else
        let bs := (List.range 160).map (fun j => f.testBit (159 - j))
        let r := exp2Bits bs (2 * 2 ^ fpWork * 2 ^ fpWork).sqrt (2 ^ fpWork)
        .num false (2 * (r / 2 ^ (fpWork - 200)) + 1) (i - 201)

/-- Fraction bits of log2 y for y in [1, 2) held with `fpWork` fraction bits. -/
def log2Bits : (n : Nat) → (y acc : Nat) → Nat
  | 0, _, acc => acc
  | n + 1, y, acc =>
    let z := y * y / 2 ^ fpWork
    if z / 2 ^ (fpWork + 1) = 0 then log2Bits n z (2 * acc) else log2Bits n (z / 2) (2 * acc + 1)

/-- log2 x (R132). -/
def exLog2 (a : FVal) : Ex :=
  match a with
  | .nan q => .nan (fxIf q fxNV)
  | .inf s => if s then .nan fxNV else .inf false 0
  | .fin s m e =>
    if m = 0 then .inf true fxDZ
    else if s then .nan fxNV
    else
      let l := blen m - 1
      let top : Int := e + l
      if m = 2 ^ l then (if top = 0 then .num false 0 0 else .num (decide (top < 0)) top.natAbs 0)
      else
        let f := log2Bits 200 (m * 2 ^ (fpWork - l)) 0
        let n : Int := top * 2 ^ 200 + f
        if 0 ≤ n then .num false (2 * n.toNat + 1) (-201) else .num true (2 * (-n - 1).toNat + 1) (-201)

/-- The clamp of R76 on a code of the format. -/
def FFmt.clamp (f : FFmt) (cl : Clamp) (code : Nat) : Nat :=
  let one := (f.bias.toNat) * 2 ^ f.mw
  match cl with
  | .none => code
  | .sat =>
    match f.decode code with
    | .inf s => withSign f s f.maxCode
    | _ => code
  | .c01 =>
    match f.decode code with
    | .nan _ => 0
    | .inf s => if s then 0 else one
    | .fin s _ _ => if s then 0 else min code one
  | .c11 =>
    match f.decode code with
    | .nan _ => 0
    | .inf s => withSign f s one
    | .fin s _ _ => withSign f s (min (code % f.signBit) one)

/-- SC as a signed value (R76). -/
def scOf (sc : BitVec 3) : Int := sc.toInt

/-- Scale by 2^SC, one rounding, then the clamp (R261). -/
def Ex.finish (x : Ex) (f : FFmt) (sc : BitVec 3) (cl : Clamp) : Nat × Fpx :=
  match x with
  | .nan fl => (f.clamp cl f.nan, fl)
  | .inf s fl => (f.clamp cl (withSign f s f.inf), fl)
  | .num s m e => let r := f.round s m (e + scOf sc); (f.clamp cl r.1, r.2)

/-- A source modifier on a floating-point code: only the sign bit changes (R75). -/
def FFmt.modify (f : FFmt) (m : Mod) (code : Nat) : Nat :=
  let c := code % 2 ^ f.width
  match m with
  | .none => c
  | .neg => (c + f.signBit) % 2 ^ f.width
  | .abs => c % f.signBit
  | .negAbs => f.signBit + c % f.signBit

/-! ### Minimum, maximum, compare, integral values -/

/-- Order of two finite or infinite values, −0 below +0, as an integer key. -/
def FFmt.key (f : FFmt) (code : Nat) : Int :=
  let c := code % 2 ^ f.width
  if c / f.signBit = 1 then -(c % f.signBit : Nat) - 1 else (c : Nat)

/-- FMIN or FMAX of two codes: the chosen operand bit for bit (R263). -/
def FFmt.minmax (f : FFmt) (mx : Bool) (a b : Nat) : Nat × Fpx :=
  let va := f.decode a
  let vb := f.decode b
  let r :=
    if va.isNan && vb.isNan then f.nan
    else if va.isNan then b
    else if vb.isNan then a
    else if mx then (if f.key a < f.key b then b else a)
    else (if f.key b < f.key a then b else a)
  (r, nvOf [va, vb])

/-- The value of a code as compared: equal zeros (R264). -/
def FFmt.cmpKey (f : FFmt) (code : Nat) : Int :=
  match f.decode code with
  | .fin _ 0 _ => 0
  | _ => let k := f.key code; if k < 0 then k + 1 else k

def FFmt.compare (f : FFmt) (cc : FcmpCC) (a b : Nat) : Bool × Fpx :=
  let va := f.decode a
  let vb := f.decode b
  let un := va.isNan || vb.isNan
  let quiet := nvOf [va, vb]
  match cc with
  | .eq => (!un && decide (f.cmpKey a = f.cmpKey b), quiet)
  | .ne => (un || decide (f.cmpKey a ≠ f.cmpKey b), quiet)
  | .lt => (!un && decide (f.cmpKey a < f.cmpKey b), fxIf un fxNV)
  | .le => (!un && decide (f.cmpKey a ≤ f.cmpKey b), fxIf un fxNV)
  | .un => (un, quiet)

/-- (−1)^s · m · 2^e to an integer: the integer and whether it is exact. -/
def toIntegral (md : FrndM) (s : Bool) (m : Nat) (e : Int) : Int × Bool :=
  if 0 ≤ e then (let v : Int := (m * 2 ^ e.toNat : Nat); (if s then -v else v, true)) else
  let d := 2 ^ (-e).toNat
  let exact := decide (m % d = 0)
  let up := m / d + (if exact then 0 else 1)
  let mag := match md with
    | .rn => rneShift m (-e).toNat
    | .rz => m / d
    | .rd => if s then up else m / d
    | .ru => if s then m / d else up
  (if s then -(mag : Int) else (mag : Int), exact)

/-- FRND (R130). -/
def FFmt.integral (f : FFmt) (md : FrndM) (code : Nat) : Nat × Fpx :=
  match f.decode code with
  | .nan q => (f.nan, fxIf q fxNV)
  | .inf _ => (code % 2 ^ f.width, 0)
  | .fin s m e =>
    if m = 0 then (code % 2 ^ f.width, 0)
    else ((f.round s (toIntegral md s m e).1.natAbs 0).1, 0)

/-! ### Conversions (R126 to R129, R265, R266) -/

/-- From one floating-point format to another: SC, one rounding, the table of R126, then CL. -/
def cvtFF (src dst : FFmt) (sc : BitVec 3) (cl : Clamp) (code : Nat) : Nat × Fpx :=
  match src.decode code with
  | .nan q =>
    (dst.clamp cl dst.nan, if dst.hasNan then fxIf q fxNV else fxNV)
  | .inf s =>
    if dst.hasInf then (dst.clamp cl (withSign dst s dst.inf), 0)
    else (dst.clamp cl (withSign dst s dst.maxCode), fxOF ||| fxNX)
  | .fin s m e => let r := dst.round s m (e + scOf sc); (dst.clamp cl r.1, r.2)

/-- m · 2^e compared with 2^(t/8): true when it is not below. -/
def geEighth (m : Nat) (e t : Int) : Bool :=
  let d := 8 * e - t
  if 0 ≤ d then decide (1 ≤ m ^ 8 * 2 ^ d.toNat) else decide (2 ^ (-d).toNat ≤ m ^ 8)
/-- m · 2^e = 2^(t/4). -/
def eqQuarter (m : Nat) (e t : Int) : Bool :=
  let d := 4 * e - t
  if 0 ≤ d then decide (m ^ 4 * 2 ^ d.toNat = 1) else decide (m ^ 4 = 2 ^ (-d).toNat)

/-- The clamps on an lns6 code (R266). -/
def lnsClamp (cl : Clamp) (nan : Bool) (code : Nat) : Nat :=
  let s := code / 32 = 1
  let m := code % 32
  match cl with
  | .none | .sat => code
  | .c01 => if nan || decide s then 0 else min m 16
  | .c11 => if nan then 0 else (if s then 32 else 0) + min m 16

/-- CVT.lns6.f32 (R127). -/
def cvtToLns (sc : BitVec 3) (cl : Clamp) (code : Nat) : Nat × Fpx :=
  match F32.decode code with
  | .nan _ => (lnsClamp cl true 0, fxNV)
  | .inf s => (lnsClamp cl false (if s then 63 else 31), fxOF ||| fxNX)
  | .fin s m e0 =>
    let e := e0 + scOf sc
    let sg := if s then 32 else 0
    if m = 0 then (lnsClamp cl false sg, 0)
    else if !geEighth m e (-32) then (lnsClamp cl false sg, fxUF ||| fxNX)
    else if geEighth m e 31 then (lnsClamp cl false (sg + 31), fxOF ||| fxNX)
    else
      let k := 1 + ((List.range 30).filter (fun (j : Nat) => geEighth m e (2 * ((j : Int) + 1 - 16) + 1))).length
      (lnsClamp cl false (sg + k), fxIf (!eqQuarter m e ((k : Int) - 16)) fxNX)

/-- The value of an lns6 code, as a jammed real (R107). -/
def lnsValue (code : Nat) : Ex :=
  let s := decide (code / 32 % 2 = 1)
  let m := code % 32
  if m = 0 then .num s 0 0
  else
    let t : Int := (m : Int) - 16
    let i := t / 4
    let r := (t % 4).toNat
    if r = 0 then .num s 1 i
    else .num s (2 * ((2 ^ (r + 800)).sqrt.sqrt) + 1) (i - 201)

/-- From an integer (R129). -/
def cvtFromInt (dst : FFmt) (sc : BitVec 3) (cl : Clamp) (v : Int) : Nat × Fpx :=
  let r := dst.round (decide (v < 0)) v.natAbs (scOf sc)
  (dst.clamp cl r.1, r.2)

/-- To a signed integer of w bits (R129). -/
def cvtToInt (src : FFmt) (w : Nat) (code : Nat) : Int × Fpx :=
  let hi : Int := 2 ^ (w - 1) - 1
  let lo : Int := -(2 ^ (w - 1))
  match src.decode code with
  | .nan _ => (0, fxNV)
  | .inf s => (if s then lo else hi, fxNV)
  | .fin s m e =>
    let r := toIntegral .rn s m e
    if r.1 > hi then (hi, fxNV) else if r.1 < lo then (lo, fxNV) else (r.1, fxIf (!r.2) fxNX)

/-! ### Operations by type -/

def FTy.fmt : FTy → FFmt | .f64 => F64 | .f32 => F32 | .f16x4 => F16 | .bf16x4 => BF16
def FTy.elems : FTy → Nat | .f64 | .f32 => 1 | .f16x4 | .bf16x4 => 4
def FP.fmt : FP → FFmt | .f64 => F64 | .f32 => F32

/-- Element j of w bits of a register (R108). -/
def elem (w j : Nat) (x : Nat) : Nat := x / 2 ^ (w * j) % 2 ^ w
/-- Elements packed from element 0 up. -/
def pack (w : Nat) : List Nat → Nat
  | [] => 0
  | x :: xs => x % 2 ^ w + 2 ^ w * pack w xs

/-- An element-wise operation on registers: the packed results and the OR of the flags (R131, R258). -/
def elementwise (w n : Nat) (op : Nat → Nat × Fpx) : W64 × Fpx :=
  let rs := (List.range n).map op
  (BitVec.ofNat 64 (pack w (rs.map (·.1))), rs.foldl (fun f r => f ||| r.2) 0)

/-- Canonical sum of two codes, rounded once (R234, R250, R269). -/
def FFmt.add (f : FFmt) (a b : Nat) : Nat × Fpx := (exAdd (f.decode a) (f.decode b)).finish f 0 .none

end Sys2Proof.Machine
end

