-- ==== Sys2Proof/Machine/Ops.lean ====
section
/-! DEFINITION. The named operations over the machine's parts: look-ups and updates, memory, translation and the
checks of an access, register files, fault records and parking, taking a trap and returning from one, queues,
waiters, and dependence counters. -/

namespace Sys2Proof.Machine

/-! ### Look-ups and updates -/

def Context.blank : Context :=
  { id := 0, root := 0, privBase := 0, pid := 0, vw := 0, bintm := 0x14, flov := 0, faultLog := none, stopped := false,
    thermal := false, debugger := false, dispatchQueues := [], copyQueues := [], budget := 0, staged := 0,
    samplePeriod := 0, sampleQueue := 0, sampleDrops := 0, samplers := [], shed := [0, 0, 0, 0], shedLines := [] }
def Launch.blank : Launch :=
  { id := 0, ctx := 0, entry := 0, n := 1, yards := 1, c := 1, regs := 256, scr := 0, accn := 0, gp := 0, stk := 0,
    z := 0x100000, karg := 0, dep := 0, prio := 0, conts := [], unplaced := [], queue := 0, node := none,
    gov := Gov.reset, gang := none }
def Ring.blank : Ring := { cfg := 0, head := 0, tail := 0, slots := [] }
/-- A pen at its creation: scratch and tiles zero, rings and remap slots disabled, registers at their resets
(R42, R176, R196, R254, R298, R305, R395). -/
def Pen.create (id launch vcore scsz accn : Nat) : Pen :=
  { id := id, launch := launch, vcore := vcore, core := none, saved := true, scratch := [], scsz := scsz, bad := [], tiles := [],
    accn := accn, spw := 0x400, gangMask := 0, gangSeq := 0, rtau := 0, thv := 0,
    remaps := List.replicate 4 ⟨0, 0⟩, rings := List.replicate 8 Ring.blank, last := [], hitch := [], engFail := false,
    placedAt := 0 }
def Task.blank : Task :=
  { id := 0, launch := 0, launchOwn := false, tdep := 0, cell := ⟨false, 0, 0⟩, karg := 0, prio := 0, decls := [],
    contEnd := false, killed := false, staged := 0, scrStaged := 0, begun := false, home := none, ran := false, jobs := [] }
def Group.blank : Group :=
  { id := 0, pen := 0, lanes := false, place := .saved, threads := [], run := none, stall := none, failFolds := [],
    slots := 0, yielded := false, savedAt := 0, placedAt := 0 }

def State.group (s : State) (g : Nat) : Group := (s.groups.find? (·.id == g)).getD Group.blank
def State.pen (s : State) (p : Nat) : Pen := (s.pens.find? (·.id == p)).getD (Pen.create 0 0 0 0 0)
def State.task (s : State) (t : Nat) : Task := (s.tasks.find? (·.id == t)).getD Task.blank
def State.launch (s : State) (l : Nat) : Launch := (s.launches.find? (·.id == l)).getD Launch.blank
def State.ctx (s : State) (c : Nat) : Context := (s.ctxs.find? (·.id == c)).getD Context.blank
def State.die (s : State) (d : Nat) : Die := s.dies.getD d Die.reset
def State.cell (s : State) (c : Nat) : Cell := s.cells.getD c Cell.reset

def State.updGroup (s : State) (g : Nat) (f : Group → Group) : State :=
  { s with groups := s.groups.map (fun x => if x.id == g then f x else x) }
def State.updPen (s : State) (p : Nat) (f : Pen → Pen) : State :=
  { s with pens := s.pens.map (fun x => if x.id == p then f x else x) }
def State.updTask (s : State) (t : Nat) (f : Task → Task) : State :=
  { s with tasks := s.tasks.map (fun x => if x.id == t then f x else x) }
def State.updLaunch (s : State) (l : Nat) (f : Launch → Launch) : State :=
  { s with launches := s.launches.map (fun x => if x.id == l then f x else x) }
def State.updCtx (s : State) (c : Nat) (f : Context → Context) : State :=
  { s with ctxs := s.ctxs.map (fun x => if x.id == c then f x else x) }
def State.updDie (s : State) (d : Nat) (f : Die → Die) : State := { s with dies := s.dies.modify d f }
def State.updCell (s : State) (c : Nat) (f : Cell → Cell) : State := { s with cells := s.cells.modify c f }
def State.updOp (s : State) (o : Nat) (f : EngOp → EngOp) : State :=
  { s with ops := s.ops.map (fun x => if x.id == o then f x else x) }

/-- Advance the counter from which free values, identifiers and tags are drawn (log 1, 17). -/
def State.bump (s : State) (k : Nat := 1) : State := { s with fresh := s.fresh + k }

def State.launchOf (s : State) (pen : Nat) : Launch := s.launch (s.pen pen).launch
def State.ctxOf (s : State) (pen : Nat) : Nat := (s.launchOf pen).ctx
/-- Core k of the package is core k mod 6 of yard (k / 6) mod 9 of die k / 54 (R3). -/
def dieOfCore (core : Nat) : Nat := core / 54
def State.penDie (s : State) (pen : Nat) : Nat := dieOfCore ((s.pen pen).core.getD 0)
/-- The arithmetic clock of the pen's die runs: it stops while it relocks (R433). -/
def State.clocked (s : State) (pen : Nat) : Bool := (s.die (s.penDie pen)).relock.isNone

/-- Reference time that timeouts count: forward steps of R424 are left out. -/
def State.clk (s : State) : Nat := s.now - s.stepped
/-- The cycle counter of a die (R418): it holds its value during a relock. Code q is (q + 8) · 100 MHz. -/
def State.cycles (s : State) (d : Nat) : Nat :=
  let x := s.die d
  if x.relock.isSome then x.cycles else x.cycles + (s.now - x.cycAt) * (x.code + 8) / 10

def insertBy {α : Type} (key : α → Nat) (x : α) : List α → List α
  | [] => [x]
  | y :: ys => if key x ≤ key y then x :: y :: ys else y :: insertBy key x ys
/-- Sort by a key. -/
def sortBy {α : Type} (key : α → Nat) (l : List α) : List α := l.foldr (insertBy key) []

/-! ### Memory: bytes in one canonical form -/

abbrev Memory := List Host.Cell

/-- Strictly rising addresses above `lo`, no zero byte. -/
def Memory.wfFrom : (lo : Nat) → List Host.Cell → Bool
  | _, [] => true
  | lo, (a, b) :: m => decide (lo ≤ a) && b != 0 && wfFrom (a + 1) m
/-- The canonical form: addresses strictly rise, and no entry is 0, which an unlisted address reads as (log 2). -/
def Memory.wf (m : List Host.Cell) : Bool := Memory.wfFrom 0 m

def Memory.get : List Host.Cell → Nat → Byte
  | [], _ => 0
  | (a, b) :: m, x => if x < a then 0 else if x = a then b else Memory.get m x

def Memory.set : List Host.Cell → Nat → Byte → List Host.Cell
  | [], x, v => if v = 0 then [] else [(x, v)]
  | (a, b) :: m, x, v =>
    if x < a then (if v = 0 then (a, b) :: m else (x, v) :: (a, b) :: m)
    else if x = a then (if v = 0 then m else (x, v) :: m)
    else (a, b) :: Memory.set m x v

/-- n bytes as a little-endian number (R8). -/
def Memory.load (m : List Host.Cell) (a : Nat) : (n : Nat) → Nat
  | 0 => 0
  | n + 1 => (Memory.get m a).toNat + 256 * Memory.load m (a + 1) n

def Memory.store (m : List Host.Cell) (a : Nat) : (n : Nat) → (v : Nat) → List Host.Cell
  | 0, _ => m
  | n + 1, v => Memory.store (Memory.set m a (BitVec.ofNat 8 v)) (a + 1) n (v / 256)

def setAssoc (l : List (Nat × Nat)) (k v : Nat) : List (Nat × Nat) := l.filter (·.1 != k) ++ [(k, v)]
/-- The context that a write in this step is made for: that of the group that issues, else the one for which the device acts;
0 for none: Turjo, the mailbox, and a store by another package, whose context R225 does not settle (DESIGN CHOICE, log 34). -/
def State.writer (s : State) : Nat := match s.cur with | some g => s.ctxOf (s.group g).pen | none => s.actor
/-- The device acts for a context. -/
def State.actFor (s : State) (c : Nat) (f : State → State) : State := { f { s with actor := c } with actor := s.actor }
/-- The lines that n bytes at pa touch were written last for a context (R225). -/
def noteWriter (l : List (Nat × Nat)) (pa n c : Nat) : List (Nat × Nat) :=
  if pa / 128 = (pa + n - 1) / 128 then setAssoc l (pa / 128) c else setAssoc (setAssoc l (pa / 128) c) ((pa + n - 1) / 128) c

def State.readLoc (s : State) (l : Loc) (n : Nat) : Nat :=
  match l with
  | .phys pa => Memory.load s.mem pa n
  | .scr p off => Memory.load (s.pen p).scratch off n
def State.writeLoc (s : State) (l : Loc) (n v : Nat) : State :=
  match l with
  | .phys pa => { s with mem := Memory.store s.mem pa n v, writers := noteWriter s.writers pa n s.writer }
  | .scr p off => s.updPen p (fun x => { x with scratch := Memory.store x.scratch off n v })

/-- The configuration record in use (R429). -/
def State.cfgRec (s : State) : CfgRec := (s.cfg.getD s.cfgUse ⟨CfgRec.factory, none⟩).rec'
/-- The package's number in the domain: CFG.PKG of the record (R424). -/
def State.pkg (s : State) : Nat := s.cfgRec.pkg.toNat

/-- A physical address that exists (R197). -/
def State.paExists (s : State) (pa : Nat) : Bool :=
  decide (pa % 2 ^ 46 < Config.localLimit) && (decide (pa / 2 ^ 46 = s.pkg) || s.domain.contains (pa / 2 ^ 46))
/-- A line lies in a channel group that has failed beyond ECC symbol correction (R431). -/
def State.lineDead (s : State) (line : Nat) : Bool := s.units.deadGroups.any (· == Config.lineGroup line)
/-- Every line of [pa, pa + n) exists and is sound (R223, R226, R431). -/
def State.sound (s : State) (pa n : Nat) : Bool :=
  s.paExists pa && s.paExists (pa + n - 1)
    && !(s.poison.any (fun l => decide (pa / 128 ≤ l ∧ l ≤ (pa + n - 1) / 128)))
    && (s.units.deadGroups.isEmpty || !((List.range ((pa + n - 1) / 128 - pa / 128 + 1)).any (fun k => s.lineDead (pa / 128 + k))))
/-- Every line of [off, off + n) of a pen's scratch is sound (R166, R223). -/
def Pen.sound (p : Pen) (off n : Nat) : Bool := !(p.bad.any (fun l => decide (off / 128 ≤ l ∧ l ≤ (off + n - 1) / 128)))

/-! ### Translation (R200 to R202, R204) -/

structure Leaf where
  pa : Nat
  size : Nat
  r : Bool
  w : Bool
  x : Bool
  d2 : Bool
  deriving DecidableEq, Repr

/-- One entry read at a level: a leaf, the next table, or XLATE (R201). -/
def entryAt (level : Nat) (e : W64) (va : Nat) : Option (Leaf ⊕ Nat) :=
  if !isSet e 0 || bits e 63 52 != 0 || bits e 7 6 != 0 then none else
  let addr := (bits e 51 8).toNat * 256
  if isSet e 1 then
    let size := match level with | 2 => 2 ^ 30 | 1 => 2 ^ 21 | _ => 2 ^ 16
    if level = 3 ∨ addr % size ≠ 0 then none
    else some (.inl { pa := addr + va % size, size := size, r := isSet e 2, w := isSet e 3, x := isSet e 4, d2 := isSet e 5 })
  else
    let align := match level with | 3 => 2 ^ 16 | 2 => 2 ^ 12 | _ => 2 ^ 8
    if level = 0 ∨ bits e 5 2 != 0 ∨ addr % align ≠ 0 then none else some (.inr addr)

/-- The walk from a table at a level, with `rd` reading a table entry (R200). -/
def walk (rd : Nat → W64) : (level : Nat) → (table va : Nat) → Option Leaf
  | level, table, va =>
    let idx := match level with
      | 3 => va / 2 ^ 43 % 2 ^ 13
      | 2 => va / 2 ^ 30 % 2 ^ 13
      | 1 => va / 2 ^ 21 % 2 ^ 9
      | _ => va / 2 ^ 16 % 2 ^ 5
    match entryAt level (rd (table + 8 * idx)) va with
    | some (.inl leaf) => some leaf
    | some (.inr next) =>
      match level with
      | 0 => none
      | l + 1 => walk rd l next va
    | none => none

def State.tableWord (s : State) (pa : Nat) : W64 :=
  if s.paExists pa then BitVec.ofNat 64 (Memory.load s.mem pa 8) else 0
/-- The entry as it stood before a sequence of edits: the first of them to touch it says (R204). -/
def State.oldTableWord (s : State) (edits : List Shoot) (pa : Nat) : W64 :=
  match edits.findSome? (fun h => h.old.find? (·.pa == pa)) with
  | some o => o.value
  | none => s.tableWord pa

/-- Translation by the context's tables; an access may still use the translation from before any of the edits that no later
shoot-down has completed (R204): a free choice, one for each address in each step. -/
def State.translate (s : State) (c : Nat) (va : W64) : Option Leaf :=
  let root := (s.ctx c).root
  let v := va.toNat
  if 2 ^ 56 ≤ v then none else
  let edits := s.shoots.filter (fun h => h.ctx == c && h.logAt.isNone && decide (h.lo.toNat ≤ v ∧ v < h.hi.toNat))
  if edits.isEmpty then walk s.tableWord 3 root v
  else walk (s.oldTableWord (edits.drop (Config.freeKey s.draw v % (edits.length + 1)))) 3 root v

/-! ### Faults found by an access -/

/-- A cause with the record's VA, AUX and ACC (R383, R391, R392), and the location that a range lock covers (R394). -/
structure FaultInfo where
  cause : Nat
  va : W64
  aux : W64
  acc : Nat
  loc : Option Loc
  deriving DecidableEq, Repr

abbrev cILLOP : Nat := 0x01
abbrev cILLFMT : Nat := 0x02
abbrev cPRIV : Nat := 0x03
abbrev cALIGN : Nat := 0x04
abbrev cXLATE : Nat := 0x05
abbrev cPERM : Nat := 0x06
abbrev cSTACKGROW : Nat := 0x07
abbrev cRLOCK : Nat := 0x08
abbrev cMEMERR : Nat := 0x09
abbrev cGANGTO : Nat := 0x0A
abbrev cTRAP : Nat := 0x0B
abbrev cASSERT : Nat := 0x0C
abbrev cBRK : Nat := 0x0D
abbrev cDEPUNDER : Nat := 0x20
abbrev cPARTIAL : Nat := 0x21
abbrev cLAUNCH : Nat := 0x22
abbrev cGLFAIL : Nat := 0x23

def plainFault (cause : Nat) : FaultInfo := ⟨cause, 0, 0, 0, none⟩
def illfmt : FaultInfo := plainFault cILLFMT

/-- The order of causes within one index (R384). -/
def FaultInfo.rank (f : FaultInfo) : Nat :=
  if f.cause ≤ cPRIV then f.cause else if f.cause = cALIGN then 4 else if f.cause = cXLATE then 5 else if f.cause = cPERM then 6
  else if f.cause = cSTACKGROW then 7 else if f.cause = cRLOCK then 8 else 9
/-- Of several accesses of one index, the cause that comes first in the order of R384, and among equals the first access. -/
def firstCause {α : Type} (rs : List (Except FaultInfo α)) : Except FaultInfo Unit :=
  match rs.foldl (fun (b : Option FaultInfo) r => match r, b with
      | .error f, some g => if f.rank < g.rank then some f else some g
      | .error f, none => some f
      | .ok _, _ => b) none with
  | some f => .error f
  | none => .ok ()

/-- A kind of access: the permissions it needs, whether it writes and whether it consults the Range-Lock Table, and
FR.ACC (R202, R207, R215, R391). -/
structure AccKind where
  r : Bool
  w : Bool
  x : Bool
  writes : Bool
  lock : Bool
  acc : Nat
  deriving DecidableEq, Repr

def accRead : AccKind := ⟨true, false, false, false, true, 1⟩
def accWrite : AccKind := ⟨false, true, false, true, true, 2⟩
def accRmw : AccKind := ⟨true, true, false, true, true, 3⟩
/-- WAITA's read: R and W, a read for the table (R202, R237). -/
def accWaita : AccKind := ⟨true, true, false, false, true, 1⟩
def accFetch : AccKind := ⟨false, false, true, false, true, 4⟩
/-- The same access made by the device itself: no range covers it (R442). -/
def AccKind.device (k : AccKind) : AccKind := { k with lock := false }

/-- Ranges registered in the Range-Lock Table (R213, R214). -/
def State.rangesInUse (s : State) : Nat := (s.ops.map (fun o => (o.ranges.filter (fun r => !r.more)).length)).sum

/-- An access of n bytes at a location meets a registered range (R215), or a slot that a copy holds (R344). -/
def State.locked (s : State) (l : Loc) (n : Nat) (writes : Bool) : Bool :=
  let (pen, a) := match l with | .phys pa => (none, pa) | .scr p off => (some p, off)
  s.ops.any (fun o => o.ranges.any (fun r =>
    r.pen == pen && (r.dst || writes) && decide (r.lo ≤ (a + n - 1) / 128 ∧ a / 128 < r.hi)))
  || match l with
     | .phys _ => false
     | .scr p off => (s.pen p).rings.any (fun q =>
         let base := (bits q.cfg 20 0).toNat
         let sz := 2 ^ (bits q.cfg 27 24).toNat
         (List.range q.slots.length).any (fun k =>
           match q.slots.getD k .free with
           | .engine _ => decide (base + k * sz < off + n ∧ off < base + (k + 1) * sz)
           | _ => false))

/-- Translation and permission of a virtual address (R202). -/
def State.permitted (s : State) (c : Nat) (va : W64) (k : AccKind) : Except FaultInfo Nat :=
  match s.translate c va with
  | none => .error ⟨cXLATE, va, 0, k.acc, none⟩
  | some leaf => if (k.r && !leaf.r) || (k.w && !leaf.w) || (k.x && !leaf.x) then .error ⟨cPERM, va, 0, k.acc, none⟩ else .ok leaf.pa
/-- Checks of a virtual address in global space, in the order of R384: translation, permission, range lock, memory
error. -/
def State.globalLoc (s : State) (c : Nat) (va : W64) (n : Nat) (k : AccKind) : Except FaultInfo Loc :=
  match s.translate c va with
  | none => .error ⟨cXLATE, va, 0, k.acc, none⟩
  | some leaf =>
    if (k.r && !leaf.r) || (k.w && !leaf.w) || (k.x && !leaf.x) then .error ⟨cPERM, va, 0, k.acc, none⟩
    else if k.lock && s.locked (.phys leaf.pa) n k.writes then .error ⟨cRLOCK, va, 0, k.acc, some (.phys leaf.pa)⟩
    else if !s.sound leaf.pa n then .error ⟨cMEMERR, va, BitVec.ofNat 64 (leaf.pa / 128 * 128), k.acc, none⟩
    else .ok (.phys leaf.pa)

/-- Stack of index i in the private region: [S + i·Z, S + (i + 1)·Z) (R189). -/
def Launch.stackTop (l : Launch) (i : Nat) : Nat := l.stk.toNat + (i + 1) * l.z

/-- The test of R206: the bytes lie in the index's own stack, below its mapped depth. -/
def stackGrows (l : Launch) (i : Nat) (hwm : BitVec 40) (x n : Nat) : Bool :=
  let top := l.stackTop i
  decide (top - l.z ≤ x ∧ x + n ≤ top ∧ x + hwm.toNat < top)

/-- The checks of an access of n bytes in the scratch of a pen, at an aligned offset (R166, R384). An uncorrectable error
there has no physical address: FR.AUX is 0 (log 74). -/
def State.scratchLoc (s : State) (pen off n : Nat) (ea : W64) (k : AccKind) : Except FaultInfo Loc :=
  if (s.pen pen).scsz < off + n then .error ⟨cPERM, ea, 0, k.acc, none⟩
  else if k.lock && s.locked (.scr pen off) n k.writes then .error ⟨cRLOCK, ea, 0, k.acc, some (.scr pen off)⟩
  else if !(s.pen pen).sound off n then .error ⟨cMEMERR, ea, 0, k.acc, none⟩
  else .ok (.scr pen off)

/-- The checks of one access of n bytes at an effective address, for index i of a thread of a launch (R166, R168, R384,
R392). -/
def State.accessOf (s : State) (l : Launch) (pen i : Nat) (hwm : BitVec 40) (sp : Space) (ea : W64) (n : Nat) (k : AccKind)
    (align : Nat) : Except FaultInfo Loc :=
  let c := s.ctxOf pen
  match sp with
  | .global =>
    if ea.toNat % align ≠ 0 then .error ⟨cALIGN, ea, 0, k.acc, none⟩ else s.globalLoc c ea n k
  | .scratch =>
    if ea.toNat % align ≠ 0 then .error ⟨cALIGN, ea, 0, k.acc, none⟩ else s.scratchLoc pen ea.toNat n ea k
  | .priv =>
    let va := (s.ctx c).privBase + ea
    if ea.toNat % align ≠ 0 then .error ⟨cALIGN, va, 0, k.acc, none⟩
    else if 2 ^ 40 ≤ ea.toNat then .error ⟨cXLATE, va, 0, k.acc, none⟩
    else if stackGrows l i hwm ea.toNat n then .error ⟨cSTACKGROW, va, 0, k.acc, none⟩
    else s.globalLoc c va n k
/-- The same for a thread of the pen's own launch. -/
def State.access (s : State) (pen i : Nat) (hwm : BitVec 40) (sp : Space) (ea : W64) (n : Nat) (k : AccKind)
    (align : Nat := n) : Except FaultInfo Loc := s.accessOf (s.launchOf pen) pen i hwm sp ea n k align

/-- Scratch of a member of the yard team (R173, R243): member in bits 23:21, offset in bits 20:0. FR.VA of a fault is the whole
address, member number included: DESIGN CHOICE (log 78). -/
def State.teamLoc (s : State) (pen : Nat) (ea : W64) (n : Nat) (k : AccKind) : Except FaultInfo Loc :=
  let p := s.pen pen
  let l := s.launchOf pen
  let m := (bits ea 23 21).toNat
  let off := (bits ea 20 0).toNat
  let vy := p.vcore / l.c
  if ea.toNat % n ≠ 0 then .error ⟨cALIGN, ea, 0, k.acc, none⟩
  else if ea.toNat / 2 ^ 24 ≠ 0 then .error ⟨cPERM, ea, 0, k.acc, none⟩
  else
    match s.pens.find? (fun q => q.launch == p.launch && q.vcore / l.c == vy && q.vcore % l.c == m) with
    | none => .error ⟨cPERM, ea, 0, k.acc, none⟩
    | some q => s.scratchLoc q.id off n ea k

/-! ### Register files and forms -/

/-- A form from a base and a step: step 0 is held as U (R15). -/
def Form.mk (b st : W64) : Form := if st = 0 then .u b else .a b st
/-- The value at offset k of the range (R15). -/
def Form.val (f : Form) (k : Nat) : W64 :=
  match f with
  | .u v => v
  | .a b s => b + s * BitVec.ofNat 64 k
def Form.isA : Form → Bool | .u _ => false | .a _ _ => true
/-- The form seen from a piece that starts k indices later (R21, R35). -/
def Form.shift (f : Form) (k : Nat) : Form :=
  match f with
  | .u v => .u v
  | .a b s => .a (b + s * BitVec.ofNat 64 k) s

def cellGet : List (Nat × Form) → Nat → Option Form
  | [], _ => none
  | (k, f) :: r, x => if k = x then some f else cellGet r x
def cellSet : List (Nat × Form) → Nat → Form → List (Nat × Form)
  | [], x, v => [(x, v)]
  | (k, f) :: r, x, v =>
    if x < k then (x, v) :: (k, f) :: r else if x = k then (x, v) :: r else (k, f) :: cellSet r x v

/-- A register file whose contents are unpredictable, of draw `seed`. -/
def RegFile.free (seed : Nat) : RegFile := { fill := seed, cells := [] }
/-- The form of a register. R10 lets each index of an unpredictable register hold any pattern; the model holds one free
value for every index of a strand, in U form (log 73). -/
def RegFile.get (r : RegFile) (k : Nat) : Form :=
  match cellGet r.cells k with
  | some f => f
  | none => if r.fill = 0 then .u 0 else .u (Config.freeReg r.fill k)
/-- A write, which is the last in time: a result that came earlier is gone (R68). -/
def RegFile.set (r : RegFile) (k : Nat) (f : Form) : RegFile :=
  { r with cells := cellSet r.cells k f, late := r.late.filter (fun p => p.1 != k) }
def RegFile.map (r : RegFile) (g : Form → Form) : RegFile :=
  { r with cells := r.cells.map (fun p => (p.1, g p.2)), late := r.late.map (fun p => (p.1, g p.2.1, p.2.2)) }
/-- The flags under which the value that a register holds cannot be read yet (R68). -/
def RegFile.lateKeys (r : RegFile) (k : Nat) : List Nat := (r.late.filter (fun p => p.1 == k)).map (fun p => p.2.2)
/-- What a register holds, readable or not (R40, R68). -/
def RegFile.held (r : RegFile) (k : Nat) : Form :=
  match r.late.find? (fun p => p.1 == k) with | some p => p.2.1 | none => r.get k
/-- A result is written; a read of it stays unpredictable until each of the flags has cleared (R68). -/
def RegFile.land (r : RegFile) (k : Nat) (f : Form) (flags : List Nat) (seed : Nat) : RegFile :=
  if flags.isEmpty then r.set k f else
  let r1 := r.set k (.u (Config.freeReg seed k))
  { r1 with late := r1.late ++ flags.map (fun n => (k, f, n)) }
/-- The flag has cleared: the results that were written under it, and under no other, can be read. -/
def RegFile.settle (r : RegFile) (flag : Nat) : RegFile :=
  (r.late.filter (fun p => p.2.2 == flag)).foldl (fun x p => if x.late.any (fun q => q.1 == p.1) then x else x.set p.1 p.2.1)
    { r with late := r.late.filter (fun p => p.2.2 != flag) }

/-- The key of a g or o operand. -/
def Opd.key (o : Opd) : Nat := if o.file == .o then 256 + o.idx.toNat else o.idx.toNat

def Hist.get (h : Hist) (k : Nat) : Form := h.items.getD k (.u (Config.freeReg h.seed (512 + k)))
def Hist.push (h : Hist) (f : Form) : Hist := { h with items := (f :: h.items).take 4 }
def Hist.fresh (seed : Nat) : Hist := ⟨seed, []⟩

/-- Write a destination: the register, or nothing for history only (R72). -/
def Thread.write (t : Thread) (d : Opd) (f : Form) : Thread :=
  if d.file == .special then t else { t with regs := t.regs.set (Opd.key d) f }
/-- Write the result of a short-latency instruction: the register and the history (R69). -/
def Thread.result (t : Thread) (d : Opd) (f : Form) : Thread := { t.write d f with hist := t.hist.push f }
/-- The destination's present value, kept in history where the guard is false (R70). -/
def Thread.skipped (t : Thread) (d : Opd) (seed : Nat) : Thread :=
  let f := if d.file == .special then .u (Config.freeReg seed 520) else t.regs.get (Opd.key d)
  { t with hist := t.hist.push f }
def Thread.orFpx (t : Thread) (f : Fpx) : Thread := { t with fpx := t.fpx ||| f }

/-! ### Fields of $epc and $ecause (R396, R397) -/

def Thread.ih (t : Thread) : Bool := isSet t.ecause 8
def mkEcause (code : W32) (sdep pdep : Nat) : W64 :=
  code ++ (0 : BitVec 12) ++ BitVec.ofNat 3 sdep ++ BitVec.ofNat 5 pdep ++ (0 : BitVec 3) ++ (1 : BitVec 1) ++ (0x0B : BitVec 8)
/-- $epc from a resume point: HDR in bit 63, ADDR in bits 55:0. -/
def mkEpc (hdr : Bool) (addr : W64) : W64 := bit1 hdr ++ (0 : BitVec 7) ++ bits addr 55 0
def epcAddr (e : W64) : W64 := (bits e 55 0).zeroExtend 64

/-! ### Updates of threads -/

def Group.mapLanes (g : Group) (ls : List Nat) (f : Thread → Thread) : Group :=
  { g with threads := g.threads.map (fun t => if ls.contains t.lane then f t else t) }
def State.updThread (s : State) (g lane : Nat) (f : Thread → Thread) : State :=
  s.updGroup g (fun x => x.mapLanes [lane] f)
def State.mapThreads (s : State) (f : Group → Thread → Thread) : State :=
  { s with groups := s.groups.map (fun g => { g with threads := g.threads.map (f g) }) }
def Group.thread (g : Group) (lane : Nat) : Option Thread := g.threads.find? (·.lane == lane)
/-- FR.SLOT and JN.SLOT: strand slot, or 32 + lane row. -/
def Group.slotNum (g : Group) : Nat :=
  match g.place with | .slot k => k | .row k => 32 + k | _ => 0
def Group.resident (g : Group) (s : State) : Bool :=
  match g.place with | .slot _ | .row _ => !(s.pen g.pen).saved | _ => false

/-- What makes a read of an operation's results unpredictable: the flag that it names, or itself where it names none. -/
def Pend.key (p : Pend) : Nat := if p.flag < 12 then p.flag else 16 + p.op
/-- The results of an operation as a strand's registers take them: where not every index owes them, no form says what the
register holds (log 95). -/
def Pend.forms (p : Pend) (ws : List (Nat × Form)) : List (Nat × Form) :=
  match p.mixed with
  | none => ws
  | some seed => ws.map (fun w => (w.1, .u (Config.freeReg seed (1024 + w.1))))
/-- The flags under which register k cannot be read once a result is written there: those of operations in flight that
name it too, those under which an earlier result stands (R68). -/
def lateFlags (r : RegFile) (inFlight : List Pend) (own : List Nat) (k : Nat) : List Nat :=
  (own ++ (inFlight.filter (fun q => q.writes.any (fun w => w.1 == k))).map Pend.key ++ r.lateKeys k).dedup
/-- Deliver the results of a long-latency operation: registers, $fpx, and the flag when no other operation of the
thread names it; until then, and while another flag names a destination, a read of it stays unpredictable (R66 to R68,
R230). -/
def Thread.deliver (t : Thread) (op : Nat) (ws : List (Nat × Form)) : Thread :=
  match t.pend.find? (·.op == op) with
  | none => t
  | some p =>
    let rest := t.pend.filter (·.op != op)
    let shared := decide (p.flag < 12) && rest.any (·.flag == p.flag)
    let regs := (p.forms ws).foldl (fun r w => r.land w.1 w.2 (lateFlags r rest (if shared then [p.flag] else []) w.1) op) t.regs
    let t1 := { t with pend := rest, fpx := t.fpx ||| p.fpx }
    if shared then { t1 with regs := regs }
    else { t1 with regs := regs.settle p.key
                   flags := if p.flag < 12 then t.flags &&& ~~~(BitVec.ofNat 12 (2 ^ p.flag)) else t.flags }

/-! ### Queue headers and slots (R325, R366) -/

structure QHead where
  tcnt : W32
  thead : W32
  modeH : Bool
  lsize : Nat
  read : W64
  write : W64
  deriving DecidableEq, Repr

/-- The header checks of R366; none raises ILLFMT. -/
def qHead (w : BitVec 512) : Option QHead :=
  let ls := (bits w 132 128).toNat
  if bits w 511 224 != 0 || bits w 159 136 != 0 || bits w 134 133 == 3 || decide (ls < 6) || decide (20 < ls) then none
  else some { tcnt := bits w 223 192, thead := bits w 191 160, modeH := isSet w 135, lsize := ls,
              read := bits w 127 64, write := bits w 63 0 }

structure QView where
  /-- Where the header lies, and the slots of the write and read index. -/
  pa : Loc
  h : QHead
  wslot : Loc
  rslot : Loc
  deriving DecidableEq, Repr

/-- Check a queue header and the slot in reach, for a thread or for the device (R366, R202, R384). `push` tells which slot
the access names. A header that cannot be read is not checked, and names no slot; one that can is checked before the
permissions, as ILLFMT comes before PERM (log 75). -/
def State.queue (s : State) (c : Nat) (a : W64) (push : Bool) (k : AccKind) : Except FaultInfo QView := do
  if a.toNat % 64 ≠ 0 then throw ⟨cALIGN, a, 0, k.acc, none⟩
  let pa ← (match s.translate c a with
    | some leaf => if s.sound leaf.pa 64 then .ok (Loc.phys leaf.pa) else s.globalLoc c a 64 k
    | none => .error ⟨cXLATE, a, 0, k.acc, none⟩)
  let some h := qHead (BitVec.ofNat 512 (s.readLoc pa 64)) | throw illfmt
  let slot := fun (x : W64) => a + 64 + 64 * BitVec.ofNat 64 (x.toNat % 2 ^ h.lsize)
  firstCause [s.globalLoc c a 64 k, s.globalLoc c (slot (if push then h.write else h.read)) 64 k]
  let w ← if push then s.globalLoc c (slot h.write) 64 k else pure pa
  let r ← if push then pure pa else s.globalLoc c (slot h.read) 64 k
  return { pa := pa, h := h, wslot := w, rslot := r }

def QHead.empty (h : QHead) : Bool := h.write == h.read
/-- No push fits: QH.WRITE − QH.READ is not below 2^LSIZE (R366). -/
def QHead.full (h : QHead) : Bool := decide (2 ^ h.lsize ≤ (h.write - h.read).toNat)

def locPa : Loc → Nat | .phys pa => pa | .scr _ o => o

/-- Set the write and read indices. -/
def State.setIdx (s : State) (q : QView) (w r : W64) : State :=
  (s.writeLoc q.pa 8 w.toNat).writeLoc (.phys (locPa q.pa + 8)) 8 r.toNat

/-- The tether list of a header (R325). -/
def State.tetherAt (s : State) (pa : Nat) : Option Tether := s.tethers.find? (·.pa == pa)
/-- Change a tether list, and write QH.THEAD and QH.TCNT, unless their line holds an uncorrectable error (R223). A waiter's handle
in QH.THEAD is the identifier of its group: R325 does not say what it is where the waiter is not parked (DESIGN CHOICE, log 17). -/
def State.setTether (s : State) (t : Tether) : State :=
  let others := s.tethers.filter (·.pa != t.pa)
  let s1 := { s with tethers := if t.waiters.isEmpty then others else others ++ [t] }
  let hd := match t.waiters with | [] => 0 | w :: _ => w.gid
  if s1.sound t.pa 64 then (s1.writeLoc (.phys (t.pa + 20)) 4 hd).writeLoc (.phys (t.pa + 24)) 4 t.waiters.length else s1

/-- A new ready member (R334). -/
def State.addMember (s : State) (k : MemberKind) (prio : Nat) : State :=
  { s.bump with members := s.members ++ [⟨s.fresh, k, prio, s.clk, 0, false⟩] }
/-- The threads of a group that have not exited. -/
def Group.alive (g : Group) : List Thread := g.threads.filter (fun t => t.status != .exited)
/-- The priority of a group: the highest of its threads' tasks (R334). -/
def State.groupPrio (s : State) (g : Group) : Nat := (g.alive.map (fun t => (s.task t.task).prio)).foldl max 0
/-- A tethered group becomes a ready member (R333, R337). -/
def State.readyGroup (s : State) (gid : Nat) : State :=
  let g := s.group gid
  if g.place == .tether then
    (s.updGroup gid (fun x => { x with place := .saved })).addMember (.group gid false) (s.groupPrio g)
  else s

/-- The packet's eight registers into the block of a waiting QPOP (R333, R367). -/
def pktForms (pkt : BitVec 512) : List Form :=
  (List.range 8).map (fun k => .u (BitVec.ofNat 64 (pkt.toNat / 2 ^ (64 * k) % 2 ^ 64)))
/-- A thread goes on past the word at which it waited, the first of its clause: at the second, or at the next clause where there
is none. The hint of YLD at the end of a clause that is one such word is not followed, which R64 allows (log 4). -/
def Thread.goOn (t : Thread) : Thread :=
  let a := t.hdr + 16
  if t.kept.map (fun f => f.words.length) = some 1 then { t with status := .ready, pc := a, hdr := a, kept := none }
  else { t with status := .resume, pc := a }
/-- A thread that stops at such a word after all, to execute it again: it stands there by the word's own address, and in Dzinum-2
code, which has no headers, by that alone (R98, R101, R389). -/
def Thread.atFirst (t : Thread) : Thread :=
  let a := t.hdr + 8
  { t with pc := a, hdr := if t.kept.any Fetched.dz2 then a else t.hdr, kept := none }
/-- A continuing thread after its wait at the first instruction of its clause: D, history, the next word. -/
def Thread.resumeWith (t : Thread) (d : Opd) (v : W64) : Thread := (t.result d (.u v)).goOn

/-- The packet of a QPOP reaches every thread that it is owed to (R331, R367). -/
def Thread.takePkt (t : Thread) (op : Nat) (pkt : BitVec 512) : Thread :=
  match t.pend.find? (fun p => p.op == op && p.queue.isSome) with
  | none => t
  | some p => t.deliver op ((p.writes.map (·.1)).zip (pktForms pkt))
/-- A QPOP gets its packet: every thread that is owed it, and the records that wait for the operation (R53, R367); of a thread
that has ended it is discarded (R157). -/
def State.popDone (s : State) (op : Nat) (pkt : BitVec 512) : State :=
  { s.mapThreads (fun _ th => th.takePkt op pkt) with
    conts := s.conts.map (fun k => { k with ops := k.ops.filter (· != op), pops := k.pops.filter (fun p => p.1 != op) })
    lostPops := s.lostPops.map (fun (p : LostPop) => if p.op == op then { p with done := true } else p) }
/-- A thread waits for the packet of a QPOP. -/
def Thread.owesPop (t : Thread) (op : Nat) : Bool := t.pend.any (fun p => p.op == op && p.queue.isSome)
/-- A thread, or a record of one that has retired, still waits for the packet of a QPOP, or one that has ended had issued it
(R53, R157, R331, R404). -/
def State.owedPop (s : State) (op : Nat) : Bool :=
  s.groups.any (fun g => g.threads.any (Thread.owesPop · op)) || s.conts.any (fun k => k.pops.any (fun p => p.1 == op))
    || s.lostPops.any (fun p => p.op == op && !p.done)
/-- The QPOPs that an ending thread of a pen has in flight, which no end of a thread loses (R157, R363, R404; log 48). -/
def State.leavePops (s : State) (pen : Nat) (t : Thread) : State :=
  { s with lostPops := s.lostPops ++ t.pend.filterMap (fun p => p.queue.map (fun a => (⟨p.op, s.ctxOf pen, pen, a, false⟩ : LostPop))) }
/-- A packet is handed to the oldest popping waiter: its QPOP gets it in every thread that is owed it, and every group that
was descheduled for it becomes ready. A waiter whose operation is gone has left the list (R333). -/
def State.handPop (s : State) (t : Tether) (pkt : BitVec 512) : State :=
  match t.waiters.dropWhile (fun w => !s.owedPop w.op) with
  | [] => s.setTether { t with waiters := [] }
  | w :: rest =>
    let gs := s.groups.filter (fun g => g.threads.any (Thread.owesPop · w.op))
    gs.foldl (fun x g => x.readyGroup g.id) ((s.popDone w.op pkt).setTether { t with waiters := rest })

/-- Place a packet at QH.WRITE (R221, R366): the index given, or none when the queue is full. -/
def State.pushTo (s : State) (q : QView) (pkt : BitVec 512) : Option (State × W64) :=
  let poppers := if q.h.modeH then (s.tetherAt (locPa q.pa)).filter (fun t => !t.pushing && t.waiters.any (fun w => s.owedPop w.op)) else none
  match poppers with
  | some t =>
    let s1 := (s.writeLoc q.wslot 64 pkt.toNat).setIdx q (q.h.write + 1) (q.h.read + 1)
    some (s1.handPop t pkt, q.h.write)
  | none =>
    if q.h.full then none
    else some ((s.writeLoc q.wslot 64 pkt.toNat).setIdx q (q.h.write + 1) q.h.read, q.h.write)

/-- The thread of a waiter stands at a QPUSH. -/
def State.pushing (s : State) (w : Waiter) : Bool :=
  match (s.group w.gid).thread w.lane with | some t => (match t.status with | .push _ _ _ => true | _ => false) | none => false
/-- Take the packet at QH.READ, and place that of the oldest pushing waiter (R333, R367). -/
def State.popFrom (s : State) (c : Nat) (a : W64) (q : QView) : Option (State × BitVec 512) :=
  if q.h.empty then none else
  let pkt := BitVec.ofNat 512 (s.readLoc q.rslot 64)
  let s1 := s.setIdx q q.h.write (q.h.read + 1)
  let pushers := if q.h.modeH then (s.tetherAt (locPa q.pa)).filter (·.pushing) else none
  match pushers with
  | none => some (s1, pkt)
  | some t =>
    -- a waiter whose thread no longer stands at its QPUSH has left the list
    match t.waiters.dropWhile (fun w => !s.pushing w) with
    | [] => some (s1.setTether { t with waiters := [] }, pkt)
    | w :: rest =>
      match (s.group w.gid).thread w.lane with
      | some { status := .push _ p d, .. } =>
        match s1.queue c a true accRmw.device with
        | .error _ => some (s1, pkt)
        | .ok q2 =>
          let s2 := (s1.writeLoc q2.wslot 64 p.toNat).setIdx q2 (q2.h.write + 1) q2.h.read
          let s3 := s2.updThread w.gid w.lane (fun th => th.resumeWith d q2.h.write)
          some ((s3.setTether { t with waiters := rest }).readyGroup w.gid, pkt)
      | _ => some (s1, pkt)

/-! ### Fault records (R390 to R392) -/

/-- A fault record, field by field from the top (R391). -/
def mkRecord (va aux lmask : W64) (pc : W64) (slot handle ctx launch first npm1 time vcore lane acc kind : Nat)
    (dbl : Bool) (cause : Nat) : BitVec 512 :=
  va ++ aux ++ lmask ++ bits pc 55 0 ++ BitVec.ofNat 8 slot ++ BitVec.ofNat 32 handle ++ BitVec.ofNat 32 ctx
    ++ BitVec.ofNat 32 launch ++ BitVec.ofNat 32 first ++ BitVec.ofNat 32 npm1 ++ BitVec.ofNat 48 time
    ++ BitVec.ofNat 16 vcore ++ BitVec.ofNat 8 lane ++ BitVec.ofNat 4 acc ++ BitVec.ofNat 4 kind ++ (0 : BitVec 7)
    ++ bit1 dbl ++ BitVec.ofNat 8 cause

/-- Append a record to the context's fault log, or to Turjo's device error log with $flov counted (R390). -/
def State.logRecord (s : State) (c : Nat) (r : BitVec 512) : State :=
  let fail := { s.updCtx c (fun x => { x with flov := x.flov + 1 }) with errLog := s.errLog ++ [r] }
  match (s.ctx c).faultLog with
  | none => fail
  | some a =>
    match s.queue c a true accRmw.device with
    | .error _ => fail
    | .ok q => s.actFor c (fun x => match x.pushTo q r with | some (s1, _) => s1 | none => fail)

/-- A record that names no thread: FR.KIND 3 (R391), or an engine operation: FR.KIND 2. -/
def State.logPlain (s : State) (c launch : Nat) (va aux : W64) (cause acc : Nat) (kind : Nat := 3) : State :=
  s.logRecord c (mkRecord va aux 0 0 0 0 c launch 0 0 s.now 0 0 acc kind false cause)

/-! ### Write-backs (R225) -/

/-- A lost-data record (R225). -/
def lostRecord (line ctx die : Nat) (shed : Bool) (now : Nat) : BitVec 512 :=
  BitVec.ofNat 64 (128 * line) ++ BitVec.ofNat 32 ctx ++ BitVec.ofNat 4 die ++ BitVec.ofNat 4 shed.toNat ++ (0 : BitVec 24)
    ++ BitVec.ofNat 64 now ++ (0 : BitVec 320)
/-- The die in whose shed a line stands (R199). -/
def State.shedDie (s : State) (line : Nat) : Option Nat := ((s.ctxs.flatMap Context.shedLines).find? (fun p => p.2 == line)).map Prod.fst
/-- An uncorrectable error is found in a line, last written for a context, while it is written back: the line is not written,
memory keeps its earlier contents, and reads of them raise nothing. The record goes to the log of the context, if there is one,
and to Turjo's (R225; log 34). -/
def State.loseLine (s : State) (line ctx die : Nat) (shed : Bool) : State :=
  let r := lostRecord line ctx die shed s.now
  let s1 : State := { s with
    poison := s.poison.filter (· != line), writers := s.writers.filter (fun p => p.1 != line)
    mem := Memory.store s.mem (128 * line) 128 (Memory.load s.dram (128 * line) 128) }
  let s2 := if ctx = 0 then s1 else s1.logRecord ctx r
  { s2 with errLog := s2.errLog ++ [r] }
/-- A line is written back from the shed in which it stands, or else from the L2 cache of a die: memory takes what the caches
hold. A dirty line with an uncorrectable error is lost; one that nothing has written is not written back (R225; log 34). -/
def State.writeBack (s : State) (line die : Nat) : State :=
  if s.poison.contains line then
    match s.writers.find? (fun p => p.1 == line) with
    | none => s
    | some p => s.loseLine line p.2 ((s.shedDie line).getD die) (s.shedDie line).isSome
  else { s with dram := Memory.store s.dram (128 * line) 128 (Memory.load s.mem (128 * line) 128)
                writers := s.writers.filter (fun p => p.1 != line) }

/-! ### Parking (R388 to R393, R400) -/

/-- Turjo services these causes first (R393). -/
def turjoFirst (cause : Nat) : Bool := decide (5 ≤ cause ∧ cause ≤ 9)

/-- Stop a context; it is then no longer the thermal trip alone that holds it (R401, R435). -/
def State.stopCtx (s : State) (c : Nat) : State := s.updCtx c (fun x => { x with stopped := true, thermal := false })

/-- The handle of a thread that parks: the first draw whose 32 bits are neither 0 nor those of another parked thread's (R391;
log 17). -/
def State.newHandle (s : State) : Nat :=
  let used := 0 :: s.parked.map (fun p => p.handle % 2 ^ 32)
  s.fresh + ((List.range (used.length + 1)).find? (fun k => !used.contains ((s.fresh + k) % 2 ^ 32))).getD 0
/-- Park lanes of a group (the strand is lane 0) under a new handle, with the record of R391. `pc` is the address
reported, `first` the faulting index, `slot` the slot of the thread in which the fault was taken. Turjo services some causes
first, the debugger BRK; a fault in a handler, in a lane group of its lowest parked lane, is a double fault: it stops the
context and Turjo does not service it (R393, R400). -/
def State.park (s : State) (gid : Nat) (lanes : List Nat) (pc : W64) (first npm1 slot : Nat) (f : FaultInfo) : State :=
  let g := s.group gid
  let p := s.pen g.pen
  let l := s.launchOf g.pen
  let handle := s.newHandle
  let low := g.thread (lanes.headD 0)
  let dbl := (low.map Thread.ih).getD false
  let ec := (low.map Thread.ecause).getD 0
  let lmask : W64 := if g.lanes then BitVec.ofNat 64 (lanes.foldl (fun m k => m + 2 ^ k) 0) else 0
  let rcd := mkRecord f.va (if dbl then ec else f.aux) lmask pc slot handle l.ctx l.id first npm1 s.now p.vcore
    (if g.lanes then lanes.headD 0 else 0) f.acc (if g.lanes then 1 else 0) dbl f.cause
  let s1 := (s.bump (handle + 1 - s.fresh)).updGroup gid (fun x => x.mapLanes lanes (fun t => { t with status := .parked handle }))
  let held := (turjoFirst f.cause || f.cause == cBRK) && !dbl
  let s2 := { s1 with parked := s1.parked ++ [⟨handle, l.ctx, gid, lanes, rcd, f.loc, (low.map Thread.ost).getD 0, !held⟩] }
  let s3 := if held then s2 else s2.logRecord l.ctx rcd
  if dbl then s3.stopCtx l.ctx else s3

/-- Parked threads re-execute: they are ready at the faulting instruction (R389). -/
def State.unpark (s : State) (handle : Nat) : State :=
  { s.mapThreads (fun _ t => if t.status == .parked handle then { t with status := .ready } else t) with
    parked := s.parked.filter (·.handle != handle) }

/-! ### Traps: entering the handler and returning (R395 to R399, R412, R413) -/

/-- TAKING A TRAP, the one shared operation: $epc takes the resume point, $ecause the code and the depths with IH set,
and the thread goes to the handler's header (R412). `cohort` is the issue of TRAP (R398). -/
def Thread.enterHandler (t : Thread) (thv : W64) (code : W32) (resume resumeHdr : W64) (isHdr : Bool) (cohort : Nat) : Thread :=
  { t with epc := mkEpc isHdr resume, epcHdr := resumeHdr, ecause := mkEcause code t.splices.length t.preds.length,
           cohort := cohort, cohorts := cohort :: t.cohorts, pc := thv, hdr := thv, status := .ready }

/-- Returning from the handler: IH is cleared and the thread goes to $epc.ADDR (R413). It stays of the lanes that entered by
its TRAP, for those that wait there still (R398; log 96). -/
def Thread.leaveHandler (t : Thread) : Thread :=
  let a := epcAddr t.epc
  { t with ecause := t.ecause &&& ~~~(0x100 : W64), pc := a, hdr := if isSet t.epc 63 then a else t.epcHdr,
           status := .ready }

/-- The depths match those at entry (R413). A lane thread has no splice-record stack to compare (R15, R25; log 23). -/
def Thread.depthsMatch (t : Thread) (strand : Bool) : Bool :=
  decide (t.preds.length = (bits t.ecause 16 12).toNat)
    && (!strand || decide (t.splices.length = (bits t.ecause 19 17).toNat))

/-! ### Clause headers of branch targets (R60, R151) -/

/-- Check a target: alignment and range for a register target, translation and permission, then the header checks; on
a Dzinum-2 page any word may be entered (R60, R102, R151). -/
def State.checkTarget (s : State) (c : Nat) (a : W64) : Except FaultInfo Unit := do
  if a.toNat % 8 ≠ 0 then throw ⟨cALIGN, a, 0, 4, none⟩
  if 2 ^ 56 ≤ a.toNat then throw ⟨cXLATE, a, 0, 4, none⟩
  let l ← s.globalLoc c a 8 accFetch
  let d2 := match s.translate c a with | some leaf => leaf.d2 | none => false
  if d2 then return ()
  match decodeHeader (BitVec.ofNat 64 (s.readLoc l 8)) with
  | none => throw illfmt
  | some h =>
    -- the clause must be fetchable: each of its words translates with execute permission
    firstCause ((List.range (h.cnt.toNat + 1)).map (fun k => s.permitted c (a + 8 + 8 * BitVec.ofNat 64 k) accFetch))

/-! ### What a clause boundary waits for (R67, R98, R331) -/

/-- The page of an address holds Dzinum-2 code (R98). -/
def State.isDz2 (s : State) (c : Nat) (pc : W64) : Bool :=
  match s.translate c pc with | some l => l.d2 | none => false
/-- The wait mask of the clause at a thread's PC; where no header can be read, the fetch raises the fault. -/
def State.waitMask (s : State) (c : Nat) (t : Thread) : BitVec 12 :=
  if s.isDz2 c t.pc then 0x800 else
  match s.translate c t.hdr with
  | none => 0
  | some l => if s.sound l.pa 8 then (match decodeHeader (BitVec.ofNat 64 (Memory.load s.mem l.pa 8)) with | some h => h.wait | none => 0) else 0
/-- The thread waits on a queue: its next clause waits on the flag of that QPOP, or on one that names no flag (R67, R331). -/
def State.waitsOn (s : State) (c : Nat) (t : Thread) (p : Pend) : Bool :=
  p.queue.isSome && (if p.flag < 12 then (s.waitMask c t).getLsbD p.flag else t.pc == t.hdr)

/-! ### Waiters in WAITA (R237, R238) -/

/-- End a wait with a status in D (R237). -/
def Thread.endWaita (t : Thread) (st : W64) : Thread :=
  match t.status with
  | .waita m =>
    let ws := match t.pend.find? (·.op == m.op) with | some p => p.writes.map (fun w => (w.1, Form.u st)) | none => []
    { (t.deliver m.op ws) with status := .ready }
  | _ => t

/-- A waiter: a thread here, by group and lane, or one of another package of the domain. -/
inductive WaitRef where
  | here (gid lane : Nat)
  | peer (w : PeerWait)
  deriving DecidableEq, Repr

/-- The resident waiters of a context at a location, oldest read first (R238). -/
def State.waitersAt (s : State) (c : Nat) (l : Loc) : List (WaitRef × Nat) :=
  sortBy (fun w => w.2) (s.groups.flatMap (fun g =>
    if g.resident s && s.ctxOf g.pen == c then
      g.threads.filterMap (fun t => match t.status with
        | .waita m => if m.loc == l then some (WaitRef.here g.id t.lane, m.order) else none
        | _ => none)
    else []) ++ (s.peerWaits.filter (fun w => w.ctx == c && l == .phys w.pa)).map (fun w => (WaitRef.peer w, w.order)))
/-- The wait of one ends with status 1; that of a peer's thread ends there. -/
def State.endWait (s : State) (w : WaitRef) : State :=
  match w with
  | .here g l => s.updThread g l (fun t => t.endWaita 1)
  | .peer p => { s with peerWaits := s.peerWaits.filter (· != p) }

/-- Wake up to n waiters, oldest first; the number woken (R238). -/
def State.wake (s : State) (c : Nat) (l : Loc) (n : Nat) : State × Nat :=
  let ws := (s.waitersAt c l).take n
  (ws.foldl (fun x w => x.endWait w.1) s, ws.length)
def State.wakeAll (s : State) (c : Nat) (l : Loc) : State := (s.wake c l (s.waitersAt c l).length).1

/-! ### Dependence counters (R339 to R341, R371) -/

/-- An MSI-X vector of a context is sent: the data that its function's table holds for it is written at the address there
(R341, R419). -/
def State.sendMsix (s : State) (c vec : Nat) : State :=
  let w := ((s.msixTable.find? (fun p => p.1 == (c, vec))).map (fun p => p.2)).getD (0, 0)
  { s with msix := s.msix ++ [(c, vec, w.1, w.2)] }
/-- Take an action: KIND 1 counts the record's counter as zero, KIND 2 is owed as a push, KIND 3 is sent (R341). A KIND 1
address at which no CONT wrote is read as a record all the same; its launch is what the record says (log 35). -/
def State.act (s : State) (c kind : Nat) (addr : W64) : State :=
  match kind with
  | 1 =>
    if !(s.conts.any (fun x => x.ctx == c && x.addr == addr)) then { s with conts := s.conts ++ [⟨c, addr, 0, true, [], []⟩] } else
    { s with conts := s.conts.map (fun x => if x.ctx == c && x.addr == addr then { x with zero := true } else x) }
  | 2 => { s.bump with depActs := s.depActs ++ [⟨s.fresh, c, 2, addr⟩] }
  | 3 => s.sendMsix c (bits addr 10 0).toNat
  | _ => s

/-- Decrement the counter at a location by b: the new state and the result (R340). -/
def State.depDecAt (s : State) (c launch : Nat) (l : Loc) (a : W64) (b : Nat) : State × W64 :=
  let cnt := BitVec.ofNat 64 (s.readLoc l 8)
  let word := BitVec.ofNat 64 (s.readLoc (match l with | .phys p => .phys (p + 8) | .scr p o => .scr p (o + 8)) 8)
  if cnt.toNat < b then (s.logPlain c launch a (BitVec.ofNat 64 b) cDEPUNDER 3, allOnes64)
  else
    let r := cnt - BitVec.ofNat 64 b
    let s1 := s.writeLoc l 8 r.toNat
    if r = 0 ∧ b ≠ 0 then
      let s2 := s1.writeLoc (match l with | .phys p => .phys (p + 8) | .scr p o => .scr p (o + 8)) 8 0
      ((s2.wakeAll c l).act c (bits word 63 62).toNat ((bits word 55 0).zeroExtend 64), r)
    else (s1, r)

/-- A device access that fails: an XLATE goes to Turjo and may be tried again; anything else is recorded (R442). -/
def State.devFail (s : State) (c launch : Nat) (f : FaultInfo) (acc : DevAcc) : State :=
  if f.cause = cXLATE then { s.bump with devWaits := s.devWaits ++ [⟨s.fresh, c, acc, f.va, f.acc⟩] }
  else s.logPlain c launch f.va f.aux f.cause f.acc

/-- A decrement by 1 made by the device (R323, R324, R345, R442); address 0 names no counter. -/
def State.devDec (s : State) (c launch : Nat) (a : W64) : State :=
  if a = 0 then s
  else if a.toNat % 16 ≠ 0 then s.logPlain c launch a 0 cALIGN 3
  else
    match s.globalLoc c a 16 accRmw.device with
    | .error f => s.devFail c launch f (.decrement a)
    | .ok l => s.actFor c (fun x => (x.depDecAt c launch l a 1).1)

end Sys2Proof.Machine
end

