-- ==== Sys2Proof/Machine/Operands.lean ====
section
/-! DEFINITION. Operand forms: sources of every file and type, special sources, source modifiers, effective addresses
(R72 to R79, R166, R258), and the forms that results take in a strand (R15 to R19, R136). -/

namespace Sys2Proof.Machine

/-- The type in which an instruction reads a source (R73). -/
inductive STy where
  | int | f64 | f32 | f16 | bf16
  deriving DecidableEq, Repr

def FTy.sty : FTy → STy | .f64 => .f64 | .f32 => .f32 | .f16x4 => .f16 | .bf16x4 => .bf16
def FP.sty : FP → STy | .f64 => .f64 | .f32 => .f32

/-- A 16-bit element in all four places. -/
def quad (x : Nat) : W64 := BitVec.ofNat 64 (pack 16 [x, x, x, x])

/-- LIT read as binary32 and converted exactly to binary64; a NaN stays signalling, for the instruction that reads it to find
(R73, R109). -/
def litF64 (n : Nat) : Nat :=
  match F32.decode n with
  | .nan _ => n / 2 ^ 31 * 2 ^ 63 + F64.inf + n % 2 ^ 23 * 2 ^ 29
  | _ => (cvtFF F32 F64 0 .none n).1
/-- The value of a special source other than ix (R73). -/
def specialVal (ty : STy) (lit : W32) (code : Nat) : W64 :=
  match code with
  | 0 =>
    match ty with
    | .int => lit.signExtend 64
    | .f64 => BitVec.ofNat 64 (litF64 lit.toNat)
    | .f32 => lit.zeroExtend 64
    | .f16 | .bf16 => quad lit.toNat
  | 3 => match ty with | .int => 1 | .f64 => 0x3FF0000000000000 | .f32 => 0x3F800000 | .f16 => quad 0x3C00 | .bf16 => quad 0x3F80
  | 4 => allOnes64
  | 5 => match ty with | .int => 0 | .f64 => 0x3FE0000000000000 | .f32 => 0x3F000000 | .f16 => quad 0x3800 | .bf16 => quad 0x3F00
  | _ => 0

/-- ix for index i (R73). -/
def ixVal (ty : STy) (i : Nat) : W64 :=
  match ty with
  | .int | .f64 => BitVec.ofNat 64 i
  | .f32 => BitVec.ofNat 64 (i % 2 ^ 32)
  | .f16 | .bf16 => quad i

/-- The form of a source (R16, R72, R73). -/
def Thread.src (t : Thread) (strand : Bool) (lit : W32) (ty : STy) (o : Opd) : Form :=
  match o.file with
  | .g | .o => t.regs.get (Opd.key o)
  | .h => t.hist.get o.idx.toNat
  | .special =>
    if o.idx.toNat = 1 then (if strand then .a (BitVec.ofNat 64 t.lo) 1 else .u (ixVal ty t.lo))
    else .u (specialVal ty lit o.idx.toNat)

/-! ### Integer modifiers (R75, R138) -/

/-- The low w bits read as a two's-complement integer (R11, R115). -/
def sextN (x w : Nat) : Int :=
  let v := x % 2 ^ w
  if v < 2 ^ (w - 1) then v else (v : Int) - 2 ^ w
def word64 (x : Int) : W64 := BitVec.ofInt 64 x

/-- A signed integer source of width w after its modifier, read again as signed (R75, R138). -/
def modInt (w : Nat) (m : Mod) (x : W64) : Int :=
  let v := sextN x.toNat w
  let y := match m with | .none => v | .neg => -v | .abs => |v| | .negAbs => -|v|
  sextN (y % 2 ^ w).toNat w
/-- The same as a 64-bit value, for instructions that read bits. -/
def modBits (m : Mod) (x : W64) : W64 := word64 (modInt 64 m x)
def Mod.isAbs : Mod → Bool | .abs | .negAbs => true | _ => false

/-! ### Forms of results (R17, R136) -/

/-- How the result of an instruction depends on the forms of its sources. -/
inductive Rule where
  /-- U: the same for every index. -/
  | u
  /-- A by combining bases and steps. -/
  | aff
  /-- A when the values form one affine sequence. -/
  | exact
  /-- A when every 32-bit result equals the affine 64-bit value. -/
  | exact32
  /-- A when that holds of the results before .sat, and those after it form one affine sequence (R136). -/
  | exactSat32
  /-- E: the strand is laid down. -/
  | e
  deriving DecidableEq, Repr

/-- One affine sequence over n indices: its form, or none (R136). -/
def exactForm (n : Nat) (f : Nat → W64) : Option Form :=
  if n = 1 then some (.u (f 0)) else
  let g := Form.mk (f 0) (f 1 - f 0)
  if (List.range n).all (fun k => f k == g.val k) then some g else none
/-- The form of a result over a range of n indices, or none for an E result, from its value `f` at offset k and, for
.i32 variants, the value `f32` before .sat and the 64-bit value `f64`. -/
def Rule.form (r : Rule) (n : Nat) (f f64 f32 : Nat → W64) : Option Form :=
  match r with
  | .u => some (.u (f 0))
  | .aff => some (Form.mk (f 0) (f 1 - f 0))
  | .exact => exactForm n f
  | .exact32 => if (List.range n).all (fun k => f32 k == f64 k) then some (Form.mk (f64 0) (f64 1 - f64 0)) else none
  | .exactSat32 => if (List.range n).all (fun k => f32 k == f64 k) then exactForm n f else none
  | .e => none

/-- U when every source is U, else E (R17). -/
def eClass (fs : List Form) : Rule := if fs.any Form.isA then .e else .u

/-! ### Effective addresses (R79, R166) -/

def eaM (base : W64) (off : BitVec 20) : W64 := base + off.signExtend 64
/-- A branch target: from the clause header, or from the branch word in Dzinum-2 code (R79, R98). -/
def branchTarget (orig : W64) (tgt : BitVec 26) : W64 := orig + 8 * tgt.signExtend 64
def spaceOfWm (wm : BitVec 2) : Space := match wm.toNat with | 0 => .global | 1 => .scratch | _ => .priv

end Sys2Proof.Machine
end

