-- ==== Sys2Proof/Machine/Flags.lean ====
section
/-! DEFINITION. Predicates and flags: predicate entries as intervals, guard sets (R31 to R33, R441), the completion
flags a long-latency instruction names (R66, R67), and the writes of $fpx (R112, R113). -/

namespace Sys2Proof.Machine

/-! ### Predicate entries -/

def Ivl.has (p : Ivl) (i : Nat) : Bool := decide (p.lo ≤ i ∧ i < p.lo + p.len)
/-- The part of an interval that lies in [lo, lo + n). -/
def Ivl.inter (p : Ivl) (lo n : Nat) : Ivl :=
  let a := max p.lo lo
  let b := min (p.lo + p.len) (lo + n)
  if a < b then ⟨a, b - a⟩ else ⟨lo, 0⟩
/-- An entry that is true for every index of the thread, or for none. -/
def Thread.entry (t : Thread) (v : Bool) : Ivl := ⟨t.lo, if v then t.n else 0⟩

/-- Maximal runs of equal truth over offsets 0 to n − 1: start, length, truth (R33). -/
def runsOf (p : Nat → Bool) : (n : Nat) → List (Nat × Nat × Bool)
  | 0 => []
  | n + 1 =>
    match (runsOf p n).reverse with
    | (a, l, b) :: r => if b == p n then (((a, l + 1, b) :: r).reverse) else (((n, 1, p n) :: (a, l, b) :: r).reverse)
    | [] => [(n, 1, p n)]

/-- Runs of equal guard truth of a thread's range, as start, length, truth; none when the guard reads an empty stack
(R31, R441). -/
def Thread.guardRuns (t : Thread) (g : Guard) : Option (List (Nat × Nat × Bool)) :=
  match g with
  | .always => some [(0, t.n, true)]
  | _ =>
    match t.preds with
    | [] => none
    | p :: _ =>
      let q := p.inter t.lo t.n
      let v := g == .top
      if q.len = 0 then some [(0, t.n, !v)]
      else
        let a := q.lo - t.lo
        some ((if a = 0 then [] else [(0, a, !v)]) ++ [(a, q.len, v)]
          ++ (if a + q.len = t.n then [] else [(a + q.len, t.n - (a + q.len), !v)]))

/-- The guard's truth at offset k, from the runs. -/
def runTrue (rs : List (Nat × Nat × Bool)) (k : Nat) : Bool :=
  rs.any (fun r => r.2.2 && decide (r.1 ≤ k ∧ k < r.1 + r.2.1))

/-! ### Completion flags (R66, R67) -/

/-- The flag that an instruction names: its FLG, or the header's for its class; 12 is none. -/
def namedFlag (flg hdrFlag : BitVec 4) : Nat :=
  let f := if flg = 15 then hdrFlag else flg
  if f = 15 then 12 else f.toNat

def Thread.setFlag (t : Thread) (f : Nat) : Thread :=
  if f < 12 then { t with flags := t.flags ||| BitVec.ofNat 12 (2 ^ f) } else t

/-- A thread that owes the results of an operation: the flag is set, and the destinations are unpredictable until it
completes (R66, R68). -/
def Thread.owe (t : Thread) (p : Pend) (seed : Nat) : Thread :=
  let t1 := t.setFlag p.flag
  { t1 with pend := t1.pend ++ [p],
            regs := p.writes.foldl (fun r w => r.land w.1 (.u (Config.freeReg seed w.1)) (r.lateKeys w.1) seed) t1.regs }

/-- A result that no flag names holds back the next clause (R67). -/
def Thread.held (t : Thread) : Bool := t.pend.any (·.flag == 12)

end Sys2Proof.Machine
end

