-- ==== Sys2Proof/Machine/Strands.lean ====
section
/-! DEFINITION. Strands and lane groups as the unit of issue: room on a core, cutting, laying down and peeling,
merging and folding, convergence, the end of threads, and `drive`, the one way in which an instruction word acts on
the group that issues it (R12 to R45, R65, R385 to R387, R441, R443). -/

namespace Sys2Proof.Machine

/-! ### Room on a core (R14, R335) -/

def State.coreGroups (s : State) (core : Nat) : List Group :=
  s.groups.filter (fun g => let p := s.pen g.pen; p.core == some core && !p.saved)
/-- The free strand slots of a core; where the manual asks for a free one, the model takes the lowest-numbered (log 76). -/
def State.freeSlots (s : State) (core : Nat) : List Nat :=
  (List.range Config.strandSlots).filter (fun k => !((s.coreGroups core).any (fun g => g.place == .slot k)))
/-- A free lane row for a group of the pen, with room in the register file (R335): the lowest-numbered (log 76). -/
def State.freeRow (s : State) (pen : Nat) : Option Nat :=
  let core := (s.pen pen).core.getD 0
  let gs := (s.coreGroups core).filter (fun g => match g.place with | .row _ => true | _ => false)
  let used := (gs.map (fun g => 512 * (s.launchOf g.pen).regs)).sum
  if Config.regFileBytes < used + 512 * (s.launchOf pen).regs then none
  else (List.range Config.laneRows).find? (fun k => !(gs.any (fun g => g.place == .row k)))

/-! ### Pieces of a strand (R21, R35, R441) -/

def Pend.map (p : Pend) (f : Form → Form) : Pend := { p with writes := p.writes.map (fun w => (w.1, f w.2)) }

/-- The piece of `len` indices that starts at offset `off`: A-form bases adjusted, entries intersected. It owes all results in flight,
and the flags that they raise, whichever index raises them (R113, R250; DEDUCED, log 95). -/
def Thread.piece (t : Thread) (off len : Nat) : Thread :=
  { t with lo := t.lo + off, n := len, regs := t.regs.map (Form.shift · off),
           hist := { t.hist with items := t.hist.items.map (Form.shift · off) },
           preds := t.preds.map (Ivl.inter · (t.lo + off) len), pend := t.pend.map (Pend.map · (Form.shift · off)) }

/-- The lane thread of lane k (R20): values for its index, entries as truth values. -/
def Thread.laneOf (t : Thread) (k : Nat) : Thread :=
  let at' := fun (f : Form) => Form.u (f.val k)
  { t with lo := t.lo + k, n := 1, lane := k, regs := t.regs.map at', splices := [], age := 0, ageAt := 0, kept := none,
           hist := { t.hist with items := t.hist.items.map at' },
           preds := t.preds.map (Ivl.inter · (t.lo + k) 1), pend := t.pend.map (Pend.map · at') }

/-- Cut a strand into the pieces given, the lowest keeping the slot; every piece runs the same clause. None when fewer
strand slots are free than the cut needs (R33 to R35, R441). -/
def State.cut (s : State) (gid : Nat) (pieces : List (Nat × Nat)) (spl : Option W64) : Option (State × List Nat) :=
  let g := s.group gid
  match g.threads, pieces with
  | [t0], p0 :: ps =>
    let t := match spl with
      | none => t0
      | some a => { t0 with splices := (({ tag := s.fresh, addr := a } : SpliceRec) :: t0.splices).take 4 }
    let slots := s.freeSlots ((s.pen g.pen).core.getD 0)
    if slots.length < ps.length then none else
    let ids := (List.range ps.length).map (fun k => s.fresh + 1 + k)
    let news := ((ids.zip slots).zip ps).map (fun x =>
      { g with id := x.1.1, place := .slot x.1.2, threads := [t.piece x.2.1 x.2.2], placedAt := s.now })
    let s1 := s.updGroup gid (fun x => { x with threads := [t.piece p0.1 p0.2] })
    some ({ s1.bump (ps.length + 1) with groups := s1.groups ++ news }, gid :: ids)
  | _, _ => none

/-! ### Lay-down and peeling (R19 to R22) -/

/-- The strands that wait for a lane row of a core. One that has been evicted while it waited is on no core and takes its place
by the start of its wait when it is placed again, which the manual leaves open (R22, R56, R337; DESIGN CHOICE, log 109). -/
def State.rowWaiters (s : State) (core : Nat) : List (Nat × Nat) :=
  ((s.coreGroups core).filter (Group.resident · s)).filterMap (fun g => match g.stall with | some (.row k) => some (g.id, k) | _ => none)
/-- Another strand of the core waits for a lane row since before. -/
def State.rowQueue (s : State) (gid core : Nat) : Bool := (s.rowWaiters core).any (fun w => w.1 != gid)

/-- Lay down the strand, or peel its lowest 64 indices, into a free lane row: the state and the lane group; none when
no row can be had. -/
def State.layDown (s : State) (gid : Nat) : Option (State × Nat) :=
  let g := s.group gid
  match g.threads, s.freeRow g.pen with
  | [t], some row =>
    let n := min t.n Config.lanes
    let lanes := (List.range n).map t.laneOf
    let run := g.run.map (fun r => { r with sel := List.range n, from' := 0 })
    if t.n ≤ Config.lanes then
      some (s.updGroup gid (fun x => { x with lanes := true, place := .row row, threads := lanes, run := run, stall := none,
                                              placedAt := s.now }), gid)
    else
      let since := match g.stall with | some (.row k) => k | _ => s.fresh
      let ng := { g with id := s.fresh, lanes := true, place := .row row, threads := lanes, run := run, stall := none,
                         placedAt := s.now }
      let s1 := s.updGroup gid (fun x => { x with threads := [t.piece 64 (t.n - 64)], stall := some (.row since) })
      some ({ s1.bump with groups := s1.groups ++ [ng] }, s.fresh)
  | _, _ => none

/-! ### Merging strands (R37 to R40, R443) -/

/-- Two forms over adjacent ranges of n1 and n2 indices unite to one (R38). -/
def uniteForm (f1 : Form) (n1 : Nat) (f2 : Form) (n2 : Nat) : Option Form :=
  let st : W64 := match f1, f2 with
    | .a _ s, _ => if n1 = 1 then f2.val 0 - f1.val 0 else s
    | _, .a _ s => if n1 = 1 then f2.val 0 - f1.val 0 else if n2 = 1 then 0 else s
    | .u _, .u _ => if n1 = 1 then f2.val 0 - f1.val 0 else 0
  let g := Form.mk (f1.val 0) st
  if (n1 = 1 ∨ g.val 1 = f1.val 1) ∧ f2.val 0 = g.val n1 ∧ (n2 = 1 ∨ f2.val 1 = g.val (n1 + 1)) then some g else none

/-- Two entries unite to one interval (R38). -/
def uniteIvl (p q : Ivl) : Option Ivl :=
  if p.len = 0 then some q else if q.len = 0 then some p
  else if p.lo + p.len = q.lo then some ⟨p.lo, p.len + q.len⟩ else none

def optAll {α β : Type} (f : α → Option β) : List α → Option (List β)
  | [] => some []
  | x :: xs => match f x, optAll f xs with | some y, some ys => some (y :: ys) | _, _ => none

/-- The results in flight of threads that become one strand, in order of index: where every one of the n parts owes an
operation's results, they unite as registers do, or the register is left unpredictable; where only some do, it is left
unpredictable (R38, R41, R68; log 95). -/
def joinPends (seed n : Nat) (unite : List Form → Option Form) (all : List Pend) : List Pend :=
  (all.map Pend.op).dedup.filterMap (fun op =>
    let qs := all.filter (fun q => q.op == op)
    qs.head?.map (fun q =>
      let form := fun (w : Nat × Form) =>
        (unite (qs.filterMap (fun x => (x.writes.find? (fun v => v.1 == w.1)).map (fun v => v.2)))).getD (.u (Config.freeReg seed (1024 + w.1)))
      { q with
        writes := q.writes.map (fun w => (w.1, form w))
        fpx := qs.foldl (fun f x => f ||| x.fpx) 0
        mixed := if qs.length = n && qs.all (fun x => x.mixed.isNone) then none else some seed }))
/-- The registers of a strand so formed: those of the live set as united, each unreadable for as long as it was in any of the
threads; the others unpredictable, of draw `seed` (R40, R41, R68). -/
def joinRegs (seed : Nat) (ts : List Thread) (cells : List (Nat × Form)) : RegFile :=
  cells.foldl (fun r c => r.land c.1 c.2 (ts.flatMap (fun t => t.regs.lateKeys c.1)).dedup seed) (RegFile.free seed)

/-- The strand that two arrived siblings form, the lower first; none when R38 refuses the merge. R38 says nothing of splice
records below the top ones, which are equal: the merged strand keeps those of the lower strand (log 100). -/
def mergeThreads (live : List Nat) (seed : Nat) (a b : Thread) : Option Thread :=
  if a.lo + a.n ≠ b.lo ∨ a.preds.length ≠ b.preds.length ∨ a.ih != b.ih ∨ a.task ≠ b.task then none else
  match optAll (fun r => (uniteForm (a.regs.held r) a.n (b.regs.held r) b.n).map (r, ·)) live,
        optAll (fun p => uniteIvl p.1 p.2) (a.preds.zip b.preds) with
  | some cells, some preds =>
    some { a with n := a.n + b.n, regs := joinRegs seed [a, b] cells, preds := preds,
                  flags := a.flags ||| b.flags, fpx := a.fpx ||| b.fpx, hwm := if a.hwm.toNat ≤ b.hwm.toNat then a.hwm else b.hwm,
                  pend := joinPends seed 2 (fun fs => match fs with | [f, g] => uniteForm f a.n g b.n | _ => none) (a.pend ++ b.pend),
                  engOps := a.engOps ++ b.engOps, engFail := a.engFail || b.engFail }
  | _, _ => none

/-- g252 to g255 are always live (R155). -/
def liveSet (x : FmtI) : List Nat := (spliceRegs x ++ [252, 253, 254, 255]).dedup

def topRec (t : Thread) : Option SpliceRec := t.splices.head?
/-- Other strands of the pen with an equal top record (R37). -/
def State.siblings (s : State) (g : Group) (t : Thread) : List Group :=
  s.groups.filter (fun x => x.id != g.id && x.pen == g.pen && !x.lanes &&
    x.threads.any (fun u => u.task == t.task && u.status != .exited && (topRec u).isSome && topRec u == topRec t))

/-- The strand pops its record and goes on past the SPLICE (R39). -/
def Thread.passSplice (t : Thread) (pop : Bool) : Thread :=
  { t with splices := if pop then t.splices.drop 1 else t.splices }.goOn

def isSplice (t : Thread) : Bool := match t.status with | .splice _ _ => true | _ => false
/-- When a thread began to wait at a SPLICE or at a convergent operation: the die's cycle count and the issue slot. -/
def Thread.arrival (t : Thread) : Nat × Nat := match t.status with | .splice k n | .conv k n => (k, n) | _ => (0, 0)
/-- What comes at `b` comes within `w` cycles of `a`; a window of 0 admits the same issue slot alone (R39, R41 to R43;
log 108). -/
def withinWindow (w : Nat) (a b : Nat × Nat) : Bool := decide (b.1 ≤ a.1 + w) && (w != 0 || b.2 == a.2)

/-- The SPLICE at which a thread waits: the first word of its clause, as it was read when the clause started (R212). -/
def Thread.spliceWord (t : Thread) : Option FmtI :=
  match t.kept with
  | none => none
  | some f => match f.words with
    | w :: _ => (match decodeWord w with | .ok (.splice x) => some x | _ => none)
    | [] => none

/-- Strands of the pen whose wait at a SPLICE is over pop their records and go on: nothing that comes now is theirs (R39, R42). -/
def State.passLate (s : State) (pen : Nat) : State :=
  let w := (s.pen pen).spw.toNat
  s.mapThreads (fun g t =>
    if g.pen == pen && !g.lanes && isSplice t && g.resident s && !withinWindow w t.arrival (s.cycles (s.penDie pen), s.draw)
    then t.passSplice true else t)
/-- An arrived strand merges with an arrived adjacent sibling, passes when none is outstanding, or is refused and
passes (R38, R39). One strand is settled. -/
def State.settleSplice (s : State) (gid : Nat) (live : List Nat) : State :=
  let g := s.group gid
  match g.threads with
  | [t] =>
    if !isSplice t || g.lanes then s else
    let sib := s.siblings g t
    if sib.isEmpty then s.updThread gid t.lane (Thread.passSplice · true) else
    match sib.find? (fun x => x.threads.any (fun u => isSplice u && (u.lo + u.n == t.lo || t.lo + t.n == u.lo))) with
    | none => s
    | some x =>
      match x.threads with
      | [u] =>
        let (a, b, ga, gb) := if t.lo < u.lo then (t, u, g, x) else (u, t, x, g)
        match mergeThreads live s.fresh a b with
        | none =>
          -- refused: both pop and go on
          (s.updThread gid t.lane (Thread.passSplice · true)).updThread x.id u.lane (Thread.passSplice · true)
        | some m =>
          let s1 := { s.bump with groups := s.groups.filter (·.id != gb.id) }
          let m1 := { m with status := .splice (s.cycles (s.penDie g.pen)) s.draw }
          let s2 := s1.updGroup ga.id (fun y => { y with threads := [m1] })
          if (s2.siblings (s2.group ga.id) m1).isEmpty then s2.updThread ga.id m1.lane (Thread.passSplice · true) else s2
      | _ => s
  | _ => s

/-- Settle every strand of a pen that waits at a SPLICE, once. -/
def State.settleOnce (s : State) (pen : Nat) : State :=
  (s.groups.filter (·.pen == pen)).foldl (fun x g =>
    match g.threads with
    | [t] =>
      if isSplice t && !g.lanes then
        match t.spliceWord with
        | some w => x.settleSplice g.id (liveSet w)
        | none => x
      else x
    | _ => x) s
/-- Settle them until none is left that merges or passes: each time but the last, one wait at least ends. -/
def State.settlePen (s : State) (pen : Nat) : State :=
  let waits := (s.groups.filter (fun g => g.pen == pen && !g.lanes)).flatMap (fun g => g.threads.filter isSplice)
  waits.foldl (fun x _ => x.settleOnce pen) (s.passLate pen)

/-! ### Folding a lane group (R41, R443) -/

/-- The strand that the waiting lane threads form, in order of index; none when a condition of R41 fails. -/
def foldThreads (live : List Nat) (seed : Nat) (ts : List Thread) : Option Thread :=
  match sortBy Thread.lo ts with
  | [] => none
  | a :: rest =>
    let all := a :: rest
    let n := all.length
    let idx := List.range n
    let contiguous := idx.all (fun k => ((all[k]?).map Thread.lo) == some (a.lo + k))
    let sameDepth := all.all (fun t => t.preds.length == a.preds.length && t.ih == a.ih && t.task == a.task)
    let affine := fun (fs : List Form) => exactForm n (fun k => ((fs[k]?).map (fun f => f.val 0)).getD 0)
    let form := fun (r : Nat) => (affine (all.map (fun t => t.regs.held r))).map (fun f => (r, f))
    let truth := fun (d k : Nat) => (((all[k]?).bind (fun t => t.preds[d]?)).map (fun p => decide (p.len ≠ 0))).getD false
    let entry := fun (d : Nat) =>
      match (runsOf (truth d) n).filter (·.2.2) with
      | [] => some (⟨a.lo, 0⟩ : Ivl)
      | [r] => some ⟨a.lo + r.1, r.2.1⟩
      | _ => none
    let low := ((sortBy Thread.lane ts).head?).getD a
    if !contiguous || !sameDepth then none else
    match optAll form live, optAll entry (List.range a.preds.length) with
    | some cells, some preds =>
      some { low with lo := a.lo, n := n, lane := 0, regs := joinRegs seed all cells, preds := preds,
                      splices := [], flags := all.foldl (fun f t => f ||| t.flags) 0, fpx := all.foldl (fun f t => f ||| t.fpx) 0,
                      hwm := all.foldl (fun h t => if t.hwm.toNat < h.toNat then t.hwm else h) a.hwm,
                      pend := joinPends seed n affine (all.flatMap Thread.pend), engOps := (all.flatMap Thread.engOps).dedup,
                      engFail := all.any Thread.engFail }
    | _, _ => none

/-- A SPLICE whose fold failed is forgotten once every lane thread that has not exited has passed it (R41). -/
def Group.tidyFolds (g : Group) : Group :=
  { g with failFolds := g.failFolds.filter (fun p => !(g.alive.all (fun t => p.2.contains t.lane))) }
/-- Lanes pass a SPLICE whose fold has failed. -/
def Group.passFold (g : Group) (pc : W64) (ls : List Nat) : Group :=
  let old := ((g.failFolds.find? (fun p => p.1 == pc)).map (fun p => p.2)).getD []
  Group.tidyFolds { g with failFolds := g.failFolds.filter (fun p => p.1 != pc) ++ [(pc, old ++ ls)] }
/-- The fold at a SPLICE has failed, and some lane thread has not passed it yet. -/
def Group.foldFailed (g : Group) (pc : W64) : Bool := g.failFolds.any (·.1 == pc)
/-- Arrived lane threads go on past the SPLICE, and later ones pass it until every lane has passed (R41). -/
def State.failFoldAt (s : State) (gid : Nat) (pc : W64) : State :=
  s.updGroup gid (fun g =>
    let arr := g.threads.filter (fun t => isSplice t && t.hdr == pc)
    let g1 := { g with threads := g.threads.map (fun t => if isSplice t && t.hdr == pc then t.passSplice false else t) }
    g1.passFold pc (arr.map Thread.lane))

/-- Every lane thread has arrived: fold, or pass (R41). -/
def State.foldGroup (s : State) (gid : Nat) (live : List Nat) (pc : W64) : State :=
  let g := s.group gid
  match foldThreads live s.fresh g.alive, s.freeSlots ((s.pen g.pen).core.getD 0) with
  | some t, slot :: _ =>
    s.bump.updGroup gid (fun x => { x with lanes := false, place := .slot slot, threads := [t.goOn],
                                           run := none, failFolds := [], placedAt := s.now })
  | _, _ => s.failFoldAt gid pc

/-! ### Convergence (R43, R45, R285, R398) -/

/-- A word that must be issued by every lane thread together: its clause's header is where they wait. -/
def Instr.isMatrix : Instr → Bool
  | .mmap _ _ | .mmaf _ _ | .mmal _ | .mmasp _ _ | .mwait _ | .accz _ | .accld _ | .accst _ | .drain _ _ | .gangset _
  | .hitch _ | .rpred _ | .rcheck _ | .rgath _ | .mprog _ | .mcancel _ => true
  | _ => false
def Instr.isCross : Instr → Bool
  | .red _ _ | .scan _ _ | .shfl _ _ | .vote _ _ | .elect _ => true
  | _ => false
def wordIs (dz2 : Bool) (p : Instr → Bool) (w : W64) : Bool :=
  match if dz2 then decodeDz2 w else decodeWord w with | .ok i => p i | _ => false
/-- A word of block 6, ill formed or not (R285). -/
def isBlock6 (w : W64) : Bool := (rowOf (opcOf w).toNat).isSome && decide ((opcOf w).toNat / 0x40 = 6)
/-- The clause is convergent for a lane group (R43, R268, R285). Dzinum-2 code has no word of block 6 (R99). An ill-formed RED,
SCAN, SHFL, VOTE or ELECT at the head of a clause makes no lane wait: each lane raises its ILLFMT when it issues it, which
R268 leaves open (log 101). One that decodes and that its clause's class (R63) or the launch's count of registers (R72) refuses
makes the lanes wait, and each raises its ILLFMT when it issues it (DESIGN CHOICE, log 101). -/
def convClause (dz2 : Bool) (words : List W64) : Bool :=
  (!dz2 && words.any isBlock6) || (match words with | w :: _ => wordIs dz2 Instr.isCross w | [] => false)

def isConvAt (pc : W64) (t : Thread) : Bool := match t.status with | .conv _ _ => t.pc == pc | _ => false

/-- Some lane thread of the group is not among those that issue (R44). -/
def Group.absent (g : Group) (sel : List Nat) : Bool := g.alive.any (fun t => !sel.contains t.lane)

/-- The lane threads over which the operation at `pc` runs: those that came within the window of the first. Any that came later
go on waiting, for the next (R42, R43). -/
def State.convSet (s : State) (g : Group) (pc : W64) : List Thread :=
  let ts := g.threads.filter (isConvAt pc)
  match sortBy (fun t => t.arrival.2) ts with
  | [] => []
  | t :: _ => ts.filter (fun u => withinWindow (s.pen g.pen).spw.toNat t.arrival u.arrival)
/-- The convergent operation whose window has passed since its first arrival, the earliest first (R43). -/
def State.convDue (s : State) (g : Group) : Option W64 :=
  ((sortBy (fun t => t.arrival.2) (g.threads.filter (fun t => isConvAt t.pc t))).find? (fun t =>
    decide (t.arrival.1 + (s.pen g.pen).spw.toNat ≤ s.cycles (s.penDie g.pen)))).map Thread.pc
/-- Start the clause for the lane threads waiting at `pc` (R43, R44). -/
def State.beginConv (s : State) (gid : Nat) (pc : W64) (f : Fetched) : State :=
  let g := s.group gid
  let parts := (s.convSet g pc).map Thread.lane
  let s1 := s.bump.updGroup gid (fun x => x.mapLanes parts (fun t =>
    { t with status := .ready, hist := Hist.fresh s.fresh, age := 0 }))
  s1.updGroup gid (fun x => { x with run := some { hdr := f.hdr, head := f.head, words := f.words, pos := 0, sel := parts, from' := 0,
                                                    conv := true, dz2 := f.dz2 } })

/-- The lane threads that must arrive before the operation runs: in a handler the cohort, all that entered by one issue of
TRAP, those that have left the handler or have entered one anew among them; else every one (R43, R398; log 96). -/
def Group.expected (g : Group) (t : Thread) : List Thread :=
  if t.ih then g.alive.filter (fun u => u.cohorts.contains t.cohort) else g.alive

/-! ### The end of threads (R157, R323, R363) -/

/-- Drop groups whose threads have all exited: the slot or row is released. -/
def State.cleanup (s : State) (gid : Nat) : State :=
  if (s.group gid).threads.all (fun t => t.status == .exited) then
    { s with groups := s.groups.filter (·.id != gid) }
  else s.updGroup gid Group.tidyFolds

/-- A thread as EXIT leaves it: results in flight are discarded (R157). -/
def Thread.exit (t : Thread) : Thread := { t with status := .exited, pend := [], engOps := [] }
/-- A kill: the task counts as killed, and a bounded one adds to INC.KILLS (R363, R382). -/
def State.noteKill (s : State) (task : Nat) (inc : Bool) : State :=
  let t := s.task task
  let s1 := s.updTask task (fun x => { x with killed := true })
  if inc && t.cell.v then s1.updCell t.cell.cell.toNat (fun c => { c with kills := c.kills + 1 }) else s1

/-! ### Driving an instruction -/

/-- What an issuing thread sees (R59, R62, R79). -/
structure Env where
  gid : Nat
  pen : Nat
  strand : Bool
  head : Header
  hdr : W64
  /-- The next clause address (R58). -/
  next : W64
  /-- The address of this word. -/
  wpc : W64
  first : Bool
  last : Bool
  dz2 : Bool
  /-- Some non-exited lane thread of the group does not issue this word: $part (R44). -/
  absent : Bool
  deriving DecidableEq, Repr

def Env.lit (e : Env) : W32 := e.head.lit
/-- Where branch distances count from: the clause header, or the branch word in Dzinum-2 code (R79, R98). -/
def Env.origin (e : Env) : W64 := if e.dz2 then e.wpc else e.hdr

/-- What a thread does after an instruction. -/
inductive Flow where
  | next
  /-- The clause has ended for it; it goes on at that header. -/
  | jump (pc : W64)
  /-- It has left the clause; the thread's record says where it stands. -/
  | leave
  deriving DecidableEq, Repr

/-- What a CPS has performed when a fault stops it: where it stands, and the 8-byte stores that it has made now (R175). -/
structure CpsDone where
  part : CpsPart
  writes : List (Loc × W64)
def CpsDone.apply (s : State) (d : Option CpsDone) : State :=
  match d with
  | none => s
  | some x => x.writes.foldl (fun y w => y.writeLoc w.1 8 w.2.toNat) s

/-- Why an instruction was not performed: a cause, what a CPS had performed (R175), the offset of the faulting index in a
strand that acts once (R385); or a wait. -/
inductive Stop where
  | fault (f : FaultInfo) (cps : Option CpsDone := none) (off : Nat := 0)
  | stall (r : Stall)

structure Res where
  s : State
  t : Thread
  flow : Flow := .next

abbrev Act := State → Env → Thread → Except Stop Res

/-- How an instruction acts. `act` acts for a lane thread, and once for a strand whose guard set is its range. -/
structure Meaning where
  gd : Guard
  /-- A strand is laid down before it executes (R19). -/
  lay : State → Env → Thread → Bool := fun _ _ _ => false
  act : Act
  /-- Where a strand stays whole and each index of the guard set acts: offset k (R170, R441). -/
  each : Option (State → Env → Thread → Nat → Except Stop Res) := none
  /-- A compare: it acts for the whole range whatever the guard set is (R147). -/
  whole : Bool := false
  /-- The same of each lane thread, whatever its guard, though a strand acts by its guard set: ASSERT (R414). -/
  wholeLanes : Bool := false
  /-- The destination of a short-latency instruction, for indices whose guard is false (R70). -/
  dest : Option Opd := none
  /-- Only the lanes whose guard is true park: the others go on with the next instruction (R412, R416). -/
  onlyTrue : Bool := false
  /-- Lane threads act in ascending order; otherwise their accesses are unordered (R169). -/
  asc : Bool := true
  /-- The splice address that a cut for this branch records (R35). -/
  splice : Env → Option W64 := fun _ => none

/-- The instruction's own checks come first: positions and the register count; an index whose guard is false raises none of
them, whatever the instruction (R72, R135; log 24). -/
def Meaning.guarded (m : Meaning) (bad : Bool) : Meaning :=
  if bad then { m with lay := fun _ _ _ => false, act := fun _ _ _ => .error (.fault illfmt), each := none
                       whole := false, wholeLanes := false } else m

def envOf (g : Group) (r : Run) : Env :=
  let len := r.words.length
  { gid := g.id, pen := g.pen, strand := !g.lanes, head := r.head, hdr := r.hdr,
    next := r.hdr + 8 + 8 * BitVec.ofNat 64 len, wpc := r.hdr + 8 + 8 * BitVec.ofNat 64 r.pos,
    first := r.pos == 0, last := r.pos + 1 == len, dz2 := r.dz2, absent := g.lanes && g.absent r.sel }

/-- After the instruction: the next position, or the end of the clause (R58, R64, R65). `go` lists the lanes that go
on. -/
def State.advance (s : State) (e : Env) (go : List Nat) : State :=
  s.updGroup e.gid (fun g =>
    match g.run with
    | none => g
    | some r =>
      if go.isEmpty then { g with run := none, yielded := g.yielded || e.head.yld }
      else if e.last then
        { g.mapLanes go (fun t => { t with pc := e.next, hdr := e.next }) with run := none, yielded := g.yielded || e.head.yld }
      else { g with run := some { r with pos := r.pos + 1, sel := go, from' := 0, counted := false } })

/-- The header that governs the word at an address of the clause; in Dzinum-2 code, which has no headers, the word alone says
where a thread stands (R59, R98, R101). -/
def Env.hdrAt (e : Env) (a : W64) : W64 := if e.dz2 then a else e.hdr
/-- A thread that is parked at this instruction. -/
def Thread.at' (t : Thread) (e : Env) : Thread := { t with pc := e.wpc, hdr := e.hdrAt e.wpc }

/-- A thread that waits at the first instruction of its clause keeps the words it has read (R212). -/
def Thread.keep (t : Thread) (run : Option Run) : Thread :=
  match t.status, run with
  | .splice _ _, some r | .ring _ _ _, some r | .push _ _ _, some r => { t with kept := some ⟨r.hdr, r.head, r.words, r.dz2⟩ }
  | _, _ => t
/-- Commit the result of one thread: the lanes that go on. -/
def Res.commit (r : Res) (e : Env) : State × Bool :=
  let t := match r.flow with
    | .jump pc => { r.t with pc := pc, hdr := pc, status := .ready }
    | .leave => r.t.keep (r.s.group e.gid).run
    | .next => r.t
  ((r.s.updThread e.gid r.t.lane (fun _ => t)), r.flow == .next)

/-- The strand is parked whole at the instruction (R387). -/
def State.parkStrand (s : State) (e : Env) (t : Thread) (f : FaultInfo) : State :=
  let s1 := s.updGroup e.gid (fun g => { g.mapLanes [t.lane] (fun u => u.at' e) with run := none })
  s1.park e.gid [t.lane] e.wpc t.lo (t.n - 1) (s.group e.gid).slotNum f

/-- Indices [0, j) have performed the instruction and go on; the rest are a sub-strand parked at it (R385). -/
def State.cutFault (s : State) (e : Env) (t : Thread) (j : Nat) (f : FaultInfo) (done : Option CpsDone) : State :=
  let s := CpsDone.apply s done
  let cps := done.map CpsDone.part
  if j = 0 then (s.updThread e.gid t.lane (fun x => { x with cps := cps })).parkStrand e t f else
  let g := s.group e.gid
  let slot := (s.freeSlots ((s.pen g.pen).core.getD 0)).head?
  let sub := { (t.piece j (t.n - j)).at' e with cps := cps }
  let ng := { g with id := s.fresh, threads := [sub], run := none, placedAt := s.now,
                     place := match slot with | some k => .slot k | none => .saved }
  let s1 := s.updThread e.gid t.lane (fun x => { x.piece 0 j with cps := none })
  let s2 := { s1.bump with groups := s1.groups ++ [ng] }
  -- a sub-strand without a slot is saved; it becomes a ready member when it is resumed (R334, R385)
  (s2.park ng.id [t.lane] e.wpc sub.lo (sub.n - 1) g.slotNum f).advance e [t.lane]

/-- The strand acts once, its guard set being its whole range. -/
def State.actOnce (s : State) (e : Env) (m : Meaning) : State :=
  match (s.group e.gid).threads with
  | [t] =>
    match m.act s e t with
    | .ok r => let c := r.commit e; c.1.advance e (if c.2 then [t.lane] else [])
    | .error (.fault f c j) => s.cutFault e t j f c
    | .error (.stall k) => s.updGroup e.gid (fun g => { g with stall := some k })
  | _ => s

/-- No index acts: history shifts, nothing else (R70, R135). -/
def State.actNone (s : State) (e : Env) (m : Meaning) : State :=
  match (s.group e.gid).threads with
  | [t] =>
    let s1 := match m.dest with
      | some d => s.bump.updThread e.gid t.lane (fun x => x.skipped d s.fresh)
      | none => s
    s1.advance e [t.lane]
  | _ => s

/-- The indices of `ks` act one after another; the result or the first stop with its index. -/
def eachLoop (f : State → Env → Thread → Nat → Except Stop Res) (e : Env) :
    (ks : List Nat) → State → Thread → State × Thread
  | [], s, t => (s, t)
  | k :: ks, s, t =>
    match f s e t k with
    | .ok r => eachLoop f e ks r.s r.t
    | .error _ => eachLoop f e ks s t

/-- Each index of the guard set acts in the strand, which stays whole; the lowest index with a cause cuts it (R170,
R385, R441). The accesses of different indices are unordered (R169; log 5). The indices from the cut on have performed
nothing of the instruction: they go on from the thread as it was. -/
def State.actEach (s : State) (e : Env) (t : Thread) (rs : List (Nat × Nat × Bool))
    (f : State → Env → Thread → Nat → Except Stop Res) : State :=
  let ks := (List.range t.n).filter (runTrue rs)
  let bad := ks.find? (fun k => match f s e t k with | .error _ => true | .ok _ => false)
  let good := match bad with | none => ks | some j => ks.filter (· < j)
  let order := sortBy (fun k => Config.freeKey s.fresh k) good
  let r := eachLoop f e order s.bump t
  let s1 := r.1.updThread e.gid t.lane (fun _ => r.2)
  match bad with
  | none => s1.advance e [t.lane]
  | some j =>
    match f s e t j with
    | .error (.fault fi c _) => s1.cutFault e t j fi c
    | .error (.stall k) => s.updGroup e.gid (fun g => { g with stall := some k })
    | .ok _ => s1

/-- One lane: whether its guard is true, or an empty stack (R31). -/
def Thread.laneGuard (t : Thread) (g : Guard) : Option Bool :=
  match g with
  | .always => some true
  | _ => match t.preds with | [] => none | p :: _ => some (p.has t.lo == (g == .top))

/-- A lane thread's own action under its guard. -/
def Meaning.lane (m : Meaning) (s : State) (e : Env) (t : Thread) : Except Stop Res :=
  match t.laneGuard m.gd with
  | none => .error (.fault illfmt)
  | some g =>
    if g || m.whole || m.wholeLanes then
      match m.each with
      | some f => f s e t 0
      | none => m.act s e t
    else
      match m.dest with
      | some d => .ok { s := s.bump, t := t.skipped d s.fresh }
      | none => .ok { s := s, t := t }

/-- Lane threads act in the order given. The lanes that go on, and the first stop. -/
def laneLoop (m : Meaning) (e : Env) : (ls : List Nat) → State → List Nat → State × List Nat × Option (Nat × Stop)
  | [], s, go => (s, go, none)
  | l :: ls, s, go =>
    match (s.group e.gid).thread l with
    | none => laneLoop m e ls s go
    | some t =>
      match m.lane s e t with
      | .ok r => let c := r.commit e; laneLoop m e ls c.1 (if c.2 then go ++ [l] else go)
      | .error st => (s, go, some (l, st))

/-- The lowest lane in which a cause is found, from the state before the instruction (R386). -/
def firstStop (m : Meaning) (s : State) (e : Env) (ls : List Nat) : Option (Nat × Stop) :=
  ls.findSome? (fun l =>
    match (s.group e.gid).thread l with
    | none => none
    | some t => match m.lane s e t with | .error st => some (l, st) | .ok _ => none)

/-- Lanes from L up are parked as one unit with one record; those below have performed the instruction (R386). -/
def State.parkLanes (s : State) (e : Env) (ls : List Nat) (first : Nat) (f : FaultInfo) (done : Option CpsDone) : State :=
  let s := CpsDone.apply s done
  let cps := done.map CpsDone.part
  let s1 := s.updGroup e.gid (fun g => g.mapLanes ls (fun t => { t.at' e with cps := if t.lane == ls.headD 0 then cps else none }))
  s1.park e.gid ls e.wpc first (ls.length - 1) (s.group e.gid).slotNum f

/-- The lane threads selected act (R65, R386). -/
def State.driveLanes (s : State) (e : Env) (m : Meaning) : State :=
  match (s.group e.gid).run with
  | none => s
  | some r =>
    let todo := r.sel.filter (fun l => r.from' ≤ l)
    let done := r.sel.filter (fun l => l < r.from')
    let (s1, go, stop) :=
      if m.asc then laneLoop m e todo s []
      else
        let bad := firstStop m s e todo
        let good := match bad with | none => todo | some b => todo.filter (· < b.1)
        let x := laneLoop m e (sortBy (fun l => Config.freeKey s.fresh l) good) s.bump []
        (x.1, x.2.1, bad)
    match stop with
    | none => s1.advance e (sortBy id (done ++ go))
    | some (l, .fault f c _) =>
      let past := todo.filter (fun k => l ≤ k)
      let off := if m.onlyTrue then past.filter (fun k => (((s1.group e.gid).thread k).bind (·.laneGuard m.gd)) == some false) else []
      let idx := (((s1.group e.gid).thread l).map Thread.lo).getD 0
      (s1.parkLanes e (past.filter (fun k => !off.contains k)) idx f c).advance e (sortBy id (done ++ go ++ off))
    | some (l, .stall k) =>
      s1.updGroup e.gid (fun g => { g with
        stall := some k
        run := g.run.map (fun (q : Run) => { q with sel := sortBy id (done ++ go ++ todo.filter (fun x => l ≤ x)), from' := l }) })

/-- Lay the strand down, then execute per lane; wait for a lane row when none can be had (R19, R22). -/
def State.driveLaid (s : State) (e : Env) (m : Meaning) : State :=
  let core := (s.pen e.pen).core.getD 0
  match if s.rowQueue e.gid core then none else s.layDown e.gid with
  | none => s.bump.updGroup e.gid (fun g => { g with stall := some (.row s.fresh) })
  | some (s1, gid) => s1.driveLanes { e with gid := gid, strand := false } m

/-- The strand acts (R441). The cut comes before the instruction acts in each piece, and stays where a piece then faults: of a
branch under a partial guard whose target fails R60, the pieces that take it park, with the splice record of the cut, and the
others go on (R34, R60, R385; log 102). -/
def State.driveStrand (s : State) (e : Env) (m : Meaning) (t : Thread) : State :=
  match t.guardRuns m.gd with
  | none => s.parkStrand e t illfmt
  | some rs =>
    let any := rs.any (·.2.2)
    if !any && !m.whole then s.actNone e m
    else if m.lay s e t then s.driveLaid e m
    else
      match m.each with
      | some f => s.actEach e t rs f
      | none =>
        if m.whole || rs.length = 1 then s.actOnce e m
        else
          match s.cut e.gid (rs.map (fun r => (r.1, r.2.1))) (m.splice e) with
          | none => s.driveLaid e m
          | some (s1, ids) =>
            (ids.zip rs).foldl (fun x p =>
              if p.2.2.2 then x.actOnce { e with gid := p.1 } m else x.actNone { e with gid := p.1 } m) s1

/-- After an instruction: threads that have ended release their place, and strands that wait at a SPLICE are settled
(R39, R41, R157). -/
def State.settle (s : State) (pen : Nat) : State :=
  let live := s.groups.filter (fun g => !(g.pen == pen && g.threads.all (fun t => t.status == .exited)))
  let tidy := fun (g : Group) => if g.pen == pen && !g.failFolds.isEmpty then g.tidyFolds else g
  State.settlePen { s with groups := live.map tidy } pen

/-- Every instruction word acts through this: for the group that issues, at the word its clause has reached. `bad`
says that the instruction breaks a check of its entry that needs the clause or the launch. -/
def drive (i : Instr) (bad : Env → Bool) (m : Meaning) (s : State) : Host.Outcome State Fault Refusal :=
  match s.cur with
  | none => .fault .noIssuer
  | some gid =>
    let g := s.group gid
    match g.run with
    | none => .fault .noIssuer
    | some r =>
      let e := envOf g r
      let m1 := m.guarded (bad e || !i.regsOk (s.launchOf g.pen).regs)
      let s1 :=
        if g.lanes then s.driveLanes e m1
        else match g.threads with
          | [t] => s.driveStrand e m1 t
          | _ => s
      .next (s1.settle g.pen)

end Sys2Proof.Machine
end

