-- ==== Sys2Proof/Machine/Integer.lean ====
section
/-! DEFINITION. Block 0: integer and address arithmetic (R137 to R144), and the shape that every short-latency
instruction with register sources and one register result shares. -/

namespace Sys2Proof.Machine

/-! ### Instructions from registers to one register -/

/-- Sources in field order, the operation on their values with the flags it raises, and the form rule (R17). `op64` is
the 64-bit operation to which a .i32 variant, without its clamp `op32`, is compared. -/
structure RegI where
  gd : Guard
  d : Opd
  srcs : List (STy × Opd)
  op : List W64 → W64 × Fpx
  rule : List Form → Rule := eClass
  op64 : List W64 → W64 := fun vs => (op vs).1
  op32 : List W64 → W64 := fun vs => (op vs).1

def RegI.forms (r : RegI) (e : Env) (t : Thread) : List Form := r.srcs.map (fun p => t.src e.strand e.lit p.1 p.2)
def valsAt (fs : List Form) (k : Nat) : List W64 := fs.map (Form.val · k)
/-- The form of the result: in a lane thread, the value of its index. -/
def RegI.form (r : RegI) (e : Env) (t : Thread) : Option Form :=
  let fs := r.forms e t
  if e.strand then (r.rule fs).form t.n (fun k => (r.op (valsAt fs k)).1) (fun k => r.op64 (valsAt fs k)) (fun k => r.op32 (valsAt fs k))
  else some (.u (r.op (valsAt fs 0)).1)

/-- The meaning of such an instruction. -/
def RegI.meaning (r : RegI) : Meaning :=
  { gd := r.gd
    lay := fun _ e t => (r.form e t).isNone
    act := fun s e t =>
      match r.form e t with
      | some f => .ok { s := s, t := (t.result r.d f).orFpx (r.op (valsAt (r.forms e t) 0)).2 }
      | none => .error (.fault illfmt)
    dest := some r.d }

def regOp (i : Instr) (r : RegI) (s : State) : Host.Outcome State Fault Refusal := drive i (fun _ => false) r.meaning s

def arg (vs : List W64) (k : Nat) : W64 := vs.getD k 0
def int1 (x : FmtA) : List (STy × Opd) := [(.int, x.a)]
def int2 (x : FmtA) : List (STy × Opd) := [(.int, x.a), (.int, x.b)]
def int3 (x : FmtA) : List (STy × Opd) := [(.int, x.a), (.int, x.b), (.int, x.c)]
def pure1 (f : W64 → W64) (vs : List W64) : W64 × Fpx := (f (arg vs 0), 0)
def pure2 (f : W64 → W64 → W64) (vs : List W64) : W64 × Fpx := (f (arg vs 0) (arg vs 1), 0)
def pure3 (f : W64 → W64 → W64 → W64) (vs : List W64) : W64 × Fpx := (f (arg vs 0) (arg vs 1) (arg vs 2), 0)

def IntW.bits : IntW → Nat | .i32 => 32 | .i64 => 64

/-! ### IADD, ISUB, IMUL, IMAD, IABS (R138) -/

/-- The signed range of w bits. -/
def satInt (w : Nat) (x : Int) : Int := min (max x (-(2 ^ (w - 1)))) (2 ^ (w - 1) - 1)
/-- A result of width w, saturated under .sat, sign-extended to 64 bits (R138). -/
def narrowInt (w : Nat) (sat : Bool) (x : Int) : W64 :=
  let y := if sat then satInt w x else x
  word64 (sextN (y % 2 ^ w).toNat w)

/-- The arithmetic of R138 on modified sources of width w. -/
def arith (w : Nat) (x : FmtA) (f : Int → Int → Int → Int) (vs : List W64) : W64 :=
  narrowInt w (x.cl == .sat) (f (modInt w x.ma (arg vs 0)) (modInt w x.mb (arg vs 1)) (modInt w x.mc (arg vs 2)))

/-- Whether A is given only when exact: .sat, or an absolute modifier on a source in A form (R136). -/
def needsExact (x : FmtA) (fs : List Form) : Bool :=
  x.cl == .sat || ((fs.zip [x.ma, x.mb, x.mc]).any (fun p => p.1.isA && Mod.isAbs p.2))

/-- R17 and R136 for the additive and multiplicative instructions: `bad` marks the combinations that give E. -/
def arithRule (w : IntW) (x : FmtA) (bad : List Form → Bool) (fs : List Form) : Rule :=
  if !(fs.any Form.isA) then .u
  else if bad fs then .e
  else match w, needsExact x fs with
    | .i64, false => .aff
    | .i64, true => .exact
    | .i32, false => .exact32
    | .i32, true => .exactSat32

def bothA (fs : List Form) : Bool := match fs with | a :: b :: _ => a.isA && b.isA | _ => false

def arithI (w : IntW) (x : FmtA) (srcs : List (STy × Opd)) (f : Int → Int → Int → Int) (bad : List Form → Bool) : RegI :=
  { gd := x.gd, d := x.d, srcs := srcs, op := fun vs => (arith (IntW.bits w) x f vs, 0), rule := arithRule w x bad
    op64 := fun vs => arith 64 { x with cl := .none } f vs, op32 := fun vs => arith (IntW.bits w) { x with cl := .none } f vs }

/-- IADD: a + b (R137, R138). -/
def execIadd (w : IntW) (x : FmtA) (s : State) : Host.Outcome State Fault Refusal :=
  regOp (.iadd w x) (arithI w x (int2 x) (fun a b _ => a + b) (fun _ => false)) s
/-- ISUB: a − b. -/
def execIsub (w : IntW) (x : FmtA) (s : State) : Host.Outcome State Fault Refusal :=
  regOp (.isub w x) (arithI w x (int2 x) (fun a b _ => a - b) (fun _ => false)) s
/-- IMUL: the low bits of a · b; A × A gives E. -/
def execImul (w : IntW) (x : FmtA) (s : State) : Host.Outcome State Fault Refusal :=
  regOp (.imul w x) (arithI w x (int2 x) (fun a b _ => a * b) bothA) s
/-- IMAD: a · b + c. -/
def execImad (w : IntW) (x : FmtA) (s : State) : Host.Outcome State Fault Refusal :=
  regOp (.imad w x) (arithI w x (int3 x) (fun a b c => a * b + c) bothA) s

/-- IABS: |sext(a)|, which .sat bounds by 2^63 − 1 (R138). -/
def execIabs (x : FmtA) (s : State) : Host.Outcome State Fault Refusal :=
  regOp (.iabs x) { gd := x.gd, d := x.d, srcs := int1 x
                    op := pure1 fun a => let v := |modInt 64 x.ma a|
                                         word64 (if x.cl == .sat then min v (2 ^ 63 - 1) else v) } s

/-! ### Products, division (R137, R139, R144) -/

def readInt (v : Sgn) (m : Mod) (x : W64) : Int := match v with | .s => modInt 64 m x | .n => x.toNat

/-- IMULH: the high 64 bits of the product. -/
def execImulh (v : Sgn) (x : FmtA) (s : State) : Host.Outcome State Fault Refusal :=
  regOp (.imulh v x) { gd := x.gd, d := x.d, srcs := int2 x
                       op := pure2 fun a b => word64 ((readInt v x.ma a * readInt v x.mb b) / 2 ^ 64) } s

/-- The quotient of R139, truncated toward zero; a divisor of 0 gives all ones and raises IDZ. -/
def divOp (v : Sgn) (x : FmtA) (vs : List W64) : W64 × Fpx :=
  let a := readInt v x.ma (arg vs 0)
  let b := readInt v x.mb (arg vs 1)
  if b = 0 then (allOnes64, fxIDZ)
  else
    let q := a.tdiv b
    (word64 (if x.cl == .sat then min q (2 ^ 63 - 1) else q), 0)
/-- The remainder of R139, with the sign of a. -/
def remOp (v : Sgn) (x : FmtA) (vs : List W64) : W64 × Fpx :=
  let a := readInt v x.ma (arg vs 0)
  let b := readInt v x.mb (arg vs 1)
  if b = 0 then (allOnes64, fxIDZ) else (word64 (a - b * a.tdiv b), 0)
def execIdiv (v : Sgn) (x : FmtA) (s : State) : Host.Outcome State Fault Refusal :=
  regOp (.idiv v x) { gd := x.gd, d := x.d, srcs := int2 x, op := divOp v x } s
def execIrem (v : Sgn) (x : FmtA) (s : State) : Host.Outcome State Fault Refusal :=
  regOp (.irem v x) { gd := x.gd, d := x.d, srcs := int2 x, op := remOp v x } s

/-! ### Minimum, maximum, clamp, select -/

def execImin (v : Sgn) (x : FmtA) (s : State) : Host.Outcome State Fault Refusal :=
  regOp (.imin v x) { gd := x.gd, d := x.d, srcs := int2 x
                      op := pure2 fun a b => word64 (min (readInt v x.ma a) (readInt v x.mb b)) } s
def execImax (v : Sgn) (x : FmtA) (s : State) : Host.Outcome State Fault Refusal :=
  regOp (.imax v x) { gd := x.gd, d := x.d, srcs := int2 x
                      op := pure2 fun a b => word64 (max (readInt v x.ma a) (readInt v x.mb b)) } s
/-- ICLAMP: min(max(a, b), c). -/
def execIclamp (v : Sgn) (x : FmtA) (s : State) : Host.Outcome State Fault Refusal :=
  regOp (.iclamp v x) { gd := x.gd, d := x.d, srcs := int3 x
                        op := pure3 fun a b c => word64 (min (max (readInt v x.ma a) (readInt v x.mb b)) (readInt v x.mc c)) } s
def execSel (x : FmtA) (s : State) : Host.Outcome State Fault Refusal :=
  regOp (.sel x) { gd := x.gd, d := x.d, srcs := int3 x, op := pure3 fun a b c => if c ≠ 0 then a else b } s

/-! ### Bits (R137, R140 to R142) -/

def execAnd (x : FmtA) (s : State) : Host.Outcome State Fault Refusal :=
  regOp (.and x) { gd := x.gd, d := x.d, srcs := int2 x, op := pure2 fun a b => a &&& b } s
def execOr (x : FmtA) (s : State) : Host.Outcome State Fault Refusal :=
  regOp (.or x) { gd := x.gd, d := x.d, srcs := int2 x, op := pure2 fun a b => a ||| b } s
def execXor (x : FmtA) (s : State) : Host.Outcome State Fault Refusal :=
  regOp (.xor x) { gd := x.gd, d := x.d, srcs := int2 x, op := pure2 fun a b => a ^^^ b } s
/-- U when every source is U, else A by combining bases and steps (R17: NOT, MOV, ADDI). -/
def uOrAff (fs : List Form) : Rule := if fs.any Form.isA then .aff else .u
def execNot (x : FmtA) (s : State) : Host.Outcome State Fault Refusal :=
  regOp (.not x) { gd := x.gd, d := x.d, srcs := int1 x, op := pure1 fun a => ~~~a, rule := uOrAff } s

/-- A shift amount or a scale in A form gives E (R17). -/
def lastU (fs : List Form) : Rule :=
  match fs.reverse with
  | [] => .u
  | c :: rest => if c.isA then .e else if rest.any Form.isA then .aff else .u
def shlOp (a b : W64) : W64 := if b.toNat < 64 then a <<< b.toNat else 0
def execShl (x : FmtA) (s : State) : Host.Outcome State Fault Refusal :=
  regOp (.shl x) { gd := x.gd, d := x.d, srcs := int2 x, op := pure2 shlOp, rule := lastU } s
/-- SHR with the whole amount (R140). -/
def shrOp (v : Sgn) (a b : W64) : W64 :=
  match v with
  | .n => if b.toNat < 64 then a >>> b.toNat else 0
  | .s => if b.toNat < 64 then a.sshiftRight b.toNat else if isSet a 63 then allOnes64 else 0
def execShr (v : Sgn) (x : FmtA) (s : State) : Host.Outcome State Fault Refusal :=
  regOp (.shr v x) { gd := x.gd, d := x.d, srcs := int2 x, op := pure2 (shrOp v) } s
def execRot (x : FmtA) (s : State) : Host.Outcome State Fault Refusal :=
  regOp (.rot x) { gd := x.gd, d := x.d, srcs := int2 x, op := pure2 fun a b => a.rotateLeft (b.toNat % 64) } s

/-- Position and length of a field descriptor (R141). -/
def fieldPos (d : W64) : Nat := (bits d 5 0).toNat
def fieldLen (d : W64) : Nat := min (bits d 14 8).toNat (64 - fieldPos d)
def bfxOp (v : Sgn) (a d : W64) : W64 :=
  let len := fieldLen d
  let f := a.toNat / 2 ^ fieldPos d % 2 ^ len
  match v with
  | .n => BitVec.ofNat 64 f
  | .s => if len = 0 then 0 else word64 (sextN f len)
def execBfx (v : Sgn) (x : FmtA) (s : State) : Host.Outcome State Fault Refusal :=
  regOp (.bfx v x) { gd := x.gd, d := x.d, srcs := int2 x, op := pure2 (bfxOp v) } s
def bfiOp (a b d : W64) : W64 :=
  let mask := BitVec.ofNat 64 ((2 ^ fieldLen d - 1) * 2 ^ fieldPos d)
  (b &&& ~~~mask) ||| ((a <<< fieldPos d) &&& mask)
def execBfi (x : FmtA) (s : State) : Host.Outcome State Fault Refusal :=
  regOp (.bfi x) { gd := x.gd, d := x.d, srcs := int3 x, op := pure3 bfiOp } s

def popcOp (a : W64) : W64 := BitVec.ofNat 64 ((List.range 64).filter (isSet a)).length
/-- Zero bits above the highest 1; 64 for 0 (R142). -/
def clzOp (a : W64) : W64 := BitVec.ofNat 64 (64 - blen a.toNat)
/-- Zero bits below the lowest 1; 64 for 0 (R142). -/
def ctzOp (a : W64) : W64 := BitVec.ofNat 64 (((List.range 64).find? (isSet a)).getD 64)
def execPopc (x : FmtA) (s : State) : Host.Outcome State Fault Refusal :=
  regOp (.popc x) { gd := x.gd, d := x.d, srcs := int1 x, op := pure1 popcOp } s
def execClz (x : FmtA) (s : State) : Host.Outcome State Fault Refusal :=
  regOp (.clz x) { gd := x.gd, d := x.d, srcs := int1 x, op := pure1 clzOp } s
def execCtz (x : FmtA) (s : State) : Host.Outcome State Fault Refusal :=
  regOp (.ctz x) { gd := x.gd, d := x.d, srcs := int1 x, op := pure1 ctzOp } s
def bswapOp (a : W64) : W64 := BitVec.ofNat 64 (pack 8 ((List.range 8).map (fun k => elem 8 (7 - k) a.toNat)))
def brevOp (a : W64) : W64 := BitVec.ofNat 64 (pack 1 ((List.range 64).map (fun k => elem 1 (63 - k) a.toNat)))
def execBswap (x : FmtA) (s : State) : Host.Outcome State Fault Refusal :=
  regOp (.bswap x) { gd := x.gd, d := x.d, srcs := int1 x, op := pure1 bswapOp } s
def execBrev (x : FmtA) (s : State) : Host.Outcome State Fault Refusal :=
  regOp (.brev x) { gd := x.gd, d := x.d, srcs := int1 x, op := pure1 brevOp } s

/-! ### Moves, constants, addresses (R137, R143) -/

def execMov (x : FmtA) (s : State) : Host.Outcome State Fault Refusal :=
  regOp (.mov x) { gd := x.gd, d := x.d, srcs := int1 x, op := pure1 id, rule := uOrAff } s
def execMovi (x : FmtI) (s : State) : Host.Outcome State Fault Refusal :=
  regOp (.movi x) { gd := x.gd, d := x.d, srcs := [], op := fun _ => (x.imm.signExtend 64, 0) } s
def movhiOp (imm : W32) (a : W64) : W64 := imm ++ bits a 31 0
def execMovhi (x : FmtI) (s : State) : Host.Outcome State Fault Refusal :=
  regOp (.movhi x) { gd := x.gd, d := x.d, srcs := [(.int, x.a)], op := pure1 (movhiOp x.imm) } s
/-- LEA: a + b · 2^k, the term 0 when k ≥ 64 (R143). -/
def leaOp (x : FmtA) (a b c : W64) : W64 := modBits x.ma a + shlOp (modBits x.mb b) c
def leaRule (x : FmtA) (fs : List Form) : Rule :=
  match lastU fs with
  | .aff => if needsExact x fs then .exact else .aff
  | r => r
def execLea (x : FmtA) (s : State) : Host.Outcome State Fault Refusal :=
  regOp (.lea x) { gd := x.gd, d := x.d, srcs := int3 x, op := pure3 (leaOp x), rule := leaRule x } s
def execAddi (x : FmtI) (s : State) : Host.Outcome State Fault Refusal :=
  regOp (.addi x) { gd := x.gd, d := x.d, srcs := [(.int, x.a)], op := pure1 fun a => a + x.imm.signExtend 64
                    rule := uOrAff } s

/-! ### IMULW (R144) -/

/-- The 128-bit result goes to the register named and its successor; the history takes its low half (R69, R74). -/
def execImulw (v : Sgn) (x : FmtA) (s : State) : Host.Outcome State Fault Refusal :=
  let fs := fun (e : Env) (t : Thread) => (int2 x).map (fun p => t.src e.strand e.lit p.1 p.2)
  drive (.imulw v x) (fun _ => false)
    { gd := x.gd
      lay := fun _ e t => e.strand && (fs e t).any Form.isA
      act := fun s e t =>
        let vs := valsAt (fs e t) 0
        let p := BitVec.ofInt 128 (readInt v x.ma (arg vs 0) * readInt v x.mb (arg vs 1))
        let t1 := t.result x.d (.u (bits p 63 0))
        .ok { s := s, t := { t1 with regs := t1.regs.set (Opd.key x.d + 1) (.u (bits p 127 64)) } }
      dest := some x.d } s

end Sys2Proof.Machine
end

