-- ==== Sys2Proof/Machine/Control.lean ====
section
/-! DEFINITION. Block 1: predicates (R145 to R148), branches, calls, returns and LOOP (R149 to R153), and the
instructions on strands and threads (R154 to R165). -/

namespace Sys2Proof.Machine

/-! ### Compares (R145 to R147) -/

/-- A compare: the truth at each offset and the flags it raises. -/
structure CmpI where
  gd : Guard
  srcs : List (STy × Opd)
  test : List W64 → Bool × Fpx
  /-- A source in A form lays the strand down (R264). -/
  layA : Bool := false

def CmpI.forms (c : CmpI) (e : Env) (t : Thread) : List Form := c.srcs.map (fun p => t.src e.strand e.lit p.1 p.2)
/-- The truth at offset k, false where the guard is false (R147). -/
def CmpI.truth (c : CmpI) (e : Env) (t : Thread) (rs : List (Nat × Nat × Bool)) (k : Nat) : Bool :=
  runTrue rs k && (c.test (valsAt (c.forms e t) k)).1
/-- Runs of equal truth over the range; with U sources they are the guard's runs or one run. -/
def CmpI.runs (c : CmpI) (e : Env) (t : Thread) (rs : List (Nat × Nat × Bool)) : List (Nat × Nat × Bool) :=
  if (c.forms e t).any Form.isA then runsOf (c.truth e t rs) t.n
  else if (c.test (valsAt (c.forms e t) 0)).1 then rs else [(0, t.n, false)]

/-- The interval that the true runs form, if they form one (R33). -/
def oneIvl (t : Thread) (rs : List (Nat × Nat × Bool)) : Option Ivl :=
  match rs.filter (·.2.2) with
  | [] => some ⟨t.lo, 0⟩
  | [r] => some ⟨t.lo + r.1, r.2.1⟩
  | _ => none

/-- $fpx of a compare: raised for the indices whose guard is true (R112, R113). -/
def CmpI.flags (c : CmpI) (e : Env) (t : Thread) (rs : List (Nat × Nat × Bool)) : Fpx :=
  if rs.any (·.2.2) then (c.test (valsAt (c.forms e t) 0)).2 else 0

/-- The true runs as an entry, after `pops` entries are popped: pushed whole, or on the pieces of a cut, or per lane
after a lay-down (R33). A lane thread pushes its own truth. R33 and R113 let a cut come before or after the flags are set:
the model sets them first, so that every piece takes them (log 77). -/
def pushRuns (i : Instr) (bad : Env → Bool) (m : Meaning) (pops : Nat)
    (runs : Env → Thread → List (Nat × Nat × Bool)) (fl : Env → Thread → Fpx) (s : State) : Host.Outcome State Fault Refusal :=
  match s.cur with
  | none => .fault .noIssuer
  | some gid =>
    let g := s.group gid
    match g.run, g.lanes, g.threads with
    | some r, false, [t] =>
      let e := envOf g r
      let m1 := m.guarded (bad e || !i.regsOk (s.launchOf g.pen).regs)
      let rs := runs e t
      let fits := (t.guardRuns m.gd).isSome && decide (t.preds.length < 16 + pops) && decide (pops ≤ t.preds.length)
        && !m1.lay s e t && i.regsOk (s.launchOf g.pen).regs
      if fits && (oneIvl t rs).isNone then
        -- more than one true run: cut, or lay down
        match if rs.length ≤ 3 then s.cut gid (rs.map (fun r => (r.1, r.2.1))) none else none with
        | none => .next ((s.driveLaid e m1).settle g.pen)
        | some (s1, ids) =>
          .next (((ids.zip rs).foldl (fun x p =>
            (x.updGroup p.1 (fun y => { y with threads := y.threads.map (fun u =>
              { u with preds := u.entry p.2.2.2 :: u.preds.drop pops, fpx := u.fpx ||| fl e t }) })).advance { e with gid := p.1 } [t.lane]) s1).settle g.pen)
      else drive i bad m s
    | _, _, _ => drive i bad m s

/-- What a compare does: it pushes an entry for every index, of a false guard too. On a full stack such an index raises ILLFMT
as the others do, since it pushes (R31, R147), though R135 lets a false guard raise no fault (log 103). -/
def CmpI.meaning (c : CmpI) : Meaning :=
  { gd := c.gd, whole := true
    lay := fun _ e t => c.layA && (c.forms e t).any Form.isA
    act := fun s e t =>
      match t.guardRuns c.gd with
      | none => .error (.fault illfmt)
      | some rs =>
        if 16 ≤ t.preds.length then .error (.fault illfmt) else
        match oneIvl t (c.runs e t rs) with
        | none => .error (.fault illfmt)
        | some p => .ok { s := s, t := { t with preds := p :: t.preds }.orFpx (c.flags e t rs) } }

def cmpOp (i : Instr) (c : CmpI) (s : State) : Host.Outcome State Fault Refusal :=
  pushRuns i (fun _ => false) c.meaning 0 (fun e t => match t.guardRuns c.gd with | none => [] | some rs => c.runs e t rs)
    (fun e t => match t.guardRuns c.gd with | none => 0 | some rs => c.flags e t rs) s

def cmpTest (cc : CmpCC) (x : FmtA) (vs : List W64) : Bool :=
  let sa := modInt 64 x.ma (arg vs 0)
  let sb := modInt 64 x.mb (arg vs 1)
  let na := (arg vs 0).toNat
  let nb := (arg vs 1).toNat
  match cc with
  | .eq => decide (sa = sb) | .ne => decide (sa ≠ sb)
  | .lts => decide (sa < sb) | .les => decide (sa ≤ sb) | .gts => decide (sa > sb) | .ges => decide (sa ≥ sb)
  | .ltn => decide (na < nb) | .len => decide (na ≤ nb) | .gtn => decide (na > nb) | .gen => decide (na ≥ nb)

def execCmp (cc : CmpCC) (x : FmtA) (s : State) : Host.Outcome State Fault Refusal :=
  cmpOp (.cmp cc x) { gd := x.gd, srcs := int2 x, test := fun vs => (cmpTest cc x vs, 0) } s
def execPtest (x : FmtA) (s : State) : Host.Outcome State Fault Refusal :=
  cmpOp (.ptest x) { gd := x.gd, srcs := int2 x, test := fun vs => (arg vs 0 &&& arg vs 1 != 0, 0) } s

/-! ### Stack operations (R148) -/

/-- The runs of a combination of the top entries. -/
def stackRuns (f : Bool → Bool → Bool) (t : Thread) : List (Nat × Nat × Bool) :=
  let p := fun (d k : Nat) => match t.preds[d]? with | some q => q.has (t.lo + k) | none => false
  runsOf (fun k => f (p 0 k) (p 1 k)) t.n

/-- Replace `need` entries by one combination of the top two. -/
def stackOp (i : Instr) (need : Nat) (f : Bool → Bool → Bool) (s : State) : Host.Outcome State Fault Refusal :=
  pushRuns i (fun _ => false)
    { gd := .always
      act := fun s _ t =>
        if t.preds.length < need then .error (.fault illfmt) else
        match oneIvl t (stackRuns f t) with
        | none => .error (.fault illfmt)
        | some p => .ok { s := s, t := { t with preds := p :: t.preds.drop need } } }
    need (fun _ t => stackRuns f t) (fun _ _ => 0) s
def execPand (x : FmtA) (s : State) : Host.Outcome State Fault Refusal := stackOp (.pand x) 2 (· && ·) s
def execPor (x : FmtA) (s : State) : Host.Outcome State Fault Refusal := stackOp (.por x) 2 (· || ·) s
def execPnot (x : FmtA) (s : State) : Host.Outcome State Fault Refusal := stackOp (.pnot x) 1 (fun p _ => !p) s
def execPpop (x : FmtA) (s : State) : Host.Outcome State Fault Refusal :=
  drive (.ppop x) (fun _ => false)
    { gd := .always
      act := fun s _ t =>
        match t.preds with
        | [] => .error (.fault illfmt)
        | _ :: r => .ok { s := s, t := { t with preds := r } } } s

/-! ### Branches, calls and returns (R149 to R152) -/

/-- SPL16 as a splice address for the cut of a strand (R35, R79). -/
def splAddr (spl : BitVec 16) (e : Env) : Option W64 :=
  if spl = 0 then none else some (e.hdr + 8 * spl.zeroExtend 64)

/-- A taken transfer to the target of a thread, with the link written when `link` (R149, R150). -/
def branchMeaning (gd : Guard) (spl : BitVec 16) (reg : Option Opd) (tgt : Env → Thread → W64) (link : Bool) : Meaning :=
  { gd := gd, splice := splAddr spl
    lay := fun _ e t => match reg with | some o => e.strand && (t.src true e.lit .int o).isA | none => false
    act := fun s e t =>
      let a := tgt e t
      match s.checkTarget (s.ctxOf e.pen) a with
      | .error f => .error (.fault f)
      | .ok _ =>
        let t1 := if link then { t with regs := t.regs.set 254 (.u e.next) } else t
        .ok { s := s, t := t1, flow := .jump a } }
def relTarget (x : FmtB) (e : Env) (_ : Thread) : W64 := branchTarget e.origin x.tgt
def regTarget (x : FmtB) (e : Env) (t : Thread) : W64 := (t.src e.strand e.lit .int x.a).val 0

def execBra (x : FmtB) (s : State) : Host.Outcome State Fault Refusal :=
  drive (.bra x) (fun _ => false) (branchMeaning x.gd x.spl none (relTarget x) false) s
def execBrx (x : FmtB) (s : State) : Host.Outcome State Fault Refusal :=
  drive (.brx x) (fun _ => false) (branchMeaning x.gd x.spl (some x.a) (regTarget x) false) s
def execCall (x : FmtB) (s : State) : Host.Outcome State Fault Refusal :=
  drive (.call x) (fun _ => false) (branchMeaning x.gd x.spl none (relTarget x) true) s
def execCallx (x : FmtB) (s : State) : Host.Outcome State Fault Refusal :=
  drive (.callx x) (fun _ => false) (branchMeaning x.gd x.spl (some x.a) (regTarget x) true) s
def execRet (x : FmtB) (s : State) : Host.Outcome State Fault Refusal :=
  drive (.ret x) (fun _ => false) (branchMeaning x.gd x.spl (some x.a) (regTarget x) false) s

/-- LOOP: decrement the counter, a short-latency result that enters the history, and branch when it is not 0 (R69, R153;
log 19). -/
def execLoop (x : FmtB) (s : State) : Host.Outcome State Fault Refusal :=
  drive (.loop x) (fun _ => false)
    { gd := x.gd, splice := splAddr x.spl, dest := some x.a
      lay := fun _ e t => e.strand && (t.src true e.lit .int x.a).isA
      act := fun s e t =>
        let v := (t.src e.strand e.lit .int x.a).val 0 - 1
        let t1 := t.result x.a (.u v)
        if v = 0 then .ok { s := s, t := t1 } else
        let a := branchTarget e.origin x.tgt
        match s.checkTarget (s.ctxOf e.pen) a with
        | .error f => .error (.fault f)
        | .ok _ => .ok { s := s, t := t1, flow := .jump a } } s

/-! ### SPLICE (R37 to R41, R155, R156) -/

/-- A strand arrives when the clause is the one its top record names; a lane thread arrives and waits for the others,
or passes when a fold has failed here (R37, R41). -/
def execSplice (x : FmtI) (s : State) : Host.Outcome State Fault Refusal :=
  drive (.splice x) (fun e => !e.first)
    { gd := .always
      act := fun s e t =>
        let wait : Res := { s := s, t := { t with pc := e.hdr, hdr := e.hdr, status := .splice (s.cycles (s.penDie e.pen)) s.draw }
                            flow := .leave }
        if e.strand then
          match t.splices with
          | r :: _ => if r.addr = e.hdr then .ok wait else .ok { s := s, t := t }
          | [] => .ok { s := s, t := t }
        else
          if (s.group e.gid).foldFailed e.hdr then
            .ok { s := s.updGroup e.gid (fun y => y.passFold e.hdr [t.lane]), t := t }
          else .ok wait } s

/-! ### EXIT, NOP and identity (R157 to R162) -/

def execExit (x : FmtA) (s : State) : Host.Outcome State Fault Refusal :=
  drive (.exit x) (fun _ => false)
    { gd := x.gd, act := fun s e t => .ok { s := s.leavePops e.pen t, t := t.exit, flow := .leave } } s
def execNop (x : FmtA) (s : State) : Host.Outcome State Fault Refusal :=
  drive (.nop x) (fun _ => false) { gd := x.gd, act := fun s _ t => .ok { s := s, t := t } } s

/-- A short-latency result that is the same for every index of the thread. -/
def valueMeaning (gd : Guard) (d : Opd) (f : State → Env → Thread → W64) : Meaning :=
  { gd := gd, dest := some d, act := fun s e t => .ok { s := s, t := t.result d (.u (f s e t)) } }

/-- The identity values of R160. -/
def identity (sel : Nat) (l : Launch) (p : Pen) : Nat :=
  match sel with
  | 0 => l.id
  | 1 => p.vcore
  | 2 => p.vcore / l.c
  | 3 => l.n
  | 4 => p.vcore * ((l.n + l.yards * l.c - 1) / (l.yards * l.c))
  | _ => p.vcore % l.c
def execMovix (x : FmtA) (s : State) : Host.Outcome State Fault Refusal :=
  drive (.movix x) (fun _ => false)
    (valueMeaning x.gd x.d (fun s e _ => BitVec.ofNat 64 (identity x.a.idx.toNat (s.launchOf e.pen) (s.pen e.pen)))) s
/-- RANGE: (n − 1) · 2^32 + lo (R161). -/
def execRange (x : FmtA) (s : State) : Host.Outcome State Fault Refusal :=
  drive (.range x) (fun _ => false)
    (valueMeaning x.gd x.d (fun _ _ t => BitVec.ofNat 64 ((t.n - 1) * 2 ^ 32 + t.lo))) s
/-- FORMQ (R162). -/
def formCode (strand : Bool) (t : Thread) (o : Opd) : W64 :=
  match o.file with
  | .special => if o.idx.toNat = 1 then (if strand then 1 else 2) else 0
  | _ => if strand then (if (t.src true 0 .int o).isA then 1 else 0) else 2
def execFormq (x : FmtA) (s : State) : Host.Outcome State Fault Refusal :=
  drive (.formq x) (fun _ => false) (valueMeaning x.gd x.d (fun _ e t => formCode e.strand t x.a)) s

/-- LAYDN: the strand is laid down, and nothing else happens (R23). -/
def execLaydn (x : FmtA) (s : State) : Host.Outcome State Fault Refusal :=
  drive (.laydn x) (fun _ => false)
    { gd := .always, lay := fun _ e _ => e.strand, act := fun s _ t => .ok { s := s, t := t } } s

/-! ### Kill points (R164, R165, R363) -/

/-- The copy of the key that has reached a core or a die (R361). -/
def Cell.copyOf (c : Cell) (loc : KeyLoc) : W64 :=
  match c.locals.find? (fun p => p.1 == loc) with | some p => p.2 | none => c.base
/-- A new key reaches every local copy within this time of its INCUPD (R361). -/
def keyReach : Nat := 250
/-- The local key that a core or a die holds of a cell at a reference time: the one that has reached it, and never one older
than the last INCUPD that `keyReach` has passed since (R361). -/
def Cell.localKey (c : Cell) (now : Nat) (loc : KeyLoc) : W64 :=
  match c.updates.find? (fun p => decide (p.1 + keyReach ≤ now)) with
  | some u => if u.2.toInt < (c.copyOf loc).toInt then u.2 else c.copyOf loc
  | none => c.copyOf loc
/-- The kill test at a kill point (R363). -/
def State.killed (s : State) (pen : Nat) (t : Thread) : Bool :=
  let b := (s.task t.task).cell
  b.v && decide (((s.cell b.cell.toNat).localKey s.now (.core ((s.pen pen).core.getD 0))).toInt ≤ b.bound.toInt)
/-- A thread that the test kills ends as EXIT ends it (R363). -/
def killRes (s : State) (pen : Nat) (t : Thread) : Res :=
  { s := (s.noteKill t.task true).leavePops pen t, t := t.exit, flow := .leave }

def execKpoint (x : FmtA) (s : State) : Host.Outcome State Fault Refusal :=
  drive (.kpoint x) (fun _ => false)
    { gd := .always
      act := fun s e t => if s.killed e.pen t then .ok (killRes s e.pen t) else .ok { s := s, t := t } } s

/-- $role at a latch (R354): MOVES, GOV and STAGE of the thread's unit. -/
def roleOf (l : Launch) (p : Pen) : W64 :=
  if !l.gov.set.enabled then (0 : BitVec 24) ++ l.gov.moves ++ (0 : BitVec 8) else
  let unit := if l.gov.set.yardUnit then p.vcore / l.c else p.vcore
  let stage := ((l.gov.roles.find? (·.1 == unit)).map (·.2)).getD 0
  (0 : BitVec 24) ++ l.gov.moves ++ (0 : BitVec 4) ++ (1 : BitVec 1) ++ BitVec.ofNat 3 stage

/-- YIELD inside its clause: a kill point, a latch of $role, and the group gives up its turn once the clause ends (R164,
R354). -/
def yieldWord (x : FmtA) (s : State) : Host.Outcome State Fault Refusal :=
  drive (.yield x) (fun e => !e.last)
    { gd := .always
      act := fun s e t =>
        if s.killed e.pen t then .ok (killRes s e.pen t) else
        .ok { s := s.updGroup e.gid (fun g => { g with yielded := true })
              t := { t with role := roleOf (s.launchOf e.pen) (s.pen e.pen) } } } s

end Sys2Proof.Machine
end

