-- ==== Sys2Proof/Machine/Memory.lean ====
section
/-! DEFINITION. Block 2 but its rings: LD, ST, LDS, STS, PREF and CPS (R166 to R175), and the shapes of a
long-latency result and of a store that other blocks share. -/

namespace Sys2Proof.Machine

/-! ### Results of long-latency instructions (R66 to R68) -/

def goForms (d : Opd) (fs : List Form) : List (Nat × Form) := (List.range fs.length).zip fs |>.map (fun p => (Opd.key d + p.1, p.2))

/-- A memory-class operation whose results are `writes`, delivered by its completion (R68; log 6). -/
def oweRes (s : State) (e : Env) (t : Thread) (flg : BitVec 4) (writes : List (Nat × Form)) (fpx : Fpx := 0)
    (queue : Option W64 := none) : Res :=
  { s := s.bump
    t := t.owe { op := s.fresh, flag := namedFlag flg e.head.seta, writes := writes, fpx := fpx, engine := false,
                 queue := queue, pc := e.wpc } s.fresh }
/-- The same for an instruction without results that acts for each index of a strand: one operation of the thread. -/
def oweOnce (s : State) (e : Env) (t : Thread) (fpx : Fpx := 0) : Res :=
  if t.pend.any (fun p => p.pc == e.wpc && p.writes.isEmpty && !p.engine) then
    { s := s, t := { t with pend := t.pend.map (fun p => if p.pc == e.wpc && p.writes.isEmpty then { p with fpx := p.fpx ||| fpx } else p) } }
  else oweRes s e t 15 [] fpx

/-- The index by which an access of a thread is tested against $hwm: in a strand, the index whose stack holds it. -/
def stackIndex (l : Launch) (t : Thread) (x : W64) : Nat :=
  let i := (x.toNat - l.stk.toNat) / l.z
  if l.stk.toNat ≤ x.toNat ∧ t.lo ≤ i ∧ i < t.lo + t.n then i else t.lo

/-- An access of the thread at an effective address, for offset k of its range or for the whole of it. Its stacks are those
of the launch of its task (R189). -/
def State.threadAccess (s : State) (e : Env) (t : Thread) (sp : Space) (ea : W64) (n : Nat) (k : AccKind)
    (idx : Option Nat := none) (align : Nat := n) : Except FaultInfo Loc :=
  let l := s.launch (s.task t.task).launch
  s.accessOf l e.pen (match idx with | some j => t.lo + j | none => stackIndex l t ea) t.hwm sp ea n k align

def asStop {α : Type} (r : Except FaultInfo α) : Except Stop α :=
  match r with | .ok a => .ok a | .error f => .error (.fault f)

/-! ### The shed (R199) -/

/-- A line is placed in the shed of a die where the context holds ways there; it may evict one line that the same context
has there: a free choice (R199; log 1). -/
def State.placeShed (s : State) (c die line : Nat) : State :=
  let x := s.ctx c
  if x.shed.getD die 0 = 0 ∨ x.shedLines.contains (die, line) then s else
  let mine := x.shedLines.filter (fun p => p.1 == die)
  let k := if mine.isEmpty then 0 else Config.freeKey s.fresh (512 + die) % (mine.length + 1)
  let keep := fun (ls : List (Nat × Nat)) => if k = 0 then ls else ls.erase (mine.getD (k - 1) (die, line))
  s.bump.updCtx c (fun y => { y with shedLines := (die, line) :: keep y.shedLines })
/-- What the hint of an access does: HINT = shed places its line in the shed of the pen's die. -/
def State.hinted (s : State) (e : Env) (h : Hint) (l : Loc) : State :=
  match h, l with
  | .shed, .phys pa => s.placeShed (s.ctxOf e.pen) (s.penDie e.pen) (pa / 128)
  | _, _ => s

/-! ### Plain loads and stores (R166 to R173) -/

def LdV.size : LdV → Nat | .n8 | .s8 => 1 | .n16 | .s16 => 2 | .n32 | .s32 => 4 | .b64 => 8 | .b128 => 16
/-- The values loaded into V, and V + 1 (R171). -/
def LdV.values (v : LdV) (m : Nat) : List Form :=
  match v with
  | .s8 => [.u (word64 (sextN m 8))]
  | .s16 => [.u (word64 (sextN m 16))]
  | .s32 => [.u (word64 (sextN m 32))]
  | .b128 => [.u (BitVec.ofNat 64 m), .u (BitVec.ofNat 64 (m / 2 ^ 64))]
  | _ => [.u (BitVec.ofNat 64 m)]

def baseForm (e : Env) (t : Thread) (o : Opd) : Form := t.src e.strand e.lit .int o
def srcA (e : Env) (t : Thread) (os : List Opd) : Bool := e.strand && os.any (fun o => (baseForm e t o).isA)

/-- LD: one access, at issue; the value is delivered at completion (R169 to R171). -/
def execLd (v : LdV) (x : FmtM) (s : State) : Host.Outcome State Fault Refusal :=
  drive (.ld v x) (fun _ => false)
    { gd := x.gd, asc := false
      lay := fun _ e t => srcA e t [x.base]
      act := fun s e t => do
        let l ← asStop (s.threadAccess e t x.space (eaM ((baseForm e t x.base).val 0) x.off) (LdV.size v) accRead)
        return oweRes (s.hinted e x.hint l) e t 15 (goForms x.v (LdV.values v (s.readLoc l (LdV.size v)))) } s

def StV.size : StV → Nat | .b8 => 1 | .b16 => 2 | .b32 => 4 | .b64 => 8 | .b128 => 16
/-- The value stored for offset k: V, and V + 1 above it for 16 bytes (R172). -/
def storeValue (e : Env) (t : Thread) (v : Opd) (n k : Nat) : Nat :=
  let lo := ((baseForm e t v).val k).toNat
  if n = 16 then lo + 2 ^ 64 * ((t.regs.get (Opd.key v + 1)).val k).toNat else lo % 2 ^ (8 * n)

/-- The location that ST stores to for offset k. -/
def stLoc (v : StV) (x : FmtM) (s : State) (e : Env) (t : Thread) (k : Nat) : Except FaultInfo Loc :=
  s.threadAccess e t x.space (eaM ((baseForm e t x.base).val k) x.off) (StV.size v) accWrite (some k)

/-- ST: each index stores its own value at its own address (R170, R172). -/
def execSt (v : StV) (x : FmtM) (s : State) : Host.Outcome State Fault Refusal :=
  let f := fun (s : State) (e : Env) (t : Thread) (k : Nat) => do
    let l ← asStop (stLoc v x s e t k)
    return ({ s := (s.writeLoc l (StV.size v) (storeValue e t x.v (StV.size v) k)).hinted e x.hint l, t := t } : Res)
  drive (.st v x) (fun _ => false) { gd := x.gd, asc := false, act := fun s e t => f s e t 0, each := some f } s

def LdsV.size : LdsV → Nat | .b32 => 4 | .b64 => 8 | .b128 => 16
/-- LDS: short-latency, visible to the next instruction (R173). -/
def execLds (v : LdsV) (x : FmtM) (s : State) : Host.Outcome State Fault Refusal :=
  drive (.lds v x) (fun _ => false)
    { gd := x.gd, asc := false, dest := some x.v
      lay := fun _ e t => srcA e t [x.base]
      act := fun s e t => do
        let l ← asStop (s.teamLoc e.pen (eaM ((baseForm e t x.base).val 0) x.off) (LdsV.size v) accRead)
        let m := s.readLoc l (LdsV.size v)
        let t1 := t.result x.v (.u (BitVec.ofNat 64 m))
        return { s := s, t := if v == .b128 then { t1 with regs := t1.regs.set (Opd.key x.v + 1) (.u (BitVec.ofNat 64 (m / 2 ^ 64))) } else t1 } } s
def stsLoc (v : LdsV) (x : FmtM) (s : State) (e : Env) (t : Thread) (k : Nat) : Except FaultInfo Loc :=
  s.teamLoc e.pen (eaM ((baseForm e t x.base).val k) x.off) (LdsV.size v) accWrite
def execSts (v : LdsV) (x : FmtM) (s : State) : Host.Outcome State Fault Refusal :=
  let f := fun (s : State) (e : Env) (t : Thread) (k : Nat) => do
    let l ← asStop (stsLoc v x s e t k)
    return ({ s := s.writeLoc l (LdsV.size v) (storeValue e t x.v (LdsV.size v) k), t := t } : Res)
  drive (.sts v x) (fun _ => false) { gd := x.gd, asc := false, act := fun s e t => f s e t 0, each := some f } s

/-! ### PREF (R174) -/

/-- A PREF whose address fails a check is discarded (R174). -/
def State.prefetch (s : State) (e : Env) (x : FmtM) (t : Thread) (k : Nat) : State :=
  match s.threadAccess e t x.space (eaM ((baseForm e t x.base).val k) x.off) 1 accRead.device (some k) with
  | .ok l => s.hinted e x.hint l
  | .error _ => s
def execPref (x : FmtM) (s : State) : Host.Outcome State Fault Refusal :=
  let f := fun (s : State) (e : Env) (t : Thread) (k : Nat) =>
    (Except.ok { s := s.prefetch e x t k, t := t } : Except Stop Res)
  drive (.pref x) (fun _ => false) { gd := x.gd, act := fun s e t => f s e t 0, each := some f } s

/-! ### CPS (R175) -/

/-- The number of 8-byte accesses on each side of a CPS. -/
def cpsWords : Nat := 16
/-- Access j of one side of a CPS: to the other address (`glob`), or to the scratch line that V names, which lies in the
scratch whole. A misaligned line raises ALIGN (R168). -/
def cpsAt (glob w : Bool) (x : FmtM) (s : State) (e : Env) (t : Thread) (k j : Nat) : Except FaultInfo Loc :=
  let kind := if w then accWrite else accRead
  let align := if j = 0 then 128 else 8
  let d : W64 := BitVec.ofNat 64 (8 * j)
  if glob then s.threadAccess e t x.space (eaM ((baseForm e t x.base).val k) x.off + d) 8 kind (some k) align
  else
    let v := (baseForm e t x.v).val k
    if v.toNat % 128 = 0 ∧ (s.pen e.pen).scsz < v.toNat + 128 then .error ⟨cPERM, v, 0, kind.acc, none⟩
    else s.threadAccess e t .scratch (v + d) 8 kind (some k) align

/-- The accesses that stand before the first failing one. -/
def goodPrefix : List (Except FaultInfo Loc) → List Loc
  | .ok l :: rs => l :: goodPrefix rs
  | _ => []

/-- 16 loads, then 16 stores, each one access. Where one faults, those before it have been performed, and are not performed
again; the cause is the first in the order of R384 among the accesses to come. A misaligned index performs no access (R168,
R175, R389). -/
def cpsAct (out : Bool) (x : FmtM) (s : State) (e : Env) (t : Thread) (k : Nat) : Except Stop Res :=
  let part : CpsPart := if k = 0 then t.cps.getD ⟨[], 0⟩ else ⟨[], 0⟩
  let loads := ((List.range cpsWords).drop part.loaded.length).map (cpsAt (!out) false x s e t k)
  let stores := ((List.range cpsWords).drop part.stored).map (cpsAt out true x s e t k)
  let vs := part.loaded ++ (goodPrefix loads).map (fun l => BitVec.ofNat 64 (s.readLoc l 8))
  let writes := if vs.length < cpsWords then [] else (goodPrefix stores).zip (vs.drop part.stored)
  match firstCause (loads ++ stores) with
  | .error f =>
    if f.cause = cALIGN then .error (.fault f)
    else .error (.fault f (some ⟨⟨vs, part.stored + writes.length⟩, writes⟩))
  | .ok _ =>
    let s1 := CpsDone.apply s (some ⟨part, writes⟩)
    let s2 := match cpsAt true out x s1 e t k 0 with | .ok l => s1.hinted e x.hint l | .error _ => s1
    let t1 := if k = 0 then { t with cps := none } else t
    if out then .ok { s := s2, t := t1 } else .ok (oweOnce s2 e t1)

def execCpsIn (x : FmtM) (s : State) : Host.Outcome State Fault Refusal :=
  drive (.cpsIn x) (fun _ => false)
    { gd := x.gd, asc := false, act := fun s e t => cpsAct false x s e t 0, each := some (cpsAct false x) } s
def execCpsOut (x : FmtM) (s : State) : Host.Outcome State Fault Refusal :=
  drive (.cpsOut x) (fun _ => false)
    { gd := x.gd, asc := false, act := fun s e t => cpsAct true x s e t 0, each := some (cpsAct true x) } s

end Sys2Proof.Machine
end

