-- ==== Sys2Proof/Machine/Rings.lean ====
section
/-! DEFINITION. The scratch rings (R176 to R187). -/

namespace Sys2Proof.Machine

def ringCnt (c : W64) : Nat := (bits c 44 32).toNat
def ringSize (c : W64) : Nat := 2 ^ (bits c 27 24).toNat
def ringBase (c : W64) : Nat := (bits c 20 0).toNat
def Ring.count (r : Ring) (p : Slot → Bool) : Nat := (r.slots.filter p).length
/-- The status word (R178). A slot that an engine holds is CLAIMED (R344). -/
def Ring.status (r : Ring) : W64 :=
  (0 : BitVec 4) ++ BitVec.ofNat 12 r.tail ++ (0 : BitVec 4) ++ BitVec.ofNat 12 r.head ++ (0 : BitVec 3)
    ++ BitVec.ofNat 13 (r.count (· == .filled)) ++ (0 : BitVec 3) ++ BitVec.ofNat 13 (r.count (· == .free))

def State.ring (s : State) (pen n : Nat) : Ring := (s.pen pen).rings.getD n Ring.blank
def State.setRing (s : State) (pen n : Nat) (r : Ring) : State := s.updPen pen (fun p => { p with rings := p.rings.set n r })
def Ring.offset (r : Ring) (k : Nat) : W64 := BitVec.ofNat 64 (ringBase r.cfg + k * ringSize r.cfg)

/-- Claim the slot at the tail: its offset and the ring, or none (R181). -/
def Ring.claim (r : Ring) : Option (W64 × Ring) :=
  if r.slots.getD r.tail .claimed == .free then
    some (r.offset r.tail, { r with slots := r.slots.set r.tail .claimed, tail := (r.tail + 1) % ringCnt r.cfg })
  else none
/-- Take the slot at the head (R183). -/
def Ring.take (r : Ring) : Option (W64 × Ring) :=
  if r.slots.getD r.head .free == .filled then
    some (r.offset r.head, { r with slots := r.slots.set r.head .taken, head := (r.head + 1) % ringCnt r.cfg })
  else none

/-- A slot start in the ring (R182). -/
def Ring.slotOf (r : Ring) (b : W64) : Option Nat :=
  let k := (b.toNat - ringBase r.cfg) / ringSize r.cfg
  if ringBase r.cfg ≤ b.toNat ∧ k < ringCnt r.cfg ∧ (r.offset k) = b then some k else none

def ringNum (e : Env) (t : Thread) (o : Opd) : Nat := ((baseForm e t o).val 0).toNat % 8

/-- RNGWAIT or RNGCLAIM (R181, R183, R184). -/
def ringWait (claim : Bool) (x : FmtQ) : Meaning :=
  { gd := x.gd, dest := some x.d
    lay := fun _ e t => srcA e t [x.a]
    act := fun s e t =>
      let n := ringNum e t x.a
      let r := s.ring e.pen n
      if ringCnt r.cfg = 0 then .error (.fault illfmt) else
      match if claim then r.claim else r.take with
      | some (v, r1) => .ok { s := s.setRing e.pen n r1, t := t.result x.d (.u v) }
      | none =>
        if x.wm == 1 then .ok { s := s, t := t.result x.d (.u allOnes64) }
        else .ok { s := s, t := { t with pc := e.hdr, hdr := e.hdr, status := .ring n claim x.d }, flow := .leave } }

def execRngwait (x : FmtQ) (s : State) : Host.Outcome State Fault Refusal :=
  drive (.rngwait x) (fun e => x.wm == 0 && !e.first) (ringWait false x) s
def execRngclaim (x : FmtQ) (s : State) : Host.Outcome State Fault Refusal :=
  drive (.rngclaim x) (fun e => x.wm == 0 && !e.first) (ringWait true x) s

/-- The slot is CLAIMED, by a thread or by a copy (R182, R187, R344). -/
def Slot.isClaimed : Slot → Bool | .claimed | .engine _ => true | _ => false
/-- RNGFILL or RNGFREE: a slot in the state wanted takes the new one (R182). -/
def ringMark (want : Slot → Bool) (new : Slot) (x : FmtQ) : Meaning :=
  { gd := x.gd
    lay := fun _ e t => srcA e t [x.a, x.b]
    act := fun s e t =>
      let n := ringNum e t x.a
      let r := s.ring e.pen n
      if ringCnt r.cfg = 0 then .error (.fault illfmt) else
      match r.slotOf ((baseForm e t x.b).val 0) with
      | none => .error (.fault illfmt)
      | some k =>
        if want (r.slots.getD k .free) then .ok { s := s.setRing e.pen n { r with slots := r.slots.set k new }, t := t }
        else .error (.fault illfmt) }
def execRngfill (x : FmtQ) (s : State) : Host.Outcome State Fault Refusal :=
  drive (.rngfill x) (fun _ => false) (ringMark Slot.isClaimed .filled x) s
def execRngfree (x : FmtQ) (s : State) : Host.Outcome State Fault Refusal :=
  drive (.rngfree x) (fun _ => false) (ringMark (· == .taken) .free x) s

/-- The configuration checks of R180, in their order. -/
def ringCfgBad (b : W64) (scsz : Nat) : Option Nat :=
  let lsz := (bits b 27 24).toNat
  if bits b 63 45 != 0 || bits b 31 28 != 0 || bits b 23 21 != 0 || decide (lsz < 6) || decide (16 < lsz)
      || decide (4096 < ringCnt b) || decide (ringBase b % 64 ≠ 0) then some cILLFMT
  else if ringCnt b ≠ 0 ∧ scsz < ringBase b + ringCnt b * ringSize b then some cPERM
  else none
/-- An engine operation holds a slot of the ring, or is bound to it (R180, R344). -/
def State.ringHeld (s : State) (pen n : Nat) : Bool :=
  (s.ring pen n).slots.any (fun k => match k with | .engine _ => true | _ => false)

/-- RNGCFG makes no access, and R392 names the address of an access only: FR.VA of its PERM record is BASE (log 78). -/
def execRngcfgConfigure (x : FmtQ) (s : State) : Host.Outcome State Fault Refusal :=
  drive (.rngcfgConfigure x) (fun _ => false)
    { gd := x.gd, dest := some x.d
      lay := fun _ e t => srcA e t [x.a, x.b]
      act := fun s e t =>
        let n := ringNum e t x.a
        let b := (baseForm e t x.b).val 0
        match ringCfgBad b (s.pen e.pen).scsz with
        | some c => .error (.fault ⟨c, if c = cPERM then BitVec.ofNat 64 (ringBase b) else 0, 0, 0, none⟩)
        | none =>
          if s.ringHeld e.pen n then .error (.stall .ring) else
          .ok { s := s.setRing e.pen n { cfg := b, head := 0, tail := 0, slots := List.replicate (ringCnt b) .free }
                t := t.result x.d (.u (s.ring e.pen n).status) } } s
def execRngcfgQuery (x : FmtQ) (s : State) : Host.Outcome State Fault Refusal :=
  drive (.rngcfgQuery x) (fun _ => false)
    { gd := x.gd, dest := some x.d
      lay := fun _ e t => srcA e t [x.a, x.b]
      act := fun s e t => .ok { s := s, t := t.result x.d (.u (s.ring e.pen (ringNum e t x.a)).status) } } s

/-- A waiting thread tests its condition again (R181, R183). After RNGCFG a ring may be disabled, which raises
ILLFMT at the instruction (R179, R180). -/
def State.retestRing (s : State) (gid lane : Nat) : State :=
  let g := s.group gid
  match g.thread lane with
  | some t =>
    match t.status with
    | .ring n claim d =>
      if !g.resident s then s else
      let r := s.ring g.pen n
      if ringCnt r.cfg = 0 then
        (s.updThread gid lane Thread.atFirst).park gid [lane] (t.hdr + 8) t.lo (t.n - 1) g.slotNum illfmt
      else
        match if claim then r.claim else r.take with
        | some (v, r1) => (s.setRing g.pen n r1).updThread gid lane (fun u => u.resumeWith d v)
        | none => s
    | _ => s
  | none => s

end Sys2Proof.Machine
end

