-- ==== Sys2Proof/Machine/Sync.lean ====
section
/-! DEFINITION. Block 3: atomics, waiting on an address, barriers, gather and scatter, remap slots, ENGFENCE (R227 to
R256), and the events that end their waits. -/

namespace Sys2Proof.Machine

/-- A thread that waits at the last instruction of its clause stands at the next clause. -/
def Thread.atNext (t : Thread) (e : Env) (st : Status) : Thread := { t with pc := e.next, hdr := e.next, status := st }

/-! ### Gang launches that have failed (R406 to R408) -/

/-- The thread belongs to a part of a failed multi-package gang launch, and the location is the field at byte `off` of
its record. -/
def State.gangStop (s : State) (pen : Nat) (t : Thread) (l : Loc) (off : Nat) : Bool :=
  let id := (s.task t.task).launch
  match (s.launch id).gang with
  | none => false
  | some a =>
    s.gangs.any (fun g => g.failed && g.launch == id && g.addr == a && g.ctx == s.ctxOf pen)
      && match s.translate (s.ctxOf pen) (a + BitVec.ofNat 64 off) with
         | some leaf => Loc.phys leaf.pa == l
         | none => false

/-! ### Atomics (R231 to R235) -/

def AtomOp.size : AtomOp → Nat | .add32 => 4 | _ => 8
/-- The new memory value (R232). -/
def AtomOp.apply (op : AtomOp) (old b : Nat) : Nat :=
  match op with
  | .add32 => (old + b) % 2 ^ 32
  | .add64 => (old + b) % 2 ^ 64
  | .and => old &&& b
  | .or => old ||| b
  | .xor => old ^^^ b
  | .mins => if sextN old 64 ≤ sextN b 64 then old else b
  | .maxs => if sextN old 64 ≥ sextN b 64 then old else b
  | .minn => min old b
  | .maxn => max old b
  | .xchg => b

/-- The location of a Q-format memory instruction (R228). -/
def qLoc (s : State) (e : Env) (t : Thread) (x : FmtQ) (n : Nat) (k : AccKind) : Except FaultInfo Loc :=
  s.threadAccess e t (spaceOfWm x.wm) ((baseForm e t x.a).val 0) n k (some 0)

/-- A read-modify-write of n bytes per index: the new value, if one is stored, and the flags from the old one; the old value goes
to `dests`. The strand is always laid down (R231, R233, R235). -/
def rmwMeaning (x : FmtQ) (n : Nat) (gang : Bool) (f : Env → Thread → Nat → Option Nat × Fpx)
    (out : Nat → List Form) : Meaning :=
  { gd := x.gd, asc := false
    lay := fun _ e _ => e.strand
    act := fun s e t => do
      let l ← asStop (qLoc s e t x n accRmw)
      if gang && s.gangStop e.pen t l 112 then return killRes s e.pen t
      let old := s.readLoc l n
      let r := f e t old
      let s1 := match r.1 with | some v => s.writeLoc l n v | none => s
      return oweRes s1 e t x.flg (goForms x.d (out old)) r.2 }

def execAtom (op : AtomOp) (x : FmtQ) (s : State) : Host.Outcome State Fault Refusal :=
  drive (.atom op x) (fun _ => false)
    (rmwMeaning x (AtomOp.size op) true (fun e t old => (some (AtomOp.apply op old ((baseForm e t x.b).val 0).toNat), 0))
      (fun old => [.u (BitVec.ofNat 64 old)])) s

def CasW.size : CasW → Nat | .i32 => 4 | .i64 => 8 | .i128 => 16
/-- The value of a register, or of a pair for 16 bytes, cut to n bytes (R233). -/
def wideVal (e : Env) (t : Thread) (o : Opd) (n : Nat) : Nat := storeValue e t o n 0
def execCas (w : CasW) (x : FmtQ) (s : State) : Host.Outcome State Fault Refusal :=
  let n := CasW.size w
  drive (.cas w x) (fun _ => false)
    (rmwMeaning x n false
      (fun e t old => (if old = wideVal e t x.d n then some (wideVal e t x.b n) else none, 0))
      (fun old => if n = 16 then [.u (BitVec.ofNat 64 old), .u (BitVec.ofNat 64 (old / 2 ^ 64))] else [.u (BitVec.ofNat 64 old)])) s

def AtomfT.size : AtomfT → Nat | .f64 => 8 | _ => 4
/-- The type in which b is read (R73, R234). -/
def AtomfT.sty : AtomfT → STy | .f32 => .f32 | .f64 => .f64 | .bf16x2 => .bf16
/-- The value of an operand read in a type, at offset k. -/
def typedVal (ty : STy) (e : Env) (t : Thread) (o : Opd) (k : Nat) : Nat := ((t.src e.strand e.lit ty o).val k).toNat
/-- The sums of R234, each rounded once. -/
def AtomfT.apply (ty : AtomfT) (old b : Nat) : Nat × Fpx :=
  match ty with
  | .f32 => F32.add old (b % 2 ^ 32)
  | .f64 => F64.add old b
  | .bf16x2 =>
    let r0 := BF16.add (elem 16 0 old) (elem 16 0 b)
    let r1 := BF16.add (elem 16 1 old) (elem 16 1 b)
    (pack 16 [r0.1, r1.1], r0.2 ||| r1.2)
def execAtomf (ty : AtomfT) (x : FmtQ) (s : State) : Host.Outcome State Fault Refusal :=
  drive (.atomf ty x) (fun _ => false)
    (rmwMeaning x (AtomfT.size ty) false (fun e t old => let r := AtomfT.apply ty old (typedVal (AtomfT.sty ty) e t x.b 0); (some r.1, r.2))
      (fun old => [.u (BitVec.ofNat 64 old)])) s

/-! ### WAITA and WAKE (R236 to R241) -/

def execWaita (x : FmtQ) (s : State) : Host.Outcome State Fault Refusal :=
  drive (.waita x) (fun e => !e.last)
    { gd := x.gd
      lay := fun _ e t => srcA e t [x.a, x.b]
      act := fun s e t => do
        let ea := (baseForm e t x.a).val 0
        let b := (baseForm e t x.b).val 0
        let l ← asStop (s.threadAccess e t (spaceOfWm x.wm) ea 8 accWaita)
        if s.gangStop e.pen t l 120 then return killRes s e.pen t
        let r := oweRes s e t x.flg (goForms x.d [.u 0])
        if s.readLoc l 8 ≠ b.toNat then return r
        return { r with t := r.t.atNext e (.waita { loc := l, ea := ea, space := spaceOfWm x.wm, b := b, order := s.fresh,
                                                    start := s.clk, op := s.fresh }), flow := .leave } } s

/-- The location that WAKE names: translated and permitted as a read, with no lock and no access, so that a bad line there
raises nothing (R238). -/
def wakeLoc (s : State) (e : Env) (t : Thread) (x : FmtQ) : Except FaultInfo Loc :=
  let ea := (baseForm e t x.a).val 0
  match s.threadAccess e t (spaceOfWm x.wm) ea 8 accRead.device with
  | .error f =>
    if f.cause = cMEMERR then
      if spaceOfWm x.wm == .scratch then .ok (.scr e.pen ea.toNat) else
      match s.translate (s.ctxOf e.pen) f.va with | some leaf => .ok (.phys leaf.pa) | none => .error f
    else .error f
  | r => r
def execWake (x : FmtQ) (s : State) : Host.Outcome State Fault Refusal :=
  drive (.wake x) (fun _ => false)
    { gd := x.gd, dest := some x.d
      lay := fun _ e t => srcA e t [x.a, x.b]
      act := fun s e t => do
        let l ← asStop (wakeLoc s e t x)
        let r := s.wake (s.ctxOf e.pen) l ((baseForm e t x.b).val 0).toNat
        return { s := r.1, t := t.result x.d (.u (BitVec.ofNat 64 r.2)) } } s

/-- WAITA_TIMEOUT: TO microseconds of reference time have passed since the read (R237). -/
def execWaitaTimeout (gid lane : Nat) (s : State) : Host.Outcome State Fault Refusal :=
  let g := s.group gid
  .next (match g.thread lane with
    | some t => match t.status with
      | .waita m => if t.wto ≠ 0 ∧ m.start + t.wto.toNat * 1000 ≤ s.clk ∧ g.resident s then s.updThread gid lane (Thread.endWaita · 2) else s
      | _ => s
    | none => s)
/-- WAITA_DEVICE_WAKE: the device may end a wait at any time with status 3 (R237). -/
def execWaitaDeviceWake (gid lane : Nat) (s : State) : Host.Outcome State Fault Refusal :=
  .next (if (s.group gid).resident s then s.updThread gid lane (Thread.endWaita · 3) else s)

/-! ### Barriers (R242 to R246) -/

structure BarRec where
  phase : Nat
  expect : Nat
  arrived : Nat
  deriving DecidableEq, Repr
/-- The record of 16 bytes; none when a reserved bit is set (R242). -/
def barRec (m : Nat) : Option BarRec :=
  if m / 2 ^ 112 ≠ 0 then none
  else some { phase := m / 2 ^ 80 % 2 ^ 32, expect := m / 2 ^ 40 % 2 ^ 40, arrived := m % 2 ^ 40 }
def BarRec.code (b : BarRec) : Nat := b.phase * 2 ^ 80 + b.expect * 2 ^ 40 + b.arrived

/-- An arrival of k indices: the phase read and the new record; none when the sum would reach 2^40 (R244). -/
def BarRec.arrive (b : BarRec) (k : Nat) : Option (Nat × BarRec) :=
  let arr := b.arrived + k
  if 2 ^ 40 ≤ arr then none
  else if b.expect ≤ arr then some (b.phase, { b with arrived := 0, phase := (b.phase + 1) % 2 ^ 32 })
  else some (b.phase, { b with arrived := arr })

/-- The location of a record (R243). -/
def barLoc (sc : BarS) (s : State) (e : Env) (a : W64) (k : AccKind) : Except FaultInfo Loc :=
  match sc with
  | .pen => s.access e.pen 0 0 .scratch a 16 k
  | .yard => s.teamLoc e.pen a 16 k

/-- What one lane of an arriving instruction does: the phase, and the record it writes when it is the lowest lane that
names it (R244). -/
structure BarStep where
  loc : Loc
  phase : Nat
  rcd : Option BarRec

/-- The location and record that a lane names. -/
def barOf (sc : BarS) (s : State) (e : Env) (t : Thread) (o : Opd) (k : AccKind) : Except FaultInfo (Loc × BarRec) :=
  match barLoc sc s e ((baseForm e t o).val 0) k with
  | .error f => .error f
  | .ok l => match barRec (s.readLoc l 16) with | none => .error illfmt | some b => .ok (l, b)

/-- The lanes issued together, grouped by record: each lane's step, from the state before the instruction. Lanes from
the first fault on do not arrive. -/
def barPlan (sc : BarS) (s : State) (e : Env) (ts : List Thread) (o : Opd) : List (Nat × Except FaultInfo BarStep) :=
  let named := ts.map (fun t => (t, barOf sc s e t o accRmw))
  let ok := (named.takeWhile (fun p => match p.2 with | .ok _ => true | .error _ => false))
  let locOf := fun (p : Thread × Except FaultInfo (Loc × BarRec)) => match p.2 with | .ok q => some q.1 | .error _ => none
  let count := fun (lst : List (Thread × Except FaultInfo (Loc × BarRec))) (l : Loc) =>
    ((lst.filter (fun p => locOf p == some l)).map (fun p => p.1.n)).sum
  let tooMany := fun (p : Thread × Except FaultInfo (Loc × BarRec)) =>
    match p.2 with | .ok q => (q.2.arrive (count ok q.1)).isNone | .error _ => true
  let good := ok.takeWhile (fun p => !tooMany p)
  named.map (fun p =>
    match p.2 with
    | .error f => (p.1.lane, .error f)
    | .ok q =>
      match q.2.arrive (count good q.1) with
      | none => (p.1.lane, .error illfmt)
      | some (ph, r) =>
        if tooMany p then (p.1.lane, .error illfmt) else
        let lowest := (good.find? (fun y => locOf y == some q.1)).map (fun y => y.1.lane)
        (p.1.lane, .ok { loc := q.1, phase := ph, rcd := if lowest == some p.1.lane then some r else none }))

/-- Wait until a read of BARR.PHASE differs from p; the first read may end the wait (R245). A thread that waits keeps the
address and the phase. -/
def barWaitRes (s : State) (e : Env) (t : Thread) (d : Opd) (l : Loc) (ea : W64) (p : Nat) : Res :=
  let t1 := { t with arrived := none }
  let wait : Res := { s := s, t := t1.atNext e (.bar l ea (BitVec.ofNat 32 p) d e.wpc (e.hdrAt e.wpc)), flow := .leave }
  match barRec (s.readLoc l 16) with
  | some b => if b.phase ≠ p then { s := s, t := t1.result d (.u (BitVec.ofNat 64 b.phase)) } else wait
  | none => wait

/-- The threads that issue an arriving instruction together: the strand, or the lanes selected, those of a strand laid
down for it among them; not those whose arrival has been performed already. -/
def issuers (s0 : State) (e : Env) (t : Thread) : List Thread :=
  let g := s0.group (s0.cur.getD 0)
  let ts := if e.strand then [t]
    else if g.lanes then g.threads.filter (fun u => match g.run with | some r => r.sel.contains u.lane | none => false)
    else match g.threads with
      | [u] => (List.range (min u.n Config.lanes)).map u.laneOf
      | _ => []
  ts.filter (fun u => u.arrived.isNone)

/-- BAR with WM 0, and BARARV: arrive, then wait or not (R244 to R246). `s0` is the state before the instruction. A thread
whose arrival has been performed, and whose wait a fault has stopped, goes on with the wait (R389; log 80). -/
def arriveMeaning (sc : BarS) (x : FmtQ) (wait : Bool) (s0 : State) : Meaning :=
  { gd := x.gd
    lay := fun _ e t => srcA e t [x.a]
    act := fun s e t =>
      let ea := (baseForm e t x.a).val 0
      match (if wait then t.arrived else none) with
      | some p => (do let lb ← asStop (barOf sc s e t x.a accRead); return barWaitRes s e t x.d lb.1 ea p.toNat)
      | none =>
        match (barPlan sc s0 e (issuers s0 e t) x.a).find? (fun p => p.1 == t.lane) with
        | some (_, .ok b) =>
          let s1 := match b.rcd with | some r => s.writeLoc b.loc 16 r.code | none => s
          if wait then .ok (barWaitRes s1 e t x.d b.loc ea b.phase)
          else .ok { s := s1, t := t.result x.d (.u (BitVec.ofNat 64 b.phase)) }
        | some (_, .error f) => .error (.fault f)
        | none => .error (.fault illfmt) }

def execBarArriveWait (sc : BarS) (x : FmtQ) (s : State) : Host.Outcome State Fault Refusal :=
  drive (.barArriveWait sc x) (fun e => !e.last) (arriveMeaning sc x true s) s
def execBararv (sc : BarS) (x : FmtQ) (s : State) : Host.Outcome State Fault Refusal :=
  drive (.bararv sc x) (fun _ => false) (arriveMeaning sc x false s) s
/-- BAR with WM 1: waits while the phase is b[31:0] (R245). -/
def execBarWait (sc : BarS) (x : FmtQ) (s : State) : Host.Outcome State Fault Refusal :=
  drive (.barWait sc x) (fun e => !e.last)
    { gd := x.gd
      lay := fun _ e t => srcA e t [x.a, x.b]
      act := fun s e t => do
        let lb ← asStop (barOf sc s e t x.a accRead)
        return barWaitRes s e t x.d lb.1 ((baseForm e t x.a).val 0) (((baseForm e t x.b).val 0).toNat % 2 ^ 32) } s

/-- What a read of BARR.PHASE by a waiting thread returns: the record's checks are those of the instruction (R207, R215,
R223, R242). -/
def State.barRead (s : State) (l : Loc) (ea : W64) : Except FaultInfo BarRec := do
  let l1 ← (match l with
    | .scr p off => s.scratchLoc p off 16 ea accRead
    | .phys _ => .ok l)
  match barRec (s.readLoc l1 16) with
  | some b => return b
  | none => throw illfmt
/-- BARRIER_WAIT_END: a read of BARR.PHASE returns another value, or it fails a check: the thread is parked at the BAR, its
arrival performed (R245, R389). -/
def State.retestBar (s : State) (gid lane : Nat) : State :=
  let g := s.group gid
  match g.thread lane with
  | some t =>
    match t.status with
    | .bar l ea p d pc hdr =>
      if !g.resident s then s else
      match s.barRead l ea with
      | .ok b => if b.phase ≠ p.toNat then s.updThread gid lane (fun u => { u.result d (.u (BitVec.ofNat 64 b.phase)) with status := .ready }) else s
      | .error f =>
        (s.updThread gid lane (fun u => { u with pc := pc, hdr := hdr, arrived := some p })).park gid [lane] pc t.lo (t.n - 1) g.slotNum f
    | _ => s
  | none => s
def execBarrierWaitEnd (gid lane : Nat) (s : State) : Host.Outcome State Fault Refusal := .next (s.retestBar gid lane)

/-! ### Gather, scatter, remap (R247 to R255) -/

def remapKind (c : W64) : Nat := (bits c 1 0).toNat
/-- The remap of an index value by a slot, or the fault of its element (R255). -/
def State.remap (s : State) (pen slot : Nat) (x : W64) : Except FaultInfo W64 :=
  if slot = 0 then .ok x else
  let r := (s.pen pen).remaps.getD (slot - 1) ⟨0, 0⟩
  match remapKind r.cfg with
  | 1 => .ok (BitVec.ofNat 64 (x.toNat % r.par.toNat))
  | 2 => .ok (BitVec.ofNat 64 ((x * r.par).toNat / 2 ^ (64 - (bits r.cfg 14 8).toNat)))
  | 3 =>
    let w := if (bits r.cfg 17 16).toNat = 0 then 4 else 8
    let a := r.par.toNat + x.toNat * w
    if (bits r.cfg 44 24).toNat ≤ x.toNat then .error ⟨cPERM, BitVec.ofNat 64 a, 0, 1, none⟩
    else if s.locked (.scr pen a) w false then .error ⟨cRLOCK, BitVec.ofNat 64 a, 0, 1, some (.scr pen a)⟩
    else if !(s.pen pen).sound a w then .error ⟨cMEMERR, BitVec.ofNat 64 a, 0, 1, none⟩
    else .ok (BitVec.ofNat 64 (s.readLoc (.scr pen a) w))
  | _ => .error illfmt

def sclOf (c : BitVec 2) : W64 := match c.toNat with | 0 => 1 | 1 => 4 | 2 => 8 | _ => 16
/-- The location of the element of offset k (R247). -/
def elemLoc (s : State) (e : Env) (t : Thread) (x : FmtG) (n : Nat) (k : AccKind) (j : Nat) : Except FaultInfo Loc := do
  let i ← s.remap e.pen x.rmp.toNat ((baseForm e t x.idx).val j)
  s.access e.pen (t.lo + j) t.hwm .global ((baseForm e t x.base).val j + i * sclOf x.scl) n k

def ElemW.size : ElemW → Nat | .b32 => 4 | .b64 => 8
def gatherMeaning (w : ElemW) (x : FmtG) : Meaning :=
  { gd := x.gd, asc := false
    lay := fun _ e t => srcA e t [x.base, x.idx]
    act := fun s e t => do
      let l ← asStop (elemLoc s e t x (ElemW.size w) accRead 0)
      return oweRes s e t 15 (goForms x.v [.u (BitVec.ofNat 64 (s.readLoc l (ElemW.size w)))]) }
def execGather (w : ElemW) (x : FmtG) (s : State) : Host.Outcome State Fault Refusal :=
  drive (.gather w x) (fun _ => false) (gatherMeaning w x) s
/-- The element of offset k is stored (R249). -/
def scatterElem (w : ElemW) (x : FmtG) (s : State) (e : Env) (t : Thread) (k : Nat) : Except Stop Res := do
  let l ← asStop (elemLoc s e t x (ElemW.size w) accWrite k)
  return { s := s.writeLoc l (ElemW.size w) (storeValue e t x.v (ElemW.size w) k), t := t }
def scatterMeaning (w : ElemW) (x : FmtG) : Meaning :=
  { gd := x.gd, asc := false, act := fun s e t => scatterElem w x s e t 0, each := some (scatterElem w x) }
def execScatter (w : ElemW) (x : FmtG) (s : State) : Host.Outcome State Fault Refusal :=
  drive (.scatter w x) (fun _ => false) (scatterMeaning w x) s

def ScataT.size : ScataT → Nat | .add64 => 8 | _ => 4
def ScataT.apply (ty : ScataT) (old v : Nat) : Nat × Fpx :=
  match ty with
  | .add32 => ((old + v) % 2 ^ 32, 0)
  | .add64 => ((old + v) % 2 ^ 64, 0)
  | .addf32 => F32.add old (v % 2 ^ 32)
/-- SCATA: each element is one atomic read-modify-write (R250). -/
def scataElem (ty : ScataT) (x : FmtG) (s : State) (e : Env) (t : Thread) (k : Nat) : Except Stop Res := do
  let n := ScataT.size ty
  let l ← asStop (elemLoc s e t x n accRmw k)
  let r := ScataT.apply ty (s.readLoc l n) (if ty == .addf32 then typedVal .f32 e t x.v k else storeValue e t x.v n k)
  return oweOnce (s.writeLoc l n r.1) e t r.2
def scataMeaning (ty : ScataT) (x : FmtG) : Meaning :=
  { gd := x.gd, asc := false, act := fun s e t => scataElem ty x s e t 0, each := some (scataElem ty x) }
def execScata (ty : ScataT) (x : FmtG) (s : State) : Host.Outcome State Fault Refusal :=
  drive (.scata ty x) (fun _ => false) (scataMeaning ty x) s

/-- An instruction of many elements, which may stop between two of them, with its operands (R251). -/
def elementsOf : Instr → Option (Meaning × FmtG)
  | .gather w x => some (gatherMeaning w x, x)
  | .scatter w x => some (scatterMeaning w x, x)
  | .scata ty x => some (scataMeaning ty x, x)
  | _ => none

/-- The checks of a remap configuration (R255): none when it may be set. -/
def remapBad (a b c : W64) (scsz : Nat) : Option Nat :=
  let len := (bits b 44 24).toNat
  let hb := (bits b 14 8).toNat
  let tw := (bits b 17 16).toNat
  let w := if tw = 0 then 4 else 8
  let kind := remapKind b
  if a.toNat < 1 ∨ 4 < a.toNat ∨ bits b 63 45 != 0 ∨ bits b 23 18 != 0 ∨ isSet b 15 ∨ bits b 7 2 != 0
      ∨ (kind ≠ 3 ∧ (len ≠ 0 ∨ tw ≠ 0)) ∨ (kind ≠ 2 ∧ hb ≠ 0) ∨ (kind = 1 ∧ c = 0)
      ∨ (kind = 2 ∧ (c.toNat % 2 = 0 ∨ hb < 1 ∨ 64 < hb)) ∨ (kind = 3 ∧ (1 < tw ∨ len < 1 ∨ 393216 < len)) then some cILLFMT
  else if kind = 3 ∧ c.toNat % w ≠ 0 then some cALIGN
  else if kind = 3 ∧ scsz < c.toNat + len * w then some cPERM
  else none
/-- RMAPSET. It makes no access whose address the record of an ALIGN or PERM could name: FR.VA holds the table's base, and FR.ACC
is 0 (R392; log 78). -/
def execRmapset (x : FmtA) (s : State) : Host.Outcome State Fault Refusal :=
  drive (.rmapset x) (fun _ => false)
    { gd := x.gd
      lay := fun _ e t => srcA e t [x.a, x.b, x.c]
      act := fun s e t =>
        let a := (baseForm e t x.a).val 0
        let b := (baseForm e t x.b).val 0
        let c := (baseForm e t x.c).val 0
        match remapBad a b c (s.pen e.pen).scsz with
        | some f => .error (.fault ⟨f, if f = cILLFMT then 0 else c, 0, 0, none⟩)
        | none => .ok { s := s.updPen e.pen (fun p => { p with remaps := p.remaps.set (a.toNat - 1) ⟨b, c⟩ }), t := t } } s

/-! ### ENGFENCE (R256) -/

/-- A thread issued the operation; staging before a dispatch is the Director's own (R357). -/
def EngOp.byThread (o : EngOp) : Bool := match o.kind with | .stage _ => o.dest.isSome | _ => true
/-- Operations outstanding that threads of the pen have issued. -/
def State.penOps (s : State) (pen : Nat) : List Nat := (s.ops.filter (fun o => o.pen == some pen && o.byThread)).map EngOp.id
def execEngfence (x : FmtQ) (s : State) : Host.Outcome State Fault Refusal :=
  drive (.engfence x) (fun e => !e.last)
    { gd := x.gd
      act := fun s e t =>
        let ops := if x.wm == 0 then t.engOps else s.penOps e.pen
        let fail := if x.wm == 0 then t.engFail else (s.pen e.pen).engFail
        if ops.isEmpty then .ok { s := s, t := t.result x.d (.u 0) }
        else .ok { s := s, t := t.atNext e (.fence ops fail x.d), flow := .leave } } s

/-- An engine operation has completed: threads that issued it, fences and MWAITs learn of it (R218, R256, R310). -/
def Thread.opDone (op : Nat) (fail : Bool) (t : Thread) : Thread :=
  let t1 := if t.engOps.contains op then { t with engOps := t.engOps.filter (· != op), engFail := t.engFail || fail } else t
  match t1.status with
  | .fence ops f d =>
    if ops.contains op then
      let rest := ops.filter (· != op)
      if rest.isEmpty then { t1.result d (.u (ofBool64 (f || fail))) with status := .ready }
      else { t1 with status := .fence rest (f || fail) d }
    else t1
  | .mwait ops =>
    let rest := ops.filter (· != op)
    if rest.isEmpty then { t1 with status := .ready } else { t1 with status := .mwait rest }
  | _ => t1

end Sys2Proof.Machine
end

