-- ==== Sys2Proof/Machine/Vector.lean ====
section
/-! DEFINITION. Block 4, and the packing and dot-product helpers of block 5: floating-point arithmetic, minimum and
maximum, compares, conversions, rounding to integral values (R257 to R267), block-scaled packing (R276 to R279), lns6,
planes and 8-bit dot products (R280 to R284). -/

namespace Sys2Proof.Machine

/-! ### Arithmetic (R261, R262) -/

/-- Modified element j of source k (R258, R259). -/
def fsrcElem (f : FFmt) (ms : List Mod) (vs : List W64) (k j : Nat) : Nat :=
  f.modify (ms.getD k .none) (elem f.width j (arg vs k).toNat)

/-- An arithmetic instruction of n elements: the exact operation, SC, one rounding, CL. -/
def farith (f : FFmt) (n : Nat) (x : FmtA) (op : FVal → FVal → FVal → Ex) (vs : List W64) : W64 × Fpx :=
  elementwise f.width n (fun j =>
    let v := fun k => f.decode (fsrcElem f [x.ma, x.mb, x.mc] vs k j)
    (op (v 0) (v 1) (v 2)).finish f x.sc x.cl)

def fsrcs (ty : STy) (x : FmtA) (k : Nat) : List (STy × Opd) := ([x.a, x.b, x.c].take k).map (fun o => (ty, o))
def fopI (ty : STy) (f : FFmt) (n : Nat) (k : Nat) (x : FmtA) (op : FVal → FVal → FVal → Ex) : RegI :=
  { gd := x.gd, d := x.d, srcs := fsrcs ty x k, op := farith f n x op }

def execFadd (ty : FTy) (x : FmtA) (s : State) : Host.Outcome State Fault Refusal :=
  regOp (.fadd ty x) (fopI (FTy.sty ty) (FTy.fmt ty) (FTy.elems ty) 2 x fun a b _ => exAdd a b) s
/-- FSUB is exact (a + (−b)), narrowed: (−0) − (+0) is −0, as R110's IEEE 754 sum has it; R262's row names FADD alone for the
sign of a zero (DEDUCED, log 110). -/
def execFsub (ty : FTy) (x : FmtA) (s : State) : Host.Outcome State Fault Refusal :=
  regOp (.fsub ty x) (fopI (FTy.sty ty) (FTy.fmt ty) (FTy.elems ty) 2 x fun a b _ => exAdd a b.neg) s
def execFmul (ty : FTy) (x : FmtA) (s : State) : Host.Outcome State Fault Refusal :=
  regOp (.fmul ty x) (fopI (FTy.sty ty) (FTy.fmt ty) (FTy.elems ty) 2 x fun a b _ => exMul a b) s
def execFma (ty : FTy) (x : FmtA) (s : State) : Host.Outcome State Fault Refusal :=
  regOp (.fma ty x) (fopI (FTy.sty ty) (FTy.fmt ty) (FTy.elems ty) 3 x exFma) s
def execFdiv (ty : FP) (x : FmtA) (s : State) : Host.Outcome State Fault Refusal :=
  regOp (.fdiv ty x) (fopI (FP.sty ty) (FP.fmt ty) 1 2 x fun a b _ => exDiv a b) s
def execFsqrt (ty : FP) (x : FmtA) (s : State) : Host.Outcome State Fault Refusal :=
  regOp (.fsqrt ty x) (fopI (FP.sty ty) (FP.fmt ty) 1 1 x fun a _ _ => exSqrt a) s
def execFrcp (x : FmtA) (s : State) : Host.Outcome State Fault Refusal :=
  regOp (.frcp x) (fopI .f32 F32 1 1 x fun a _ _ => exRcp a) s
def execFrsq (x : FmtA) (s : State) : Host.Outcome State Fault Refusal :=
  regOp (.frsq x) (fopI .f32 F32 1 1 x fun a _ _ => exRsq a) s
def execFexp2 (x : FmtA) (s : State) : Host.Outcome State Fault Refusal :=
  regOp (.fexp2 x) (fopI .f32 F32 1 1 x fun a _ _ => exExp2 a) s
def execFlog2 (x : FmtA) (s : State) : Host.Outcome State Fault Refusal :=
  regOp (.flog2 x) (fopI .f32 F32 1 1 x fun a _ _ => exLog2 a) s

/-! ### Minimum, maximum and compare (R263, R264) -/

def fminmax (f : FFmt) (mx : Bool) (x : FmtA) (vs : List W64) : W64 × Fpx :=
  elementwise f.width 1 (fun j =>
    let r := f.minmax mx (fsrcElem f [x.ma, x.mb] vs 0 j) (fsrcElem f [x.ma, x.mb] vs 1 j)
    (f.clamp x.cl r.1, r.2))
def execFmin (ty : FP) (x : FmtA) (s : State) : Host.Outcome State Fault Refusal :=
  regOp (.fmin ty x) { gd := x.gd, d := x.d, srcs := fsrcs (FP.sty ty) x 2, op := fminmax (FP.fmt ty) false x } s
def execFmax (ty : FP) (x : FmtA) (s : State) : Host.Outcome State Fault Refusal :=
  regOp (.fmax ty x) { gd := x.gd, d := x.d, srcs := fsrcs (FP.sty ty) x 2, op := fminmax (FP.fmt ty) true x } s
def execFcmp (cc : FcmpCC) (ty : FP) (x : FmtA) (s : State) : Host.Outcome State Fault Refusal :=
  cmpOp (.fcmp cc ty x)
    { gd := x.gd, srcs := fsrcs (FP.sty ty) x 2, layA := true
      test := fun vs => (FP.fmt ty).compare cc (fsrcElem (FP.fmt ty) [x.ma, x.mb] vs 0 0) (fsrcElem (FP.fmt ty) [x.ma, x.mb] vs 1 0) } s

/-! ### Conversions (R265, R266) and FRND (R267) -/

/-- The type in which CVT reads its source. -/
def CvtV.sty : CvtV → STy
  | .f64f32 | .bf16f32 | .f16f32 | .e4m3f32 | .e5m2f32 | .e2m1f32 | .lns6f32 | .s32f32 => .f32
  | .f32f64 | .s64f64 => .f64
  | .f32f16 => .f16
  | .f32bf16 => .bf16
  | .f32lns6 | .f64s64 | .f32s32 | .f64n64 => .int

def cvtOp (v : CvtV) (x : FmtA) (a : W64) : W64 × Fpx :=
  let n := a.toNat
  let ff := fun (src dst : FFmt) =>
    let r := cvtFF src dst x.sc x.cl (src.modify x.ma (elem src.width 0 n))
    (BitVec.ofNat 64 r.1, r.2)
  let nat := fun (r : Nat × Fpx) => (BitVec.ofNat 64 r.1, r.2)
  match v with
  | .f64f32 => ff F32 F64
  | .f32f64 => ff F64 F32
  | .bf16f32 => ff F32 BF16
  | .f16f32 => ff F32 F16
  | .f32f16 => ff F16 F32
  | .f32bf16 => ff BF16 F32
  | .e4m3f32 => ff F32 E4M3
  | .e5m2f32 => ff F32 E5M2
  | .e2m1f32 => ff F32 E2M1
  | .lns6f32 => nat (cvtToLns x.sc x.cl (F32.modify x.ma (elem 32 0 n)))
  | .f32lns6 => nat ((lnsValue (elem 6 0 n)).finish F32 x.sc x.cl)
  | .f64s64 => nat (cvtFromInt F64 x.sc x.cl (modInt 64 x.ma a))
  | .f32s32 => nat (cvtFromInt F32 x.sc x.cl (modInt 32 x.ma a))
  | .f64n64 => nat (cvtFromInt F64 x.sc x.cl n)
  | .s64f64 => let r := cvtToInt F64 64 (F64.modify x.ma n); (word64 r.1, r.2)
  | .s32f32 => let r := cvtToInt F32 32 (F32.modify x.ma (elem 32 0 n)); (BitVec.ofNat 64 (r.1 % 2 ^ 32).toNat, r.2)
def execCvt (v : CvtV) (x : FmtA) (s : State) : Host.Outcome State Fault Refusal :=
  regOp (.cvt v x) { gd := x.gd, d := x.d, srcs := [(CvtV.sty v, x.a)], op := fun vs => cvtOp v x (arg vs 0) } s

def frndOp (md : FrndM) (f : FFmt) (x : FmtA) (vs : List W64) : W64 × Fpx :=
  let r := f.integral md (fsrcElem f [x.ma] vs 0 0)
  (BitVec.ofNat 64 (f.clamp x.cl r.1), r.2)
def execFrnd (md : FrndM) (ty : FP) (x : FmtA) (s : State) : Host.Outcome State Fault Refusal :=
  regOp (.frnd md ty x) { gd := x.gd, d := x.d, srcs := fsrcs (FP.sty ty) x 1, op := frndOp md (FP.fmt ty) x } s

/-! ### Block-scaled packing (R276 to R279) -/

def BsF.width : BsF → Nat | .i8 | .e4m3 => 8 | .i4 | .e2m1 => 4
/-- The pair position j of a descriptor (R276). -/
def BsF.pos (f : BsF) (b : W64) : Nat :=
  match f with | .i4 | .e2m1 => (bits b 18 16).toNat | .i8 | .e4m3 => (bits b 17 16).toNat
def scaleE (b : W64) : Nat := (bits b 7 0).toNat
def scaleZ (b : W64) : Int := (bits b 15 8).toInt

/-- One quantised integer element of w bits (R277). -/
def quantInt (w : Nat) (b : W64) (code : Nat) : Nat × Fpx :=
  let hi : Int := 2 ^ (w - 1) - 1
  let lo : Int := -(2 ^ (w - 1))
  let fit := fun (q : Int) (f : Fpx) =>
    let r := if q > hi then (hi, f ||| fxNV) else if q < lo then (lo, f ||| fxNV) else (q, f)
    ((r.1 % 2 ^ w).toNat, r.2)
  if scaleE b = 255 then fit (scaleZ b) fxNV else
  match F32.decode code with
  | .nan _ => fit (scaleZ b) fxNV
  | .inf s => fit (if s then lo else hi) fxNV
  | .fin s m e =>
    let r := toIntegral .rn s m (e + 127 - scaleE b)
    fit (r.1 + scaleZ b) (fxIf (!r.2) fxNX)
/-- One quantised floating-point element. Where E = 0xFF puts a NaN in its place, an element that is a signalling NaN has still
been read, and raises NV (R109, R277; log 99). -/
def quantF (f : FFmt) (b : W64) (code : Nat) : Nat × Fpx :=
  if scaleE b = 255 then
    let r := cvtFF F32 f 0 .none F32.nan
    (r.1, r.2 ||| nvOf [F32.decode code])
  else
  match F32.decode code with
  | .fin s m e => f.round s m (e + 127 - scaleE b)
  | _ => cvtFF F32 f 0 .none code
def BsF.quant (f : BsF) (b : W64) (code : Nat) : Nat × Fpx :=
  match f with
  | .i8 => quantInt 8 b code
  | .i4 => quantInt 4 b code
  | .e4m3 => quantF E4M3 b code
  | .e2m1 => quantF E2M1 b code
/-- c with fields 2j and 2j + 1 replaced. -/
def bspackOp (f : BsF) (vs : List W64) : W64 × Fpx :=
  let w := BsF.width f
  let b := arg vs 1
  let j := BsF.pos f b
  let q := fun e => BsF.quant f b (elem 32 e (arg vs 0).toNat)
  let fields := (List.range (64 / w)).map (fun k =>
    if k = 2 * j then (q 0).1 else if k = 2 * j + 1 then (q 1).1 else elem w k (arg vs 2).toNat)
  (BitVec.ofNat 64 (pack w fields), (q 0).2 ||| (q 1).2)
/-- BSPACK (R277). A special source A gives one binary32 value: it is element 0, and element 1 is +0.0 (R73; log 46). -/
def execBspack (f : BsF) (x : FmtA) (s : State) : Host.Outcome State Fault Refusal :=
  regOp (.bspack f x) { gd := x.gd, d := x.d, srcs := [(.f32, x.a), (.int, x.b), (.int, x.c)], op := bspackOp f } s

/-- A block-scaled element as binary32 (R278). -/
def unquant (f : BsF) (b : W64) (q : Nat) : Nat × Fpx :=
  if scaleE b = 255 then (F32.nan, 0) else
  let int := fun (v : Int) => F32.round (decide (v < 0)) v.natAbs (scaleE b - 127)
  let flt := fun (ff : FFmt) =>
    match ff.decode q with
    | .fin s m e => F32.round s m (e + scaleE b - 127)
    | _ => (F32.nan, 0)
  match f with
  | .i8 => int (sextN q 8 - scaleZ b)
  | .i4 => int (sextN q 4 - scaleZ b)
  | .e4m3 => flt E4M3
  | .e2m1 => flt E2M1
def bsunpkOp (f : BsF) (vs : List W64) : W64 × Fpx :=
  let b := arg vs 1
  elementwise 32 2 (fun e => unquant f b (elem (BsF.width f) (2 * BsF.pos f b + e) (arg vs 0).toNat))
def execBsunpk (f : BsF) (x : FmtA) (s : State) : Host.Outcome State Fault Refusal :=
  regOp (.bsunpk f x) { gd := x.gd, d := x.d, srcs := int2 x, op := bsunpkOp f } s

/-! ### lns6, planes, dot products (R280 to R283) -/

/-- One product element of LMUL (R280). -/
def lmulElem (a b : Nat) : Nat × Fpx :=
  let s := (a / 32 % 2) ^^^ (b / 32 % 2)
  let ma := a % 32
  let mb := b % 32
  if ma = 0 ∨ mb = 0 then (32 * s, 0)
  else if 31 + 16 < ma + mb then (32 * s + 31, fxOF ||| fxNX)
  else if ma + mb < 1 + 16 then (32 * s, fxUF ||| fxNX)
  else (32 * s + (ma + mb - 16), 0)
def execLmul (x : FmtA) (s : State) : Host.Outcome State Fault Refusal :=
  regOp (.lmul x) { gd := x.gd, d := x.d, srcs := int2 x
                    op := fun vs => elementwise 8 8 (fun j => lmulElem (elem 8 j (arg vs 0).toNat) (elem 8 j (arg vs 1).toNat)) } s

/-- The exact product of two lns6 codes times 2^23 (R121). -/
def lnsProd (a b : Nat) : Int :=
  let ma := a % 32
  let mb := b % 32
  if ma = 0 ∨ mb = 0 then 0
  else
    let e : Int := (ma : Int) + mb - 32
    let i := e / 4
    let tab : Int := match (e % 4).toNat with | 0 => 0x8000 | 1 => 0x9838 | 2 => 0xB505 | _ => 0xD745
    let v : Int := tab * 2 ^ (i + 8).toNat
    if (a / 32 % 2 == 1) != (b / 32 % 2 == 1) then -v else v

/-- An s64 addend and a sum of eight products, saturated under .sat (R281, R283). -/
def dotOp (x : FmtA) (prod : Nat → Nat → Int) (vs : List W64) : W64 × Fpx :=
  let t := (arg vs 2).toInt + ((List.range 8).map (fun j => prod (elem 8 j (arg vs 0).toNat) (elem 8 j (arg vs 1).toNat))).sum
  (word64 (if x.cl == .sat then satInt 64 t else t), 0)
def execLacc (x : FmtA) (s : State) : Host.Outcome State Fault Refusal :=
  regOp (.lacc x) { gd := x.gd, d := x.d, srcs := int3 x, op := dotOp x lnsProd } s
def execQdot (v : Sgn) (x : FmtA) (s : State) : Host.Outcome State Fault Refusal :=
  regOp (.qdot v x) { gd := x.gd, d := x.d, srcs := int3 x
                      op := dotOp x (fun a b => match v with | .s => sextN a 8 * sextN b 8 | .n => (a : Int) * b) } s

def PlaneW.n : PlaneW → Nat | .p4 => 4 | .p8 => 8
/-- Bit (64/w)·p + j of the result is bit w·j + p (R282). -/
def bplaneOp (v : PlaneW) (a : W64) : W64 :=
  let w := PlaneW.n v
  BitVec.ofNat 64 (pack 1 ((List.range 64).map (fun k => elem 1 (w * (k % (64 / w)) + k / (64 / w)) a.toNat)))
def execBplane (v : PlaneW) (x : FmtA) (s : State) : Host.Outcome State Fault Refusal :=
  regOp (.bplane v x) { gd := x.gd, d := x.d, srcs := int1 x, op := pure1 (bplaneOp v) } s

end Sys2Proof.Machine
end

