-- ==== Sys2Proof/Machine/Cross.lean ====
section
/-! DEFINITION. The convergent operations of block 5: RED, SCAN, SHFL, VOTE, ELECT (R268 to R275). -/

namespace Sys2Proof.Machine

/-- What a participant holds: its lane and its source values. -/
abbrev Part := Nat × List W64

/-- A convergent operation: its sources, when a strand lays down first, the form it gives in a strand, and each
participant's value in a lane group. -/
structure CrossI where
  d : Opd
  srcs : List (STy × Opd)
  lay : List Form → Bool
  strand : Nat → List Form → Form
  lane : List Part → Nat → W64 × Fpx

def CrossI.forms (c : CrossI) (e : Env) (t : Thread) : List Form := c.srcs.map (fun p => t.src e.strand e.lit p.1 p.2)
/-- The participants, as they stood before the instruction (R268). -/
def CrossI.parts (c : CrossI) (s0 : State) (e : Env) (t : Thread) : List Part :=
  (issuers s0 e t).map (fun u => (u.lane, valsAt (c.forms e u) 0))
/-- It writes D and $part in every participant (R44). -/
def CrossI.meaning (c : CrossI) (s0 : State) : Meaning :=
  { gd := .always, dest := some c.d
    lay := fun _ e t => e.strand && c.lay (c.forms e t)
    act := fun s e t =>
      if e.strand then .ok { s := s, t := { t.result c.d (c.strand t.n (c.forms e t)) with part := false } }
      else
        let r := c.lane (c.parts s0 e t) t.lane
        .ok { s := s, t := { (t.result c.d (.u r.1)).orFpx r.2 with part := e.absent } } }
def crossOp (i : Instr) (c : CrossI) (s : State) : Host.Outcome State Fault Refusal :=
  drive i (fun e => !e.first) (c.meaning s) s

/-- The value of the block of 2^t lanes that starts at lane m: the fixed tree of R269, with the flags of its ops. -/
def tree (op : W64 → W64 → W64 × Fpx) (leaf : Nat → Option W64) : (t m : Nat) → Option (W64 × Fpx)
  | 0, m => (leaf m).map (fun v => (v, 0))
  | t + 1, m =>
    match tree op leaf t m, tree op leaf t (m + 2 ^ t) with
    | some l, some r => let x := op l.1 r.1; some (x.1, x.2 ||| l.2 ||| r.2)
    | some l, none => some l
    | none, r => r
def leafOf (ps : List Part) (k : Nat) : Option W64 := (ps.find? (·.1 == k)).map (fun p => arg p.2 0)

/-! ### RED and SCAN (R270 to R272) -/

def f2 (f : FFmt) (op : Nat → Nat → Nat × Fpx) (x y : W64) : W64 × Fpx :=
  let r := op (elem f.width 0 x.toNat) (elem f.width 0 y.toNat)
  (BitVec.ofNat 64 r.1, r.2)
def RedOp.op (o : RedOp) (x y : W64) : W64 × Fpx :=
  match o with
  | .iadd64 => (x + y, 0)
  | .fadd64 => f2 F64 F64.add x y
  | .fadd32 => f2 F32 F32.add x y
  | .imin => (if x.toInt ≤ y.toInt then x else y, 0)
  | .imax => (if x.toInt ≤ y.toInt then y else x, 0)
  | .fmin32 => f2 F32 (F32.minmax false) x y
  | .fmax32 => f2 F32 (F32.minmax true) x y
  | .and => (x &&& y, 0)
  | .or => (x ||| y, 0)
def RedOp.sty : RedOp → STy | .fadd64 => .f64 | .fadd32 | .fmin32 | .fmax32 => .f32 | _ => .int
def RedOp.isF : RedOp → Bool | .fadd64 | .fadd32 | .fmin32 | .fmax32 => true | _ => false
/-- A binary32 result is written as an element (R258). -/
def cutTo (ty : STy) (v : W64) : W64 := if ty == .f32 then bits v 31 0 |>.zeroExtend 64 else v

/-- n·b + s·n(n−1)/2 over a strand (R272). -/
def affSum (n : Nat) (f : Form) : W64 :=
  let b := (f.val 0).toNat
  let st := (f.val 1 - f.val 0).toNat
  BitVec.ofNat 64 (n * b + st * (n * (n - 1) / 2))
def redI (o : RedOp) (x : FmtA) : CrossI :=
  { d := x.d, srcs := [(RedOp.sty o, x.a)]
    lay := fun fs => RedOp.isF o || (o != .iadd64 && fs.any Form.isA)
    strand := fun n fs => match fs with
      | f :: _ => if o == .iadd64 then .u (affSum n f) else f
      | [] => .u 0
    lane := fun ps _ =>
      match tree (RedOp.op o) (leafOf ps) 6 0 with
      | some r => (cutTo (RedOp.sty o) r.1, r.2)
      | none => (0, 0) }
def execRed (o : RedOp) (x : FmtA) (s : State) : Host.Outcome State Fault Refusal := crossOp (.red o x) (redI o x) s

/-- The prefix of lane k from the nodes of the tree (R271). -/
def scanTree (op : W64 → W64 → W64 × Fpx) (leaf : Nat → Option W64) (k : Nat) : Option (W64 × Fpx) :=
  ([6, 5, 4, 3, 2, 1, 0]).foldl (fun v t =>
    if (k + 1) / 2 ^ t % 2 = 1 then
      match v, tree op leaf t ((k + 1) / 2 ^ (t + 1) * 2 ^ (t + 1)) with
      | none, u => u
      | some a, some u => let r := op a.1 u.1; some (r.1, r.2 ||| a.2 ||| u.2)
      | some a, none => some a
    else v) none
def ScanOp.red : ScanOp → RedOp | .iadd64 => .iadd64 | .fadd32 => .fadd32
def scanI (o : ScanOp) (x : FmtA) : CrossI :=
  let ty := RedOp.sty (ScanOp.red o)
  { d := x.d, srcs := [(ty, x.a)]
    lay := fun fs => o == .fadd32 || fs.any Form.isA
    strand := fun _ fs => match fs with
      | f :: _ => Form.mk (f.val 0) (f.val 0)
      | [] => .u 0
    lane := fun ps k =>
      match scanTree (RedOp.op (ScanOp.red o)) (leafOf ps) k with
      | some r => (cutTo ty r.1, r.2)
      | none => (0, 0) }
def execScan (o : ScanOp) (x : FmtA) (s : State) : Host.Outcome State Fault Refusal := crossOp (.scan o x) (scanI o x) s

/-! ### SHFL (R273) -/

/-- The source lane of lane L, if it lies in 0 to 63. -/
def ShflM.lane (m : ShflM) (l b : Nat) : Option Nat :=
  let r := match m with
    | .idx => some b
    | .up => if b ≤ l then some (l - b) else none
    | .down => some (l + b)
    | .xor => some (l ^^^ b)
  r.filter (· < Config.lanes)
def shflI (m : ShflM) (x : FmtA) : CrossI :=
  { d := x.d, srcs := int2 x
    lay := fun fs => match fs with
      | [a, b] => a.isA && (b.isA || (m != .idx && b.val 0 != 0))
      | _ => false
    strand := fun n fs => match fs with
      | [a, b] => if m == .idx && a.isA && decide ((b.val 0).toNat < n) then .u (a.val (b.val 0).toNat) else a
      | _ => .u 0
    lane := fun ps k =>
      let own := (leafOf ps k).getD 0
      let b := ((ps.find? (·.1 == k)).map (fun p => arg p.2 1)).getD 0
      match ShflM.lane m k b.toNat with
      | some j => ((leafOf ps j).getD own, 0)
      | none => (own, 0) }
def execShfl (m : ShflM) (x : FmtA) (s : State) : Host.Outcome State Fault Refusal := crossOp (.shfl m x) (shflI m x) s

/-! ### VOTE and ELECT (R274, R275) -/

def VoteM.value (m : VoteM) (count n : Nat) : W64 :=
  match m with
  | .any => ofBool64 (decide (0 < count))
  | .all => ofBool64 (decide (count = n))
  | .count => BitVec.ofNat 64 count
/-- The indices with a ≠ 0, over the whole range. -/
def voteCount (n : Nat) (f : Form) : Nat :=
  match f with
  | .u v => if v = 0 then 0 else n
  | .a _ _ => ((List.range n).filter (fun k => f.val k != 0)).length
def voteI (m : VoteM) (x : FmtA) : CrossI :=
  { d := x.d, srcs := int1 x
    lay := fun _ => false
    strand := fun n fs => .u (VoteM.value m (voteCount n (fs.headD (.u 0))) n)
    lane := fun ps _ => (VoteM.value m (ps.filter (fun p => arg p.2 0 != 0)).length ps.length, 0) }
def execVote (m : VoteM) (x : FmtA) (s : State) : Host.Outcome State Fault Refusal := crossOp (.vote m x) (voteI m x) s

def electI (x : FmtA) : CrossI :=
  { d := x.d, srcs := []
    lay := fun _ => false
    strand := fun _ _ => .u 1
    lane := fun ps k => (ofBool64 (ps.all (fun p => decide (k ≤ p.1))), 0) }
def execElect (x : FmtA) (s : State) : Host.Outcome State Fault Refusal := crossOp (.elect x) (electI x) s

end Sys2Proof.Machine
end

