-- ==== Sys2Proof/Machine/Matrix.lean ====
section
/-! DEFINITION. Block 6: the Matrix Engine's instructions (R285 to R320), the sums of its paths (R116 to R122), the
checks and the registration of engine operations at issue (R213, R214, R289), and the hitch (R298 to R302). What an
operation does after its issue stands in Engine.lean. -/

namespace Sys2Proof.Machine

/-! ### Ranges of an engine operation (R213, R289) -/

/-- One operand's bytes: in the pen's scratch or at virtual addresses, and whether they are a destination. -/
structure OpRange where
  scr : Bool
  addr : Nat
  len : Nat
  dst : Bool
  deriving DecidableEq, Repr

/-- The pieces of [a, a + n) within blocks of sz bytes. -/
def pieces (sz a n : Nat) : List (Nat × Nat) :=
  if n = 0 then [] else
  (List.range ((a + n - 1) / sz - a / sz + 1)).map (fun k =>
    let lo := max a ((a / sz + k) * sz)
    let hi := min (a + n) ((a / sz + k + 1) * sz)
    (lo, hi - lo))
/-- The pieces within 64-KiB pages. -/
def pagePieces (a n : Nat) : List (Nat × Nat) := pieces 65536 a n

/-- A global range that meets the private region of the context (R205). -/
def State.meetsPrivate (s : State) (c a n : Nat) : Bool :=
  let b := (s.ctx c).privBase.toNat
  decide (a < b + 2 ^ 40 ∧ b < a + n)

/-- The leaf of an address as an engine operation translates it: once for each 64-KiB page, at the page's first byte. -/
def State.pageLeaf (s : State) (c a : Nat) : Option Leaf :=
  (s.translate c (BitVec.ofNat 64 (a / 65536 * 65536))).map (fun l => { l with pa := l.pa + a % 65536 })
/-- Every page of every global range translates (R289, step 4). -/
def State.engXlate (s : State) (c : Nat) (rs : List OpRange) : Option Nat :=
  (rs.filter (fun r => !r.scr)).findSome? (fun r =>
    (pagePieces r.addr r.len).findSome? (fun p => if (s.pageLeaf c p.1).isNone ∨ 2 ^ 56 ≤ p.1 then some p.1 else none))
/-- Scratch limits, permissions and the private region (R289, step 5). -/
def State.engPerm (s : State) (pen c : Nat) (rs : List OpRange) : Option Nat :=
  rs.findSome? (fun r =>
    if r.scr then (if (s.pen pen).scsz < r.addr + r.len then some r.addr else none)
    else if s.meetsPrivate c r.addr r.len then some r.addr
    else (pagePieces r.addr r.len).findSome? (fun p =>
      match s.pageLeaf c p.1 with
      | some l => if (r.dst && !l.w) || (!r.dst && !l.r) then some p.1 else none
      | none => some p.1))

/-- Lines of one range: scratch lines, or the physical lines of each of its pages; adjacent pieces are one run. -/
def State.rangeLines (s : State) (pen c : Nat) (r : OpRange) : List Rng :=
  if r.len = 0 then [] else
  if r.scr then [⟨some pen, r.addr / 128, (r.addr + r.len - 1) / 128 + 1, r.dst, false⟩]
  else (pagePieces r.addr r.len).foldl (fun acc p =>
    let pa := ((s.pageLeaf c p.1).map Leaf.pa).getD 0
    let lo := pa / 128
    let hi := (pa + p.2 - 1) / 128 + 1
    match acc.reverse with
    | [] => [⟨none, lo, hi, r.dst, false⟩]
    | q :: qs => if q.hi = lo ∨ q.hi = lo + 1 then ((⟨none, q.lo, hi, r.dst, q.more⟩ : Rng) :: qs).reverse
                 else acc ++ [⟨none, lo, hi, r.dst, true⟩]) []
def State.rangePages (s : State) (c : Nat) (r : OpRange) : List (Nat × Nat) :=
  if r.scr then [] else (pagePieces r.addr r.len).map (fun p =>
    (p.1 / 65536, ((s.pageLeaf c (p.1 / 65536 * 65536)).map Leaf.pa).getD 0))

/-- The pages of a global range, with whether it is written. -/
def OpRange.uses (r : OpRange) : List (Nat × Bool) :=
  if r.scr then [] else (pagePieces r.addr r.len).map (fun p => (p.1 / 65536, r.dst))

/-- The checks of an engine operation's ranges at issue, in the order of R289. -/
def State.engCheck (s : State) (pen c : Nat) (rs : List OpRange) : Except FaultInfo Unit :=
  match s.engXlate c rs with
  | some a => .error ⟨cXLATE, BitVec.ofNat 64 a, 0, 5, none⟩
  | none => match s.engPerm pen c rs with
    | some a => .error ⟨cPERM, BitVec.ofNat 64 a, 0, 5, none⟩
    | none => .ok ()
/-- The table has room for the ranges (R214). -/
def State.rangeRoom (s : State) (rs : List OpRange) : Bool :=
  decide (s.rangesInUse + (rs.filter (fun r => decide (r.len ≠ 0))).length ≤ Config.rangeEntries)

def EngOp.blank : EngOp :=
  { id := 0, kind := .accz, ctx := 0, launch := 0, pen := none, tile := none, task := none, ranges := [], joint := none,
    atHitch := false, started := false, cancelled := false, bad := none, data := 0, pages := [], uses := [], overlap := false,
    row := 0, ringSlot := 0, result := 0, dest := none }
/-- A matrix operation, as against a copy or a staging transfer: it holds a place in the pen's queue (R287). -/
def OpKind.isMatrix : OpKind → Bool | .copy _ | .stage _ => false | _ => true
/-- It writes its tile in the order of R287. -/
def OpKind.writesTile : OpKind → Bool | .mma _ | .accz | .accld _ _ => true | _ => false
/-- It takes effect on a tile only after an earlier operation on it: a write after every earlier write, and ACCZ after every
earlier operation, those that read the tile among them (R287, R311). -/
def OpKind.waitsFor (k j : OpKind) : Bool := (k.writesTile && j.writesTile) || k == .accz
/-- It reads its tile (R297). -/
def OpKind.readsTile : OpKind → Bool | .accst _ _ | .drain _ _ _ => true | _ => false
def State.tileOps (s : State) (pen tile : Nat) : List EngOp := s.ops.filter (fun o => o.pen == some pen && o.tile == some tile)

/-- Registration at the issue point: the operation joins the outstanding ones, with its ranges and pages; reads and
writes of one tile that overlap are marked (R213, R287, R297). -/
def State.register (s : State) (o : EngOp) (rs : List OpRange) : State :=
  let pen := o.pen.getD 0
  let meets := fun (p : OpKind → Bool) => s.ops.any (fun q => o.tile.isSome && q.pen == o.pen && q.tile == o.tile && p q.kind)
  let o1 := { o with ranges := rs.flatMap (s.rangeLines pen o.ctx), pages := (rs.flatMap (s.rangePages o.ctx)).dedup
                     uses := (rs.flatMap OpRange.uses).dedup
                     overlap := o.kind.readsTile && meets OpKind.writesTile }
  let mark := fun (q : EngOp) =>
    if o.kind.writesTile && q.kind.readsTile && q.pen == o.pen && q.tile == o.tile then { q with overlap := true } else q
  { s.bump with ops := s.ops.map mark ++ [o1] }

/-! ### Issue by the elected thread (R45, R285) -/

/-- What a matrix-class instruction does: the state, what each participant becomes, and whether it is held. -/
structure MRes where
  s : State
  upd : Thread → Thread
  held : Bool := false

/-- Every participant parks with one record that names the elected thread (R289). -/
def State.parkAll (s : State) (e : Env) (parts : List Thread) (elected : Thread) (f : FaultInfo) : State :=
  if e.strand then s.parkStrand e elected f
  else (s.parkLanes e (parts.map Thread.lane) elected.lo f none).advance e []

/-- A block-6 instruction is issued once by the elected thread, and acts for every participant (R45, R285). -/
def matrixOp (i : Instr) (bad : Env → Bool) (f : State → Env → Thread → List Thread → Except Stop MRes) (s : State) :
    Host.Outcome State Fault Refusal :=
  match s.cur with
  | none => .fault .noIssuer
  | some gid =>
    let g := s.group gid
    match g.run with
    | none => .fault .noIssuer
    | some r =>
      let e := envOf g r
      let parts := sortBy Thread.lane (if g.lanes then g.threads.filter (fun t => r.sel.contains t.lane) else g.threads)
      match parts with
      | [] => .next (s.advance e [])
      | el :: _ =>
        let res := if bad e || !i.regsOk (s.launchOf g.pen).regs then .error (.fault illfmt) else f s e el parts
        let s1 := match res with
          | .error (.fault fi _ _) => s.parkAll e parts el fi
          | .error (.stall k) => s.updGroup gid (fun x => { x with stall := some k })
          | .ok m =>
            let lanes := parts.map Thread.lane
            let s2 := m.s.updGroup gid (fun x => x.mapLanes lanes (fun t => { m.upd t with part := e.absent }))
            s2.advance e (if m.held then [] else lanes)
        .next (s1.settle g.pen)

/-- The value of a register operand: the elected thread's, in a strand that of index lo (R285). -/
def elVal (e : Env) (t : Thread) (o : Opd) : W64 := (baseForm e t o).val 0
/-- Tiles of the pen (R288). -/
def State.hasTile (s : State) (e : Env) (acc : BitVec 5) : Bool := decide (acc.toNat < (s.pen e.pen).accn)

/-- What a participant becomes when its operation is issued (R66, R256). -/
def Thread.issued (t : Thread) (e : Env) (op : Nat) (long : Bool) (flg : BitVec 4) (dest : Option Nat) : Thread :=
  let t1 := { t with engOps := t.engOps ++ [op] }
  if long then
    t1.owe { op := op, flag := namedFlag flg e.head.setb, writes := (match dest with | some d => [(d, .u 0)] | none => []), fpx := 0
             engine := true, queue := none, pc := e.wpc } op
  else t1

/-- Issue an operation of the pen: the range checks, room in the queue and in the table, registration (R287, R289). An issue
that finds the queue full makes R289's checks first, and waits after them (DESIGN CHOICE, log 111). -/
def issueMatrix (s : State) (e : Env) (el : Thread) (kind : OpKind) (tile : Option Nat) (rs : List OpRange) (long : Bool)
    (flg : BitVec 4) (dest : Option Opd) : Except Stop (MRes × Nat) := do
  let c := s.ctxOf e.pen
  asStop (s.engCheck e.pen c rs)
  if Config.engineQueueDepth ≤ (s.ops.filter (fun o => o.pen == some e.pen && o.kind.isMatrix)).length then throw (.stall .queue)
  if !s.rangeRoom rs then throw (.stall .range)
  let id := s.fresh
  let d := dest.map Opd.key
  let o := { EngOp.blank with id := id, kind := kind, ctx := c, launch := (s.pen e.pen).launch, pen := some e.pen, tile := tile
                              task := some el.task, dest := d }
  return ({ s := s.register o rs, upd := fun t => t.issued e id long flg d }, id)

/-! ### Gangs and the hitch (R298 to R302, R314, R315) -/

def State.member (s : State) (p : Pen) : Nat := p.vcore % (s.launch p.launch).c
/-- The pens of the yard team of a pen. -/
def State.team (s : State) (p : Pen) : List Pen :=
  let c := (s.launch p.launch).c
  s.pens.filter (fun q => q.launch == p.launch && q.vcore / c == p.vcore / c)
def gangBits (m : BitVec 6) : List Nat := (List.range 6).filter (fun k => m.getLsbD k)
/-- A MASK of a gang that the pen may name: two bits or more, its own among them, each a member of its team. -/
def State.gangOk (s : State) (p : Pen) (mask : BitVec 6) : Bool :=
  let b := gangBits mask
  decide (2 ≤ b.length) && b.contains (s.member p) && b.all (fun k => decide (k < (s.launch p.launch).c))
def Pen.gangWord (p : Pen) : W64 := (0 : BitVec 24) ++ p.gangSeq ++ (0 : BitVec 2) ++ p.gangMask

/-- Threads held at a hitch event go back to its instruction, and its operation is gone: fences and MWAITs that chose it wait
for it no longer (R256, R300, R310). A DRAIN or ACCST that the operation overlapped stays marked as overlapped (R297; DESIGN CHOICE,
log 111). -/
def State.withdraw (s : State) (pen : Nat) (h : HitchWait) : State :=
  let s1 := s.updPen pen (fun p => { p with hitch := p.hitch.filter (· != h) })
  let op := h.op.getD 0
  let s2 := s1.updGroup h.gid (fun g => g.mapLanes h.lanes (fun t =>
    let t1 := { t with pc := h.pc, hdr := h.hdr, status := .ready, engOps := t.engOps.filter (· != op) }
    if h.op.isSome then t1.deliver op [] else t1))
  if h.op.isSome then { s2.mapThreads (fun _ t => t.opDone op false) with ops := s2.ops.filter (fun o => o.id != op) } else s2
/-- The event fails in a member: its threads park at it (R299, R300). -/
def State.failHitch (s : State) (pen : Nat) (h : HitchWait) (f : FaultInfo) : State :=
  let g := s.group h.gid
  let ts := g.threads.filter (fun t => h.lanes.contains t.lane)
  let first := (ts.head?.map Thread.lo).getD 0
  let n := (ts.map Thread.n).sum
  (s.withdraw pen h).park h.gid h.lanes h.pc first (n - 1) g.slotNum f
/-- The event is performed in a member: SEQ advances, its operation joins the others, its threads go on (R299, R301). -/
def State.passHitch (s : State) (pen joint : Nat) (h : HitchWait) : State :=
  let s1 := s.updPen pen (fun p => { p with hitch := p.hitch.filter (· != h), gangSeq := p.gangSeq + 1 })
  let s2 := s1.updGroup h.gid (fun g => g.mapLanes h.lanes (fun t => { t with status := .ready }))
  match h.op with
  | some op => s2.updOp op (fun o => { o with atHitch := false, joint := some joint })
  | none => s2

def EngOp.sig (o : EngOp) : List Nat := match o.kind with | .mma m => m.sig | _ => []
def EngOp.spa (o : EngOp) : Bool := match o.kind with | .mma m => m.spa | _ => false
/-- The operation of a waiting pen, if its event has one. -/
def State.hitchOp (s : State) (p : Pen) : Option EngOp :=
  match p.hitch with
  | h :: _ => match h.op with | some op => s.ops.find? (·.id == op) | none => none
  | [] => none
/-- Pens of the team that have arrived at a hitch event. -/
def State.atHitch (s : State) (pen : Nat) : List Pen := (s.team (s.pen pen)).filter (fun p => !p.hitch.isEmpty && !p.saved)
/-- A pen names another in its MASK. -/
def State.names (s : State) (p q : Pen) : Bool := (gangBits p.gangMask).contains (s.member q)
/-- Every member that a pen names has arrived with its SEQ (R299). -/
def State.allHere (s : State) (here : List Pen) (p : Pen) : Bool :=
  decide ((here.filter (fun q => q.gangSeq == p.gangSeq && s.names p q)).length = (gangBits p.gangMask).length)
/-- The arrived members whose events are those of one SEQ with the ones given: those that any of them names, and those that wait
for nobody and name one of them (R299; log 26). -/
def State.oneSeq (s : State) (here : List Pen) (seq : W32) (ps : List Pen) : List Pen :=
  here.filter (fun q => q.gangSeq == seq && ps.any (fun p => p.id == q.id || s.names p q || (s.allHere here q && s.names q p)))
/-- When every member that a waiting pen of the team names has arrived with its SEQ, the members perform their events together
or fail together, which they do where their MASKs differ (R299). A team has at most six members. -/
def State.tryHitch (s : State) (pen : Nat) : State :=
  let here := s.atHitch pen
  match here.find? (s.allHere here) with
  | none => s
  | some p =>
    let ms := (List.range 6).foldl (fun ps _ => s.oneSeq here p.gangSeq ps) [p]
    let ops := ms.map s.hitchOp
    let same := ms.all (fun q => q.gangMask == p.gangMask)
      && ops.all (fun o => o.isSome == (s.hitchOp p).isSome)
      && ops.all (fun o => match o with
          | some x => !x.spa && x.sig == (match s.hitchOp p with | some y => y.sig | none => [])
          | none => true)
    let act := fun (x : State) (q : Pen) => match q.hitch with
      | h :: _ => if same then x.passHitch q.id s.fresh h else x.failHitch q.id h illfmt
      | [] => x
    ms.foldl act s.bump

/-- The participants are held at the event, and the pen has arrived (R286, R299). -/
def State.arriveHitch (s : State) (e : Env) (parts : List Thread) (op : Option Nat) : State :=
  let h : HitchWait := { gid := e.gid, lanes := parts.map Thread.lane, op := op, pc := e.wpc, hdr := e.hdr, since := s.clk }
  s.updPen e.pen (fun p => { p with hitch := p.hitch ++ [h] })

/-- After the participants of a hitch event have been held, the team may be complete. -/
def afterHitch (r : Host.Outcome State Fault Refusal) (s : State) : Host.Outcome State Fault Refusal :=
  match r, s.cur with
  | .next t, some gid =>
    let p := (s.group gid).pen
    if (t.pen p).hitch.length = (s.pen p).hitch.length then .next t else .next ((t.tryHitch p).settle p)
  | r, _ => r

/-! ### The MMA operations (R291 to R293, R308, R309) -/

def EFmt.f : EFmt → FFmt | .bf16 => BF16 | .f16 => F16 | .e4m3 => E4M3 | .e5m2 => E5M2 | .e2m1 | .lns6 => E2M1
/-- Bytes of a slice (R292). -/
def EFmt.slice : EFmt → Nat | .bf16 | .f16 => 128 | .e2m1 => 32 | _ => 64
def Path.sliceA : Path → Nat | .plane pa _ _ _ => 8 * pa | .float f => EFmt.slice f | .lns => 64
def Path.sliceB : Path → Nat | .plane _ pb _ _ => 8 * pb | .float f => EFmt.slice f | .lns => 64

/-- A matrix descriptor (R291). -/
structure MDesc where
  fmt : Nat
  bbmp : Nat
  abmp : Nat
  k : Nat
  boff : Nat
  aoff : Nat
  deriving DecidableEq, Repr
def mdesc (lo hi : W64) (spa spb fmtUsed : Bool) : Option MDesc :=
  let d : MDesc := { fmt := (bits hi 63 60).toNat, bbmp := (bits hi 41 21).toNat, abmp := (bits hi 20 0).toNat
                     k := (bits lo 48 42).toNat + 1, boff := (bits lo 41 21).toNat, aoff := (bits lo 20 0).toNat }
  if bits hi 59 42 != 0 || bits lo 63 49 != 0 || (!spa && d.abmp != 0) || (!spb && d.bbmp != 0) || (!fmtUsed && d.fmt != 0)
  then none else some d

/-- The path of an instruction, given MD.FMT (R308, R309). -/
def mmapPath (v : MmapV) (x : FmtE) : Path :=
  .plane (x.pa.toNat + 1) (x.pb.toNat + 1) (match v with | .ss | .sn => true | _ => false) (match v with | .ss | .ns => true | _ => false)
def MmafV.fmt : MmafV → EFmt | .bf16 => .bf16 | .f16 => .f16 | .e4m3 => .e4m3 | .e5m2 => .e5m2 | .e2m1 => .e2m1
def mmaspPath (v : MmaspV) (x : FmtE) (fmt : Nat) : Option Path :=
  match v with
  | .plane => if fmt < 4 then some (.plane (x.pa.toNat + 1) (x.pb.toNat + 1) (decide (2 ≤ fmt)) (decide (fmt % 2 = 1))) else none
  | .float => match fmt with
    | 0 => some (.float .bf16) | 1 => some (.float .f16) | 2 => some (.float .e4m3) | 3 => some (.float .e5m2)
    | 4 => some (.float .e2m1) | _ => none
  | .lns => if fmt = 0 then some .lns else none

/-- The scale values of the 64 rows or columns; an absent one holds 0x007F in every block. A special code gives one value to
every row or column that is present: ix gives the index of the elected thread, the lowest of a strand (R45, R73, R117; log
25). -/
def scaleRegs (e : Env) (el : Thread) (parts : List Thread) (o : Opd) : List W64 :=
  let val := fun (t : Thread) (k : Nat) => if o.file == .special then (baseForm e el o).val 0 else (baseForm e t o).val k
  (List.range 64).map (fun k =>
    if e.strand then (if k < el.n then val el k else 0x007F007F007F007F)
    else match parts.find? (·.lane == k) with
      | some t => val t 0
      | none => 0x007F007F007F007F)

/-- Issue of an MMA operation (R289, R308). `code` tells the instructions of a joint operation apart. -/
def mmaIssue (code : Nat) (x : FmtE) (path : Nat → Option Path) (fmtUsed compressed : Bool) (s : State) (e : Env) (el : Thread)
    (parts : List Thread) : Except Stop MRes := do
  let p := s.pen e.pen
  if !s.hasTile e x.acc || (x.gng && (!e.last || !s.gangOk p p.gangMask)) then throw (.fault illfmt)
  let lo := elVal e el x.d
  let hi := (el.regs.get (Opd.key x.d + 1)).val 0
  let some d := mdesc lo hi x.spa x.spb fmtUsed | throw (.fault illfmt)
  let some pt := path d.fmt | throw (.fault illfmt)
  if 32 * (4 - x.bsel.toNat) < d.k then throw (.fault illfmt)
  match [d.aoff, d.boff, d.abmp, d.bbmp].find? (fun a => a % 8 ≠ 0) with
  | some a => throw (.fault ⟨cALIGN, BitVec.ofNat 64 a, 0, 5, none⟩)
  | none =>
    -- in a joint operation the B source alone registers B and its bitmap
    let isB := !x.gng || (gangBits p.gangMask).head? == some (s.member p)
    let rs : List OpRange :=
      [⟨true, d.aoff, d.k * pt.sliceA, false⟩]
      ++ (if isB then [⟨true, d.boff, d.k * pt.sliceB, false⟩] else [])
      ++ (if x.spa then [⟨true, d.abmp, d.k * 8, false⟩] else [])
      ++ (if x.spb && isB then [⟨true, d.bbmp, d.k * 8, false⟩] else [])
    let m : Mma :=
      { path := pt, k := d.k, aoff := d.aoff, boff := d.boff, abmp := d.abmp, bbmp := d.bbmp, spa := x.spa, spb := x.spb
        compressed := compressed, zc := x.zc, bsel := x.bsel.toNat, scaleA := scaleRegs e el parts x.a
        scaleB := scaleRegs e el parts x.b
        sig := [code, d.k, x.pa.toNat, x.pb.toNat, x.zc.toNat, x.bsel.toNat, x.spb.toNat, d.fmt]
        steps := 0, slicesA := [], slicesB := [], bitsA := [], bitsB := []
        badA := [], badB := [], badMap := [] }
    let (r, id) ← issueMatrix s e el (.mma m) (some x.acc.toNat) rs true x.flg none
    if x.gng then
      return { s := (r.s.updOp id (fun o => { o with atHitch := true })).arriveHitch e parts (some id)
               upd := fun t => (r.upd t).atNext e .hitch, held := true }
    else return r

def execMmap (v : MmapV) (x : FmtE) (s : State) : Host.Outcome State Fault Refusal :=
  afterHitch (matrixOp (.mmap v x) (fun _ => false)
    (mmaIssue (match v with | .ss => 0 | .sn => 1 | .ns => 2 | .nn => 3) x (fun _ => some (mmapPath v x)) false false) s) s
def execMmaf (v : MmafV) (x : FmtE) (s : State) : Host.Outcome State Fault Refusal :=
  afterHitch (matrixOp (.mmaf v x) (fun _ => false)
    (mmaIssue (match v with | .bf16 => 4 | .f16 => 5 | .e4m3 => 6 | .e5m2 => 7 | .e2m1 => 8) x (fun _ => some (.float (MmafV.fmt v))) false false) s) s
def execMmal (x : FmtE) (s : State) : Host.Outcome State Fault Refusal :=
  afterHitch (matrixOp (.mmal x) (fun _ => false) (mmaIssue 9 x (fun _ => some .lns) false false) s) s
def execMmasp (v : MmaspV) (x : FmtE) (s : State) : Host.Outcome State Fault Refusal :=
  afterHitch (matrixOp (.mmasp v x) (fun _ => false)
    (mmaIssue (match v with | .plane => 10 | .float => 11 | .lns => 12) x (mmaspPath v x) true true) s) s

/-! ### MWAIT, ACCZ, ACCLD, ACCST, DRAIN (R290, R310 to R313) -/

def execMwait (x : FmtE) (s : State) : Host.Outcome State Fault Refusal :=
  matrixOp (.mwait x) (fun e => !e.last) (fun s e _ _ =>
    if !s.hasTile e x.acc then .error (.fault illfmt) else
    let ops := (s.tileOps e.pen x.acc.toNat).map EngOp.id
    if ops.isEmpty then .ok { s := s, upd := id }
    else .ok { s := s, upd := fun t => t.atNext e (.mwait ops), held := true }) s

def execAccz (x : FmtE) (s : State) : Host.Outcome State Fault Refusal :=
  matrixOp (.accz x) (fun _ => false) (fun s e el _ => do
    if !s.hasTile e x.acc then throw (.fault illfmt)
    let r ← issueMatrix s e el .accz (some x.acc.toNat) [] false 0 none
    return r.1) s

/-- An address word: scratch or global, and the address (R290). -/
def addrWord (w : W64) : Except FaultInfo (Bool × W64) :=
  if isSet w 63 then
    if bits w 62 21 != 0 then .error illfmt
    else if w.toNat % 128 ≠ 0 then .error ⟨cALIGN, (bits w 20 0).zeroExtend 64, 0, 5, none⟩
    else .ok (true, (bits w 20 0).zeroExtend 64)
  else if w.toNat % 128 ≠ 0 then .error ⟨cALIGN, w, 0, 5, none⟩
  else if bits w 62 56 != 0 then .error ⟨cXLATE, w, 0, 5, none⟩
  else .ok (false, w)

/-- An operation between a tile and the memory that D names. -/
def tileMem (x : FmtE) (kind : Bool → W64 → OpKind) (len : Nat) (dst : Bool) (s : State) (e : Env) (el : Thread)
    (_ : List Thread) : Except Stop MRes := do
  if !s.hasTile e x.acc then throw (.fault illfmt)
  let (scr, a) ← asStop (addrWord (elVal e el x.d))
  let r ← issueMatrix s e el (kind scr a) (some x.acc.toNat) [⟨scr, a.toNat, len, dst⟩] true x.flg none
  return r.1
def execAccld (x : FmtE) (s : State) : Host.Outcome State Fault Refusal :=
  matrixOp (.accld x) (fun _ => false) (tileMem x .accld 16384 false) s
def execAccst (x : FmtE) (s : State) : Host.Outcome State Fault Refusal :=
  matrixOp (.accst x) (fun _ => false) (tileMem x .accst 16384 true) s
def DrainV.size : DrainV → Nat | .f32 => 4 | .bf16 | .f16 => 2 | .e4m3 | .i8 => 1
def execDrain (v : DrainV) (x : FmtE) (s : State) : Host.Outcome State Fault Refusal :=
  matrixOp (.drain v x) (fun _ => false) (tileMem x (.drain v) (4096 * DrainV.size v) true) s

/-! ### GANGSET, HITCH, GANGTO (R300, R314, R315) -/

/-- Set MASK and SEQ, as GANGSET and a WRSR to $gang do; none when it raises ILLFMT (R298, R314). -/
def State.gangset (s : State) (pen : Nat) (a : W64) : Option State :=
  let p := s.pen pen
  let mask := bits a 5 0
  if !p.hitch.isEmpty || (mask != 0 && !s.gangOk p mask) then none
  else some (s.updPen pen (fun q => { q with gangMask := mask, gangSeq := 0 }))
def execGangset (x : FmtE) (s : State) : Host.Outcome State Fault Refusal :=
  matrixOp (.gangset x) (fun _ => false) (fun s e el _ =>
    match s.gangset e.pen (elVal e el x.a) with
    | none => .error (.fault illfmt)
    | some s1 => .ok { s := s1, upd := fun t => t.result x.b (.u (s.pen e.pen).gangWord) }) s

def execHitch (x : FmtE) (s : State) : Host.Outcome State Fault Refusal :=
  afterHitch (matrixOp (.hitch x) (fun e => !e.last) (fun s e _ parts =>
    if (s.pen e.pen).gangMask == 0 then .error (.fault illfmt)
    else .ok { s := s.arriveHitch e parts none, upd := fun t => t.atNext e .hitch, held := true }) s) s

/-- GANGTO_EXPIRY: a member has waited 1 ms since its arrival (R300). -/
def execGangtoExpiry (pen : Nat) (s : State) : Host.Outcome State Fault Refusal :=
  let p := s.pen pen
  .next (if p.saved then s else
    match p.hitch.find? (fun h => decide (h.since + 1000000 ≤ s.clk)) with
    | some h => s.failHitch pen h ⟨cGANGTO, 0, p.gangWord, 0, none⟩
    | none => s)

/-! ### Predicted rows (R303 to R306, R316 to R318) -/

/-- A field of a PRB record. -/
def prbF (r : BitVec 512) (hi lo : Nat) : Nat := r.toNat / 2 ^ lo % 2 ^ (hi + 1 - lo)
def Prb.kw (r : Prb) : Nat := 64 * (prbF r.word 201 192 + 1)
def Prb.rb (r : Prb) : Nat := Prb.kw r / 8
def Prb.rk (r : Prb) : Nat := prbF r.word 213 208 + 1
def Prb.k (r : Prb) : Nat := prbF r.word 283 277 + 1
def Prb.k0 (r : Prb) : Nat := prbF r.word 303 288
def Prb.doff (r : Prb) : Nat := prbF r.word 276 256
def Prb.uoff (r : Prb) : Nat := prbF r.word 190 170
def Prb.soff (r : Prb) : Nat := prbF r.word 169 149
def Prb.xoff (r : Prb) : Nat := prbF r.word 148 128
def Prb.vaddr (r : Prb) : Nat := prbF r.word 127 64
def Prb.waddr (r : Prb) : Nat := prbF r.word 63 0
def prbReserved (w : BitVec 512) : Bool :=
  prbF w 511 304 != 0 || prbF w 287 284 != 0 || prbF w 223 214 != 0 || prbF w 207 202 != 0 || prbF w 191 191 != 0

/-- Misaligned fields of the instruction: value and multiple. -/
def firstOff (l : List (Nat × Nat)) : Option Nat := (l.find? (fun p => p.1 % p.2 ≠ 0)).map (·.1)

/-- Issue of a predicted-row operation: the record is read by the elected thread (R303), then the checks of R289. -/
def prbIssue (x : FmtE) (p : Nat) (mask : W64) (kind : Prb → OpKind) (dest : Option Opd) (align : Prb → List (Nat × Nat))
    (ranges : Prb → List OpRange) (bad : Prb → Bool) (s : State) (e : Env) (el : Thread) (_ : List Thread) : Except Stop MRes := do
  let off := elVal e el x.d
  let l ← asStop (s.access e.pen el.lo el.hwm .scratch off 64 accRead)
  let r : Prb := { word := BitVec.ofNat 512 (s.readLoc l 64), p := p, mask := mask, tau := (s.pen e.pen).rtau }
  if prbReserved r.word || bad r then throw (.fault illfmt)
  match firstOff (align r) with
  | some a => throw (.fault ⟨cALIGN, BitVec.ofNat 64 a, 0, 5, none⟩)
  | none =>
    let q ← issueMatrix s e el (kind r) none (ranges r) true x.flg dest
    return q.1

def execRpred (x : FmtE) (s : State) : Host.Outcome State Fault Refusal :=
  matrixOp (.rpred x) (fun _ => false)
    (prbIssue x 4 0 .rpred (some x.b) (fun r => [(r.xoff, 8), (r.uoff, 8), (r.vaddr, 128)])
      (fun r => [⟨true, r.xoff, 4 * r.kw, false⟩, ⟨true, r.uoff, 32 * r.rk, false⟩, ⟨false, r.vaddr, 4 * r.rk * r.rb, false⟩])
      (fun _ => false)) s
def execRcheck (x : FmtE) (s : State) : Host.Outcome State Fault Refusal :=
  matrixOp (.rcheck x) (fun _ => false) (fun s e el ps =>
    let p := x.pa.toNat + 1
    prbIssue x p (elVal e el x.a) .rcheck (some x.b) (fun r => [(r.xoff, 8), (r.soff, 128), (r.waddr, 128)])
      (fun r => [⟨true, r.xoff, 4 * r.kw, false⟩, ⟨true, r.soff, 128, false⟩,
                 ⟨false, r.waddr + (p - 1) * 64 * r.rb, 64 * r.rb, false⟩, ⟨false, r.waddr + (p - 2) * 64 * r.rb, 64 * r.rb, false⟩])
      (fun _ => false) s e el ps) s
def execRgath (x : FmtE) (s : State) : Host.Outcome State Fault Refusal :=
  matrixOp (.rgath x) (fun _ => false) (fun s e el ps =>
    let p := x.pa.toNat + 1
    prbIssue x p (elVal e el x.a) .rgath none (fun r => [(r.doff, 8), (r.waddr, 128)])
      (fun r => [⟨true, r.doff, 8 * p * r.k, true⟩, ⟨false, r.waddr, 64 * p * r.rb, false⟩])
      (fun r => decide (r.kw < r.k0 + r.k)) s e el ps) s

/-! ### MPROG and MCANCEL (R296, R319, R320) -/

/-- The step set of an operation whose bitmaps have been read (R294). -/
def Mma.stepSet (m : Mma) : List Nat :=
  (List.range m.k).filter (fun k => m.bitsA.getD k allOnes64 != 0 && m.bitsB.getD k allOnes64 != 0)
def Mma.unread (m : Mma) : Bool := (m.spa || m.spb) && m.bitsA.isEmpty

/-- STEPS, KNEXT and TOTAL (R296). KNEXT is K once every step is performed, for which R296 gives no value (DEDUCED, log 39). -/
def OpKind.progress : OpKind → Nat × Nat × Nat
  | .mma m =>
    if m.unread then (0, 0, 255) else
    let ks := m.stepSet
    (m.steps, (ks[m.steps]?).getD m.k, ks.length)
  | _ => (0, 0, 0)
def State.progWord (s : State) (pen tile : Nat) : W64 :=
  let ops := s.tileOps pen tile
  let last := (((s.pen pen).last.find? (·.1 == tile)).map (·.2)).getD 0
  let (st, (steps, knext, total)) := match ops with
    | [] => (0, 0, 0, 0)
    | o :: _ => (if o.started then 2 else 1, o.kind.progress)
  (0 : BitVec 24) ++ BitVec.ofNat 8 ops.length ++ BitVec.ofNat 2 last ++ BitVec.ofNat 3 st ++ (0 : BitVec 3)
    ++ BitVec.ofNat 8 steps ++ BitVec.ofNat 8 knext ++ BitVec.ofNat 8 total
def execMprog (x : FmtE) (s : State) : Host.Outcome State Fault Refusal :=
  matrixOp (.mprog x) (fun _ => false) (fun s e _ _ =>
    if !s.hasTile e x.acc then .error (.fault illfmt)
    else .ok { s := s, upd := fun t => t.result x.b (.u (s.progWord e.pen x.acc.toNat)) }) s

/-- An operation cancelled at the hitch: its event is gone, and its threads go on past it (log 26). -/
def State.leaveHitch (s : State) (o : EngOp) : State :=
  match o.pen with
  | none => s
  | some p =>
    match (s.pen p).hitch.find? (fun h => h.op == some o.id) with
    | none => s
    | some h =>
      (s.updPen p (fun x => { x with hitch := x.hitch.filter (· != h) })).updGroup h.gid
        (fun g => g.mapLanes h.lanes (fun t => { t with status := .ready }))
/-- The SEQ of the hitch event at which an operation of the pen waits: that of the first event, and so on. -/
def Pen.hitchSeq (p : Pen) (op : Nat) : Option W32 :=
  (p.hitch.findIdx? (fun h => h.op == some op)).map (fun k => p.gangSeq + BitVec.ofNat 32 k)
/-- x is the operation of another member that has arrived at the event at which o waits, in the gang of o's pen (R299). -/
def State.hitchMate (s : State) (o x : EngOp) : Bool :=
  match o.pen, x.pen with
  | some a, some b =>
    let p := s.pen a
    let q := s.pen b
    o.atHitch && x.atHitch && (s.team p).any (fun t => t.id == b) && (gangBits p.gangMask).contains (s.member q)
      && (q.hitchSeq x.id).isSome && q.hitchSeq x.id == p.hitchSeq o.id
  | _, _ => false
/-- Operations on the tile are cancelled, in every member of a joint one: those joined to it, and, where it still waits at the
hitch, those of the members that have arrived there, which complete as one joint operation. One that waits at the hitch
leaves it at once, so that no later arrival is joined to it (R302, R320; log 26). -/
def State.cancelTile (s : State) (pen tile : Nat) : State :=
  let mine := s.tileOps pen tile
  let by' := fun (o : EngOp) =>
    mine.find? (fun m => m.id == o.id || (o.joint.isSome && m.joint == o.joint) || s.hitchMate m o)
  let s1 := { s with ops := s.ops.map (fun o => match by' o with
      | some m => { o with cancelled := true, atHitch := false, joint := if o.joint.isSome || !o.atHitch then o.joint else some m.id }
      | none => o) }
  (s.ops.filter (fun o => (by' o).isSome)).foldl State.leaveHitch s1
def execMcancel (x : FmtE) (s : State) : Host.Outcome State Fault Refusal :=
  afterHitch (matrixOp (.mcancel x) (fun _ => false) (fun s e _ _ =>
    if !s.hasTile e x.acc then .error (.fault illfmt) else .ok { s := s.cancelTile e.pen x.acc.toNat, upd := id }) s) s

/-! ### Retries at issue (R214, R287) -/

/-- A group that waited for room issues its instruction again. -/
def State.retryStall (s : State) (gid : Nat) (why : Stall) (ok : Bool) : State :=
  if (s.group gid).stall == some why && ok then s.updGroup gid (fun g => { g with stall := none }) else s
def State.queueRoom (s : State) (gid : Nat) : Bool :=
  decide ((s.ops.filter (fun o => o.pen == some (s.group gid).pen && o.kind.isMatrix)).length < Config.engineQueueDepth)
def execEngineQueueRoom (gid : Nat) (s : State) : Host.Outcome State Fault Refusal :=
  .next (s.retryStall gid .queue (s.queueRoom gid))
def execRangeLockIssueRetry (gid : Nat) (s : State) : Host.Outcome State Fault Refusal :=
  .next (s.retryStall gid .range (decide (s.rangesInUse < Config.rangeEntries)))

end Sys2Proof.Machine
end

