-- ==== Sys2Proof/Machine/Tasks.lean ====
section
/-! DEFINITION. Block 7 but its system instructions: queues, copies, spawns, continuations, counters, graphs,
histograms, declarations, the incumbent, the governor and KILLT (R321 to R382). -/

namespace Sys2Proof.Machine

/-! ### The shape of R365 -/

/-- One action for a strand whose sources are all U, or for each lane (R365). -/
def qMeaning (gd : Guard) (srcs : List Opd) (dest : Option Opd) (act : Act) : Meaning :=
  { gd := gd, dest := dest, lay := fun _ e t => srcA e t srcs, act := act }
def qVal (e : Env) (t : Thread) (o : Opd) : W64 := (baseForm e t o).val 0
/-- A global access by the thread (R364). -/
def gAccess (s : State) (e : Env) (t : Thread) (a : W64) (n : Nat) (k : AccKind) (align : Nat := n) : Except FaultInfo Loc :=
  s.access e.pen t.lo t.hwm .global a n k align
def locAdd (l : Loc) (k : Nat) : Loc := match l with | .phys p => .phys (p + k) | .scr p o => .scr p (o + k)
/-- Indices for which DEPDEC, HISTADD and CONDW add apply their amount. -/
def times (e : Env) (t : Thread) : Nat := if e.strand then t.n else 1

/-! ### QPUSH and QPOP (R331, R333, R366, R367) -/

def blockOpds (b : Opd) : List Opd := (List.range 8).map (fun k => { b with idx := b.idx + BitVec.ofNat 8 k })
def blockVal (e : Env) (t : Thread) (b : Opd) : BitVec 512 :=
  BitVec.ofNat 512 (pack 64 ((blockOpds b).map (fun o => (qVal e t o).toNat)))

def execQpush (x : FmtQ) (s : State) : Host.Outcome State Fault Refusal :=
  drive (.qpush x) (fun e => x.wm == 0 && !e.first)
    (qMeaning x.gd (x.a :: blockOpds x.b) (some x.d) (fun s e t => do
      let a := qVal e t x.a
      let pkt := blockVal e t x.b
      let q ← asStop (s.queue (s.ctxOf e.pen) a true accRmw)
      match s.pushTo q pkt with
      | some (s1, i) => return { s := s1, t := t.result x.d (.u i) }
      | none =>
        if x.wm == 1 then return { s := s, t := t.result x.d (.u allOnes64) }
        else return { s := s, t := { t with pc := e.hdr, hdr := e.hdr, status := .push a pkt x.d }, flow := .leave })) s

def execQpop (x : FmtQ) (s : State) : Host.Outcome State Fault Refusal :=
  drive (.qpop x) (fun _ => false)
    (qMeaning x.gd [x.a] none (fun s e t => do
      let c := s.ctxOf e.pen
      let a := qVal e t x.a
      let q ← asStop (s.queue c a false accRmw)
      match s.popFrom c a q with
      | some (s1, pkt) => return oweRes s1 e t x.flg (goForms x.d (pktForms pkt))
      | none =>
        let open' := goForms x.d ((List.range 8).map (fun k => Form.u (Config.freeReg s.fresh (544 + k))))
        if x.wm == 1 then return oweRes s e t x.flg ((Opd.key x.d, Form.u 0xFF) :: open'.drop 1)
        else return oweRes s e t x.flg open' 0 (some a))) s

/-- The waiter stands on a tether list, where it makes no re-test: a QPOP by its operation, a QPUSH by its thread (R331). -/
def State.listed (s : State) (w : Waiter) : Bool :=
  s.tethers.any (fun t => t.waiters.any (fun v => if w.op = 0 then v == w else v.op == w.op))
/-- A pending QPOP of a thread tests its queue again. A check that fails is raised at the QPOP once the thread waits there, at
its clause boundary (R331, R388; log 27). -/
def State.retestPop (s : State) (gid lane : Nat) (p : Pend) : State :=
  let g := s.group gid
  let c := s.ctxOf g.pen
  match g.thread lane with
  | none => s
  | some t =>
    if s.listed ⟨gid, lane, p.op⟩ || (match t.status with | .parked _ => true | _ => false) then s else
    match s.queue c (p.queue.getD 0) false accRmw with
    | .error f =>
      let waits := t.status == .ready && g.run.all (fun r => !r.sel.contains lane) && s.waitsOn c t p
      if waits then s.park gid [lane] p.pc t.lo (t.n - 1) g.slotNum f else s
    | .ok q =>
      s.actFor c (fun x => match x.popFrom c (p.queue.getD 0) q with | some (s1, pkt) => s1.popDone p.op pkt | none => s)
/-- QUEUE_WAITER_RETEST: a resident waiter's operations test their queues again. A check that fails is raised at the QPUSH
or QPOP; a waiter of QPOP tests again once it has been resumed (R331; log 27). -/
def State.retestQueue (s : State) (gid lane : Nat) : State :=
  let g := s.group gid
  let c := s.ctxOf g.pen
  match g.thread lane with
  | none => s
  | some t =>
    if !g.resident s then s else
    match t.status with
    | .parked _ => s
    | .push a pkt d =>
      if s.listed ⟨gid, lane, 0⟩ then s else
      match s.queue c a true accRmw with
      | .error f =>
        (s.updThread gid lane Thread.atFirst).park gid [lane] (t.hdr + 8) t.lo (t.n - 1) g.slotNum f
      | .ok q =>
        s.actFor c (fun x => match x.pushTo q pkt with | some (s1, i) => s1.updThread gid lane (fun u => u.resumeWith d i) | none => s)
    | _ => (t.pend.filter (·.queue.isSome)).foldl (fun x p => x.retestPop gid lane p) s
def execQueueWaiterRetest (gid lane : Nat) (s : State) : Host.Outcome State Fault Refusal := .next (s.retestQueue gid lane)

/-! ### COPY (R342 to R346, R368) -/

/-- A field of a copy packet. -/
def cpF (p : BitVec 512) (hi lo : Nat) : Nat := p.toNat / 2 ^ lo % 2 ^ (hi + 1 - lo)
/-- Read a packet for variant `kind`; none when it is refused (R346). `pen` is none for a copy queue. CP.DST and CP.DSTR of a
copy to a ring may hold any value: R344 and R346 do not say that they must be 0 (log 44). -/
def copyOf (s : State) (pen : Option Nat) (kind : Nat) (p : BitVec 512) : Option Copy :=
  let ring := cpF p 22 22 == 1
  let rn := cpF p 25 23
  let len := cpF p 287 256
  let rows := cpF p 319 288
  let sstr := BitVec.ofNat 64 (cpF p 383 320)
  let dstr := BitVec.ofNat 64 (cpF p 447 384)
  let lesz := cpF p 28 26
  let dsp := cpF p 19 18
  let ssp := cpF p 17 16
  let q := s.ring (pen.getD 0) rn
  if cpF p 127 29 ≠ 0 ∨ cpF p 21 20 ≠ 0 ∨ cpF p 13 8 ≠ 0 ∨ cpF p 7 0 ≠ 2 ∨ 1 < dsp ∨ 1 < ssp ∨ cpF p 15 14 ≠ kind
      ∨ (rn ≠ 0 ∧ !ring) ∨ (kind = 0 ∧ (rows ≠ 0 ∨ sstr ≠ 0 ∨ dstr ≠ 0 ∨ lesz ≠ 0)) ∨ (kind = 1 ∧ lesz ≠ 0)
      ∨ (kind = 2 ∧ (len ≠ 0 ∨ dstr ≠ 0)) ∨ (pen.isNone ∧ (dsp = 1 ∨ ssp = 1))
      ∨ (ring ∧ (kind ≠ 1 ∨ dsp ≠ 1 ∨ ringCnt q.cfg = 0 ∨ ringSize q.cfg < len)) then none
  else some { kind := kind, srcScr := ssp == 1, dstScr := dsp == 1, src := BitVec.ofNat 64 (cpF p 191 128)
              dst := BitVec.ofNat 64 (cpF p 255 192), sstr := sstr, dstr := dstr, rows := rows, len := len, lesz := lesz
              idx := [], ring := if ring then some rn else none, dep := BitVec.ofNat 64 (cpF p 511 448) }

/-- The pieces that a copy moves: destination, source, bytes (R343). Addresses are modulo 2^64. -/
def Copy.chunks (c : Copy) : List (Nat × Nat × Nat) :=
  match c.kind with
  | 0 => [(c.dst.toNat, c.src.toNat, c.len)]
  | 1 => (List.range c.rows).map (fun r =>
      ((c.dst + BitVec.ofNat 64 r * c.dstr).toNat, (c.src + BitVec.ofNat 64 r * c.sstr).toNat, c.len))
  | _ => (List.range c.rows).map (fun e =>
      ((c.dst + BitVec.ofNat 64 (e * 2 ^ c.lesz)).toNat, (c.src + BitVec.ofNat 64 (c.idx.getD e 0 * 2 ^ c.lesz)).toNat, 2 ^ c.lesz))
/-- The span of a list of pieces. -/
def spanOf (scr dst : Bool) (ps : List (Nat × Nat)) : OpRange :=
  match ps.filter (fun p => p.2 ≠ 0) with
  | [] => ⟨scr, 0, 0, dst⟩
  | p :: rest =>
    let lo := rest.foldl (fun m q => min m q.1) p.1
    let hi := rest.foldl (fun m q => max m (q.1 + q.2)) (p.1 + p.2)
    ⟨scr, lo, hi - lo, dst⟩
def Copy.ranges (c : Copy) : List OpRange :=
  spanOf c.srcScr false (c.chunks.map (fun p => (p.2.1, p.2.2)))
    :: (if c.ring.isSome then [] else [spanOf c.dstScr true (c.chunks.map (fun p => (p.1, p.2.2)))])

/-- The entries of an index array at the locations found, or the first cause of all of them (R384). -/
def State.idxEntries (s : State) (ls : List (Except FaultInfo Loc)) : Except FaultInfo (List Nat) := do
  firstCause ls
  let xs ← ls.mapM id
  return xs.map (fun l => s.readLoc l 4)
/-- The index array of a .gather copy, each entry read once (R343). -/
def gatherIdx (s : State) (pen i : Nat) (hwm : BitVec 40) (c : Copy) (k : AccKind) : Except FaultInfo (List Nat) :=
  if c.kind ≠ 2 then .ok [] else
  s.idxEntries ((List.range c.rows).map (fun e =>
    s.access pen i hwm (if c.srcScr then .scratch else .global) (c.sstr + BitVec.ofNat 64 (4 * e)) 4 k))

/-- Issue of a COPY (R346, R368). -/
def copyAct (kind : Nat) (x : FmtQ) : Act := fun s e t => do
  let l ← asStop (s.access e.pen t.lo t.hwm .scratch (qVal e t x.a) 64 accRead)
  let some c0 := copyOf s (some e.pen) kind (BitVec.ofNat 512 (s.readLoc l 64)) | throw (.fault illfmt)
  if c0.kind = 2 ∧ c0.sstr.toNat % 4 ≠ 0 then throw (.fault ⟨cALIGN, c0.sstr, 0, 1, none⟩)
  let idx ← asStop (gatherIdx s e.pen t.lo t.hwm c0 accRead)
  let c := { c0 with idx := idx }
  let ctx := s.ctxOf e.pen
  asStop (s.engCheck e.pen ctx c.ranges)
  if !s.rangeRoom c.ranges then throw (.stall .range)
  let id := s.fresh
  let o := { EngOp.blank with id := id, kind := .copy c, ctx := ctx, launch := (s.pen e.pen).launch, pen := some e.pen
                              task := some t.task, dest := some (Opd.key x.d) }
  return { s := s.register o c.ranges, t := t.issued e id true x.flg (some (Opd.key x.d)) }
def execCopyD1 (x : FmtQ) (s : State) : Host.Outcome State Fault Refusal :=
  drive (.copyD1 x) (fun _ => false) (qMeaning x.gd [x.a] none (copyAct 0 x)) s
def execCopyD2 (x : FmtQ) (s : State) : Host.Outcome State Fault Refusal :=
  drive (.copyD2 x) (fun _ => false) (qMeaning x.gd [x.a] none (copyAct 1 x)) s
def execCopyGather (x : FmtQ) (s : State) : Host.Outcome State Fault Refusal :=
  drive (.copyGather x) (fun _ => false) (qMeaning x.gd [x.a] none (copyAct 2 x)) s

/-! ### Threads and tasks that begin (R13, R189, R192, R321, R369) -/

/-- sp for the range [lo, lo + n) (R189). -/
def spForm (l : Launch) (lo n : Nat) (strand : Bool) : Form :=
  let top := BitVec.ofNat 64 (l.stk.toNat + (lo + 1) * l.z)
  if strand && decide (1 < n) then Form.mk top (BitVec.ofNat 64 l.z) else if strand then Form.mk top (BitVec.ofNat 64 l.z) else .u top
def clearDecls : List Decl := List.replicate 4 ⟨0, 0⟩
/-- A thread at an entry clause: fp, lk, gp, sp and g0 as given, every other register unpredictable (R192, R369). -/
def newThread (l : Launch) (seed lo n lane task : Nat) (entry : W64) (strand : Bool) (g0 : Option W64) : Thread :=
  { lo := lo, n := n, lane := lane, task := task, pc := entry, hdr := entry
    regs := { fill := seed, cells := (match g0 with | some v => [(0, Form.u v)] | none => [])
                ++ [(252, .u 0), (253, .u l.gp), (254, .u 0), (255, spForm l lo n strand)] }
    hist := Hist.fresh seed, preds := [], splices := [], flags := 0, pend := [], fpx := 0, part := false, hwm := 0x10000
    wto := 0, epc := 0, epcHdr := 0, ecause := 0, cohort := 0, cohorts := [], role := 0, decls := clearDecls, bound := ⟨false, 0, 0⟩, ctr := 0
    age := 0, ageAt := 0, engOps := [], engFail := false, cps := none, arrived := none, kept := none, ost := seed, status := .ready }
/-- A group of the pen that waits to be placed. -/
def newGroup (id pen : Nat) (lanes : Bool) (ts : List Thread) : Group :=
  { Group.blank with id := id, pen := pen, lanes := lanes, threads := ts }

/-- The launch of a thread: that of its task, which in a lane group from a bin of several launches need not be the pen's
(R48; log 40). -/
def State.threadLaunch (s : State) (t : Thread) : Launch := s.launch (s.task t.task).launch
/-- The task that a SPAWN creates: a descendant of the issuer's launch, with the issuer's pending bound, declarations and
counter (R324, R369, R375, R377). -/
def spawnTask (s : State) (t : Thread) (id : Nat) : Task :=
  { Task.blank with id := id, launch := (s.task t.task).launch, tdep := t.ctr, cell := t.bound, karg := (s.threadLaunch t).karg
                    prio := (s.task t.task).prio, decls := t.decls.filter (fun d => bits d.word 31 0 != 0) }
def Thread.spent (t : Thread) : Thread := { t with decls := clearDecls, bound := ⟨false, 0, 0⟩ }

/-! ### The pen of a new task (R335, R357) -/

/-- Strand slots free on a die, in its yards in service: the measure of its room (R357; log 88). -/
def State.dieRoom (s : State) (die : Nat) : Nat :=
  (((List.range Config.yardsBuilt).filter (fun y => s.units.yards.getLsbD (9 * die + y))).map (fun y =>
    ((List.range Config.coresPerYard).map (fun m => (s.freeSlots ((9 * die + y) * Config.coresPerYard + m)).length)).sum)).sum
/-- The die with the largest figure, the lowest among equals. -/
def bestDie (f : Nat → Nat) : Nat := ((List.range Config.dies).foldl (fun b d => if f b < f d then d else b) 0)
/-- The die preferred for a task with declarations: the one that holds the context's shed ways, else the one with the most free
room (R357). -/
def State.stagingDie (s : State) (c : Nat) : Nat :=
  let ways := fun d => if s.dieRoom d = 0 then 0 else (s.ctx c).shed.getD d 0
  if ways (bestDie ways) = 0 then bestDie s.dieRoom else bestDie ways
/-- The pen of its launch that a task joins: `pen` where that is one of them; with declarations one on the die preferred,
where the launch has one there (R335, R357; log 88). -/
def State.taskPen (s : State) (c launch pen : Nat) (decls : List Decl) : Nat :=
  let ps := (s.pens.filter (fun p => p.launch == launch)).map Pen.id
  let own := if ps.contains pen then pen else ps.headD 0
  if decls.isEmpty then own
  else ((own :: ps).find? (fun p => (s.pen p).core.map dieOfCore == some (s.stagingDie c))).getD own

/-! ### SPAWN (R48, R49, R369) -/

def execSpawnRange (x : FmtQ) (s : State) : Host.Outcome State Fault Refusal :=
  drive (.spawnRange x) (fun _ => false)
    (qMeaning x.gd [x.d, x.a, x.b] none (fun s e t => do
      let b := qVal e t x.b
      let lo := (bits b 31 0).toNat
      let n := (bits b 63 32).toNat + 1
      let a := qVal e t x.a
      let _ ← asStop (s.checkTarget (s.ctxOf e.pen) a)
      if 2 ^ 32 < lo + n then throw (.fault illfmt)
      let task := spawnTask s t s.fresh
      let th := newThread (s.threadLaunch t) (s.fresh + 2) lo n 0 task.id a true (some (qVal e t x.d))
      let pen := s.taskPen (s.ctxOf e.pen) task.launch e.pen task.decls
      let s1 := { s.bump 3 with tasks := s.tasks ++ [task], groups := s.groups ++ [newGroup (s.fresh + 1) pen false [th]] }
      return { s := s1.addMember (.group (s.fresh + 1) true) task.prio, t := t.spent })) s

/-- A bin launches its spawns as one lane group, in the order of their arrival (R49). -/
def State.launchBin (s : State) (die : Nat) (b : Bin) : State :=
  let idx := List.range b.spawns.length
  let ts := (idx.zip b.spawns).map (fun p =>
    newThread (s.launch (s.task p.2.task).launch) (s.fresh + 1 + p.1) p.2.idx 1 p.1 p.2.task b.entry false (some p.2.g0))
  let pen := s.taskPen b.ctx b.launch 0 (b.spawns.flatMap (fun p => (s.task p.task).decls))
  let prio := (b.spawns.map (fun p => (s.task p.task).prio)).foldl max 0
  let s1 := { (s.updDie die (fun d => { d with bins := d.bins.filter (fun y => !(y.ctx == b.ctx && y.entry == b.entry)) })).bump (1 + b.spawns.length) with
              groups := s.groups ++ [newGroup s.fresh pen true ts] }
  s1.addMember (.group s.fresh true) prio
/-- Spawns that a bin holds (R49). -/
abbrev binSpawns : Nat := 64
/-- A full bin of a stopped context, which launches once the context goes on (R401; log 82). -/
def State.binHeld (s : State) (b : Bin) : Bool := decide (binSpawns ≤ b.spawns.length) && (s.ctx b.ctx).stopped
def binFind (d : Die) (c : Nat) (entry : W64) : Option Bin := d.bins.find? (fun b => b.ctx == c && b.entry == entry)
def execSpawnSingle (x : FmtQ) (s : State) : Host.Outcome State Fault Refusal :=
  drive (.spawnSingle x) (fun _ => false)
    (qMeaning x.gd [x.d, x.a, x.b] none (fun s e t => do
      let d := qVal e t x.d
      let a := qVal e t x.a
      let c := s.ctxOf e.pen
      let _ ← asStop (s.checkTarget c a)
      if bits d 63 32 != 0 then throw (.fault illfmt)
      let die := s.penDie e.pen
      let task := spawnTask s t s.fresh
      let sp : Spawn := ⟨(bits d 31 0).toNat, qVal e t x.b, task.id⟩
      let s1 := { s.bump with tasks := s.tasks ++ [task] }
      match binFind (s.die die) c a with
      | some b =>
        if binSpawns ≤ b.spawns.length then throw (.stall .bin)
        let b1 := { b with spawns := b.spawns ++ [sp] }
        let s2 := s1.updDie die (fun y => { y with bins := y.bins.map (fun z => if z.ctx == c && z.entry == a then b1 else z) })
        return { s := if b1.spawns.length < binSpawns || s2.binHeld b1 then s2 else s2.launchBin die b1, t := t.spent }
      | none =>
        if Config.binsPerDie ≤ (s.die die).bins.length then throw (.stall .bin)
        let b : Bin := ⟨c, a, task.launch, s.clk, [sp]⟩
        return { s := s1.updDie die (fun y => { y with bins := y.bins ++ [b] }), t := t.spent })) s

/-- BIN_TIMER_EXPIRY: the period of the context has passed since the first spawn (R49, R50). The period is that of $bintm at
the expiry: the manual does not say what a write does to a timer that runs (log 83). A stopped context launches no bin, and a
bin that was full launches when it goes on (R401). -/
def execBinTimerExpiry (die ctx : Nat) (entry : W64) (s : State) : Host.Outcome State Fault Refusal :=
  .next (match binFind (s.die die) ctx entry with
    | some b =>
      if (s.ctx ctx).stopped then s
      else if b.first + 100 * (s.ctx ctx).bintm.toNat ≤ s.clk ∨ binSpawns ≤ b.spawns.length then s.launchBin die b else s
    | none => s)
/-- SPAWN_BIN_FREE: a SPAWN that waits for an empty bin, or for the bin of its key that is full, issues again (R48). -/
def execSpawnBinFree (gid : Nat) (s : State) : Host.Outcome State Fault Refusal :=
  .next (s.retryStall gid .bin (decide ((s.die (s.penDie (s.group gid).pen)).bins.length < Config.binsPerDie)))

/-! ### CONT (R51 to R54, R347, R370) -/

/-- The two bits of CONT.FORMS, and the body of a slot (R51). -/
def strandSlot (f : Form) : Nat × Nat :=
  match f with | .u v => (0, v.toNat) | .a b st => (1, b.toNat + 2 ^ 64 * st.toNat)
/-- A lane-group slot: U when the values agree, A when they are affine in the lane, else E (log 28). -/
def laneSlot (seed : Nat) (vs : List (Nat × W64)) : Nat × Nat × Nat :=
  match vs with
  | [] => (0, 0, 16)
  | (l0, v0) :: rest =>
    if rest.all (fun p => p.2 == v0) then (0, v0.toNat, 16) else
    let st : W64 := match rest with
      | (l1, v1) :: _ => word64 ((v1 - v0).toInt / ((l1 : Int) - l0))
      | [] => 0
    let b := v0 - st * BitVec.ofNat 64 l0
    if vs.all (fun p => p.2 == b + st * BitVec.ofNat 64 p.1) then (1, b.toNat + 2 ^ 64 * st.toNat, 16)
    else (2, pack 64 ((List.range 64).map (fun k =>
      match vs.find? (·.1 == k) with | some p => p.2.toNat | none => (Config.freeReg seed k).toNat)), 512)

/-- The bytes of a record: its length and their value (R51, R52). The manual says nothing of CONT.NM1 and CONT.LO of a
lane-group record, nor of the CONT.REGS bytes and the CONT.FORMS bits of slots that are not saved: they are written 0.
CONT.LAUNCH is the launch of the thread, that of the lowest lane in a record of lanes of several launches (log 81). -/
def contRecord (s : State) (e : Env) (x : FmtI) (ts : List Thread) (d : W64) : Nat × Nat :=
  let slots := contRegs x
  let body := slots.map (fun p =>
    if e.strand then
      let q := strandSlot (((ts.head?).map (fun t => t.regs.get p.2)).getD (.u 0))
      (p.1, p.2, q.1, q.2, 16)
    else
      let q := laneSlot (s.fresh + p.1) (ts.map (fun t => (t.lane, (t.regs.get p.2).val 0)))
      (p.1, p.2, q.1, q.2.1, q.2.2))
  let forms := (body.map (fun b => b.2.2.1 * 2 ^ (2 * b.1))).sum
  let regs := (body.map (fun b => b.2.1 * 2 ^ (8 * b.1))).sum
  let (n, lo) := match ts with | t :: _ => if e.strand then (t.n - 1, t.lo) else (0, 0) | [] => (0, 0)
  let lmask := if e.strand then 0 else (ts.map (fun t => 2 ^ t.lane)).sum
  let head := d.toNat * 2 ^ 448 + (s.ctxOf e.pen) % 2 ^ 32 * 2 ^ 416 + forms * 2 ^ 384 + regs * 2 ^ 256
    + (if e.strand then 0 else 2 ^ 240) + (bits x.imm 15 0).toNat * 2 ^ 224 + n * 2 ^ 192 + lo * 2 ^ 160
    + ((ts.head?).map (fun t => (s.task t.task).launch)).getD 0 % 2 ^ 32 * 2 ^ 128 + lmask * 2 ^ 64 + e.next.toNat % 2 ^ 56
  let index := if e.strand then (0, 0) else
    (256, pack 32 ((List.range 64).map (fun k => match ts.find? (·.lane == k) with | some t => t.lo | none => 0xFFFFFFFF)))
  ([(index.1, index.2)] ++ body.map (fun b => (b.2.2.2.2, b.2.2.2.1))).foldl (fun acc q => (acc.1 + q.1, acc.2 + q.2 * 2 ^ (8 * acc.1)))
    (64, head)

/-- The checks of a record's memory: ALIGN, then those of its stores in ascending order and of the counter (R370, R384). -/
def contLocs (s : State) (e : Env) (t : Thread) (a d : W64) (len : Nat) : Except FaultInfo (List Loc × Loc) := do
  if a.toNat % 64 ≠ 0 then throw ⟨cALIGN, a, 0, 2, none⟩
  if d.toNat % 16 ≠ 0 then throw ⟨cALIGN, d, 0, 3, none⟩
  let ws := (List.range (len / 8)).map (fun k => gAccess s e t (a + BitVec.ofNat 64 (8 * k)) 8 accWrite)
  let c := gAccess s e t d 16 accRmw
  firstCause (ws ++ [c])
  let ls ← ws.mapM id
  let l ← c
  return (ls, l)
/-- Values of a long number, 8 bytes at a time. -/
def State.writeWords (s : State) (ls : List Loc) (v : Nat) : State :=
  (ls.foldl (fun (p : State × Nat) l => (p.1.writeLoc l 8 (p.2 % 2 ^ 64), p.2 / 2 ^ 64)) (s, v)).1

/-- What CONT finds for one thread, from the state before the instruction: killed, a fault, or the record it names. -/
inductive ContCase where
  | kill
  | fault (f : FaultInfo)
  | names (a d : W64)
def contBase (s0 : State) (e : Env) (x : FmtI) (t : Thread) : ContCase :=
  if t.preds.length ≠ 0 || t.ih then .fault illfmt
  else if s0.killed e.pen t then .kill
  else .names (qVal e t x.a) (qVal e t x.d)
def contCase (s0 : State) (e : Env) (x : FmtI) (all : List Thread) (t : Thread) : ContCase :=
  match contBase s0 e x t with
  | .names a d =>
    let mine := all.filter (fun u => match contBase s0 e x u with | .names b _ => b == a | _ => false)
    if mine.any (fun u => match contBase s0 e x u with | .names _ f => f != d | _ => false) then .fault illfmt
    else match contLocs s0 e t a d (contRecord s0 e x mine d).1 with
      | .error f => .fault f
      | .ok _ => .names a d
  | c => c

/-- The thread retires; the record waits for its counter and for the operations in flight (R53, R370). -/
def contAct (x : FmtI) (s0 : State) : Act := fun s e t =>
  let all := (issuers s0 e t).filter (fun u => u.laneGuard x.gd == some true)
  match contCase s0 e x all t with
  | .kill => .ok (killRes s e.pen t)
  | .fault f => .error (.fault f)
  | .names a d =>
    -- lanes of the record: those below the first fault that name it
    let upTo := all.takeWhile (fun u => match contCase s0 e x all u with | .fault _ => false | _ => true)
    let mine := upTo.filter (fun u => match contBase s0 e x u with | .names b _ => b == a | _ => false)
    let done : Res := { s := s.updTask t.task (fun k => { k with contEnd := true }), t := t.exit, flow := .leave }
    if (mine.head?).map Thread.lane != some t.lane then .ok done else
    let r := contRecord s0 e x mine d
    match contLocs s e t a d r.1 with
    | .error f => .error (.fault f)
    | .ok (ls, cl) =>
      let s1 := s.bump.writeWords ls r.2
      let zero := s1.readLoc cl 8 == 0
      let s2 := if zero then s1 else s1.writeLoc (locAdd cl 8) 8 (2 ^ 62 + a.toNat % 2 ^ 56)
      let c := s.ctxOf e.pen
      let l := (s.task t.task).launch
      let rcd : Cont :=
        { ctx := c, addr := a, launch := l, zero := zero
          ops := (mine.flatMap (fun u => u.pend.map Pend.op)).dedup
          pops := (mine.flatMap (fun u => u.pend.filterMap (fun p => p.queue.map (fun a => (p.op, a))))).dedup }
      let s3 : State := { s2 with conts := s2.conts.filter (fun (y : Cont) => !(y.ctx == c && y.addr == a)) ++ [rcd] }
      let s4 := s3.updLaunch l (fun y => { y with conts := (y.conts.filter (· != a)) ++ [a] })
      .ok { done with s := s4.updTask t.task (fun k => { k with contEnd := true }) }
def execCont (x : FmtI) (s : State) : Host.Outcome State Fault Refusal :=
  drive (.cont x) (fun e => !e.last)
    { gd := x.gd, lay := fun _ e t => srcA e t [x.a, x.d], act := contAct x s } s

/-! ### Dependence counters and condition words (R371, R373) -/

def depsetBad (d : W64) : Bool := bits d 61 56 != 0 || (bits d 63 62 == 3 && bits d 55 11 != 0)
def execDepset (x : FmtQ) (s : State) : Host.Outcome State Fault Refusal :=
  drive (.depset x) (fun _ => false)
    (qMeaning x.gd [x.d, x.a, x.b] none (fun s e t => do
      let d := qVal e t x.d
      let b := qVal e t x.b
      if depsetBad d then throw (.fault illfmt)
      let l ← asStop (gAccess s e t (qVal e t x.a) 16 accWrite)
      let c := s.ctxOf e.pen
      let kind := (bits d 63 62).toNat
      if b ≠ 0 then return { s := s.writeLoc l 16 (b.toNat + 2 ^ 64 * d.toNat), t := t }
      else if kind = 0 then return { s := (s.writeLoc l 16 (2 ^ 64 * d.toNat)).wakeAll c l, t := t }
      else return { s := ((s.writeLoc l 16 0).wakeAll c l).act c kind ((bits d 55 0).zeroExtend 64), t := t })) s
def execDepdec (x : FmtQ) (s : State) : Host.Outcome State Fault Refusal :=
  drive (.depdec x) (fun _ => false)
    (qMeaning x.gd [x.a, x.b] (some x.d) (fun s e t => do
      let a := qVal e t x.a
      let l ← asStop (gAccess s e t a 16 accRmw)
      let r := s.depDecAt (s.ctxOf e.pen) (s.pen e.pen).launch l a ((qVal e t x.b).toNat * times e t)
      return { s := r.1, t := t.result x.d (.u r.2) })) s
/-- The new value of a condition word (R373). -/
def condVal (wm : BitVec 2) (old b : W64) (n : Nat) : W64 :=
  match wm.toNat with | 0 => b | 1 => old ||| b | _ => old + b * BitVec.ofNat 64 n
def execCondw (x : FmtQ) (s : State) : Host.Outcome State Fault Refusal :=
  drive (.condw x) (fun _ => false)
    (qMeaning x.gd [x.a, x.b] none (fun s e t => do
      let l ← asStop (gAccess s e t (qVal e t x.a) 8 accRmw)
      return { s := s.writeLoc l 8 (condVal x.wm (BitVec.ofNat 64 (s.readLoc l 8)) (qVal e t x.b) (times e t)).toNat, t := t })) s

/-! ### GRAPHRUN (R348 to R350, R372) -/

structure GNode where
  kind : Nat
  npred : Nat
  hsel : Bool
  bin : Nat
  succ0 : W64
  succ1 : W64
  cond : W64
  hist : W64
  pkt : BitVec 512
  deriving DecidableEq, Repr
/-- A node record of 128 bytes; none when it fails R348. -/
def gnode (m : Nat) : Option GNode :=
  let f := fun (hi lo : Nat) => m / 2 ^ lo % 2 ^ (hi + 1 - lo)
  let kind := f 1 0
  if f 511 384 ≠ 0 ∨ f 63 27 ≠ 0 ∨ f 7 2 ≠ 0 ∨ kind = 3 ∨ f 15 8 = 0 ∨ (kind ≠ 0 ∧ f 15 8 ≠ 1) ∨ (kind ≠ 0 ∧ f 1023 512 ≠ 0)
      ∨ (kind ≠ 0 ∧ f 255 192 % 8 ≠ 0) then none
  else some { kind := kind, npred := f 15 8, hsel := f 26 26 == 1, bin := f 25 16, succ0 := BitVec.ofNat 64 (f 127 64)
              succ1 := BitVec.ofNat 64 (f 191 128), cond := BitVec.ofNat 64 (f 255 192), hist := BitVec.ofNat 64 (f 319 256)
              pkt := BitVec.ofNat 512 (f 1023 512) }
/-- A run whose entry node is about to fire, by the record read at GRAPHRUN's access; one that fails R348 ends it at once
(R350, R372). -/
def State.startRun (s : State) (c launch : Nat) (a counter : W64) (prio : Nat) (rcd : Nat) : State :=
  match gnode rcd with
  | none => (s.logPlain c launch a 0 cILLFMT 0).devDec c launch counter
  | some _ => { s.bump with runs := s.runs ++ [⟨s.fresh, c, a, counter, prio, [a], [], [a], [], some rcd⟩] }
def execGraphrun (x : FmtQ) (s : State) : Host.Outcome State Fault Refusal :=
  drive (.graphrun x) (fun _ => false)
    (qMeaning x.gd [x.a, x.b] none (fun s e t => do
      let a := qVal e t x.a
      let l ← asStop (gAccess s e t a 128 accRead)
      let c := s.ctxOf e.pen
      if Config.graphsPerContext ≤ (s.runs.filter (·.ctx == c)).length then throw (.stall .graph)
      return { s := s.startRun c (s.pen e.pen).launch a (qVal e t x.b) (s.task t.task).prio (s.readLoc l 128), t := t })) s

/-! ### Histograms (R352, R353, R374) -/

/-- The histogram that a context numbers n. -/
def State.hist (s : State) (c n : Nat) : Option (Nat × Histogram) :=
  ((List.range s.hists.length).zip s.hists).findSome? (fun p =>
    match p.2 with | some h => if h.ctx == c && h.num == n then some (p.1, h) else none | none => none)
def Histogram.count (h : Histogram) (e : Nat) : W32 := ((h.bins.find? (·.1 == e)).map (·.2)).getD 0
def Histogram.add (h : Histogram) (e : Nat) (v : W32) : Histogram :=
  { h with bins := (h.bins.filter (·.1 != e)) ++ [(e, h.count e + v)] }
def State.setHist (s : State) (i : Nat) (h : Histogram) : State := { s with hists := s.hists.set i (some h) }
/-- PERM for the value of an operand; FR.VA is that value, though no access is made (R376, R392; DESIGN CHOICE, log 78). -/
def permAt (a : W64) : FaultInfo := ⟨cPERM, a, 0, 0, none⟩
def execHistadd (x : FmtQ) (s : State) : Host.Outcome State Fault Refusal :=
  drive (.histadd x) (fun _ => false)
    (qMeaning x.gd [x.a, x.b] none (fun s e t =>
      let a := qVal e t x.a
      let bin := (bits a 9 0).toNat
      match s.hist (s.ctxOf e.pen) (bits a 19 16).toNat with
      | none => .error (.fault (permAt a))
      | some (i, h) =>
        if bits a 15 10 != 0 || bits a 63 20 != 0 || decide (h.nb ≤ bin) then .error (.fault (permAt a))
        else .ok { s := s.setHist i (h.add bin (bits (qVal e t x.b) 31 0 * BitVec.ofNat 32 (times e t))), t := t })) s

/-- The stores of a latch: count and base of each bin (R353). -/
def latchEntries (h : Histogram) (base stride : W64) : (n e : Nat) → (x : W64) → List (W64 × W64)
  | 0, _, _ => []
  | n + 1, e, x => ((h.count e).zeroExtend 64, base + stride * x) :: latchEntries h base stride n (e + 1) (x + (h.count e).zeroExtend 64)
/-- HISTLATCH with WM 0. PERM of a histogram that is not the context's is a DESIGN CHOICE (R374; log 105). -/
def execHistlatchLatch (x : FmtQ) (s : State) : Host.Outcome State Fault Refusal :=
  drive (.histlatchLatch x) (fun _ => false)
    (qMeaning x.gd [x.a, x.b] (some x.d) (fun s e t => do
      let a := qVal e t x.a
      let b := qVal e t x.b
      if b.toNat % 128 ≠ 0 then throw (.fault ⟨cALIGN, b, 0, 2, none⟩)
      let found := s.hist (s.ctxOf e.pen) (bits a 3 0).toNat
      let rb := gAccess s e t b 8 accRead
      let rst := gAccess s e t (b + 8) 8 accRead
      let ws := (List.range (2 * ((found.map (fun p => p.2.nb)).getD 0))).map (fun k => gAccess s e t (b + 16 + BitVec.ofNat 64 (8 * k)) 8 accWrite)
      asStop (firstCause ((if found.isSome then [] else [.error (permAt a)]) ++ [rb, rst] ++ ws))
      let some (i, h) := found | throw (.fault (permAt a))
      let lb ← asStop rb
      let lst ← asStop rst
      let ls ← asStop (ws.mapM id)
      let es := latchEntries h (BitVec.ofNat 64 (s.readLoc lb 8)) (BitVec.ofNat 64 (s.readLoc lst 8)) h.nb 0 0
      let vals := es.flatMap (fun p => [p.1.toNat, p.2.toNat])
      let total := (es.map (fun p => p.1.toNat)).sum
      let s1 := (ls.zip vals).foldl (fun y p => y.writeLoc p.1 8 p.2) s
      return { s := s1.setHist i { h with bins := [] }, t := t.result x.d (.u (BitVec.ofNat 64 total)) })) s
/-- HISTLATCH with WM 1 writes no register (log 29). PERM of a histogram that is not the context's is a DESIGN CHOICE (R374; log 105). -/
def execHistlatchConfigure (x : FmtQ) (s : State) : Host.Outcome State Fault Refusal :=
  drive (.histlatchConfigure x) (fun _ => false)
    (qMeaning x.gd [x.a, x.b] none (fun s e t =>
      let a := qVal e t x.a
      let nb := (bits (qVal e t x.b) 10 0).toNat
      if nb < 1 ∨ 1024 < nb then .error (.fault illfmt) else
      match s.hist (s.ctxOf e.pen) (bits a 3 0).toNat with
      | none => .error (.fault (permAt a))
      | some (i, h) => .ok { s := s.setHist i { h with nb := nb, bins := [] }, t := t })) s

/-! ### Declarations and staging (R356, R358, R375, R379) -/

def declLen (w : W64) : Nat := (bits w 31 0).toNat
def declOff (w : W64) : Nat := (bits w 52 32).toNat
def declScr (w : W64) : Bool := isSet w 63
/-- The checks of a declaration (R375). -/
def declBad (w : W64) (scsz : Nat) : Option FaultInfo :=
  if bits w 62 53 != 0 || (!declScr w && declOff w != 0) then some illfmt
  else if declScr w && decide (scsz < declOff w + declLen w) then some (permAt (BitVec.ofNat 64 (declOff w)))
  else none
def execWsdecl (x : FmtQ) (s : State) : Host.Outcome State Fault Refusal :=
  drive (.wsdecl x) (fun _ => false)
    (qMeaning x.gd [x.a, x.b] none (fun s e t =>
      let b := qVal e t x.b
      match declBad b (s.pen e.pen).scsz with
      | some f => .error (.fault f)
      | none => .ok { s := s, t := { t with decls := t.decls.set x.wm.toNat ⟨qVal e t x.a, b⟩ } })) s

def declRanges (d : Decl) : List OpRange :=
  if declLen d.word = 0 then [] else
  ⟨false, d.addr.toNat, declLen d.word, false⟩ :: (if declScr d.word then [⟨true, declOff d.word, declLen d.word, true⟩] else [])
/-- Bytes that a context holds staged, those of declarations that wait for room in the table among them (R358). -/
def State.stagedBytes (s : State) (c : Nat) : Nat :=
  (s.ctx c).staged + ((s.tasks.filter (fun t => (s.launch t.launch).ctx == c)).flatMap (fun t => t.jobs.map (fun j => declLen j.1.word))).sum
/-- Bytes fit the staging budget of the context: its own room, or nothing staged (R358). -/
def State.stageFits (s : State) (c n : Nat) : Bool :=
  let x := s.ctx c
  decide (x.budget = 0 ∨ s.stagedBytes c + n ≤ x.budget * 2 ^ 20 ∨ (x.budget * 2 ^ 20 < n ∧ s.stagedBytes c = 0))
/-- Bytes that a declaration counts: none with a budget of 0. -/
def State.stageBytes (s : State) (c : Nat) (w : W64) : Nat := if (s.ctx c).budget = 0 then 0 else declLen w
def execStage (x : FmtQ) (s : State) : Host.Outcome State Fault Refusal :=
  drive (.stage x) (fun _ => false)
    (qMeaning x.gd [x.a, x.b] none (fun s e t => do
      let d : Decl := ⟨qVal e t x.a, qVal e t x.b⟩
      let c := s.ctxOf e.pen
      -- ILLFMT, then the translations, then the permissions (R384)
      let bad := declBad d.word (s.pen e.pen).scsz
      if (bad.map FaultInfo.cause) = some cILLFMT then throw (.fault illfmt)
      -- an address beyond 56 bits, though no byte is staged (R364)
      if bits d.addr 63 56 != 0 then throw (.fault ⟨cXLATE, d.addr, 0, 5, none⟩)
      asStop (s.engCheck e.pen c (declRanges d))
      match bad with
      | some f => throw (.fault f)
      | none =>
        if !s.stageFits c (declLen d.word) then throw (.stall (.budget (declLen d.word)))
        if !s.rangeRoom (declRanges d) then throw (.stall .range)
        let id := s.fresh
        let o := { EngOp.blank with id := id, kind := .stage d, ctx := c, launch := (s.pen e.pen).launch, pen := some e.pen
                                    task := some t.task, dest := some (Opd.key x.d) }
        let n := s.stageBytes c d.word
        let s1 := (s.register o (declRanges d)).updCtx c (fun y => { y with staged := y.staged + n })
        let s2 := if declScr d.word then s1 else s1.updTask t.task (fun k => { k with staged := k.staged + n })
        return { s := s2, t := t.issued e id true x.flg (some (Opd.key x.d)) })) s

/-! ### The incumbent (R360, R376, R377) -/

/-- The time of an INCUPD is kept while a local copy may be behind it (R361). -/
def Cell.note (c : Cell) (now : Nat) (key : W64) : Cell :=
  let young := c.updates.takeWhile (fun p => decide (now < p.1 + keyReach))
  { c with updates := (now, key) :: young ++ (c.updates.drop young.length).take 1 }
/-- A cell that the context holds (R376). -/
def State.cellOk (s : State) (c cell : Nat) : Bool := (s.cell cell).owner == some c
def execIncupd (x : FmtQ) (s : State) : Host.Outcome State Fault Refusal :=
  drive (.incupd x) (fun _ => false)
    (qMeaning x.gd [x.d, x.a, x.b] (some x.d) (fun s e t =>
      let a := qVal e t x.a
      let b := qVal e t x.b
      if bits a 63 8 != 0 || !s.cellOk (s.ctxOf e.pen) a.toNat then .error (.fault (permAt a))
      else if b.toInt < (s.cell a.toNat).key.toInt then
        .ok { s := s.updCell a.toNat (fun c => { c.note s.now b with key := b, tag := qVal e t x.d }), t := t.result x.d (.u 1) }
      else .ok { s := s, t := t.result x.d (.u 0) })) s
/-- INCRD: one access, whose pair is delivered at completion. -/
def incrd (i : Instr) (x : FmtQ) (f : Cell → W64 × W64) (s : State) : Host.Outcome State Fault Refusal :=
  drive i (fun _ => false)
    (qMeaning x.gd [x.a] none (fun s e t =>
      let a := qVal e t x.a
      if bits a 63 8 != 0 || !s.cellOk (s.ctxOf e.pen) a.toNat then .error (.fault (permAt a))
      else
        let p := f (s.cell a.toNat)
        .ok (oweRes s e t x.flg (goForms x.d [.u p.1, .u p.2])))) s
def execIncrdKey (x : FmtQ) (s : State) : Host.Outcome State Fault Refusal := incrd (.incrdKey x) x (fun c => (c.key, c.tag)) s
def execIncrdCounters (x : FmtQ) (s : State) : Host.Outcome State Fault Refusal :=
  incrd (.incrdCounters x) x (fun c => (c.drops, c.kills)) s

/-- INCUMBENT_KEY_PROPAGATE: the key reaches one local copy (R361). -/
def execIncumbentKeyPropagate (cell : Nat) (loc : KeyLoc) (s : State) : Host.Outcome State Fault Refusal :=
  .next (s.updCell cell (fun c => { c with locals := (c.locals.filter (·.1 != loc)) ++ [(loc, c.key)] }))

/-- The cell word and bound of TBSET; none when the cell is not the context's (R377). Bits a[63:9] are ignored with V = 0, and refused
with V = 1: DESIGN CHOICE (log 105). -/
def boundOf (s : State) (c : Nat) (a b : W64) : Option Bound :=
  if isSet a 8 && (bits a 63 9 != 0 || !s.cellOk c (bits a 7 0).toNat) then none else some ⟨isSet a 8, bits a 7 0, b⟩
def execTbsetNextTask (x : FmtQ) (s : State) : Host.Outcome State Fault Refusal :=
  drive (.tbsetNextTask x) (fun _ => false)
    (qMeaning x.gd [x.a, x.b] none (fun s e t =>
      match boundOf s (s.ctxOf e.pen) (qVal e t x.a) (qVal e t x.b) with
      | none => .error (.fault (permAt (qVal e t x.a)))
      | some b => .ok { s := s, t := { t with bound := b } })) s
def execTbsetOwnTask (x : FmtQ) (s : State) : Host.Outcome State Fault Refusal :=
  drive (.tbsetOwnTask x) (fun _ => false)
    (qMeaning x.gd [x.a, x.b] none (fun s e t =>
      match boundOf s (s.ctxOf e.pen) (qVal e t x.a) (qVal e t x.b) with
      | none => .error (.fault (permAt (qVal e t x.a)))
      | some b => .ok { s := s.updTask t.task (fun k => { k with cell := b }), t := t })) s
def execTbsetNextCounter (x : FmtQ) (s : State) : Host.Outcome State Fault Refusal :=
  drive (.tbsetNextCounter x) (fun _ => false)
    (qMeaning x.gd [x.b] none (fun s e t =>
      let b := qVal e t x.b
      if bits b 63 56 != 0 then .error (.fault illfmt) else .ok { s := s, t := { t with ctr := b } })) s

/-! ### PFLAG (R380) -/

def execPflag (x : FmtQ) (s : State) : Host.Outcome State Fault Refusal :=
  drive (.pflag x) (fun _ => false) (valueMeaning x.gd x.d (fun _ _ t => t.flags.zeroExtend 64)) s

/-! ### The Pipeline Governor (R354, R355, R381) -/

def Stage.blank : Stage := { queue := 0, low := 0, high := 0, min := 0, max := 0 }
def stageAt (l : List (Nat × Stage)) (k : Nat) : Stage := ((l.find? (·.1 == k)).map (·.2)).getD Stage.blank
def setStage (l : List (Nat × Stage)) (k : Nat) (x : Stage) : List (Nat × Stage) := l.filter (·.1 != k) ++ [(k, x)]
/-- Stages that name a queue. -/
def GovSet.count (g : GovSet) : Nat := (g.stages.filter (fun p => p.2.queue != 0)).length
def Launch.units (l : Launch) (yard : Bool) : Nat := if yard then l.yards else l.yards * l.c
/-- Settings come into force: enabling gives unit k the role k mod S (R354). -/
def Launch.govApply (l : Launch) (w : GovSet) : Launch :=
  let g := l.gov
  let fresh := w.enabled && (!g.set.enabled || w.yardUnit != g.set.yardUnit)
  let roles := if !w.enabled then [] else if fresh then (List.range (l.units w.yardUnit)).map (fun k => (k, k % max w.count 1)) else g.roles
  { l with gov := { g with set := w, want := none, roles := roles } }
/-- A change of GOVSET: at the next period of an enabled governor, else at once (log 30). -/
def State.govset (s : State) (pen : Nat) (f : GovSet → GovSet) : State :=
  s.updLaunch (s.pen pen).launch (fun l =>
    let w := f (l.gov.want.getD l.gov.set)
    if l.gov.set.enabled then { l with gov := { l.gov with want := some w } }
    else
      let l1 := l.govApply w
      { l1 with gov := { l1.gov with nextAt := s.clk + w.period * 1000 } })
/-- GOVSET with WM 0: a stage that is removed keeps its thresholds (R381 is silent; DESIGN CHOICE, log 106). -/
def execGovsetQueue (x : FmtQ) (s : State) : Host.Outcome State Fault Refusal :=
  drive (.govsetQueue x) (fun _ => false)
    (qMeaning x.gd [x.a, x.b] none (fun s e t =>
      let k := (bits (qVal e t x.a) 2 0).toNat
      let b := qVal e t x.b
      .ok { s := s.govset e.pen (fun g => { g with stages := setStage g.stages k { stageAt g.stages k with queue := b } }), t := t })) s
def execGovsetThresholds (x : FmtQ) (s : State) : Host.Outcome State Fault Refusal :=
  drive (.govsetThresholds x) (fun _ => false)
    (qMeaning x.gd [x.a, x.b] none (fun s e t =>
      let k := (bits (qVal e t x.a) 2 0).toNat
      let b := qVal e t x.b
      let low := (bits b 15 0).toNat
      let high := (bits b 31 16).toNat
      let mn := (bits b 39 32).toNat
      let mx := (bits b 47 40).toNat
      if high ≤ low ∨ mx < mn ∨ bits b 63 48 != 0 then .error (.fault illfmt)
      else .ok { s := s.govset e.pen (fun g =>
        { g with stages := setStage g.stages k { stageAt g.stages k with low := low, high := high, min := mn, max := mx } }), t := t })) s
def execGovsetControl (x : FmtQ) (s : State) : Host.Outcome State Fault Refusal :=
  drive (.govsetControl x) (fun _ => false)
    (qMeaning x.gd [x.a, x.b] none (fun s e t =>
      let a := qVal e t x.a
      let p := (bits (qVal e t x.b) 15 0).toNat
      if p = 0 then .error (.fault illfmt)
      else .ok { s := s.govset e.pen (fun g => { g with enabled := isSet a 0, yardUnit := isSet a 1, period := p }), t := t })) s

/-! ### KILLT (R382) -/

/-- A record's handle and context (R391). -/
def frHandle (r : BitVec 512) : Nat := (bits r 255 224).toNat
def frCtx (r : BitVec 512) : Nat := (bits r 223 192).toNat
/-- Parked threads end as a kill; each bounded one counts (R382). -/
def State.killParked (s : State) (handle : Nat) : State :=
  let dead := s.groups.flatMap (fun g => (g.threads.filter (fun t => t.status == .parked handle)).map (fun t => (g.pen, t)))
  let s1 := dead.foldl (fun y d => (killRes y d.1 d.2).s) s
  let s2 := s1.mapThreads (fun _ t => if t.status == .parked handle then t.exit else t)
  let pens := (s.groups.filter (fun (g : Group) => g.threads.any (fun t => t.status == .parked handle))).map Group.pen
  pens.dedup.foldl State.settle { s2 with parked := s2.parked.filter (·.handle != handle) }
/-- The parked thread of the context that a record names, if any: FR.HANDLE holds 32 bits of a handle (R391, R413). -/
def State.namedParked (s : State) (c : Nat) (r : BitVec 512) : Option Parked :=
  s.parked.find? (fun p => p.handle % 2 ^ 32 == frHandle r && p.ctx == c && decide (frCtx r = c))
/-- KILLT with WM 0: ALIGN of a record that is not 64-byte aligned is a DESIGN CHOICE (R382; log 105). -/
def execKilltParked (x : FmtQ) (s : State) : Host.Outcome State Fault Refusal :=
  drive (.killtParked x) (fun _ => false)
    (qMeaning x.gd [x.a] none (fun s e t => do
      let a := qVal e t x.a
      let l ← asStop (gAccess s e t a 64 accRead)
      match s.namedParked (s.ctxOf e.pen) (BitVec.ofNat 512 (s.readLoc l 64)) with
      | none => throw (.fault (permAt a))
      | some p => return { s := s.killParked p.handle, t := t })) s
def execKilltSelf (x : FmtQ) (s : State) : Host.Outcome State Fault Refusal :=
  drive (.killtSelf x) (fun _ => false) (qMeaning x.gd [x.a] none (fun s e t => .ok (killRes s e.pen t))) s

end Sys2Proof.Machine
end

