-- ==== Sys2Proof/Machine/System.lean ====
section
/-! DEFINITION. The system instructions of block 7: clocks, traps and returns, ASSERT, SYSCALL, BRK, and the special
registers (R395 to R418). -/

namespace Sys2Proof.Machine

/-! ### CYCRD (R418) -/

/-- .cyc: the die number above 62 bits of its cycle counter. -/
def State.cycWord (s : State) (die : Nat) : W64 := BitVec.ofNat 64 (die % 4 * 2 ^ 62 + s.cycles die % 2 ^ 62)
/-- .step: the step numbered a, or the latest for 0; all ones when it is not retained. -/
def stepPair (steps : List StepRec) (a : W64) : W64 × W64 :=
  let r := if a = 0 then steps.getLast? else steps.find? (fun x => decide (x.num = a.toNat))
  match r with
  | some x => (BitVec.ofNat 64 x.time, BitVec.ofNat 4 x.new ++ BitVec.ofNat 4 x.old ++ BitVec.ofNat 56 x.cycle)
  | none => (allOnes64, allOnes64)
def execCycrd (v : CycV) (x : FmtS) (s : State) : Host.Outcome State Fault Refusal :=
  drive (.cycrd v x) (fun _ => false)
    (match v with
     | .cyc => valueMeaning x.gd x.d (fun s e _ => s.cycWord (s.penDie e.pen))
     | .ref => valueMeaning x.gd x.d (fun s _ _ => BitVec.ofNat 64 s.now)
     | .step => qMeaning x.gd [x.a] (some x.d) (fun s e t =>
        let p := stepPair (s.die (s.penDie e.pen)).steps (qVal e t x.a)
        let t1 := t.result x.d (.u p.1)
        .ok { s := s, t := { t1 with regs := t1.regs.set (Opd.key x.d + 1) (.u p.2) } })) s

/-! ### TRAP and ERET (R395 to R400, R412, R413) -/

/-- TRAP: a double fault in a handler, a parked thread without one, else entry into the handler. The cohort is the
issue: the counter of the state before it (R398). In Dzinum-2 code $epc.HDR is 0 wherever the next word stands (R101; log
84). -/
def execTrap (x : FmtI) (s : State) : Host.Outcome State Fault Refusal :=
  let cohort := s.fresh
  drive (.trap x) (fun _ => false)
    { gd := x.gd, onlyTrue := true
      act := fun s e t =>
        let thv := (s.pen e.pen).thv
        if t.ih || thv == 0 then .error (.fault ⟨cTRAP, 0, x.imm.zeroExtend 64, 0, none⟩) else
        match s.checkTarget (s.ctxOf e.pen) thv with
        | .error f => .error (.fault f)
        | .ok _ =>
          let (a, h, isHdr) := if e.last && !e.dz2 then (e.next, e.next, true)
            else (e.wpc + 8, e.hdrAt (e.wpc + 8), false)
          .ok { s := s.bump, t := t.enterHandler thv x.imm a h isHdr cohort, flow := .leave } } s

/-- ERET, by the value a: return from the thread's own handler, or resume a parked thread (R413). -/
def eretMeaning (x : FmtA) : Meaning :=
  qMeaning x.gd [x.a] none (fun s e t => do
    let a := qVal e t x.a
    let c := s.ctxOf e.pen
    if a = 0 then
      if !t.ih then throw (.fault (plainFault cPRIV))
      if !t.depthsMatch e.strand then throw (.fault illfmt)
      if isSet t.epc 63 then asStop (s.checkTarget c (epcAddr t.epc))
      return { s := s, t := t.leaveHandler, flow := .leave }
    else
      let l ← asStop (gAccess s e t a 64 accRead)
      match s.namedParked c (BitVec.ofNat 512 (s.readLoc l 64)) with
      | some p => if p.forwarded then return { s := s.unpark p.handle, t := t } else throw (.fault (permAt a))
      | none => throw (.fault (permAt a)))
def execEretHandler (x : FmtA) (s : State) : Host.Outcome State Fault Refusal :=
  drive (.eretHandler x) (fun _ => false) (eretMeaning x) s
def execEretResume (x : FmtA) (s : State) : Host.Outcome State Fault Refusal :=
  drive (.eretResume x) (fun _ => false) (eretMeaning x) s

/-! ### ASSERT, BRK, SYSCALL (R414 to R416) -/

/-- The offset of the lowest index of a thread for which a = 0. -/
def assertFails (e : Env) (t : Thread) (o : Opd) : Option Nat :=
  let f := baseForm e t o
  if f.isA then (List.range t.n).find? (fun k => f.val k == 0) else if f.val 0 = 0 then some 0 else none
/-- A failing ASSERT: one record for the lowest index or lane, the context stops, and the issuing thread stops at the
ASSERT (R401, R414). -/
def assertAct (x : FmtI) (s0 : State) : Act := fun s e t =>
  -- lanes from one with an empty stack on raise ILLFMT and perform nothing (R31, R386)
  let all := (issuers s0 e t).takeWhile (fun u => e.strand || (u.laneGuard x.gd).isSome)
  let bad := all.findSome? (fun u => if u.laneGuard x.gd != some true && !e.strand then none
    else (assertFails e u x.a).map (fun k => (u, k)))
  match bad with
  | none => if t.laneGuard x.gd == none then .error (.fault illfmt) else .ok { s := s, t := t }
  | some (u, k) =>
    let d := (baseForm e u x.d).val k
    if u.ih then (if u.lane ≤ t.lane then .error (.fault ⟨cASSERT, x.imm.zeroExtend 64, d, 0, none⟩ none k) else .ok { s := s, t := t })
    else
      let stop := { (if e.last then t.atNext e .asserted else { t with pc := e.wpc + 8, hdr := e.hdrAt (e.wpc + 8), status := .asserted }) with hist := t.hist }
      let c := s.ctxOf e.pen
      let p := s.pen e.pen
      let n := (all.map Thread.n).sum
      let rcd := mkRecord (x.imm.zeroExtend 64) d 0 e.wpc (s.group e.gid).slotNum 0 c p.launch (u.lo + k) (n - 1) s.now p.vcore
        (if e.strand then 0 else u.lane) 0 (if e.strand then 0 else 1) false cASSERT
      let s1 := if (all.head?).map Thread.lane == some t.lane then (s.logRecord c rcd).stopCtx c else s
      .ok { s := s1, t := stop, flow := .leave }
def execAssert (x : FmtI) (s : State) : Host.Outcome State Fault Refusal :=
  drive (.assert x) (fun _ => false)
    { gd := x.gd, wholeLanes := true, act := assertAct x s } s

/-- BRK: a debugger's stop, or nothing (R416). -/
def execBrk (x : FmtI) (s : State) : Host.Outcome State Fault Refusal :=
  drive (.brk x) (fun _ => false)
    { gd := x.gd, onlyTrue := true
      act := fun s e t =>
        if (s.ctx (s.ctxOf e.pen)).debugger then .error (.fault ⟨cBRK, 0, x.imm.zeroExtend 64, 0, none⟩) else .ok { s := s, t := t } } s

/-- JN.OST of a draw: the OS thread number is Turjo's (R437; log 1). -/
def ostOf (draw : Nat) : W32 := bits (Config.freeWord draw) 31 0
/-- The joined name (R437). -/
def joinedName (pid ost : W32) (launch vcore slot index : Nat) : BitVec 160 :=
  pid ++ ost ++ BitVec.ofNat 32 launch ++ BitVec.ofNat 16 vcore ++ BitVec.ofNat 8 slot ++ (0 : BitVec 8) ++ BitVec.ofNat 32 index
/-- The joined name under which a parked thread is shown in its fault record and to the debugger (R437). -/
def State.parkedName (s : State) (p : Parked) : BitVec 160 :=
  joinedName (s.ctx p.ctx).pid (ostOf p.ost) (bits p.record 191 160).toNat (bits p.record 47 32).toNat (bits p.record 263 256).toNat
    (bits p.record 159 128).toNat
def execSyscall (x : FmtI) (s : State) : Host.Outcome State Fault Refusal :=
  drive (.syscall x) (fun e => !e.last)
    (qMeaning x.gd (blockOpds x.a) (some x.d) (fun s e t =>
      let p := s.pen e.pen
      let name := joinedName (s.ctx (s.ctxOf e.pen)).pid (ostOf t.ost) p.launch p.vcore (s.group e.gid).slotNum t.lo
      .ok { s := { s with syscalls := s.syscalls ++ [(name, x.imm, (blockOpds x.a).map (qVal e t))] }
            t := t.atNext e (.syscall x.d), flow := .leave })) s
/-- SYSCALL_REPLY: the result is written and the thread goes on, saved or resident (R403, R415). -/
def execSyscallReply (gid lane : Nat) (result : W64) (s : State) : Host.Outcome State Fault Refusal :=
  .next (match (s.group gid).thread lane with
    | some t => match t.status with
      | .syscall d => s.updThread gid lane (fun u => { u.result d (.u result) with status := .ready })
      | _ => s
    | none => s)

/-! ### Special registers (R9, R410, R417) -/

/-- The value of special register n of a thread; none for a number not listed (R410). -/
def readSr (n : Nat) (s : State) (e : Env) (t : Thread) : Option W64 :=
  let p := s.pen e.pen
  let k := s.task t.task
  match n with
  | 0x000 => some (t.fpx.zeroExtend 64)
  | 0x001 => some (ofBool64 t.part)
  | 0x002 => some (p.spw.zeroExtend 64)
  | 0x003 => some ((s.ctx (s.ctxOf e.pen)).bintm.zeroExtend 64)
  | 0x004 => some (BitVec.ofNat 64 p.scsz)
  | 0x005 => some (t.hwm.zeroExtend 64)
  | 0x006 => some (t.wto.zeroExtend 64)
  | 0x007 => some p.gangWord
  | 0x008 => some (BitVec.ofNat 64 p.accn)
  | 0x009 => some (p.rtau.zeroExtend 64)
  | 0x00A => some k.tdep
  | 0x00B => some ((0 : BitVec 55) ++ bit1 k.cell.v ++ k.cell.cell)
  | 0x00C => some k.cell.bound
  | 0x00D => some k.karg
  | 0x00E => some t.role
  | 0x010 => some p.thv
  | 0x011 => some t.epc
  | 0x012 => some t.ecause
  | 0x013 => some ((s.ctx (s.ctxOf e.pen)).flov.zeroExtend 64)
  | _ => none
/-- Numbers 0x800 and above are system registers (R410). -/
def srFault (n : Nat) : FaultInfo := if 0x800 ≤ n then plainFault cPRIV else illfmt

def execRdsr (x : FmtS) (s : State) : Host.Outcome State Fault Refusal :=
  drive (.rdsr x) (fun _ => false)
    { gd := x.gd, dest := some x.d
      act := fun s e t =>
        match readSr x.srn.toNat s e t with
        | some v => .ok { s := s, t := t.result x.d (.u v) }
        | none => .error (.fault (srFault x.srn.toNat)) } s

/-- TM of $bintm as stored (R50). -/
def bintmOf (a : W64) : BitVec 10 := let v := (bits a 9 0).toNat; if v = 0 then 1 else if 1000 < v then 1000 else bits a 9 0

/-- A write of special register n (R9): RO fields are ignored, W1C bits cleared, reserved bits 0. -/
def writeSr (n : Nat) (a : W64) (s : State) (e : Env) (t : Thread) : Except FaultInfo (State × Thread) :=
  let pen := fun (f : Pen → Pen) => Except.ok (s.updPen e.pen f, t)
  let task := fun (f : Task → Task) => Except.ok (s.updTask t.task f, t)
  match n with
  | 0x000 => .ok (s, { t with fpx := t.fpx &&& ~~~(bits a 5 0) })
  | 0x002 => pen (fun p => { p with spw := bits a 15 0 })
  | 0x003 => .ok (s.updCtx (s.ctxOf e.pen) (fun c => { c with bintm := bintmOf a }), t)
  | 0x006 => .ok (s, { t with wto := bits a 31 0 })
  | 0x007 => match s.gangset e.pen a with | some s1 => .ok (s1, t) | none => .error illfmt
  | 0x009 => pen (fun p => { p with rtau := bits a 31 0 })
  | 0x00A => task (fun k => { k with tdep := (bits a 55 0).zeroExtend 64 })
  | 0x00B =>
    if isSet a 8 && !s.cellOk (s.ctxOf e.pen) (bits a 7 0).toNat then .error (permAt a)
    else task (fun k => { k with cell := { k.cell with v := isSet a 8, cell := bits a 7 0 } })
  | 0x00C => task (fun k => { k with cell := { k.cell with bound := a } })
  | 0x010 => pen (fun p => { p with thv := (bits a 55 0).zeroExtend 64 })
  | 0x011 => .ok (s, { t with epc := mkEpc true a })
  | 0x001 | 0x004 | 0x005 | 0x008 | 0x00D | 0x00E | 0x012 | 0x013 => .ok (s, t)
  | _ => .error (srFault n)
def execWrsr (x : FmtS) (s : State) : Host.Outcome State Fault Refusal :=
  drive (.wrsr x) (fun _ => false)
    (qMeaning x.gd [x.a] none (fun s e t =>
      match writeSr x.srn.toNat (qVal e t x.a) s e t with
      | .error f => .error (.fault f)
      | .ok r => .ok { s := r.1, t := r.2 })) s

end Sys2Proof.Machine
end

