-- ==== Sys2Proof/Machine/Engine.lean ====
section
/-! DEFINITION. What an engine operation does after its issue: its start, its steps and its completion (R213 to R217,
R224, R287, R294 to R297, R301 to R306, R308 to R318, R343 to R345, R357), and the sums of the matrix paths (R116 to
R125). An operation reads its sources when it starts and writes its destination when it completes (log 7). -/

namespace Sys2Proof.Machine

/-! ### Element accesses (R217, R223, R224) -/

/-- The location of an element of the operation: translated as at its issue. -/
def EngOp.loc (o : EngOp) (scr : Bool) (a : Nat) : Loc :=
  if scr then .scr (o.pen.getD 0) a
  else .phys (((o.pages.find? (·.1 == a / 65536)).map (·.2)).getD 0 + a % 65536)
/-- n unpredictable bytes. -/
def freeBytes (seed a n : Nat) : Nat := pack 8 ((List.range n).map (fun k => (Config.freeByte seed (a + k)).toNat))

/-- The bytes at a location can be read: global memory, or scratch (R166, R223). -/
def State.soundLoc (s : State) (l : Loc) (n : Nat) : Bool :=
  match l with | .phys pa => s.sound pa n | .scr p off => (s.pen p).sound off n
/-- The line of a location by its physical address; a scratch line has none, and is named 0 (log 74). -/
def lineOf (l : Loc) : Nat := match l with | .phys pa => pa / 128 * 128 | .scr _ _ => 0
/-- Pieces read in order, as one little-endian number, and the first bad line (R224). -/
def State.engReads (s : State) (o : EngOp) (scr : Bool) : List (Nat × Nat) → Nat × Option Nat
  | [] => (0, none)
  | p :: ps =>
    let r := s.engReads o scr ps
    let l := o.loc scr p.1
    let ok := s.soundLoc l p.2
    ((if ok then s.readLoc l p.2 else freeBytes s.fresh p.1 p.2) + 2 ^ (8 * p.2) * r.1, if ok then r.2 else some (lineOf l))
def State.engRead (s : State) (o : EngOp) (scr : Bool) (a n : Nat) : Nat × Option Nat := s.engReads o scr (pieces 128 a n)

/-- A line holds an uncorrectable error, which a full write cures (R223). -/
def State.poisoned (s : State) (l : Loc) : Bool :=
  match l with | .phys pa => s.poison.contains (pa / 128) | .scr p off => (s.pen p).bad.contains (off / 128)
def State.cure (s : State) (l : Loc) : State :=
  match l with
  | .phys pa => { s with poison := s.poison.filter (· != pa / 128) }
  | .scr p off => s.updPen p (fun x => { x with bad := x.bad.filter (· != off / 128) })
/-- The line can hold no data: no package answers there, or its channel group has failed (R226, R431). -/
def State.gone (s : State) (l : Loc) : Bool :=
  match l with | .phys pa => !s.paExists pa || s.lineDead (pa / 128) | .scr _ _ => false
/-- A piece within one line is written; a partial write into a bad line is not made, a full one cures it (R223). -/
def State.engWriteLine (s : State) (o : EngOp) (scr whole : Bool) (a n v : Nat) : State × Option Nat :=
  let l := o.loc scr a
  if s.gone l then (s, some (lineOf l))
  else if s.poisoned l then
    if whole then ((s.cure l).actFor o.ctx (·.writeLoc l n v), none) else (s, some (lineOf l))
  else (s.actFor o.ctx (·.writeLoc l n v), none)
/-- The destination pieces cover the whole line of address a. -/
def coversLine (ps : List (Nat × Nat)) (a : Nat) : Bool :=
  (List.range 128).all (fun b => ps.any (fun p => decide (p.1 ≤ a / 128 * 128 + b ∧ a / 128 * 128 + b < p.1 + p.2)))
/-- Write pieces, given as address, length and value: the state and the first bad line. -/
def State.engWrite (s : State) (o : EngOp) (scr : Bool) (ps : List (Nat × Nat × Nat)) : State × Option Nat :=
  let spans := ps.map (fun p => (p.1, p.2.1))
  let lines := ps.flatMap (fun p => (pieces 128 p.1 p.2.1).map (fun q => (q.1, q.2, p.2.2 / 2 ^ (8 * (q.1 - p.1)) % 2 ^ (8 * q.2))))
  lines.foldl (fun x q =>
    let bad := x.1.poisoned (o.loc scr q.1)
    let r := x.1.engWriteLine o scr (bad && coversLine spans q.1) q.1 q.2.1 q.2.2
    (r.1, x.2.orElse (fun _ => r.2))) (s, none)

/-! ### Tiles -/

def tileGet : List (Nat × W32) → Nat → W32
  | [], _ => 0
  | (k, v) :: r, x => if k = x then v else tileGet r x
def Pen.tile (p : Pen) (t : Nat) (i : Nat) : W32 := tileGet p.tiles (4096 * t + i)
/-- Every element i of a tile becomes f i; elements 0 are not listed. -/
def Pen.setTile (p : Pen) (t : Nat) (f : Nat → W32) : Pen :=
  let new := (List.range 4096).filterMap (fun i => let v := f i; if v = 0 then none else some (4096 * t + i, v))
  { p with tiles := p.tiles.filter (fun q => q.1 < 4096 * t) ++ new ++ p.tiles.filter (fun q => 4096 * (t + 1) ≤ q.1) }

/-- The 64 bits of a predicate. -/
def maskOf (f : Nat → Bool) : W64 := BitVec.ofNat 64 ((List.range 64).map (fun k => if f k then 2 ^ k else 0)).sum

/-! ### Elements, scales and sums (R116 to R122, R292) -/

/-- The p-bit integer of row or column r in a slice (R115, R292). -/
def planeElem (p : Nat) (sgn : Bool) (slice r : Nat) : Int :=
  let v := ((List.range p).map (fun j => if slice.testBit (64 * j + r) then 2 ^ j else 0)).sum
  if sgn then sextN v p else v
def EFmt.bits (f : EFmt) : Nat := match f with | .bf16 | .f16 => 16 | .e2m1 => 4 | _ => 8
/-- E and Z of the pair that governs a block (R116, R117). -/
def pairOf (v : W64) (bsel j : Nat) : Nat × Int :=
  let x := v.toNat / 2 ^ (16 * (bsel + j)) % 2 ^ 16
  (x % 256, sextN (x / 256) 8)

/-- The exact sum of products as one number of steps 2^q, or a special value (R120). -/
def exSum (q : Int) (l : List Ex) : Ex :=
  let isNan := fun (x : Ex) => match x with | .nan _ => true | _ => false
  let isInf := fun (b : Bool) (x : Ex) => match x with | .inf s _ => s == b | _ => false
  if l.any isNan || (l.any (isInf true) && l.any (isInf false)) then .nan 0
  else if l.any (isInf true) then .inf true 0
  else if l.any (isInf false) then .inf false 0
  else exOfInt ((l.map (fun x => match x with | .num s m e => alignTo s m e q | _ => 0)).sum) q false
/-- Below every product of scaled elements. -/
abbrev sumQ : Int := -600

/-- One rounding of an element plus a sum; a zero sum leaves it as it is (R119 to R122). -/
def accAdd (c : W32) (g : Ex) : W32 :=
  let plus := fun (v : FVal) => BitVec.ofNat 32 ((exAdd (F32.decode c.toNat) v).finish F32 0 .none).1
  match g with
  | .nan _ => BitVec.ofNat 32 F32.nan
  | .inf s _ => plus (.inf s)
  | .num s m e => if m = 0 then c else plus (.fin s m e)

/-- The k of a unit of the sum at which both elements are present (R118). -/
def Mma.both (m : Mma) (ks : List Nat) (r c : Nat) : List Nat :=
  ks.filter (fun k => (m.bitsA.getD k allOnes64).getLsbD r && (m.bitsB.getD k allOnes64).getLsbD c)

/-- The sum of a unit for element (r, c): a block of 32 on the plane and lns paths, a group of 16 on the float path. -/
def Mma.unitSum (m : Mma) (u : Nat) (ks : List Nat) (r c : Nat) : Ex :=
  let both := m.both ks r c
  let block := match m.path with | .float _ => u / 2 | _ => u
  let (ea, za) := pairOf (m.scaleA.getD r 0) m.bsel block
  let (eb, zb) := pairOf (m.scaleB.getD c 0) m.bsel block
  let ex : Int := (ea : Int) + eb - 254
  if ea = 0xFF ∨ eb = 0xFF then .nan 0 else
  match m.path with
  | .plane pa pb sa sb =>
    let a := fun k => planeElem pa sa (m.slicesA.getD k 0) r
    let b := fun k => planeElem pb sb (m.slicesB.getD k 0) c
    let s0 := (both.map (fun k => a k * b k)).sum
    let s1 := if m.zc then s0 - za * (both.map b).sum - zb * (both.map a).sum + za * zb * both.length else s0
    exOfInt s1 ex false
  | .float f =>
    let w := EFmt.bits f
    let p := fun k => match exMul ((EFmt.f f).decode (elem w r (m.slicesA.getD k 0))) ((EFmt.f f).decode (elem w c (m.slicesB.getD k 0))) with
      | .num s n e => Ex.num s n (e + ex)
      | x => x
    exSum sumQ (both.map p)
  | .lns =>
    exOfInt ((both.map (fun k => lnsProd (elem 8 r (m.slicesA.getD k 0)) (elem 8 c (m.slicesB.getD k 0)))).sum) (ex - 23) false

def Path.unit : Path → Nat | .float _ => 16 | _ => 32
/-- The steps performed whose units have folded: a unit folds with the last of its steps (R294). -/
def Mma.folded (m : Mma) : List Nat :=
  (m.stepSet.take m.steps).filter (fun k => !((m.stepSet.drop m.steps).any (fun j => j / m.path.unit == k / m.path.unit)))
/-- Element (r, c) has been computed from bad data: a unit that has folded used an element read from a bad line; or a word of a
bitmap was bad, on which its own unit and every later one rest, and such a unit has folded, or all were to (R224, R294, R320). -/
def Mma.spoiled (m : Mma) (all : Bool) (r c : Nat) : Bool :=
  m.badMap.any (fun k => all || m.folded.any (fun j => decide (k / m.path.unit ≤ j / m.path.unit)))
    || (m.both m.folded r c).any (fun k => (m.badA.getD k 0).getLsbD r || (m.badB.getD k 0).getLsbD c)
/-- Units that hold no step of the step set: their sum is 0, which changes nothing, but where a pair has E = 0xFF element (r, c)
becomes NaN (R119, R120, R122, R123; log 25). -/
def Mma.idleUnits (m : Mma) : List Nat :=
  (List.range ((m.k + m.path.unit - 1) / m.path.unit)).filter (fun u => !m.stepSet.any (fun k => k / m.path.unit == u))
def Mma.voids (m : Mma) (us : List Nat) (r c : Nat) : Bool :=
  us.any (fun u => match m.unitSum u [] r c with | .nan _ => true | _ => false)
/-- A unit folds into every element of the tile (R119, R120, R122). -/
def Mma.fold (m : Mma) (u : Nat) (t : Nat → W32) (i : Nat) : W32 :=
  accAdd (t i) (m.unitSum u (m.stepSet.filter (fun k => k / m.path.unit = u)) (i / 64) (i % 64))

/-! ### Narrowing on the drain path (R125) -/

def DrainV.elem (v : DrainV) (x : W32) : Nat :=
  let narrow := fun (f : FFmt) =>
    match F32.decode x.toNat with
    | .nan _ => f.nan
    | .inf s => withSign f s f.maxCode
    | .fin s m e => f.cut s m e
  match v with
  | .f32 => match F32.decode x.toNat with | .nan _ => F32.nan | _ => x.toNat
  | .bf16 => narrow BF16
  | .f16 => narrow F16
  | .e4m3 => narrow E4M3
  | .i8 =>
    match F32.decode x.toNat with
    | .nan _ => 0
    | .inf s => if s then 0x80 else 0x7F
    | .fin s m e =>
      let t : Int := rtzScale m e
      ((max (-128) (min 127 (if s then -t else t))) % 256).toNat

/-! ### Predicted rows (R304, R306, R316 to R318) -/

/-- Plane bytes of the weights or of V: plane j, row r, from byte b on, n bytes. -/
def planeRow (base rows rb j r b : Nat) : Nat := base + j * rows * rb + r * rb + b
/-- x_0 to x_(KW−1), and the first bad line. -/
def Prb.xs (r : Prb) (s : State) (o : EngOp) : List FVal × Option Nat :=
  let v := s.engRead o true r.xoff (4 * r.kw)
  ((List.range r.kw).map (fun k => F32.decode (elem 32 k v.1)), v.2)
def intVal (v : Int) : FVal := .fin (decide (v < 0)) v.natAbs 0

/-- |v| against a binary32 code, exactly; none when the code is NaN. -/
def exAbsCmp (m : Int) (q : Int) (code : Nat) : Option Ordering :=
  match F32.decode code with
  | .nan _ => none
  | .inf s => some (if s then .gt else .lt)
  | .fin s n e => some (compare (alignTo false m.natAbs q (q - 200)) (alignTo s n e (q - 200)))

/-- RPRED: the predicted bitmap, and the first bad line. -/
def Prb.predict (r : Prb) (s : State) (o : EngOp) : W64 × Option Nat :=
  let (xs, badX) := r.xs s o
  let rows := (List.range r.rk).map (fun i => (List.range 4).map (fun j => s.engRead o false (planeRow r.vaddr r.rk r.rb j i 0) r.rb))
  let us := (List.range r.rk).map (fun i => s.engRead o true (r.uoff + 32 * i) 32)
  let bad := ((badX :: us.map (·.2)) ++ rows.flatMap (fun ps => ps.map (·.2))).findSome? id
  let vel := fun (ps : List (Nat × Option Nat)) (k : Nat) =>
    sextN ((List.range 4).map (fun j => if ((ps.getD j (0, none)).1).testBit k then 2 ^ j else 0)).sum 4
  let hs := rows.map (fun ps =>
    F32.decode (((exSum sumQ ((List.range r.kw).map (fun k => exMul (intVal (vel ps k)) (xs.getD k (.nan false))))).finish F32 0 .none).1))
  let u := fun (i row : Nat) => planeElem 4 true (us.getD i (0, none)).1 row
  let bit := fun (row : Nat) =>
    match exSum sumQ ((List.range r.rk).map (fun i => exMul (intVal (u i row)) (hs.getD i (.nan false)))) with
    | .num _ m e => match exAbsCmp m e (prbF r.word 255 224) with | some .lt | none => false | _ => true
    | _ => true
  (maskOf bit, bad)

/-- RCHECK: the rows that the bound does not clear, and the first bad line. -/
def Prb.check (r : Prb) (s : State) (o : EngOp) : W64 × Option Nat :=
  let (xs, badX) := r.xs s o
  let fin := xs.all (fun x => match x with | .fin _ _ _ => true | _ => false)
  let val := fun (x : FVal) => match x with | .fin sg m e => alignTo sg m e sumQ | _ => 0
  let xq := xs.map val
  let x1 := (xq.map (fun v => (v.natAbs : Int))).sum
  let rows := (List.range 64).filter (fun k => !r.mask.getLsbD k)
  let rd := rows.map (fun k => (k, s.engRead o false (planeRow r.waddr 64 r.rb (r.p - 1) k 0) r.rb, s.engRead o false (planeRow r.waddr 64 r.rb (r.p - 2) k 0) r.rb))
  let pairs := rows.map (fun k => s.engRead o true (r.soff + 2 * k) 2)
  let bad := ((badX :: pairs.map (·.2)) ++ rd.flatMap (fun p => [p.2.1.2, p.2.2.2])).findSome? id
  let replay := fun (p : Nat × (Nat × Option Nat) × (Nat × Option Nat)) =>
    let pair := (s.engRead o true (r.soff + 2 * p.1) 2).1
    let e := pair % 256
    let z := sextN (pair / 256) 8
    let qh := fun (k : Nat) => (if p.2.2.1.testBit k then (2 ^ (r.p - 2) : Int) else 0) - (if p.2.1.1.testBit k then (2 ^ (r.p - 1) : Int) else 0)
    let sum := (((List.range r.kw).zip xq).map (fun q => q.2 * (qh q.1 - z))).sum
    let lhs : Int := sum.natAbs + x1 * (2 ^ (r.p - 2) - 1)
    if e = 0xFF ∨ !fin then true else
    match F32.decode r.tau.toNat with
    | .fin _ _ _ => (match exAbsCmp lhs (sumQ + e - 127) r.tau.toNat with | some .gt | none => true | _ => false)
    | _ => true
  (BitVec.ofNat 64 ((rd.filter replay).map (fun p => 2 ^ p.1)).sum, bad)

/-- RGATH: the destination bytes, and the first bad line. -/
def Prb.gather (r : Prb) (s : State) (o : EngOp) : Nat × Option Nat :=
  let b0 := r.k0 / 8
  let nb := (r.k0 + r.k - 1) / 8 + 1 - b0
  let rows := (List.range 64).filter (fun k => r.mask.getLsbD k)
  let rd := (List.range r.p).map (fun j => rows.map (fun k => (k, s.engRead o false (planeRow r.waddr 64 r.rb j k b0) nb)))
  let bad := rd.findSome? (fun l => l.findSome? (fun q => q.2.2))
  let plane := fun (k' j : Nat) =>
    ((rd.getD j []).map (fun q => if q.2.1.testBit (r.k0 + k' - 8 * b0) then 2 ^ q.1 else 0)).sum
  (pack 64 ((List.range r.k).flatMap (fun k' => (List.range r.p).map (fun j => plane k' j))), bad)
/-- The destination after a failure: every bit of a row not selected is 0. -/
def Prb.gatherFail (r : Prb) (seed : Nat) : Nat :=
  pack 64 ((List.range (r.k * r.p)).map (fun i => (Config.freeReg seed i &&& r.mask).toNat))

/-! ### Start (R216, R287, R302) -/

/-- The operations that begin, step and complete together. -/
def State.jointOps (s : State) (o : EngOp) : List EngOp :=
  match o.joint with | none => [o] | some j => s.ops.filter (fun q => q.joint == some j)
/-- Operations registered before o. -/
def State.before (s : State) (o : EngOp) : List EngOp := s.ops.takeWhile (fun q => q.id != o.id)
def rngMeet (a b : Rng) : Bool := a.pen == b.pen && (a.dst || b.dst) && decide (a.lo < b.hi ∧ b.lo < a.hi)
def EngOp.conflicts (a b : EngOp) : Bool := a.ranges.any (fun x => b.ranges.any (rngMeet x))
/-- Its pen is placed, and the clock of its die runs, which an operation of the Matrix Engine needs to run (R295, R433). -/
def State.engResident (s : State) (o : EngOp) : Bool :=
  !o.kind.isMatrix || match o.pen with | some p => !(s.pen p).saved && s.clocked p | none => true
/-- An operation may begin: what it must wait for is complete (R216, R287, R302, R311). -/
def State.canStart (s : State) (o : EngOp) : Bool :=
  !o.started && !o.atHitch && !o.cancelled && s.engResident o
    && (s.before o).all (fun q => !o.conflicts q
        && !(o.kind.waitsFor q.kind && q.pen == o.pen && q.tile == o.tile && q.tile.isSome))

/-- A bitmap as read, each word with the bad line found in it: all ones for a dense operand (R294, R309). -/
def State.bitmap (s : State) (o : EngOp) (used : Bool) (off k : Nat) : List (Nat × Option Nat) :=
  (List.range k).map (fun i => if used then s.engRead o true (off + 8 * i) 8 else (allOnes64.toNat, none))
/-- Where slice k of an operand stands; a compressed one stores only those whose bitmap slice is not zero (R292, R309). -/
def sliceAt (off sz : Nat) (bm : List W64) (compressed : Bool) (k : Nat) : Nat :=
  off + sz * (if compressed then ((bm.take k).filter (· != 0)).length else k)
/-- The slices of an operand by k, those of the step set alone (R294). -/
def State.slices (s : State) (o : EngOp) (ks : List Nat) (off sz : Nat) (bm : List W64) (compressed : Bool) : List Nat :=
  (List.range bm.length).map (fun k =>
    if ks.contains k then (s.engRead o true (sliceAt off sz bm compressed k) sz).1 else 0)
/-- The bytes of a slice of B or of A that hold the element of column or row r (R292). -/
def Path.elemBytes (p : Path) (ofB : Bool) (r : Nat) : List Nat :=
  match p with
  | .plane pa pb _ _ => (List.range (if ofB then pb else pa)).map (fun j => 8 * j + r / 8)
  | .float f => match EFmt.bits f with | 16 => [2 * r, 2 * r + 1] | 4 => [r / 2] | _ => [r]
  | .lns => [r]
/-- By k of the step set, the rows or columns present in a slice whose elements lie in a line with an uncorrectable error;
an element marked zero is not read (R224, R294). -/
def State.badElems (s : State) (o : EngOp) (p : Path) (ofB : Bool) (ks : List Nat) (off sz : Nat) (bm : List W64) (compressed : Bool) :
    List W64 :=
  let pen := s.pen (o.pen.getD 0)
  if pen.bad.isEmpty then [] else
  (List.range bm.length).map (fun k =>
    if ks.contains k then
      bm.getD k 0 &&& maskOf (fun r => (p.elemBytes ofB r).any (fun b => !pen.sound (sliceAt off sz bm compressed k + b) 1))
    else 0)

/-- What an MMA operation reads, and the first bad line; B and its scales come from the B source (R224, R294, R301). -/
def State.loadMma (s : State) (o : EngOp) (m : Mma) : Mma × Option Nat :=
  let src := (sortBy (fun q => s.member (s.pen (q.pen.getD 0))) (s.jointOps o)).headD o
  let (bo, b) := match src.kind with | .mma x => (src, x) | _ => (o, m)
  let ra := s.bitmap o m.spa m.abmp m.k
  let rb := s.bitmap bo b.spb b.bbmp m.k
  let ba := ra.map (fun p => BitVec.ofNat 64 p.1)
  let bb := rb.map (fun p => BitVec.ofNat 64 p.1)
  let ks := ({ m with bitsA := ba, bitsB := bb } : Mma).stepSet
  let za := s.badElems o m.path false ks m.aoff m.path.sliceA ba (m.compressed && m.spa)
  let zb := s.badElems bo m.path true ks b.boff m.path.sliceB bb (b.compressed && b.spb)
  let map := (List.range m.k).filter (fun k => ((ra.getD k (0, none)).2.orElse (fun _ => (rb.getD k (0, none)).2)).isSome)
  ({ m with bitsA := ba, bitsB := bb, slicesA := s.slices o ks m.aoff m.path.sliceA ba (m.compressed && m.spa)
            slicesB := s.slices bo ks b.boff m.path.sliceB bb (b.compressed && b.spb), scaleB := b.scaleB
            badA := za, badB := zb, badMap := map },
   ((ra ++ rb).findSome? (fun p => p.2)).orElse (fun _ => if (za ++ zb).any (· != 0) then some (lineOf (.scr 0 0)) else none))

/-- The bytes of a tile as ACCST or DRAIN writes them, element i in n bytes. -/
def tileBytes (n : Nat) (f : Nat → Nat) : Nat := pack (8 * n) ((List.range 4096).map f)

/-- The source reads of an operation. -/
def State.load (s : State) (o : EngOp) : EngOp :=
  let st := { o with started := true }
  let tile := (s.pen (o.pen.getD 0)).tile (o.tile.getD 0)
  match o.kind with
  | .mma m => let r := s.loadMma o m; { st with kind := .mma r.1, bad := r.2 }
  | .accz => st
  | .accld scr a => let r := s.engRead o scr a.toNat 16384; { st with data := r.1, bad := r.2 }
  | .accst _ _ => { st with data := tileBytes 4 (fun i => (tile i).toNat) }
  | .drain v _ _ => { st with data := tileBytes (DrainV.size v) (fun i => DrainV.elem v (tile i)) }
  | .rpred r => let q := r.predict s o; { st with result := q.1, bad := q.2 }
  | .rcheck r => let q := r.check s o; { st with result := q.1, bad := q.2 }
  | .rgath r => let q := r.gather s o; { st with data := q.1, bad := q.2 }
  | .copy c => let r := s.engReads o c.srcScr (c.chunks.flatMap (fun p => pieces 128 p.2.1 p.2.2)); { st with data := r.1, bad := r.2 }
  | .stage d =>
    let r := s.engRead o false d.addr.toNat (declLen d.word)
    { st with data := if declScr d.word then r.1 else 0, bad := r.2 }

def State.startOps (s : State) (id : Nat) : State :=
  match s.ops.find? (·.id == id) with
  | none => s
  | some o =>
    let js := s.jointOps o
    if js.all s.canStart then
      { s.bump with ops := s.ops.map (fun q => if js.any (fun j => j.id == q.id) then s.load q else q) }
    else s
def execEngineOpStart (op : Nat) (s : State) : Host.Outcome State Fault Refusal := .next (s.startOps op)

/-! ### Steps (R294, R344) -/

/-- One step of a joint or single MMA operation in one member: a unit folds after its last step (R294). -/
def State.mmaStep (s : State) (o : EngOp) : State :=
  match o.kind with
  | .mma m =>
    let ks := m.stepSet
    match ks[m.steps]? with
    | none => s
    | some k =>
      let u := k / m.path.unit
      let s1 := s.updOp o.id (fun q => { q with kind := .mma { m with steps := m.steps + 1 } })
      if (ks[m.steps + 1]?).map (· / m.path.unit) = some u then s1
      else s1.updPen (o.pen.getD 0) (fun p => let t := o.tile.getD 0; p.setTile t (m.fold u (p.tile t)))
  | _ => s
/-- A phase of a copy into a ring: claim the slot at the tail for the row, or write the row at the slot's start and fill it
(R344). Where RNGCFG changes the ring between two rows, which the manual says nothing of, the copy waits while the ring is
disabled, writes CP.LEN bytes whatever the slot size has become, and marks the slot if the ring still has it (log 79). -/
def State.ringPhase (s : State) (o : EngOp) (c : Copy) : State :=
  let pen := o.pen.getD 0
  let n := c.ring.getD 0
  let r := s.ring pen n
  let row := o.row / 2
  if c.rows ≤ row then s
  else if o.row % 2 = 0 then
    if ringCnt r.cfg ≠ 0 ∧ r.slots.getD r.tail .claimed = .free then
      (s.setRing pen n { r with slots := r.slots.set r.tail (.engine o.id), tail := (r.tail + 1) % ringCnt r.cfg }).updOp o.id
        (fun q => { q with row := q.row + 1, ringSlot := r.tail })
    else s
  else
    let k := o.ringSlot
    -- the row is written and the slot becomes FILLED whatever a thread has made of the slot meanwhile (R182, R187; log 79)
    let w := s.engWrite o true [((r.offset k).toNat, c.len, o.data / 2 ^ (8 * c.len * row) % 2 ^ (8 * c.len))]
    (w.1.setRing pen n { w.1.ring pen n with slots := (w.1.ring pen n).slots.set k .filled }).updOp o.id
      (fun q => { q with row := q.row + 1, bad := q.bad.orElse (fun _ => w.2) })

/-- One step of an operation that has started, in every member of a joint one (R302). -/
def State.engStep (s : State) (id : Nat) : State :=
  match s.ops.find? (·.id == id) with
  | none => s
  | some o =>
    if !o.started || o.cancelled then s else
    match o.kind with
    | .mma _ => let js := s.jointOps o; if js.all s.engResident then js.foldl State.mmaStep s else s
    | .copy c => if c.ring.isSome then s.ringPhase o c else s
    | _ => s
def State.engAdvance (s : State) (id : Nat) : (n : Nat) → State
  | 0 => s
  | n + 1 => (s.engStep id).engAdvance id n

/-! ### Completion (R213, R218, R223, R224, R320, R345) -/

/-- An operation has nothing left to do before its completion point. -/
def EngOp.finished (o : EngOp) : Bool :=
  match o.kind with
  | .mma m => m.stepSet.length ≤ m.steps
  | .copy c => c.ring.isNone || decide (2 * c.rows ≤ o.row)
  | _ => true
/-- Elements that a cancelled operation has written: an open choice for each (R320). -/
def EngOp.wrote (o : EngOp) (seed i : Nat) : Bool := !o.cancelled || (o.started && Config.freeBit seed i)

/-- Writes of ACCST and DRAIN: elements of n bytes; a tile write that overlaps makes them unpredictable (R297). -/
def State.tileOut (s : State) (o : EngOp) (scr : Bool) (a : W64) (n : Nat) : State × Option Nat :=
  let data := if o.overlap then freeBytes s.fresh 0 (4096 * n) else o.data
  if o.cancelled then
    s.engWrite o scr (((List.range 4096).filter (o.wrote s.fresh)).map (fun i => (a.toNat + n * i, n, data / 2 ^ (8 * n * i) % 2 ^ (8 * n))))
  else s.engWrite o scr [(a.toNat, 4096 * n, data)]

/-- The writes of an operation at its completion: the state and the first bad line. -/
def State.engWrites (s : State) (o : EngOp) : State × Option Nat :=
  let pen := o.pen.getD 0
  let t := o.tile.getD 0
  -- an operation cancelled before its start has read and written nothing (R216)
  if o.cancelled && !o.started then (s, none) else
  match o.kind with
  | .mma m =>
    -- what the units without a step make NaN, unless cancelled before; the elements computed from bad data hold any value
    -- (R10, R123, R224)
    let us := if o.cancelled then [] else m.idleUnits
    let f := fun (old : Nat → W32) (i : Nat) =>
      if m.spoiled (!o.cancelled) (i / 64) (i % 64) then (Config.freeReg s.fresh i).setWidth 32
      else if m.voids us (i / 64) (i % 64) then BitVec.ofNat 32 F32.nan else old i
    if !m.badMap.isEmpty || !us.isEmpty || (m.badA ++ m.badB).any (· != 0) then (s.updPen pen (fun p => p.setTile t (f (p.tile t))), none)
    else (s, none)
  | .accz => if o.wrote s.fresh 0 then (s.updPen pen (fun p => p.setTile t (fun _ => 0)), none) else (s, none)
  | .accld _ _ =>
    (s.updPen pen (fun p => p.setTile t (fun i => if o.wrote s.fresh i then BitVec.ofNat 32 (elem 32 i o.data) else p.tile t i)), none)
  | .accst scr a => s.tileOut o scr a 4
  | .drain v scr a => s.tileOut o scr a (DrainV.size v)
  | .rpred _ | .rcheck _ => (s, none)
  | .rgath r =>
    s.engWrite o true [(r.doff, 8 * r.p * r.k, if o.bad.isSome then r.gatherFail s.fresh else o.data)]
  | .copy c =>
    if c.ring.isSome then (s, none) else
    let ps := (c.chunks.foldl (fun (acc : List (Nat × Nat × Nat) × Nat) p => (acc.1 ++ [(p.1, p.2.2, o.data / 2 ^ (8 * acc.2) % 2 ^ (8 * p.2.2))], acc.2 + p.2.2)) ([], 0)).1
    s.engWrite o c.dstScr ps
  | .stage d =>
    let n := declLen d.word
    if declScr d.word then
      s.engWrite o true [(declOff d.word, n, if o.cancelled then freeBytes s.fresh 0 n else o.data)]
    else if !o.cancelled && decide ((s.ctx o.ctx).budget ≠ 0) then
      -- to the die of the pen; where the pen is saved, to the one chosen for the task, or else to die 0 (R199, R357; log 32)
      let die := match (s.pen pen).core with
        | some core => dieOfCore core
        | none => ((o.task.map (fun k => s.task k)).bind Task.home).getD 0
      ((pieces 128 d.addr.toNat n).foldl (fun x q => x.placeShed o.ctx die (locPa (o.loc false q.1) / 128)) s, none)
    else (s, none)

/-- The register result: none for an operation without one (R307, R316, R317, R345, R379). -/
def EngOp.value (o : EngOp) (seed : Nat) (fail : Bool) : W64 :=
  match o.kind with
  | .rpred _ => if fail then Config.freeReg seed 0 else o.result
  | .rcheck r => if fail then ~~~r.mask else o.result
  | _ => ofBool64 fail

/-- One operation completes: it writes, its results are delivered, its ranges go, its counter is decremented. Where the A data of
one member of a joint operation alone has an error, that member's operation alone fails (R302; DESIGN CHOICE, log 111). -/
def State.completeOp (s : State) (id : Nat) : State :=
  match s.ops.find? (·.id == id) with
  | none => s
  | some o =>
    let w := s.engWrites o
    let bad := o.bad.orElse (fun _ => w.2)
    let fail := bad.isSome || o.cancelled
    let writes := match o.dest with | some d => [(d, Form.u (o.value s.fresh fail))] | none => []
    let s1 := { w.1.bump.mapThreads (fun _ t => (t.deliver id writes).opDone id fail) with
                ops := w.1.ops.filter (fun q => q.id != id)
                conts := w.1.conts.map (fun c => { c with ops := c.ops.filter (· != id) }) }
    let s2 := match o.pen, o.tile with
      | some p, some t => s1.updPen p (fun x => { x with last := setAssoc x.last t (if o.cancelled then 3 else if fail then 2 else 1) })
      | _, _ => s1
    let s3 := match o.pen with | some p => s2.updPen p (fun x => { x with engFail := x.engFail || (fail && o.byThread) }) | none => s2
    let s4 := match bad with | some pa => s3.logPlain o.ctx o.launch 0 (BitVec.ofNat 64 pa) cMEMERR 0 2 | none => s3
    match o.kind with
    | .copy c => s4.devDec o.ctx o.launch c.dep
    | .stage d =>
      if o.dest.isSome && declScr d.word then s4.updCtx o.ctx (fun c => { c with staged := c.staged - s4.stageBytes o.ctx d.word }) else s4
    | _ => s4

/-- An operation may complete: cancelled, or started and resident, or a copy or staging transfer that has done its
work. -/
def State.canComplete (s : State) (o : EngOp) : Bool :=
  if o.cancelled then true
  else
    let js := s.jointOps o
    match o.kind with
    | .copy _ => o.started && o.finished
    | _ => o.started && js.all (fun q => q.started && s.engResident q)
/-- The completion point: the remaining steps are performed, then every member completes (R302). -/
def State.complete (s : State) (id : Nat) : State :=
  match s.ops.find? (·.id == id) with
  | none => s
  | some o =>
    if !s.canComplete o then s else
    let s1 := if o.cancelled then s.leaveHitch o else s.engAdvance id (match o.kind with | .mma m => m.stepSet.length - m.steps | _ => 0)
    (s.jointOps o).foldl (fun x q => x.completeOp q.id) s1

/-- RING_WAITER_RETEST: a thread, or the engine operation `id`, that waits on a ring tests it again; an engine that
gets its slot writes the row and fills it (R181, R183, R344). -/
def State.retestEngineRing (s : State) (id : Nat) : State :=
  match s.ops.find? (·.id == id) with
  | some o =>
    match o.kind with
    | .copy c =>
      if c.ring.isSome && o.started then (let s1 := s.engStep id; if o.row % 2 = 0 then s1.engStep id else s1) else s
    | _ => s
  | none => s
def execRingWaiterRetest (isEngine : Bool) (id lane : Nat) (s : State) : Host.Outcome State Fault Refusal :=
  .next (if isEngine then s.retestEngineRing id else s.retestRing id lane)

end Sys2Proof.Machine
end

