-- ==== Sys2Proof/Machine/Issue.lean ====
section
/-! DEFINITION. Issue: which threads may run, the start of a clause (R26 to R30, R43, R58 to R65, R98 to R102, R212),
the issue of its words, and the events that end the waits of threads inside a core (R22, R39, R41, R43, R66). -/

namespace Sys2Proof.Machine

/-! ### Runnable threads (R26, R59, R67) -/

/-- A thread that may be selected at a clause boundary (R26, R67). -/
def State.runnable (s : State) (c : Nat) (t : Thread) : Bool :=
  match t.status with
  | .ready => (s.waitMask c t &&& t.flags) == 0 && !(t.held && t.pc == t.hdr)
  | .resume => true
  | _ => false

/-- The words with which a thread goes on after a wait at the first instruction of its clause (R212). -/
def Thread.words (t : Thread) : Option Fetched := if t.status == .resume then t.kept else none
/-- Threads that issue together: at one PC, in one clause as read. -/
def sameIssue (t u : Thread) : Bool := u.pc == t.pc && u.hdr == t.hdr && u.words == t.words
/-- The threads that the group issues next: those at the lowest PC, or at the PC of a thread whose age has reached
256 (R27, R29). -/
def State.select (s : State) (g : Group) : List Thread :=
  let rs := g.threads.filter (s.runnable (s.ctxOf g.pen))
  let aged := sortBy Thread.ageAt (rs.filter (fun t => decide (256 ≤ t.age)))
  let low := sortBy (fun t => t.pc.toNat % 2 ^ 56) rs
  match aged, low with
  | t :: _, _ => rs.filter (sameIssue t)
  | [], t :: _ => rs.filter (sameIssue t)
  | [], [] => []

/-! ### Fetch (R58, R60 to R62, R98 to R101, R212) -/

/-- A word that ends a translation: a branch, a long-latency instruction, or one that must end its clause (R100). DESIGN CHOICE
(log 101): the test goes by the decoded word. An ill-formed branch, long-latency, BAR, YIELD or SYSCALL word does not end its
translation, and an ill-formed RED, SCAN, SHFL, VOTE or ELECT does not end the one before it. -/
def endsDz2 (w : W64) : Bool :=
  match decodeDz2 w with
  | .ok i => match i with
    | .bra _ | .brx _ | .call _ | .callx _ | .ret _ | .loop _ | .ld _ _ | .gather _ _ | .atom _ _ | .cas _ _ | .atomf _ _
    | .scata _ _ | .waita _ | .barArriveWait _ _ | .barWait _ _ | .yield _ | .syscall _ => true
    | _ => false
  | _ => false
/-- The words of a translation, from those of the rest of the line (R100). -/
def dz2Words : List W64 → List W64
  | [] => []
  | [w] => [w]
  | w :: v :: ws => if endsDz2 w || wordIs true Instr.isCross v then [w] else w :: dz2Words (v :: ws)
/-- The header of a translation (R100). -/
def dz2Header (n : Nat) : Header :=
  { ecl := 5, cnt := BitVec.ofNat 4 (n - 1), wait := 0x800, seta := 11, setb := 11, yld := false, lit := 0 }

def State.word (s : State) (l : Loc) : W64 := BitVec.ofNat 64 (s.readLoc l 8)
/-- The clause of a thread at `pc` under the header at `hdr`: every word is read, or the first fault. In Dzinum-2 code no
word address is checked for alignment: only a continuation record can name one that is no multiple of 8 (R55, R98; log 86). -/
def State.fetch (s : State) (c : Nat) (pc hdr : W64) : Except FaultInfo Fetched := do
  if s.isDz2 c pc then
    let n := (128 - pc.toNat % 128) / 8
    let ls ← (List.range n).mapM (fun k => s.globalLoc c (pc + BitVec.ofNat 64 (8 * k)) 8 accFetch)
    let ws := dz2Words (ls.map s.word)
    return { hdr := pc - 8, head := dz2Header ws.length, words := ws, dz2 := true }
  else
    if hdr.toNat % 8 ≠ 0 then throw ⟨cALIGN, hdr, 0, 4, none⟩
    let l ← s.globalLoc c hdr 8 accFetch
    let some h := decodeHeader (s.word l) | throw illfmt
    let ls ← (List.range (h.cnt.toNat + 1)).mapM (fun k => s.globalLoc c (hdr + 8 + BitVec.ofNat 64 (8 * k)) 8 accFetch)
    return { hdr := hdr, head := h, words := ls.map s.word, dz2 := false }

/-- Threads of a group are parked at a clause that cannot start: the record names its header, or the word in Dzinum-2 code,
which has none (R61, R62, R98). -/
def State.parkFetch (s : State) (g : Group) (ts : List Thread) (pc hdr : W64) (f : FaultInfo) : State :=
  let first := (ts.head?.map Thread.lo).getD 0
  s.park g.id (ts.map Thread.lane) (if s.isDz2 (s.ctxOf g.pen) pc then pc else hdr) first ((ts.map Thread.n).sum - 1) g.slotNum f

/-! ### The start of a clause -/

/-- The convergence that is complete: the PC at which every lane thread expected waits (R43, R398). -/
def Group.convReady (g : Group) : Option W64 :=
  (g.threads.find? (fun t => isConvAt t.pc t && (g.expected t).all (fun u => isConvAt t.pc u))).map Thread.pc
/-- The convergent operation that runs at this clause boundary: one whose lane threads are complete, or one whose window has
passed, which comes before the clause of any other thread, so that no thread keeps it waiting (R43, R56, R57; log 108). -/
def State.convNext (s : State) (g : Group) : Option W64 := if g.lanes then g.convReady.orElse (fun _ => s.convDue g) else none
/-- The SPLICE at which every lane thread of the group waits (R41). -/
def Group.foldReady (g : Group) : Option W64 :=
  match g.alive with
  | [] => none
  | t :: ts => if isSplice t && ts.all (fun u => isSplice u && u.hdr == t.hdr) then some t.hdr else none
/-- Every lane thread came within $spw cycles of the first (R41, R42). -/
def State.inWindow (s : State) (g : Group) : Bool :=
  match sortBy (fun t => t.arrival.2) g.alive with
  | [] => true
  | t :: ts => ts.all (fun u => withinWindow (s.pen g.pen).spw.toNat t.arrival u.arrival)

/-- Every lane thread waits at the SPLICE: the group folds when they came within the window, or they pass (R41). -/
def State.foldOrPass (s : State) (gid : Nat) (pc : W64) : State :=
  let g := s.group gid
  match g.alive with
  | t :: _ => (match t.spliceWord with
    | some w => if s.inWindow g then s.foldGroup gid (liveSet w) pc else s.failFoldAt gid pc
    | none => s.failFoldAt gid pc)
  | [] => s
/-- The queue in mode H on which a thread waits: the header's physical address, whether it pushes, and the QPOP. Its next
clause waits on the flag of that QPOP, or on one that names no flag (R67, R331, R333). -/
def State.tetherWait (s : State) (c : Nat) (t : Thread) : Option (Nat × Bool × Nat) :=
  let at' := fun (a : W64) (p : Bool) (op : Nat) =>
    match s.translate c a with
    | none => none
    | some l => if !s.sound l.pa 64 then none else
      match qHead (BitVec.ofNat 512 (Memory.load s.mem l.pa 64)) with
      | some h => if h.modeH then some (l.pa, p, op) else none
      | none => none
  match t.status with
  | .push a _ _ => at' a true 0
  | .ready => (match t.pend.find? (s.waitsOn c t) with | some p => at' (p.queue.getD 0) false p.op | none => none)
  | _ => none
/-- The lists that a group would join, when every thread of it waits on a queue in mode H whose list holds waiters of
its kind only. -/
def State.tetherJoin (s : State) (g : Group) : Option (List (Nat × Bool × Waiter)) :=
  let c := s.ctxOf g.pen
  let ws := g.alive.map (fun t => (s.tetherWait c t).map (fun w => (w.1, w.2.1, (⟨g.id, t.lane, w.2.2⟩ : Waiter))))
  let ok := ws.all (fun w => match w with
    | some (pa, p, _) => (match s.tetherAt pa with | some l => l.pushing == p || l.waiters.isEmpty | none => true)
        && ws.all (fun v => match v with | some (qa, q, _) => qa != pa || q == p | none => true)
    | none => false)
  if g.alive.isEmpty || !ok then none else some (ws.filterMap id)
/-- A waiting group is descheduled: its place is freed, and its QPUSHes and QPOPs join the lists, but for those that stand on
one already: lanes or pieces of one strand may share a QPOP, which takes one packet (R20, R331, R333). -/
def State.deschedule (s : State) (g : Group) (ws : List (Nat × Bool × Waiter)) : State :=
  ws.foldl (fun x w =>
    if x.listed w.2.2 then x else
    let l := (x.tetherAt w.1).getD ⟨w.1, w.2.1, []⟩
    x.setTether { l with pushing := w.2.1, waiters := l.waiters ++ [w.2.2] })
    (s.updGroup g.id (fun y => { y with place := .tether, savedAt := s.cycles (s.penDie g.pen) }))

/-- Selected threads begin the clause, or go on inside it; the history is fresh but after a wait (R69). A thread resumed at a
word that lies past the end of its clause, as its header now reads, raises ILLFMT at the header (R59; log 85); so does one at
a word in the last 7 bytes of a line of Dzinum-2 code, at that word, where no word is left to read (R55, R98; log 86). -/
def State.startRun' (s : State) (g : Group) (ts : List Thread) (pc : W64) (f : Fetched) : State :=
  let pos := if pc = f.hdr ∨ pc = f.hdr + 8 then 0 else (pc.toNat - f.hdr.toNat) / 8 - 1
  let conv := g.lanes && convClause f.dz2 f.words
  let sel := ts.map Thread.lane
  if f.words.length ≤ pos then s.parkFetch g ts pc f.hdr illfmt
  else if conv && pos = 0 then
    -- the lane threads wait at the clause (R43, R285)
    let since := s.cycles (s.penDie g.pen)
    s.updGroup g.id (fun x => x.mapLanes sel (fun t => { t with status := .conv since s.draw, age := 0 }))
  else
    let r : Run := { hdr := f.hdr, head := f.head, words := f.words, pos := pos, sel := sel, from' := 0, conv := conv
                     dz2 := f.dz2 }
    s.bump.updGroup g.id (fun x => { x.mapLanes sel (fun t =>
      { t with status := .ready, age := 0, kept := none, hist := if t.status == .resume then t.hist else Hist.fresh s.fresh }) with run := some r })

/-- Lane threads that wait at a convergent clause begin it, or are parked where it cannot start (R43, R61, R62). -/
def State.startConv (s : State) (g : Group) (pc : W64) : State :=
  let ts := s.convSet g pc
  let hdr := (ts.head?.map Thread.hdr).getD pc
  match s.fetch (s.ctxOf g.pen) pc hdr with
  | .error f => s.parkFetch g ts pc hdr f
  | .ok f => s.beginConv g.id pc f
/-- CLAUSE_START: at a clause boundary the group runs a convergence that is complete or due, folds, starts the clause of the
threads selected, or is descheduled (R27, R41, R43, R61 to R65, R101, R333). A stopped context starts none (R401), nor does a die whose clock relocks
(R433). -/
def State.clauseStart (s : State) (gid : Nat) : State :=
  let g := s.group gid
  let c := s.ctxOf g.pen
  if g.run.isSome || g.stall.isSome || !g.resident s || !s.clocked g.pen || (s.ctx c).stopped then s else
  match s.convNext g, if g.lanes then g.foldReady else none with
  | some pc, _ =>
    s.startConv g pc
  | none, some pc =>
    s.foldOrPass gid pc
  | none, none =>
    match s.select g with
    | [] => (match s.tetherJoin g with | some ws => s.deschedule g ws | none => s)
    | t :: ts =>
      if !g.lanes && s.isDz2 c t.pc then
        -- a strand is laid down before Dzinum-2 code (R101)
        match if s.rowQueue gid ((s.pen g.pen).core.getD 0) then none else s.layDown gid with
        | some (s1, _) => s1
        | none => s.bump.updGroup gid (fun x => { x with stall := some (.row s.fresh) })
      else
        match (match t.words with | some f => Except.ok f | none => s.fetch c t.pc t.hdr) with
        | .error f => s.parkFetch g (t :: ts) t.pc t.hdr f
        | .ok f => s.startRun' g (t :: ts) t.pc f
def execClauseStart (gid : Nat) (s : State) : Host.Outcome State Fault Refusal := .next (s.clauseStart gid)

/-! ### The issue of a word (R30, R63, R65, R71) -/

/-- What a group issues: a start of a clause, an instruction, or a word that raises ILLFMT. -/
inductive Issue where
  | instr (i : Instr)
  | illfmt
  deriving DecidableEq, Repr

def Run.issue (r : Run) : Issue :=
  let w := r.words.getD r.pos 0
  match if r.dz2 then decodeDz2 w else decodeWord w with
  | .illop => .instr (.unassignedOpcode w)
  | .illfmt => .illfmt
  | .ok i => if eclAdmits r.head.ecl (opcOf w).toNat then .instr i else .illfmt
def State.issueOf (s : State) (gid : Nat) : Issue :=
  match (s.group gid).run with
  | none => .instr (.clauseStart gid)
  | some r => r.issue

/-- The opcode admits GD 00 alone: PAND to PPOP, SPLICE, LAYDN to KPOINT, BAR, BARARV, ENGFENCE, the convergent operations,
block 6 and ERET (R148, R154, R227, R268, R285, R411). -/
def guardless (opc : Nat) : Bool :=
  decide (0x04A ≤ opc ∧ opc ≤ 0x04D) || opc == 0x054 || decide (0x05B ≤ opc ∧ opc ≤ 0x05D)
    || decide (0x0D2 ≤ opc ∧ opc ≤ 0x0D5) || opc == 0x0DE || decide (0x140 ≤ opc ∧ opc ≤ 0x152)
    || decide (opc / 0x40 = 6) || opc == 0x1DA
/-- The guard under which an ill-formed word raises its fault: for an index whose guard is false it raises none (R135). An
unassigned opcode raises ILLOP whatever the other bits hold, and an opcode that admits GD 00 alone has no other guard: such a
word under another, like one of the reserved guard, raises ILLFMT for every thread (R71, R154, R227, R268, R285; log 24). -/
def rejectGuard (f : FaultInfo) (w : W64) : Guard :=
  if f.cause = cILLOP ∨ guardless (opcOf w).toNat then .always else (guardOf (bits w 54 53)).getD .always
/-- The opcode is that of a short-latency instruction with a destination, in bits 52:43 (R69, R77). -/
def shortDest (opc : Nat) : Bool :=
  [(0x000, 0x02C), (0x056, 0x056), (0x058, 0x05A), (0x08D, 0x08F), (0x094, 0x094), (0x097, 0x098), (0x0D1, 0x0D1), (0x100, 0x11B),
   (0x126, 0x13D), (0x153, 0x160), (0x1C0, 0x1C0), (0x1C8, 0x1C8), (0x1CC, 0x1CC), (0x1CE, 0x1CE), (0x1D1, 0x1D3), (0x1D6, 0x1D6), (0x1D8, 0x1D8),
   (0x1DC, 0x1DC)].any (fun r => decide (r.1 ≤ opc ∧ opc ≤ r.2))
/-- The destination of a refused word, for indices whose guard is false; one that is no register has no value to keep, and leaves
h0 unpredictable (R70; log 24). HISTLATCH with WM 1 writes no register (log 29). -/
def rejectDest (w : W64) : Option Opd :=
  let d := opdOf (bits w 52 43)
  if !shortDest (opcOf w).toNat || (opcOf w == 0x1CC && bits w 18 17 == 1) then none else if d.file == .g || d.file == .o then some d else some ⟨.special, 0⟩
/-- A word that cannot be issued: threads that issue it, and whose guard is true, are parked as at any fault (R71, R385,
R386; log 24). -/
def State.rejectWord (s : State) (f : FaultInfo) : State :=
  let g := s.group (s.cur.getD 0)
  match g.run with
  | none => s
  | some r =>
    let e := envOf g r
    let w := r.words.getD r.pos 0
    let m : Meaning := { gd := rejectGuard f w, dest := rejectDest w, act := fun _ _ _ => .error (.fault f) }
    (if g.lanes then s.driveLanes e m
     else match g.threads with
       | [t] => s.driveStrand e m t
       | _ => s).settle g.pen
/-- UNASSIGNED_OPCODE: the word raises ILLOP with no effect (R71, R80, R99). -/
def execUnassignedOpcode (_w : W64) (s : State) : Host.Outcome State Fault Refusal :=
  match s.cur with
  | none => .fault .noIssuer
  | some gid => if (s.group gid).run.isNone then .fault .noIssuer else .next (s.rejectWord (plainFault cILLOP))

/-! ### Which group issues (R30, R64, R164, R332) -/

/-- Room for what the group waits for may have come free, where no event of the table says so (R180, R350, R358; log 67). -/
def State.roomFor (s : State) (g : Group) (k : Stall) : Bool :=
  match k with
  | .graph => decide ((s.runs.filter (fun r => r.ctx == s.ctxOf g.pen)).length < Config.graphsPerContext)
  | .ring => true
  | .budget n => s.stageFits (s.ctxOf g.pen) n
  | _ => false
/-- A group that can use an issue slot: none while the clock of its die relocks (R433). -/
def State.ready (s : State) (g : Group) : Bool :=
  g.resident s && s.clocked g.pen &&
  match g.stall, g.run with
  | some k, _ => s.roomFor g k
  | none, some _ => true
  | none, none =>
    !(s.ctx (s.ctxOf g.pen)).stopped
      && ((s.convNext g).isSome || (g.lanes && g.foldReady.isSome) || !(s.select g).isEmpty || (s.tetherJoin g).isSome)

/-- Position in the rotation of a core: slot 0 to slot 31, then row 0 to row 15. -/
def Group.position (g : Group) : Nat := match g.place with | .slot k => k | .row k => 32 + k | _ => 48
def rotPos (rot : List (Nat × Nat)) (core : Nat) : Nat := ((rot.find? (·.1 == core)).map (·.2)).getD 0
/-- Ready groups of a core in the order of the rotation. -/
def State.rotation (s : State) (core : Nat) : List Group :=
  let p := rotPos s.rot core
  sortBy (fun g => (g.position + 48 - p) % 48) ((s.coreGroups core).filter s.ready)
/-- The core whose turn it is among those with a ready group, and the group it grants; a group that gave up its turn
is passed over once (log 4). -/
def State.nextGroup (s : State) : Option Group :=
  let rs := s.groups.filter s.ready
  let cores := sortBy (fun k => (k + 216 - s.turn) % 216) (rs.filterMap (fun g => (s.pen g.pen).core))
  match cores with
  | [] => none
  | k :: _ =>
    let l := s.rotation k
    (l.find? (fun g => !g.yielded)).orElse (fun _ => l.head?)

/-- Age counts of an issue slot: those runnable and not issued count, the issued ones become 0 (R29). -/
def State.ageTick (s : State) (g : Group) : Group :=
  if !g.lanes then { g with slots := g.slots + 1 } else
  let c := s.ctxOf g.pen
  let sel := match g.run with | some r => r.sel | none => (s.select g).map Thread.lane
  { g with slots := g.slots + 1, threads := g.threads.map (fun t =>
      if sel.contains t.lane then { t with age := 0 }
      else if s.runnable c t && decide (t.age < 256) then
        { t with age := t.age + 1, ageAt := if t.age + 1 = 256 then g.slots + 1 else t.ageAt }
      else t) }

/-- The tag of the instruction word that a group issues (R439, R101): its lowest lane that issues, by joined name. -/
def State.tagOf (s : State) (g : Group) (r : Run) : Tag :=
  let lane := (r.sel.find? (fun l => decide (r.from' ≤ l))).getD 0
  let t := g.thread lane
  { gid := g.id, lane := lane, name := (t.map Thread.ost).getD 0, launch := (s.pen g.pen).launch, vcore := (s.pen g.pen).vcore
    slot := g.slotNum, index := (t.map Thread.lo).getD 0, pc := r.hdr + 8 + 8 * BitVec.ofNat 64 r.pos
    opc := opcOf (r.words.getD r.pos 0), time := s.now }
/-- One more instruction of a period P is issued: the one chosen is tagged, and after P of them the next period begins
(R439; log 87). -/
def Sampler.count1 (x : Sampler) (p seed : Nat) (tag : Tag) : Sampler :=
  let x1 := if x.count = Config.pickSample x.pick % p then { x with tags := x.tags ++ [tag] } else x
  if x.count + 1 < p then { x1 with count := x.count + 1 } else { x1 with count := 0, pick := seed }
/-- An instruction word issues on a core: the core's sampling for its context counts it, once, though it may wait and be issued
again (R439). -/
def State.sampled (s : State) (g : Group) : State :=
  let c := s.ctx (s.ctxOf g.pen)
  match g.run with
  | none => s
  | some r =>
    if c.samplePeriod = 0 || r.counted then s else
    let core := (s.pen g.pen).core.getD 0
    let x := (c.samplers.find? (fun y => y.core == core)).getD ⟨core, 0, s.fresh, []⟩
    s.updCtx c.id (fun y => { y with samplers := y.samplers.filter (fun z => z.core != core) ++ [x.count1 c.samplePeriod s.fresh (s.tagOf g r)] })
/-- The state in which a group issues: it holds the grant of its core, time passes, ages count. A turn given up by YIELD is
passed over at the next grant of the core and is then over: a thread that becomes ready only later takes its place in the
plain rotation, so that it may come after the one that yielded (R164; log 4). -/
def State.beginIssue (s : State) (gid : Nat) : State :=
  let g := s.group gid
  let core := (s.pen g.pen).core.getD 0
  let tick := fun (x : Group) => if x.run.isSome then { s.ageTick x with run := x.run.map (fun r => { r with counted := true }) } else x
  let s1 := (s.sampled g).updGroup gid (fun x => { tick x with stall := none, yielded := false })
  let s2 := { s1 with groups := s1.groups.map (fun (x : Group) =>
    if x.id != gid && x.yielded && (s.pen x.pen).core == some core then { x with yielded := false } else x) }
  { s2 with cur := some gid, turn := (core + 1) % 216, duty := s.duty + 1, rot := setAssoc s.rot core ((g.position + 1) % 48)
            now := s.now + Config.elapsed s.fresh, draw := s.fresh, fresh := s.fresh + 1 }
/-- Time passes in a step without issue. -/
def State.tick (s : State) : State :=
  { s with cur := none, duty := s.duty + 1, now := s.now + Config.elapsed s.fresh, draw := s.fresh, fresh := s.fresh + 1 }
/-- An event whose time has come takes its turn in such a step (log 4). -/
def State.timeStep (s : State) : State := { s.tick with timeTurn := s.timeTurn + 1 }
/-- The device takes its turn in such a step (log 4). -/
def State.devStep (s : State) : State := { s.tick with devTurn := s.devTurn + 1, duty := 0 }

/-! ### Events of waiting threads -/

/-- LANE_ROW_GRANT: the strand that has waited longest on its core, by the places of their waits, gets a free lane row (R22, R56).
Laid down inside a clause, its lane threads stand at the same instruction. -/
def State.grantRow (s : State) (gid : Nat) : State :=
  let g := s.group gid
  let core := (s.pen g.pen).core.getD 0
  match g.stall with
  | some (.row k) =>
    if !(s.rowWaiters core).all (fun w => decide (k ≤ w.2)) || !g.resident s || !s.clocked g.pen then s else
    (match s.layDown gid with
     | some (s1, _) => s1
     | none => s)
  | _ => s
def execLaneRowGrant (gid : Nat) (s : State) : Host.Outcome State Fault Refusal := .next (s.grantRow gid)

/-- SPLICE_WAIT_EXPIRY: $spw cycles have passed since the strand arrived (R39). -/
def execSpliceWaitExpiry (gid : Nat) (s : State) : Host.Outcome State Fault Refusal :=
  let g := s.group gid
  .next (match g.threads with
    | [t] =>
      if !g.lanes && isSplice t && g.resident s && s.clocked g.pen && decide (t.arrival.1 + (s.pen g.pen).spw.toNat ≤ s.cycles (s.penDie g.pen)) then
        (s.updThread gid t.lane (Thread.passSplice · true)).settle g.pen
      else s
    | _ => s)

/-- CONVERGENT_WINDOW_EXPIRY: $spw cycles have passed since the first arrival; the operation runs over those that came within
them (R42, R43). -/
def execConvergentWindowExpiry (gid : Nat) (pc : W64) (s : State) : Host.Outcome State Fault Refusal :=
  let g := s.group gid
  let c := s.ctxOf g.pen
  let ts := g.threads.filter (isConvAt pc)
  let now := s.cycles (s.penDie g.pen)
  let due := ts.any (fun t => decide (t.arrival.1 + (s.pen g.pen).spw.toNat ≤ now))
  .next (if !due || g.run.isSome || !g.resident s || !s.clocked g.pen || (s.ctx c).stopped then s else s.startConv g pc)

/-- FOLD_WINDOW_EXPIRY: $spw cycles have passed since the first lane thread arrived at the SPLICE. Where every lane thread
has arrived within them, the group folds all the same: a window of 0 admits the arrivals of one issue slot (R41, R42). -/
def execFoldWindowExpiry (gid : Nat) (pc : W64) (s : State) : Host.Outcome State Fault Refusal :=
  let g := s.group gid
  let now := s.cycles (s.penDie g.pen)
  let due := g.threads.any (fun t => isSplice t && t.hdr == pc && decide (t.arrival.1 + (s.pen g.pen).spw.toNat ≤ now))
  .next (if !(g.lanes && due && g.resident s && s.clocked g.pen) then s
    else if g.foldReady == some pc then s.foldOrPass gid pc
    else s.failFoldAt gid pc)

/-- The context and queue of a QPOP whose thread has retired at CONT, or ended, while it waited (R53, R404). -/
def State.orphanPop (s : State) (op : Nat) : Option (Nat × W64) :=
  (s.conts.findSome? (fun k => (k.pops.find? (fun p => p.1 == op)).map (fun p => (k.ctx, p.2)))).orElse
    (fun _ => (s.lostPops.find? (fun p => p.op == op && !p.done)).map (fun p => (p.ctx, p.header)))
/-- Such a QPOP takes a packet as soon as the queue holds one, and the record may then resume (R53, R331, R404; log 48). Where
the test fails a check there is no thread left to park and no record is written: it goes on waiting (log 48). -/
def State.contPop (s : State) (op : Nat) : State :=
  match s.orphanPop op with
  | none => s
  | some (c, a) =>
    match s.queue c a false accRmw with
    | .error _ => s
    | .ok q => s.actFor c (fun x => match x.popFrom c a q with | some (s1, pkt) => s1.popDone op pkt | none => s)
/-- A memory-class operation delivers its results in every thread that it is owed to, resident or saved; a QPOP whose thread has
ended, and which has its packet, is over (R66, R68, R158, R403). -/
def State.memComplete (s : State) (op : Nat) : State :=
  if s.ops.any (·.id == op) then s else
  if (s.orphanPop op).isSome then s.contPop op else
  if s.lostPops.any (fun p => p.op == op) then { s with lostPops := s.lostPops.filter (fun p => p.op != op) } else
  let owed := fun (t : Thread) => t.pend.any (fun p => p.op == op && !p.engine && p.queue.isNone)
      && (match t.status with | .waita m => m.op != op | _ => true)
  { s.mapThreads (fun _ t => if owed t then
      (match t.pend.find? (·.op == op) with | some p => t.deliver op p.writes | none => t) else t) with
    conts := s.conts.map (fun c => { c with ops := c.ops.filter (· != op) }) }

end Sys2Proof.Machine
end

