-- ==== Sys2Proof/Machine/Place.lean ====
section
/-! DEFINITION. The Task Scheduler: launches, the placement, saving and restoring of pens and groups, evictions, the
end of tasks and of launches (R12, R13, R321 to R330, R334 to R338, R357 to R359, R362, R402). -/

namespace Sys2Proof.Machine

/-! ### The finish of a launch (R158, R324) -/

def State.updRun (s : State) (r : Nat) (f : GraphRun → GraphRun) : State :=
  { s with runs := s.runs.map (fun x => if x.id == r then f x else x) }
/-- Every pen is finished, no thread and no operation of its threads being left, and every descendant task has ended: LP.DEP is decremented, the pens
are removed, and a graph's node sends its arrivals (R158, R324, R335, R349). -/
def State.tryFinish (s : State) (l : Nat) : State :=
  match s.launches.find? (·.id == l) with
  | none => s
  | some x =>
    let mine := fun (p : Nat) => (s.pen p).launch == l && s.pens.any (·.id == p)
    if s.tasks.any (·.launch == l) || !x.conts.isEmpty || !x.unplaced.isEmpty
        || s.ops.any (fun o => match o.pen with | some p => mine p | none => false)
        || s.lostPops.any (fun p => mine p.pen) || s.groups.any (fun g => mine g.pen && !g.alive.isEmpty) then s
    else
      let s1 := { s with
        launches := s.launches.filter (fun y => y.id != l)
        pens := s.pens.filter (fun p => p.launch != l)
        groups := s.groups.filter (fun g => !mine g.pen)
        members := s.members.filter (fun m => match m.kind with
          | .team k _ | .pens k _ => k != l
          | .group g _ => !mine (s.group g).pen) }
      let s2 := match x.node with
        | none => s1
        | some (r, _) => s1.updRun r (fun y => { y with
            running := y.running.filter (fun q => q.1 != l)
            arrivals := y.arrivals ++ (y.running.filter (fun (q : Nat × W64 × W64) => q.1 == l)).flatMap (fun (q : Nat × W64 × W64) => [q.2.1, q.2.2].filter (· != 0)) })
      s2.devDec x.ctx l x.dep

/-- Every launch of a context that can finish does. -/
def State.tryFinishAll (s : State) (c : Nat) : State :=
  ((s.launches.filter (fun l => l.ctx == c)).map Launch.id).foldl State.tryFinish s
/-- ENGINE_OP_COMPLETION: the completion point; a launch that waited for it finishes (R213, R158). -/
def execEngineOpCompletion (op : Nat) (s : State) : Host.Outcome State Fault Refusal :=
  .next (match s.ops.find? (·.id == op) with
    | some o => (s.complete op).tryFinish o.launch
    | none => s)
/-- MEMORY_OP_COMPLETION: the operation completes; a launch that waited for a QPOP of an ended thread finishes (R66, R158). -/
def execMemoryOpCompletion (op : Nat) (s : State) : Host.Outcome State Fault Refusal :=
  .next (match s.lostPops.find? (fun p => p.op == op) with
    | some p => (s.memComplete op).tryFinish (s.pen p.pen).launch
    | none => s.memComplete op)
/-- SAVED_IMAGE_COMPLETION: the same for an operation of a thread or pen that is saved: the saved image takes the results
(R403). -/
def State.savedOp (s : State) (op : Nat) : Bool :=
  s.groups.any (fun g => !g.resident s && g.threads.any (fun t => t.pend.any (·.op == op)))
    || s.ops.any (fun o => o.id == op && match o.pen with | some p => (s.pen p).saved | none => false)
def execSavedImageCompletion (op : Nat) (s : State) : Host.Outcome State Fault Refusal :=
  .next (if !s.savedOp op then s else
    match s.ops.find? (·.id == op) with
    | some o => (s.complete op).tryFinish o.launch
    | none => s.memComplete op)

/-! ### The end of tasks (R323, R358, R359) -/

/-- The pen on which a task's declarations are staged: that of its threads, or each pen of a launch. -/
def State.taskPens (s : State) (t : Task) : List Nat :=
  if t.launchOwn then (s.pens.filter (fun p => p.launch == t.launch)).map Pen.id
  else ((s.groups.filter (fun g => g.threads.any (fun x => x.task == t.id))).map Group.pen).take 1
/-- The bytes of scratch that a declaration fills become unpredictable (R359). -/
def State.spoilDecl (s : State) (pens : List Nat) (d : Decl) : State :=
  if declScr d.word then
    pens.foldl (fun x p => x.bump.writeLoc (.scr p (declOff d.word)) (declLen d.word) (freeBytes x.fresh 0 (declLen d.word))) s
  else s
/-- The staging of a task is cancelled: of one that has begun, and whose task has not been dispatched, the bytes that it was to
fill in scratch are unpredictable, whether their transfers had started or not (R359). -/
def State.cancelStaging (s : State) (task : Nat) : State :=
  let t := s.task task
  let s1 := if t.begun && !t.ran then t.decls.foldl (fun x d => x.spoilDecl (s.taskPens t) d) s else s
  { s1.updTask task (fun k => { k with jobs := [] }) with ops := s1.ops.map (fun o =>
      match o.kind with
      | .stage _ => if o.task == some task && o.dest.isNone then { o with cancelled := true } else o
      | _ => o) }
/-- Every thread of the task has ended. -/
def State.taskOver (s : State) (t : Nat) : Bool :=
  !(s.groups.any (fun g => g.threads.any (fun x => x.task == t && x.status != .exited)))
    && !(s.dies.any (fun d => d.bins.any (fun b => b.spawns.any (fun p => p.task == t))))
/-- A task ends; every end but a continued one decrements $tdep (R323). Its threads may have run in a pen of another launch
(R48, R335), so that any launch of the context may be finished now. -/
def State.endTask (s : State) (t : Task) : State :=
  let c := (s.launch t.launch).ctx
  let s0 := if t.killed then s.cancelStaging t.id else s
  let s1 : State := { s0 with tasks := s0.tasks.filter (fun x => x.id != t.id) }
  let s2 := s1.updCtx c (fun x => { x with staged := x.staged - (t.staged + t.scrStaged) })
  let s3 := if t.contEnd && !t.killed then s2 else s2.devDec c t.launch t.tdep
  s3.tryFinishAll c
def execTaskEnd (task : Nat) (s : State) : Host.Outcome State Fault Refusal :=
  .next (match s.tasks.find? (·.id == task) with
    | some t => if s.taskOver task then s.endTask t else s
    | none => s)

/-! ### Launches (R12, R13, R327, R328) -/

/-- The checks of R328 on a packet with N indices and the given entry. A task node whose packet has another TYPE than 0x01 fails
them: it is a launch that fails, no bad node record (R348; DESIGN CHOICE, log 112). -/
def State.launchOk (s : State) (c : Nat) (p : BitVec 512) (n : Nat) : Bool :=
  let z := if cpF p 127 96 = 0 then 0x100000 else 16 * cpF p 127 96
  cpF p 63 56 = 0 && cpF p 23 23 = 0 && cpF p 15 12 = 0 && cpF p 7 0 = 1 && decide (1 ≤ cpF p 22 20 ∧ cpF p 22 20 ≤ 6)
    && decide (cpF p 55 42 ≤ 12288) && decide (cpF p 41 36 ≤ 32) && decide (cpF p 383 320 % 16 = 0)
    && decide (cpF p 383 320 + n * z ≤ 2 ^ 40) && decide (n ≤ 2 ^ 32)
    && (match s.checkTarget c (BitVec.ofNat 64 (cpF p 191 128)) with | .ok _ => true | .error _ => false)

/-- A read of n bytes of global memory, line by line: the value, or the first cause (R384; log 92). -/
def State.readGlobal (s : State) (c va n : Nat) (k : AccKind) : Except FaultInfo Nat :=
  let ps := pieces 128 va n
  let ls := ps.map (fun p => s.globalLoc c (BitVec.ofNat 64 p.1) p.2 k)
  match firstCause ls with
  | .error f => .error f
  | .ok _ => .ok ((ps.zip ls).foldr (fun q m => (match q.2 with | .ok l => s.readLoc l q.1.2 | .error _ => 0) + 2 ^ (8 * q.1.2) * m) 0)
/-- The declarations of a working-set record, read by the device; none of them when it cannot be read, and an invalid
one is dropped (R356; log 32). -/
def State.readDecls (s : State) (c : Nat) (a : W64) (scsz : Nat) : List Decl :=
  if a = 0 then [] else
  match s.readGlobal c a.toNat 64 accRead.device with
  | .error _ => []
  | .ok m => (List.range 4).filterMap (fun k =>
      let d : Decl := ⟨BitVec.ofNat 64 (m / 2 ^ (128 * k)), BitVec.ofNat 64 (m / 2 ^ (128 * k + 64))⟩
      if declLen d.word = 0 || (declBad d.word scsz).isSome then none else some d)

/-- A launch is created: its pens, the initial strand of each pen whose range is not empty, its own task, and one ready
member for each virtual yard; its task is ready, and where it has declarations its die is chosen (R13, R328, R334, R335, R357). -/
def State.createLaunch (s : State) (c : Nat) (p : BitVec 512) (n prio : Nat) (karg : W64) (queue : W64)
    (node : Option (Nat × W64)) (gang : Option W64) : State :=
  let id := s.fresh
  let y := cpF p 35 24 + 1
  let cc := cpF p 22 20
  let l : Launch :=
    { id := id, ctx := c, entry := BitVec.ofNat 64 (cpF p 191 128), n := n, yards := y, c := cc, regs := 16 * (cpF p 19 16 + 1)
      scr := 128 * cpF p 55 42, accn := cpF p 41 36, gp := BitVec.ofNat 64 (cpF p 319 256), stk := BitVec.ofNat 64 (cpF p 383 320)
      z := if cpF p 127 96 = 0 then 0x100000 else 16 * cpF p 127 96, karg := karg, dep := BitVec.ofNat 64 (cpF p 511 448)
      prio := prio, conts := [], unplaced := List.range y, queue := queue, node := node, gov := Gov.reset, gang := gang }
  let np := y * cc
  let per := (n + np - 1) / np
  let decls := s.readDecls c (BitVec.ofNat 64 (cpF p 447 384)) l.scr
  let task : Task := { Task.blank with id := id + 1, launch := id, launchOwn := true, karg := karg, prio := prio
                                       decls := decls, home := if decls.isEmpty then none else some (s.stagingDie c) }
  let pens := (List.range np).map (fun j => Pen.create (id + 2 + j) id j l.scr l.accn)
  let groups := ((List.range np).filter (fun j => j * per < n)).map (fun j =>
    newGroup (id + 2 + np + j) (id + 2 + j) false [newThread l (id + 2 + 2 * np + j) (j * per) (min ((j + 1) * per) n - j * per) 0 task.id l.entry true none])
  let members := (List.range y).map (fun k => (⟨id + 2 + 3 * np + k, .team id k, prio, s.clk, 0, false⟩ : Member))
  { s.bump (2 + 3 * np + y) with launches := s.launches ++ [l], tasks := s.tasks ++ [task], pens := s.pens ++ pens
                                 groups := s.groups ++ groups, members := s.members ++ members }
/-- A launch that fails is finished at once, with a LAUNCH record (R324, R328). -/
def State.failLaunch (s : State) (c : Nat) (p : BitVec 512) (va : W64) : State :=
  (s.logPlain c s.fresh va 0 cLAUNCH 0).bump.devDec c s.fresh (BitVec.ofNat 64 (cpF p 511 448))

/-! ### Packets taken from queues (R326, R328 to R330, R343, R346) -/

/-- The packet at the read index of a registered queue: the view, the packet and its slot's address. A queue whose header or
slot fails a check yields none and no record for as long as it does, of which the manual says nothing (R330; log 104). -/
def State.peek (s : State) (c : Nat) (a : W64) : Option (QView × BitVec 512 × W64) :=
  match s.queue c a false accRmw.device with
  | .error _ => none
  | .ok q => if q.h.empty then none else
    some (q, BitVec.ofNat 512 (s.readLoc q.rslot 64), a + 64 + 64 * BitVec.ofNat 64 (q.h.read.toNat % 2 ^ q.h.lsize))
/-- Take it; the root's turn goes on from a dispatch queue (R330). -/
def State.takePacket (s : State) (c : Nat) (a : W64) (q : QView) : State :=
  s.actFor c (fun x => match x.popFrom c a q with
    | some (s1, _) => if (s.ctx c).dispatchQueues.contains a then { s1 with lastQueue := some (c, a) } else s1
    | none => s)
/-- A packet of a type that the queue does not accept, or a refused one, is consumed with an ILLFMT record (R326). -/
def State.refusePacket (s : State) (c : Nat) (a : W64) (q : QView) (slot : W64) : State :=
  (s.takePacket c a q).logPlain c 0 slot 0 cILLFMT 0
/-- The device takes packets from this queue of the context (R330, R401). -/
def State.serves (s : State) (c : Nat) (a : W64) (copy : Bool) : Bool :=
  let x := s.ctx c
  s.ctxs.any (·.id == c) && !x.stopped && (if copy then x.copyQueues else x.dispatchQueues).contains a
    && (copy || !(s.launches.any (fun l => l.ctx == c && l.queue == a && !l.unplaced.isEmpty)))
/-- A dispatch queue that is served and holds a packet that need not wait for a graph run to end (R330, R350). -/
def State.holdsPacket (s : State) (q : Nat × W64) : Bool :=
  s.serves q.1 q.2 false && match s.peek q.1 q.2 with
    | some (_, p, _) => !(cpF p 7 0 == 3 && cpF p 511 192 == 0 && cpF p 63 12 == 0
        && decide (Config.graphsPerContext ≤ (s.runs.filter (·.ctx == q.1)).length))
    | none => false
/-- The dispatch queues of all contexts in the order of the root's next turn (R330). -/
def State.dispatchOrder (s : State) : List (Nat × W64) :=
  let l := s.ctxs.flatMap (fun c => c.dispatchQueues.map (fun a => (c.id, a)))
  match s.lastQueue with
  | none => l
  | some q => l.drop (l.idxOf q + 1) ++ l.take (l.idxOf q + 1)
/-- The device takes a packet from this queue now: from a dispatch queue when no other that holds one comes first (R330). -/
def State.mayTake (s : State) (c : Nat) (a : W64) (copy : Bool) : Bool :=
  s.serves c a copy && (copy || (s.dispatchOrder.takeWhile (· != (c, a))).all (fun q => !s.holdsPacket q))

/-- LAUNCH_PACKET: the packet at the head of a dispatch queue, unless it is a graph-run packet, is taken (R328). -/
def execLaunchPacket (ctx : Nat) (queue : W64) (s : State) : Host.Outcome State Fault Refusal :=
  .next (if !s.mayTake ctx queue false then s else
    match s.peek ctx queue with
    | none => s
    | some (q, p, slot) =>
      match cpF p 7 0 with
      | 3 => s
      | 1 =>
        let n := cpF p 95 64 + 1
        let s1 := s.takePacket ctx queue q
        if s.launchOk ctx p n then s1.createLaunch ctx p n (cpF p 11 8) (BitVec.ofNat 64 (cpF p 255 192)) queue none none
        else s1.failLaunch ctx p slot
      | _ => s.refusePacket ctx queue q slot)

/-- GRAPH_RUN_PACKET: a graph-run packet has the effect of GRAPHRUN (R329, R350). DESIGN CHOICE (log 112): one with a non-zero
reserved bit is refused, as a launch or a copy packet is; one whose entry is misaligned writes an ALIGN record and starts no
run, and its counter is not decremented. -/
def execGraphRunPacket (ctx : Nat) (queue : W64) (s : State) : Host.Outcome State Fault Refusal :=
  .next (if !s.mayTake ctx queue false then s else
    match s.peek ctx queue with
    | none => s
    | some (q, p, slot) =>
      if cpF p 7 0 ≠ 3 then s
      else if cpF p 511 192 ≠ 0 ∨ cpF p 63 12 ≠ 0 then s.refusePacket ctx queue q slot
      else if Config.graphsPerContext ≤ (s.runs.filter (·.ctx == ctx)).length then s
      else
        let a := BitVec.ofNat 64 (cpF p 127 64)
        let s1 := s.takePacket ctx queue q
        if a.toNat % 128 ≠ 0 then s1.logPlain ctx 0 a 0 cALIGN 1
        else
          let r : GraphRun := ⟨s1.fresh, ctx, a, BitVec.ofNat 64 (cpF p 191 128), cpF p 11 8, [a], [], [a], [], none⟩
          { s1.bump with runs := s1.runs ++ [r] })

/-- The index array of a packet from a copy queue, read by the device (R343, R442). -/
def gatherDevice (s : State) (c : Nat) (k : Copy) : Except FaultInfo (List Nat) :=
  if k.kind ≠ 2 then .ok [] else
  if k.sstr.toNat % 4 ≠ 0 then .error ⟨cALIGN, k.sstr, 0, 1, none⟩ else
  s.idxEntries ((List.range k.rows).map (fun e => s.globalLoc c (k.sstr + BitVec.ofNat 64 (4 * e)) 4 accRead.device))
/-- A copy without an issuer is issued; `none` when the table has no room for it (R214, R346). One that fails a check at its
issue has left its queue: a KIND 2 record is written and its counter is not decremented (DESIGN CHOICE, log 112). -/
def State.issueCopy (s : State) (c : Nat) (k : Copy) (pkt : BitVec 512) : Option State :=
  match gatherDevice s c k with
  | .error f => some (s.devFail c 0 f (.gather c pkt))
  | .ok idx =>
    let k1 := { k with idx := idx }
    match s.engCheck 0 c k1.ranges with
    | .error f => some (s.logPlain c 0 f.va f.aux f.cause f.acc 2)
    | .ok _ =>
      if !s.rangeRoom k1.ranges then none
      else some (s.register { EngOp.blank with id := s.fresh, kind := .copy k1, ctx := c } k1.ranges)
/-- COPY_QUEUE_PACKET (R330, R343, R346). -/
def execCopyQueuePacket (ctx : Nat) (queue : W64) (s : State) : Host.Outcome State Fault Refusal :=
  .next (if !s.mayTake ctx queue true then s else
    match s.peek ctx queue with
    | none => s
    | some (q, p, slot) =>
      match if cpF p 7 0 = 2 ∧ cpF p 15 14 ≠ 3 then copyOf s none (cpF p 15 14) p else none with
      | none => s.refusePacket ctx queue q slot
      | some k => ((s.takePacket ctx queue q).issueCopy ctx k p).getD s)

/-! ### Room on a core and reservations (R14, R334, R335) -/

/-- Kinds of room, in this order: strand slots, lane rows, register-file bytes, scratch bytes, tiles. -/
abbrev Room := List Nat
def roomAdd (a b : Room) : Room := (a.zip b).map (fun p => p.1 + p.2)
def groupNeed (s : State) (g : Group) : Room :=
  if g.lanes then [0, 1, 512 * (s.launchOf g.pen).regs, 0, 0] else [1, 0, 0, 0, 0]
def penNeed (p : Pen) : Room := [0, 0, 0, p.scsz, p.accn]
def State.roomUsed (s : State) (core : Nat) : Room :=
  let ps := s.pens.filter (fun p => p.core == some core && !p.saved)
  let gs := (s.coreGroups core).filter (fun g => match g.place with | .slot _ | .row _ => true | _ => false)
  (gs.map (groupNeed s)).foldl roomAdd ((ps.map penNeed).foldl roomAdd [0, 0, 0, 0, 0])
def roomTotal : Room := [Config.strandSlots, Config.laneRows, Config.regFileBytes, Config.scratchBytes, Config.tilesPerCore]
/-- The kinds of room of which a core has too little free for a need. -/
def State.full (s : State) (core : Nat) (need : Room) : List Nat :=
  (List.range 5).filter (fun k => roomTotal.getD k 0 < (s.roomUsed core).getD k 0 + need.getD k 0 && decide (need.getD k 0 ≠ 0))
/-- A need of lane rows where strands of the core wait for one: each row that falls free is theirs (R22, R56; log 109). -/
def State.rowClaimed (s : State) (core : Nat) (need : Room) : Bool := decide (need.getD 1 0 ≠ 0) && !(s.rowWaiters core).isEmpty
/-- The kinds of room that a need lacks on a core. -/
def State.lacks (s : State) (core : Nat) (need : Room) : List Nat :=
  (List.range 5).filter (fun k => (s.full core need).contains k || (k == 1 && s.rowClaimed core need))

def Member.eff (m : Member) : Nat := min 15 (m.prio + m.aged)
/-- A reservation of a member of higher effective priority keeps the room (R334). -/
def State.reserved (s : State) (m : Member) (core : Nat) (need : Room) : Bool :=
  s.reservations.any (fun r => r.member != m.id && r.core == core && r.lacks.any (fun k => decide (need.getD k 0 ≠ 0))
    && s.members.any (fun x => x.id == r.member && decide (m.eff < x.eff)))
/-- What a member needs on each core. -/
def State.fits (s : State) (m : Member) (needs : List (Nat × Room)) : Bool :=
  needs.all (fun n => (s.lacks n.1 n.2).isEmpty && !s.reserved m n.1 n.2)

/-! ### Saving and seating (R240, R300, R336, R337, R402) -/

/-- The access of a WAITA at restore, with the stacks of the thread's own launch (R189, R240). -/
def State.monitorLoc (s : State) (g : Group) (t : Thread) (m : Monitor) : Except FaultInfo Loc :=
  s.accessOf (s.threadLaunch t) g.pen t.lo t.hwm m.space m.ea 8 accWaita 8
/-- A WAITA's test at restore: the status with which the wait ends, if it does (R240). -/
def State.waitaTest (s : State) (g : Group) (t : Thread) (m : Monitor) : Option W64 :=
  match s.monitorLoc g t m with
  | .error _ => some 3
  | .ok l =>
    if s.readLoc l 8 ≠ m.b.toNat then some 3
    else if t.wto ≠ 0 ∧ m.start + t.wto.toNat * 1000 ≤ s.clk then some 2 else none
/-- A group is seated on the core of its pen; waits are taken up again: WAITA reads its location, and windows go on from
where they stood when it was saved (R24, R56, R240). -/
def State.seat (s : State) (gid : Nat) : State :=
  let g := s.group gid
  let core := (s.pen g.pen).core.getD 0
  let place := if g.lanes then (s.freeRow g.pen).map Place.row else (s.freeSlots core).head?.map Place.slot
  match place with
  | none => s
  | some p =>
    let cyc := s.cycles (dieOfCore core)
    let wake := fun (t : Thread) =>
      match t.status with
      | .splice k n => { t with status := .splice (cyc - (g.savedAt - k)) n }
      | .conv k n => { t with status := .conv (cyc - (g.savedAt - k)) n }
      | .waita m =>
        (match s.waitaTest g t m, s.monitorLoc g t m with
         | none, .ok l => { t with status := .waita { m with loc := l, order := s.fresh } }
         | r, _ => t.endWaita (r.getD 3))
      | _ => t
    s.bump.updGroup gid (fun x => { x with place := p, threads := x.threads.map wake, placedAt := s.now })
/-- Barrier waits are tested again after a restore (R245). -/
def State.retestBars (s : State) (gid : Nat) : State :=
  ((s.group gid).threads.map Thread.lane).foldl (fun x l => x.retestBar gid l) s
def State.seatAll (s : State) (gs : List Nat) : State := gs.foldl (fun x g => (x.seat g).retestBars g) s

/-- The groups that are placed with their pen: saved, and no ready member of their own. -/
def State.penGroups (s : State) (pen : Nat) : List Group :=
  s.groups.filter (fun g => g.pen == pen && g.place == .saved
    && !(s.members.any (fun m => match m.kind with | .group k _ => k == g.id | _ => false)))
def State.teamPens (s : State) (launch vy : Nat) : List Pen :=
  s.pens.filter (fun p => p.launch == launch && p.vcore / (s.launch launch).c == vy)
/-- Cores of physical yard k, which is yard k mod 9 of die k / 9. -/
def yardCore (k m : Nat) : Nat := k * Config.coresPerYard + m
/-- What a yard team needs of each core of a physical yard: member m goes on core m, where R336 names no core (log 66). -/
def State.teamNeeds (s : State) (launch vy yard : Nat) : List (Nat × Room) :=
  (s.teamPens launch vy).map (fun p =>
    (yardCore yard (s.member p), ((s.penGroups p.id).map (groupNeed s)).foldl roomAdd (penNeed p)))

/-- A group of a task in its first dispatch latches $role (R354). -/
def State.latchRole (s : State) (gid : Nat) : State :=
  let g := s.group gid
  let r := roleOf (s.launchOf g.pen) (s.pen g.pen)
  s.updGroup gid (fun x => { x with threads := x.threads.map (fun t => { t with role := r }) })
def State.dropMember (s : State) (m : Nat) : State :=
  { s with members := s.members.filter (fun x => x.id != m), reservations := s.reservations.filter (fun r => r.member != m) }

/-- The yard team is placed on a physical yard, whole; its arrivals at a hitch are made again (R300, R336). -/
def State.placeTeam (s : State) (m : Member) (launch vy yard : Nat) (first : Bool) : State :=
  let ps := s.teamPens launch vy
  let gs := ps.map (fun p => (s.penGroups p.id).map Group.id)
  let s1 := ps.foldl (fun x p => x.updPen p.id (fun q => { q with
    core := some (yardCore yard (s.member p)), saved := false, placedAt := s.now
    hitch := q.hitch.map (fun h => { h with since := s.clk }) })) (s.dropMember m.id)
  let s2 := s1.seatAll gs.flatten
  let s3 := if first then gs.flatten.foldl State.latchRole s2 else s2
  let s4 := s3.updLaunch launch (fun l => { l with unplaced := l.unplaced.filter (· != vy) })
  match ps with
  | [] => s4
  | p :: _ => (s4.tryHitch p.id).tryFinish launch

/-- A saved thread is ready to run: it may be selected, or the test that its restore makes of its wait would end the wait; a
window counts as over once its cycles have passed (R334, R337). -/
def State.threadReady (s : State) (g : Group) (t : Thread) : Bool :=
  let c := s.ctxOf g.pen
  match t.status with
  | .resume => true
  | .ready => s.runnable c t || t.pend.any (fun p => match p.queue with
      | some a => (match s.queue c a false accRmw with | .ok q => !q.h.empty | .error _ => true)
      | none => false)
  | .splice k _ | .conv k _ => decide (k + (s.pen g.pen).spw.toNat ≤ s.cycles (s.penDie g.pen))
  | .waita m => (s.waitaTest g t m).isSome
  | .bar l ea p _ _ _ => (match s.barRead l ea with | .ok b => decide (b.phase ≠ p.toNat) | .error _ => true)
  | .ring n claim _ => let r := s.ring g.pen n; ringCnt r.cfg = 0 || (if claim then r.claim else r.take).isSome
  | .push a _ _ => (match s.queue c a true accRmw with | .ok q => !q.h.full | .error _ => true)
  | _ => false
/-- A group has a thread that is ready to run; one that waits for room in the middle of a clause is ready once the event that
ends its wait has come, and at once where no event does (R22, R180, R350, R358). -/
def State.groupReady (s : State) (g : Group) : Bool :=
  match g.stall with
  | some .queue | some .range | some .bin => false
  | some _ => true
  | none => g.run.isSome || (s.convNext g).isSome || (g.lanes && g.foldReady.isSome) || g.alive.any (s.threadReady g)
/-- Groups of a resident pen that have been evicted, and teams that have been saved, become ready members when a thread of
theirs is ready to run, or a task is to join a pen of the team, or an operation that needs it resident stands in its queue
(R295, R334, R335). -/
def State.enlist (s : State) : State :=
  let listed := fun (k : MemberKind) => s.members.any (fun m => m.kind == k)
  let own := fun (g : Group) => s.members.any (fun m => match m.kind with | .group k _ => k == g.id | _ => false)
  let gs := s.groups.filter (fun g => g.place == .saved && !(s.pen g.pen).saved && !own g && s.groupReady g)
  let wants := fun (p : Pen) => s.groups.any (fun g => g.pen == p.id && g.place == .saved && (own g || s.groupReady g))
    || s.ops.any (fun o => o.pen == some p.id && o.kind.isMatrix)
  let ts := ((s.pens.filter (fun p => p.saved && wants p)).map (fun p => (p.launch, p.vcore / (s.launch p.launch).c))).dedup.filter
    (fun k => !listed (.pens k.1 k.2) && !listed (.team k.1 k.2))
  ts.foldl (fun x k => x.addMember (.pens k.1 k.2) (s.launch k.1).prio)
    (gs.foldl (fun x g => x.addMember (.group g.id false) (s.groupPrio g)) s)
/-- A group is saved into its pen's image; it becomes a ready member when it is ready to run (R334, R337). -/
def State.evict (s : State) (gid : Nat) : State :=
  let cyc := s.cycles (s.penDie (s.group gid).pen)
  (s.updGroup gid (fun x => { x with place := .saved, yielded := false, savedAt := cyc })).enlist
/-- An engine operation that keeps no progress record restarts at restore (R295). -/
def EngOp.stopped (o : EngOp) : EngOp :=
  match o.kind with
  | .mma _ | .copy _ | .stage _ => o
  | _ => { o with started := false, bad := none }
/-- The staging of a task that is evicted before its dispatch is cancelled, and begins again later (R359). -/
def State.unstage (s : State) (task : Nat) : State :=
  let t := s.task task
  ((s.cancelStaging task).updCtx (s.launch t.launch).ctx (fun x => { x with staged := x.staged - (t.staged + t.scrStaged) })).updTask task
    (fun k => { k with staged := 0, scrStaged := 0, begun := false, home := none, jobs := [] })
/-- Tasks that wait for their first dispatch in one of the pens. -/
def State.freshTasks (s : State) (ps : List Nat) : List Nat :=
  (s.members.flatMap (fun m => match m.kind with
    | .group g true => if ps.contains (s.group g).pen then (s.group g).alive.map Thread.task else []
    | _ => [])).dedup
/-- A yard team is saved whole (R336, R402). -/
def State.saveTeam (s0 : State) (launch vy : Nat) : State :=
  let ps := (s0.teamPens launch vy).map Pen.id
  let s := (s0.freshTasks ps).foldl State.unstage s0
  let s1 := { s with
    pens := s.pens.map (fun (p : Pen) => if ps.contains p.id then { p with core := none, saved := true } else p)
    groups := s.groups.map (fun (g : Group) => match g.place with
      | .slot _ | .row _ => if ps.contains g.pen then { g with place := .saved, savedAt := s.cycles (s.penDie g.pen) } else g
      | _ => g)
    ops := s.ops.map (fun (o : EngOp) => match o.pen with | some p => if ps.contains p then o.stopped else o | none => o) }
  s1.enlist
/-- PEN_SAVE: the pen is saved with its team (R402). -/
def execPenSave (pen : Nat) (s : State) : Host.Outcome State Fault Refusal :=
  let p := s.pen pen
  .next (if p.saved || p.core.isNone then s else s.saveTeam p.launch (p.vcore / (s.launch p.launch).c))

/-! ### Staging before dispatch (R357, R358) -/

def Decl.bytes (d : Decl) : Nat := declLen d.word
/-- The scratch-bound declarations of the task have been staged: it may be dispatched. Shed staging delays no dispatch (R357). -/
def State.stagedFor (s : State) (task : Nat) : Bool :=
  ((s.task task).begun || !((s.task task).decls.any (fun d => declScr d.word)))
    && !((s.task task).jobs.any (fun j => declScr j.1.word)) && !(s.ops.any (fun o => o.task == some task && o.dest.isNone && match o.kind with | .stage d => declScr d.word | _ => false))
/-- The die of a task for which none is chosen yet: that of its pen when it has a place, else the one preferred (R357). -/
def State.homeDie (s : State) (c : Nat) (pens : List Nat) : Nat :=
  match (pens.map s.pen).find? (fun p => p.core.isSome) with
  | some p => dieOfCore (p.core.getD 0)
  | none => s.stagingDie c
/-- One declaration is staged for a pen, as an engine operation, or dropped (R213, R357; log 32). -/
def State.stageOne (s : State) (c : Nat) (t : Task) (die pen : Nat) (d : Decl) : State :=
  let shed := !declScr d.word
  if shed && ((s.ctx c).budget == 0 || (s.ctx c).shed.getD die 0 == 0) then s
  else match s.engCheck pen c (declRanges d) with
    | .error f => s.logPlain c t.launch f.va f.aux f.cause f.acc 2
    | .ok _ =>
      let n := s.stageBytes c d.word
      let s1 := s.register { EngOp.blank with id := s.fresh, kind := .stage d, ctx := c, launch := t.launch, pen := some pen, task := some t.id } (declRanges d)
      (s1.updCtx c (fun x => { x with staged := x.staged + n })).updTask t.id (fun k =>
        if shed then { k with staged := k.staged + n } else { k with scrStaged := k.scrStaged + n })
/-- The declarations of a task that wait are staged in order, for as long as the table has room for the next (R214, R357). -/
def State.stageJobs (s : State) (c task : Nat) : List (Decl × Nat) → State
  | [] => s.updTask task (fun k => { k with jobs := [] })
  | j :: js =>
    if !s.rangeRoom (declRanges j.1) then s.updTask task (fun k => { k with jobs := j :: js })
    else
      let t := s.task task
      (s.stageOne c t (t.home.getD 0) j.2 j.1).stageJobs c task js
/-- STAGING_TRANSFER: the staging of a ready task begins once its bytes fit the budget, and goes on as the table has room
(R214, R357, R358). -/
def execStagingTransfer (task : Nat) (s : State) : Host.Outcome State Fault Refusal :=
  let t := s.task task
  let c := (s.launch t.launch).ctx
  let pens := s.taskPens t
  let jobs := t.decls.flatMap (fun d => (if declScr d.word then pens else pens.take 1).map (fun p => (d, p)))
  .next (if !t.jobs.isEmpty then s.stageJobs c task t.jobs
    else if t.decls.isEmpty || t.begun || pens.isEmpty || !s.stageFits c (jobs.map (fun j => j.1.bytes)).sum then s
    else (s.updTask task (fun k => { k with begun := true, home := some (t.home.getD (s.homeDie c pens)) })).stageJobs c task jobs)
/-- At the dispatch of a task its scratch-bound bytes are no longer counted (R358), and no later end cancels its staging (R359). -/
def State.dispatched (s : State) (task : Nat) : State :=
  let t := s.task task
  (s.updCtx (s.launch t.launch).ctx (fun x => { x with staged := x.staged - t.scrStaged })).updTask task (fun k => { k with scrStaged := 0, ran := true })

/-! ### Dispatch, drops and evictions (R334 to R338, R362) -/

/-- The test of R362 against the die scheduler's local key. -/
def State.dropTest (s : State) (die : Nat) (t : Task) : Bool :=
  t.cell.v && decide (((s.cell t.cell.cell.toNat).localKey s.now (.die die)).toInt ≤ t.cell.bound.toInt)
/-- Bounded tasks of a group that are dropped run nothing and end (R323, R362). -/
def State.dropTasks (s : State) (die gid : Nat) : State :=
  let ts := (s.group gid).alive.map Thread.task
  let bad := ((ts.map s.task).filter (fun (t : Task) => s.dropTest die t)).dedup
  bad.foldl (fun x t =>
    let x1 := x.updCell t.cell.cell.toNat (fun k => { k with drops := k.drops + 1 })
    ((x1.cancelStaging t.id).updGroup gid (fun g => { g with threads := g.threads.filter (fun u => u.task != t.id) })).endTask t) s

/-- No thread of the group is runnable. -/
def State.groupIdle (s : State) (g : Group) : Bool := g.run.isNone && (g.stall.isSome || (s.select g).isEmpty)
/-- The pen may lose single groups: it is no part of a team of two or more pens, and of no gang (R336). -/
def State.mayEvict (s : State) (g : Group) : Bool := g.resident s && (s.launchOf g.pen).c == 1 && (s.pen g.pen).gangMask == 0
/-- Groups of a core that a member may evict, of lower effective priority, in the order of R337. -/
def State.victims (s : State) (m : Member) (core : Nat) : List Group :=
  let gs := (s.coreGroups core).filter (fun g =>
    s.mayEvict g && decide (s.groupPrio g < m.eff))
  sortBy (fun g => if s.groupIdle g then 0 else 1) (sortBy s.groupPrio (sortBy (fun g => s.now - g.placedAt) gs))
/-- Evict groups that free room of a kind lacking, until nothing of those kinds lacks, and strands that wait for the lane rows
needed. -/
def State.evictGroups (s : State) (m : Member) (n : Nat × Room) : State :=
  (s.victims m n.1).foldl (fun x g =>
    let frees := (x.full n.1 n.2).any (fun k => decide ((groupNeed x g).getD k 0 ≠ 0))
    let claims := x.rowClaimed n.1 n.2 && (x.rowWaiters n.1).any (fun w => w.1 == g.id)
    if frees || claims then x.evict g.id else x) s
/-- Teams with a pen on a core that holds scratch or tiles a member lacks there, in the same order (R337). -/
def State.evictTeams (s : State) (m : Member) (n : Nat × Room) : State :=
  let idle := fun (p : Pen) => (s.groups.filter (fun g => g.pen == p.id && g.resident s)).all s.groupIdle
  let ps := sortBy (fun p => if idle p then 0 else 1) (sortBy (fun p => (s.launch p.launch).prio) (sortBy (fun p => s.now - p.placedAt)
    (s.pens.filter (fun p => p.core == some n.1 && !p.saved && decide ((s.launch p.launch).prio < m.eff)))))
  ps.foldl (fun x p =>
    if (x.lacks n.1 n.2).any (fun k => decide (3 ≤ k ∧ (penNeed p).getD k 0 ≠ 0)) && !(x.pen p.id).saved then x.saveTeam p.launch (p.vcore / (x.launch p.launch).c) else x) s
/-- Whole pens first, where scratch or tiles lack: what they free may leave no single group to evict (R337). -/
def State.makeRoom (s : State) (m : Member) (needs : List (Nat × Room)) : State :=
  needs.foldl (fun x n => x.evictGroups m n) (needs.foldl (fun x n => x.evictTeams m n) s)

/-- The context of a member. -/
def State.memberLaunch (s : State) (m : Member) : Nat :=
  match m.kind with | .team l _ | .pens l _ => l | .group g _ => (s.pen (s.group g).pen).launch
/-- The yards in service of a die, with what a team needs there. -/
def State.teamTargets (s : State) (l v die : Nat) : List (Nat × List (Nat × Room)) :=
  ((List.range Config.yardsBuilt).filter (fun y => s.units.yards.getLsbD (9 * die + y))).map (fun y =>
    (9 * die + y, s.teamNeeds l v (9 * die + y)))
/-- The die preferred for the task of a team that is placed for the first time can take the team (R357). -/
def State.homeTakes (s : State) (m : Member) (l v die : Nat) : Bool :=
  match m.kind, (s.tasks.find? (fun t => t.launch == l && t.launchOwn)).bind Task.home with
  | .team _ _, some h => h != die && (s.teamTargets l v h).any (fun t => s.fits m t.2 || (s.makeRoom m t.2).fits m t.2)
  | _, _ => false
/-- Where a member may go on a die, with what it needs there: yards in service for a team, unless the die preferred for its
task has room for it, and the pen's core for a group. -/
def State.targets (s : State) (m : Member) (die : Nat) : List (Nat × List (Nat × Room)) :=
  match m.kind with
  | .team l v | .pens l v => if s.homeTakes m l v die then [] else s.teamTargets l v die
  | .group g _ =>
    let p := s.pen (s.group g).pen
    match p.core with
    | some k => if !p.saved && dieOfCore k == die then [(k, [(k, groupNeed s (s.group g))])] else []
    | none => []
/-- The tasks that must have been staged before a member is dispatched. -/
def State.stagingDone (s : State) (m : Member) : Bool :=
  match m.kind with
  | .team l _ => (s.tasks.filter (fun t => t.launch == l && t.launchOwn)).all (fun t => s.stagedFor t.id)
  | .group g true => (s.group g).alive.all (fun t => s.stagedFor t.task)
  | _ => true
/-- The member takes its place. -/
def State.settleMember (s : State) (m : Member) (target die : Nat) : State :=
  match m.kind with
  | .team l v => (s.tasks.filter (fun t => t.launch == l && t.launchOwn)).foldl (fun x t => x.dispatched t.id) (s.placeTeam m l v target true)
  | .pens l v => s.placeTeam m l v target false
  | .group g fresh =>
    let s1 := if fresh then s.dropTasks die g else s
    if (s1.group g).threads.isEmpty then { s1.dropMember m.id with groups := s1.groups.filter (fun x => x.id != g) }
    else
      let s2 := (s1.dropMember m.id).seatAll [g]
      if fresh then ((s1.group g).alive.map Thread.task).foldl State.dispatched (s2.latchRole g) else s2

/-- Place the member on the die if it fits, after evictions if they make room; else reserve room when it first fails. -/
def State.tryPlace (s : State) (m : Member) (die : Nat) : State × Bool :=
  if (s.ctx (s.launch (s.memberLaunch m)).ctx).stopped || !s.stagingDone m then (s, false) else
  let ts := s.targets m die
  match ts.find? (fun t => s.fits m t.2) with
  | some t => (s.settleMember m t.1 die, true)
  | none =>
    match ts.find? (fun t => (s.makeRoom m t.2).fits m t.2) with
    | some t => ((s.makeRoom m t.2).settleMember m t.1 die, true)
    | none =>
      match ts with
      | t :: _ =>
        if m.tried then (s, false) else
        let rs := t.2.map (fun n => ({ member := m.id, core := n.1, lacks := s.lacks n.1 n.2, until' := s.clk + 100000 } : Reservation))
        ({ s with members := s.members.map (fun x => if x.id == m.id then { x with tried := true } else x)
                  reservations := s.reservations ++ rs }, false)
      | [] => (s, false)
/-- PLACE_MEMBER: the die scheduler goes through the ready members in order of effective priority, the longest ready
first among equals, and places the first that fits (R334). -/
def execPlaceMember (die : Nat) (s0 : State) : Host.Outcome State Fault Refusal :=
  let s := s0.enlist
  let ms := sortBy (fun m => 15 - m.eff) (sortBy Member.since s.members)
  .next (if 4 ≤ die then s0 else
    (ms.foldl (fun (x : State × Bool) m => if x.2 then x else x.1.tryPlace m die) (s, false)).1)

/-- At a YIELD, the group is evicted when a ready member of equal or higher effective priority does not fit on the core
(R338). -/
def State.yieldEvict (s0 : State) (gid : Nat) : State :=
  let s := s0.enlist
  let g := s.group gid
  let core := (s.pen g.pen).core.getD 0
  let presses := fun (m : Member) =>
    decide (s.groupPrio g ≤ m.eff) && !(s.ctx (s.launch (s.memberLaunch m)).ctx).stopped && s.stagingDone m
      && (s.targets m (dieOfCore core)).any (fun t => t.2.any (fun n => n.1 == core && !(s.lacks core n.2).isEmpty))
  if g.yielded && g.run.isNone && !g.alive.isEmpty && s.mayEvict g && s.members.any presses then s.evict gid else s0
/-- YIELD: the word's own effect, and the eviction once its clause has ended (R164, R338). -/
def execYield (x : FmtA) (s : State) : Host.Outcome State Fault Refusal :=
  match yieldWord x s, s.cur with
  | .next t, some gid => .next (t.yieldEvict gid)
  | r, _ => r

/-- PEN_RESTORE: a saved team is restored on a physical yard that has room for it (R240, R336). -/
def execPenRestore (pen yard : Nat) (s : State) : Host.Outcome State Fault Refusal :=
  let p := s.pen pen
  let vy := p.vcore / (s.launch p.launch).c
  .next (match s.members.find? (fun m => m.kind == .pens p.launch vy) with
    | none => s
    | some m =>
      if 36 ≤ yard || !s.units.yards.getLsbD yard || !s.fits m (s.teamNeeds p.launch vy yard) then s
      else s.placeTeam m p.launch vy yard false)

/-- RESERVATION_EXPIRY (R334). -/
def execReservationExpiry (member : Nat) (s : State) : Host.Outcome State Fault Refusal :=
  .next { s with reservations := s.reservations.filter (fun r => !(r.member == member && decide (r.until' ≤ s.clk))) }
/-- PRIORITY_AGING: one more whole millisecond has passed (R334). -/
def execPriorityAging (member : Nat) (s : State) : Host.Outcome State Fault Refusal :=
  .next { s with members := s.members.map (fun m =>
    if m.id == member && decide (m.since + (m.aged + 1) * 1000000 ≤ s.clk) && decide (m.eff < 15) then { m with aged := m.aged + 1 } else m) }
/-- CORE_WAKE: the arithmetic clock of a gated core restarts, which changes no value and no order (R332; log 15). -/
def execCoreWake (_core : Nat) (s : State) : Host.Outcome State Fault Refusal := .next s

end Sys2Proof.Machine
end

