-- ==== Sys2Proof/Machine/Device.lean ====
section
/-! DEFINITION. Acts of the device and of Turjo on behalf of contexts: fault service, stopped contexts, counter
actions, continuations, graphs, the Pipeline Governor, write-backs, shoot-downs and samples (R53 to R55, R204, R225,
R341, R348 to R351, R354, R355, R389, R394, R401, R437 to R439, R442). -/

namespace Sys2Proof.Machine

/-! ### Fault service (R394) -/

/-- A store that Turjo makes to physical memory, which is less than a line: it is not performed where the line holds an
uncorrectable error or cannot hold data (R223, R226, R431). -/
def State.sysWrite (s : State) (w : SysStore) : State := if s.sound w.pa 8 then s.writeLoc (.phys w.pa) 8 w.value.toNat else s
def State.sysStores (s : State) (l : List SysStore) : State := l.foldl State.sysWrite s
/-- A registered range covers the line of the access that raised RLOCK (R394). -/
def State.lineCovered (s : State) (p : Parked) : Bool :=
  match p.loc with
  | some (.phys pa) => s.locked (.phys (pa / 128 * 128)) 128 true
  | some (.scr pen off) => s.locked (.scr pen (off / 128 * 128)) 128 true
  | none => false

/-- A record of Turjo's shoot-down log (R438). -/
def shootRecord (lo hi : W64) (ctx : Nat) (pid : W32) (stall : W64) (time done sysc kind : Nat) : BitVec 512 :=
  lo ++ hi ++ BitVec.ofNat 32 ctx ++ pid ++ stall ++ BitVec.ofNat 64 time ++ BitVec.ofNat 64 done ++ (0 : BitVec 112)
    ++ BitVec.ofNat 8 sysc ++ BitVec.ofNat 8 kind
/-- An edit of page-table entries that is about to be made is logged, with the words that the stores replace (R204, R438). -/
def State.noteEdit (s : State) (ctx : Nat) (lo hi : W64) (stores : List SysStore) (sysc : Nat) : State :=
  let words := (stores.flatMap (fun w => [w.pa / 8 * 8, (w.pa + 7) / 8 * 8])).dedup
  { s.bump with
    shoots := s.shoots ++ [⟨s.fresh, ctx, lo, hi, words.map (fun a => (⟨a, s.tableWord a⟩ : SysStore)), sysc, s.now, none⟩]
    shootLog := s.shootLog ++ [shootRecord lo hi ctx (s.ctx ctx).pid 0 s.now 0 sysc 0] }
/-- Entries of a table, and bytes of address that one of them covers, by level (R200). -/
def tableLen (level : Nat) : Nat := match level with | 3 | 2 => 2 ^ 13 | 1 => 2 ^ 9 | _ => 2 ^ 5
def entrySpan (level : Nat) : Nat := match level with | 3 => 2 ^ 43 | 2 => 2 ^ 30 | 1 => 2 ^ 21 | _ => 2 ^ 16
/-- The first address of each entry that a store of 8 bytes at `pa` touches, in the table of a level that covers the
addresses from `base` on and in the tables below it, with what the entry covers (R200). -/
def State.entriesAt (s : State) (pa : Nat) : (level : Nat) → (table base : Nat) → List (Nat × Nat)
  | level, table, base =>
    let here := fun (a : Nat) => if table ≤ a ∧ a < table + 8 * tableLen level
      then [(base + (a - table) / 8 * entrySpan level, entrySpan level)] else []
    (here pa ++ here (pa + 7)).dedup ++
    match level with
    | 0 => []
    | l + 1 =>
      (((s.mem.map (fun c => c.1)).filter (fun a => decide (table ≤ a ∧ a < table + 8 * tableLen (l + 1)))).map
          (fun a => (a - table) / 8)).dedup.flatMap (fun k =>
        match entryAt (l + 1) (s.tableWord (table + 8 * k)) 0 with
        | some (.inr next) => s.entriesAt pa l next (base + k * entrySpan (l + 1))
        | _ => [])
/-- A store by Turjo: one into a translation table edits what its entry covers, for each context whose tables hold it (R204,
R438; log 54). -/
def State.sysStore (s : State) (w : SysStore) (sysc : Nat) : State :=
  let hits := s.ctxs.flatMap (fun c => (s.entriesAt w.pa 3 c.root 0).map (fun e => (c.id, e)))
  (hits.foldl (fun x h => x.noteEdit h.1 (BitVec.ofNat 64 h.2.1) (BitVec.ofNat 64 (h.2.1 + h.2.2)) [w] sysc) s).sysStores [w]
/-- An entry that was not valid is about to be made one: no access has used what was there, so that none can use it later
(R201, R204; log 91). -/
def State.fillsEntry (s : State) (w : SysStore) : Bool := decide (w.pa % 8 = 0) && !isSet (s.tableWord w.pa) 0
/-- Turjo stores what maps the page of an address when it serves a fault there: each store that edits an entry is logged as an
edit (R394, R438; log 91). -/
def State.mapEdit (s : State) (stores : List SysStore) (sysc : Nat) : State :=
  stores.foldl (fun x w =>
    let y := x.sysStore w sysc
    if x.fillsEntry w then { y with shoots := x.shoots } else y) s

/-- TURJO_SERVICE: Turjo maps or waits and resumes the thread, or forwards the record (R393, R394). -/
def execTurjoService (handle : Nat) (act : TurjoAct) (s : State) : Host.Outcome State Fault Refusal :=
  .next (match s.parked.find? (fun p => p.handle == handle && !p.forwarded) with
    | none => s
    | some p =>
      let cause := (bits p.record 7 0).toNat
      if !turjoFirst cause then s else
      match act with
      | .forward =>
        { s.logRecord p.ctx p.record with parked := (s.logRecord p.ctx p.record).parked.map (fun q => if q.handle == handle then { q with forwarded := true } else q) }
      | .resume stores raise sysc =>
        if cause = cPERM ∨ cause = cMEMERR ∨ (cause = cRLOCK ∧ s.lineCovered p) then s else
        let s1 := (s.mapEdit stores sysc).unpark handle
        if cause = cSTACKGROW then s1.updThread p.gid (p.lanes.headD 0) (fun t => { t with hwm := t.hwm + BitVec.ofNat 40 (65536 * raise) })
        else s1)

/-- CONTEXT_STOP by the debugger (R401). -/
def execContextStop (ctx : Nat) (s : State) : Host.Outcome State Fault Refusal := .next (s.stopCtx ctx)
/-- Every stopped thread of the context goes on; one stopped at an ASSERT, with the instruction after it (R401, R414).
While a thermal trip holds the package no context goes on (R435). -/
def State.resumeCtx (s : State) (c : Nat) : State :=
  if s.tripHold then s else
  (s.mapThreads (fun g t => if t.status == .asserted && s.ctxOf g.pen == c then { t with status := .ready } else t)).updCtx c
    (fun x => { x with stopped := false, thermal := false })
def execContextResume (ctx : Nat) (s : State) : Host.Outcome State Fault Refusal := .next (s.resumeCtx ctx)
/-- DEBUGGER_RESUME: a parked thread is resumed or killed (R389, R416). -/
def execDebuggerResume (handle : Nat) (kill : Bool) (s : State) : Host.Outcome State Fault Refusal :=
  .next (if s.parked.any (·.handle == handle) then (if kill then s.killParked handle else s.unpark handle) else s)

/-! ### Continuation records (R53 to R55, R347) -/

/-- A record as read: whether it is a lane group's, its lanes or range, and its saved registers. -/
structure ContRec where
  pc : W64
  lanes : Bool
  lmask : W64
  launch : Nat
  lo : Nat
  n : Nat
  ctx : Nat
  regs : Nat
  forms : Nat
  saved : Nat
  deriving DecidableEq, Repr
def contHead (m : Nat) : ContRec :=
  let f := fun (hi lo : Nat) => m / 2 ^ lo % 2 ^ (hi + 1 - lo)
  { pc := BitVec.ofNat 64 (f 63 0), lanes := f 241 240 = 1, lmask := BitVec.ofNat 64 (f 127 64), launch := f 159 128, lo := f 191 160, n := f 223 192 + 1
    ctx := f 447 416, regs := f 383 256, forms := f 415 384, saved := f 239 224 }
/-- The saved slots: register number and form code. -/
def ContRec.slots (r : ContRec) : List (Nat × Nat) :=
  ((List.range 16).filter (fun k => r.saved.testBit k)).map (fun k => (r.regs / 2 ^ (8 * k) % 256, r.forms / 2 ^ (2 * k) % 4))
/-- The checks of R55 that need the record alone: every CONT.FORMS value, saved or not, is one that the kind allows. -/
def ContRec.bad (r : ContRec) (m c : Nat) : Bool :=
  let form := fun (k : Nat) => r.forms / 2 ^ (2 * k) % 4
  decide (2 ≤ m / 2 ^ 240 % 4) || (List.range 16).any (fun k => form k == 3 || (!r.lanes && form k == 2)) || (r.lanes && r.lmask == 0)
    || r.ctx != c || bits r.pc 63 56 != 0
def slotLen (form : Nat) : Nat := if form = 2 then 512 else 16
/-- Offsets of the slots in the record. -/
def ContRec.offsets (r : ContRec) : List (Nat × Nat × Nat) :=
  (r.slots.foldl (fun (acc : List (Nat × Nat × Nat) × Nat) q => (acc.1 ++ [(q.1, q.2, acc.2)], acc.2 + slotLen q.2))
    ([], if r.lanes then 320 else 64)).1
def ContRec.length (r : ContRec) : Nat := (r.slots.map (fun q => slotLen q.2)).foldl (· + ·) (if r.lanes then 320 else 64)

/-- Device reads of n bytes of a record at a, which must be a multiple of 64, as one number (R442). -/
def State.devRead (s : State) (c : Nat) (a : W64) (n : Nat) : Except FaultInfo Nat := do
  if a.toNat % 64 ≠ 0 then throw ⟨cALIGN, a, 0, 1, none⟩
  let vs ← (List.range ((n + 63) / 64)).mapM (fun k => do
    let l ← s.globalLoc c (a + BitVec.ofNat 64 (64 * k)) 64 accRead.device
    return s.readLoc l 64)
  return pack 512 vs

/-- The word at the resume clause fails the checks of R62, on a Dzinum-2 page too (log 90); a page that cannot be fetched is
left to the thread (R55, R61). -/
def State.resumeBad (s : State) (c : Nat) (pc : W64) : Bool :=
  match s.globalLoc c pc 8 accFetch.device with
  | .error _ => false
  | .ok l => (decodeHeader (s.word l)).isNone

/-- The threads of a resumed record (R53, R54). Each lane draws its unsaved registers for itself, as the lanes of a launch do;
a strand's are one free value for each register (log 73). -/
def contThreads (l : Launch) (seed task : Nat) (r : ContRec) (m : Nat) : List Thread :=
  let byte := fun (o n : Nat) => m / 2 ^ (8 * o) % 2 ^ (8 * n)
  let base := fun (lo n lane : Nat) => newThread l (seed + lane) lo n lane task r.pc (!r.lanes) none
  let cells := fun (lane : Nat) (f : Nat → Nat → Form) =>
    r.offsets.foldl (fun (x : RegFile) q => x.set q.1 (f q.2.1 q.2.2)) (RegFile.free (seed + lane))
  if r.lanes then
    ((List.range 64).filter (fun k => r.lmask.getLsbD k)).map (fun k =>
      let v := fun (form o : Nat) => Form.u (match form with
        | 0 => BitVec.ofNat 64 (byte o 8)
        | 1 => BitVec.ofNat 64 (byte o 8 + byte (o + 8) 8 * k)
        | _ => BitVec.ofNat 64 (byte (o + 8 * k) 8))
      { base (byte (64 + 4 * k) 4) 1 k with regs := cells k v })
  else
    let v := fun (form o : Nat) => if form = 0 then Form.u (BitVec.ofNat 64 (byte o 8)) else Form.mk (BitVec.ofNat 64 (byte o 8)) (BitVec.ofNat 64 (byte (o + 8) 8))
    [{ base r.lo r.n 0 with regs := cells 0 v }]

/-- The record counts as a descendant that has ended as dropped (R55, R324). -/
def State.endRecord (s : State) (k : Cont) : State :=
  ({ s with conts := s.conts.filter (fun x => !(x.ctx == k.ctx && x.addr == k.addr)) }.updLaunch k.launch
    (fun l => { l with conts := l.conts.filter (· != k.addr) })).tryFinish k.launch
/-- A record that cannot be read: Turjo serves an XLATE, and the resumption is tried again; anything else is recorded with
the record's address, and the record is not resumed (R55, R442). -/
def State.contFail (s : State) (k : Cont) (f : FaultInfo) : State :=
  if f.cause = cXLATE then
    { s.bump with devWaits := s.devWaits ++ [⟨s.fresh, k.ctx, .resume k, f.va, f.acc⟩]
                  conts := s.conts.filter (fun x => !(x.ctx == k.ctx && x.addr == k.addr)) }
  else (s.logPlain k.ctx k.launch k.addr f.aux f.cause f.acc).endRecord k
/-- The record resumes as a new task of its launch, a ready member of the pen (R53, R54, R347). -/
def State.contGo (s : State) (k : Cont) (l : Launch) (pen : Nat) (r : ContRec) (whole : Nat) : State :=
  let id := s.fresh
  let task : Task := { Task.blank with id := id, launch := l.id, karg := l.karg, prio := l.prio }
  let s1 := { s.bump 66 with
    tasks := s.tasks ++ [task]
    groups := s.groups ++ [newGroup (id + 1) pen r.lanes (contThreads l (id + 2) id r whole)]
    conts := s.conts.filter (fun x => !(x.ctx == k.ctx && x.addr == k.addr)) }
  (s1.updLaunch k.launch (fun y => { y with conts := y.conts.filter (· != k.addr) })).addMember (.group (id + 1) true) l.prio
/-- CONTINUATION_RESUME: a record whose counter is zero and whose operations have completed resumes in a pen of its launch,
or fails the checks of R55 (R53 to R55, R347). One whose CONT.LAUNCH names no live launch of the context has no pen to go
to, and is treated as those that R55 lists (log 89). -/
def State.resumeCont (s : State) (k : Cont) (pen : Nat) : State :=
  match s.devRead k.ctx k.addr 64 with
  | .error f => s.contFail k f
  | .ok m =>
    let r := contHead m
    let home := s.launches.find? (fun l => l.id % 2 ^ 32 == r.launch && l.ctx == k.ctx)
    if r.bad m k.ctx || s.resumeBad k.ctx r.pc then (s.logPlain k.ctx k.launch k.addr 0 cILLFMT 0).endRecord k else
    match home, s.devRead k.ctx k.addr r.length with
    | none, _ => (s.logPlain k.ctx k.launch k.addr 0 cILLFMT 0).endRecord k
    | some _, .error f => s.contFail k f
    | some l, .ok whole => if s.pens.any (fun p => p.id == pen && p.launch == l.id) then s.contGo k l pen r whole else s
def execContinuationResume (ctx : Nat) (addr : W64) (pen : Nat) (s : State) : Host.Outcome State Fault Refusal :=
  .next (match s.conts.find? (fun k => k.ctx == ctx && k.addr == addr && k.zero && k.ops.isEmpty) with
    | none => s
    | some k => if (s.ctx ctx).stopped then s else s.resumeCont k pen)

/-! ### Actions of counters (R341) -/

/-- The queue address and the packet of a ready record: nine reads of 8 bytes, each aligned to its size (R168, R340, R442;
log 97). -/
def State.readyRecord (s : State) (c : Nat) (a : W64) : Except FaultInfo (W64 × BitVec 512) :=
  if a.toNat % 8 ≠ 0 then .error ⟨cALIGN, a, 0, accRead.acc, none⟩ else
  let ls := (0 :: (List.range 8).map (fun k => 64 + 8 * k)).map (fun o => s.globalLoc c (a + BitVec.ofNat 64 o) 8 accRead.device)
  match firstCause ls with
  | .error f => .error f
  | .ok _ =>
    let vs := ls.map (fun l => match l with | .ok x => s.readLoc x 8 | .error _ => 0)
    .ok (BitVec.ofNat 64 (vs.headD 0), BitVec.ofNat 512 (pack 64 (vs.drop 1)))
/-- The packet of a ready record is pushed; the action waits while the queue is full. -/
def State.pushAction (s : State) (id : Nat) : State :=
  match s.depActs.find? (·.id == id) with
  | none => s
  | some a =>
    let gone : State := { s with depActs := s.depActs.filter (fun x => x.id != id) }
    match s.readyRecord a.ctx a.addr with
    | .error f => gone.devFail a.ctx 0 f (.action a)
    | .ok (q, pkt) =>
      match s.queue a.ctx q true accRmw.device with
      | .error f => gone.devFail a.ctx 0 (if f.cause = cILLFMT then { f with va := q, acc := accRmw.acc } else f) (.action a)
      | .ok v => gone.actFor a.ctx (fun x => match x.pushTo v pkt with | some (s1, _) => s1 | none => s)
/-- DEP_ACTION_PUSH (R341). -/
def execDepActionPush (id : Nat) (s : State) : Host.Outcome State Fault Refusal := .next (s.pushAction id)

/-! ### The Graph Walker (R348 to R351) -/

/-- A run ends: GN.PEND of every node it reached is GN.NPRED again, and its counter is decremented (R350). A node whose record
cannot be accessed then is passed over, with no record, of which the manual says nothing (log 33). -/
def State.endRun (s : State) (r : GraphRun) : State :=
  let s1 := r.reached.foldl (fun x a =>
    match x.globalLoc r.ctx a 128 accRead.device with
    | .error _ => x
    | .ok l => match gnode (x.readLoc l 128) with | some n => x.actFor r.ctx (·.writeLoc (locAdd l 40) 8 n.npred) | none => x) s
  ({ s1 with runs := s1.runs.filter (fun x => x.id != r.id) } : State).devDec r.ctx 0 r.counter
def arrive (a : W64) : List W64 := if a = 0 then [] else [a]

/-- The effect of a node that fires (R349). -/
def State.fireNode (s : State) (r : GraphRun) (a : W64) (n : GNode) : Except FaultInfo State :=
  if n.kind = 0 then do
    let (cnt, karg) ←
      if n.hsel then do
        if n.hist.toNat % 128 ≠ 0 then throw ⟨cALIGN, n.hist, 0, 1, none⟩
        let l ← s.globalLoc r.ctx (n.hist + BitVec.ofNat 64 (16 + 16 * n.bin)) 16 accRead.device
        pure (s.readLoc l 8, BitVec.ofNat 64 (s.readLoc (locAdd l 8) 8))
      else pure (cpF n.pkt 95 64 + 1, BitVec.ofNat 64 (cpF n.pkt 255 192))
    let done := fun (x : State) => x.updRun r.id (fun y => { y with arrivals := y.arrivals ++ arrive n.succ0 ++ arrive n.succ1 })
    if cnt = 0 then return done (s.devDec r.ctx 0 (BitVec.ofNat 64 (cpF n.pkt 511 448)))
    else if !s.launchOk r.ctx n.pkt cnt then return done (s.failLaunch r.ctx n.pkt a)
    else
      return (s.createLaunch r.ctx n.pkt cnt r.prio karg 0 (some (r.id, a)) none).updRun r.id
        (fun y => { y with running := y.running ++ [(s.fresh, n.succ0, n.succ1)] })
  else do
    let l ← s.globalLoc r.ctx n.cond 8 accRead.device
    let next := if s.readLoc l 8 ≠ 0 then n.succ0 else n.succ1
    return s.updRun r.id (fun y => { y with arrivals := y.arrivals ++ arrive next })

/-- A walker read that is left unperformed ends the run; a failed translation waits for Turjo (R442). -/
def State.walkerFail (s : State) (r : GraphRun) (a : W64) (f : FaultInfo) : State :=
  if f.cause = cXLATE then { s.bump with devWaits := s.devWaits ++ [⟨s.fresh, r.ctx, .node r.id a, f.va, f.acc⟩] }
  else (s.logPlain r.ctx 0 f.va f.aux f.cause f.acc).endRun r

/-- Nodes of a resident graph from a list of nodes on, through the successors of each node record that can be read (R348).
A node that can be read lists a byte of memory, so that no graph has more of them than memory lists. -/
def State.graphFrom (s : State) (c : Nat) : (fuel : Nat) → (todo seen : List W64) → List W64
  | 0, _, seen => seen
  | _, [], seen => seen
  | f + 1, a :: as, seen =>
    if a == 0 || seen.contains a then s.graphFrom c f as seen else
    let next := match s.globalLoc c a 128 accRead.device with
      | .error _ => []
      | .ok l => match gnode (s.readLoc l 128) with | some n => [n.succ0, n.succ1] | none => []
    s.graphFrom c f (next ++ as) (a :: seen)
/-- The nodes of a running graph: those that the run has reached and those that it can still reach (R350; log 33). -/
def State.graphNodes (s : State) (r : GraphRun) : List W64 :=
  let from' := r.entry :: r.reached ++ r.ready ++ r.arrivals ++ r.running.flatMap (fun x => [x.2.1, x.2.2])
  s.graphFrom r.ctx (3 * from'.length + 4 * s.mem.length) from' []
/-- GRAPH_NODE_FIRE: a node that has fired takes effect, or an arrival at it is counted and fires it at zero. A node
of the graph of an earlier run waits until that run ends (R349, R350; log 33). The entry node of a GRAPHRUN fires by the
record that GRAPHRUN read (R372). -/
def State.graphFire (s : State) (rid : Nat) (a : W64) : State :=
  match s.runs.find? (·.id == rid) with
  | none => s
  | some r =>
    let fired := r.ready.contains a
    let blocked := (s.runs.takeWhile (fun x => x.id != rid)).any (fun x => x.ctx == r.ctx && (s.graphNodes x).contains a)
    if (!fired && !r.arrivals.contains a) || blocked || s.devWaits.any (fun w => w.acc == .node rid a) then s else
    if a.toNat % 128 ≠ 0 then s.walkerFail r a ⟨cALIGN, a, 0, 1, none⟩ else
    match s.globalLoc r.ctx a 128 accRead.device with
    | .error f => s.walkerFail r a f
    | .ok l =>
      let m := if fired then r.first.getD (s.readLoc l 128) else s.readLoc l 128
      match gnode m with
      | none => (s.logPlain r.ctx 0 a 0 cILLFMT 0).endRun r
      | some n =>
        let took := fun (x : State) => x.updRun rid (fun y =>
          if fired then { y with ready := y.ready.erase a, first := none } else { y with arrivals := y.arrivals.erase a, reached := (a :: y.reached).dedup })
        let pend := if r.reached.contains a then m / 2 ^ 320 % 2 ^ 64 else n.npred
        let left := (pend + (2 ^ 64 - 1)) % 2 ^ 64
        if !fired && decide (left ≠ 0) then took (s.actFor r.ctx (·.writeLoc (locAdd l 40) 8 left))
        else
          match s.fireNode r a n with
          | .error f => s.walkerFail r a f
          | .ok s1 => took (s1.actFor r.ctx (·.writeLoc (locAdd l 40) 8 n.npred))
def execGraphNodeFire (run : Nat) (node : W64) (s : State) : Host.Outcome State Fault Refusal := .next (s.graphFire run node)
/-- GRAPH_RUN_END: no node of the run is firing, running or ready (R350). -/
def execGraphRunEnd (run : Nat) (s : State) : Host.Outcome State Fault Refusal :=
  .next (match s.runs.find? (·.id == run) with
    | some r => if r.ready.isEmpty && r.running.isEmpty && r.arrivals.isEmpty then s.endRun r else s
    | none => s)

/-! ### Device accesses tried again (R442) -/

/-- What the record of an access that waits for Turjo names, once it is left unperformed: the address and the launch; of a
resumption, those of the record (R55, R442). -/
def DevWait.names (w : DevWait) : W64 × Nat := match w.acc with | .resume k => (k.addr, k.launch) | _ => (w.va, 0)
/-- DEVICE_ACCESS_RETRY: Turjo maps the page and the access is made again, or forwards it and it is left unperformed. -/
def execDeviceAccessRetry (id : Nat) (act : TurjoAct) (s : State) : Host.Outcome State Fault Refusal :=
  .next (match s.devWaits.find? (·.id == id) with
    | none => s
    | some w =>
      let s1 : State := { s with devWaits := s.devWaits.filter (fun x => x.id != id) }
      match act with
      | .resume stores _ sysc =>
        let s2 := s1.mapEdit stores sysc
        (match w.acc with
         | .decrement a => s2.devDec w.ctx 0 a
         | .action a => { s2 with depActs := s2.depActs ++ [a] }
         | .resume k => { s2 with conts := s2.conts ++ [k] }
         | .node _ _ => s2
         | .gather c pkt =>
           match copyOf s2 none 2 pkt with
           | some k => (s2.issueCopy c k pkt).getD s
           | none => s2)
      | .forward =>
        let s2 := s1.logPlain w.ctx w.names.2 w.names.1 0 cXLATE w.code
        (match w.acc with
         | .resume k => s2.endRecord k
         | .node r _ => (match s2.runs.find? (·.id == r) with | some x => s2.endRun x | none => s2)
         | _ => s2))

/-! ### The Pipeline Governor (R354, R355) -/

/-- Packets in a stage's queue; none when its header cannot be read or fails the check: such a stage is left out of the period
(R355 is silent; DESIGN CHOICE, log 106). -/
def State.occupancy (s : State) (c : Nat) (g : Stage) : Option Nat :=
  if g.queue = 0 then none else
  match s.globalLoc c g.queue 64 accRead.device with
  | .error _ => none
  | .ok l => (qHead (BitVec.ofNat 512 (s.readLoc l 64))).map (fun h => (h.write - h.read).toNat)
/-- The reassignment of one period, if there is one: unit and new role. -/
def govMove (stages : List (Nat × Stage × Nat)) (roles : List (Nat × Nat)) : Option (Nat × Nat) :=
  let units := fun (k : Nat) => (roles.filter (fun r => r.2 == k)).length
  let recv := sortBy (fun x => x.1) (stages.filter (fun x => decide (x.2.1.high < x.2.2 ∧ units x.1 < x.2.1.max)))
  let give := sortBy (fun x => x.1) (stages.filter (fun x => decide (x.2.2 < x.2.1.low ∧ x.2.1.min < units x.1)))
  let top := recv.foldl (fun m x => max m x.2.2) 0
  match recv.find? (fun x => x.2.2 == top), sortBy (fun x => x.2.2) give with
  | some t, g :: _ =>
    let us := (roles.filter (fun r => r.2 == g.1)).map (·.1)
    some (us.foldl max 0, t.1)
  | _, _ => none
/-- GOVERNOR_PERIOD: changes of GOVSET take effect, and at most one unit moves. -/
def execGovernorPeriod (launch : Nat) (s : State) : Host.Outcome State Fault Refusal :=
  .next (match s.launches.find? (·.id == launch) with
    | none => s
    | some l =>
      if !l.gov.set.enabled || decide (s.clk < l.gov.nextAt) then s else
      let l1 := match l.gov.want with | some w => l.govApply w | none => l
      let occ := (l1.gov.set.stages.filterMap (fun p => (s.occupancy l.ctx p.2).map (fun n => (p.1, p.2, n))))
      let l2 := if !l1.gov.set.enabled then l1 else
        match govMove occ l1.gov.roles with
        | some (u, r) => { l1 with gov := { l1.gov with roles := setAssoc l1.gov.roles u r, moves := l1.gov.moves + 1 } }
        | none => l1
      s.updLaunch launch (fun _ => { l2 with gov := { l2.gov with nextAt := s.clk + l2.gov.set.period * 1000 } }))

/-! ### Write-backs, shoot-downs, samples -/

/-- LOST_WRITEBACK: an uncorrectable error is found in a dirty line that is being written back from the L2 cache of a die, or
from its shed where the line stands there, by its last writer; any other event of that name is none (R225; log 34). -/
def execLostWriteback (line ctx die : Nat) (shed : Bool) (s : State) : Host.Outcome State Fault Refusal :=
  let place := match s.shedDie line with | some d => shed && d == die | none => !shed
  .next (if !s.poison.contains line || !s.writers.contains (line, ctx) || 4 ≤ die || !place then s else s.loseLine line ctx die shed)

/-- An engine operation that has still to access a page of the range by a translation that the new entries do not give: to
another address, or for an access that they do not permit (R202, R204). -/
def State.usesOld (s : State) (h : Shoot) (o : EngOp) : Bool :=
  o.ctx == h.ctx && o.pages.any (fun p => decide (h.lo.toNat < 65536 * p.1 + 65536 ∧ 65536 * p.1 < h.hi.toNat)
    && (match walk s.tableWord 3 (s.ctx h.ctx).root (65536 * p.1) with
        | none => true
        | some l => l.pa != p.2 || (!l.r && o.uses.contains (p.1, false)) || (!l.w && o.uses.contains (p.1, true))))
/-- What is left of an edit once a shoot-down of [lo, hi) has completed: the pages outside. -/
def Shoot.minus (e : Shoot) (lo hi : W64) : List Shoot :=
  if e.hi.toNat ≤ lo.toNat ∨ hi.toNat ≤ e.lo.toNat then [e] else
  (if e.lo.toNat < lo.toNat then [{ e with hi := lo }] else []) ++ (if hi.toNat < e.hi.toNat then [{ e with lo := hi }] else [])
/-- The edits and shoot-downs that remain once h has completed: it covers the edits made before it was issued (R204). -/
def shotDown (h : Shoot) : List Shoot → List Shoot
  | [] => []
  | x :: xs => if x.id == h.id then xs else
      (if x.logAt.isNone && x.ctx == h.ctx then x.minus h.lo h.hi else [x]) ++ shotDown h xs
/-- The record of a shoot-down with SD.STALL and SD.DONE filled (R438). -/
def shootDone (r : BitVec 512) (stall : W64) (done : Nat) : BitVec 512 :=
  bits r 511 320 ++ stall ++ bits r 255 192 ++ BitVec.ofNat 64 done ++ bits r 127 0
/-- SHOOTDOWN_COMPLETE: once every access that used an old translation has been performed, every access translates by the
new entries; the device fills SD.DONE and SD.STALL in the record made at the issue (R204, R438; log 1). -/
def execShootdownComplete (id : Nat) (s : State) : Host.Outcome State Fault Refusal :=
  .next (match s.shoots.find? (fun h => h.id == id && h.logAt.isSome) with
    | none => s
    | some h =>
      if s.ops.any (s.usesOld h) then s else
      let k := h.logAt.getD 0
      { s.bump with
        shoots := shotDown h s.shoots
        shootLog := s.shootLog.set k (shootDone (s.shootLog.getD k 0) (Config.freeWord s.fresh) s.now) })

/-- The thread has issued the instruction at an address, and it has not been written back: an operation that it owes, or a
wait (R439). -/
def Thread.holds (t : Thread) (pc : W64) : Bool :=
  t.pend.any (·.pc == pc) || match t.status with
    | .bar _ _ _ _ p _ => p == pc
    | .splice _ _ | .ring _ _ _ | .push _ _ _ => t.hdr + 8 == pc
    | .waita _ | .fence _ _ _ | .mwait _ | .hitch | .syscall _ => t.pc == pc + 8
    | _ => false
/-- The group has issued the word at an address and waits with nothing of it performed (R22, R48, R180, R214, R287, R379). -/
def Group.holdsWord (g : Group) (pc : W64) : Bool :=
  match g.run with | some r => r.counted && (envOf g r).wpc == pc | none => false
/-- The record of a sample (R439). -/
def sampleRecord (pid : W32) (g : Tag) (d : SampleData) : BitVec 512 :=
  joinedName pid (ostOf g.name) g.launch g.vcore g.slot g.index ++ bits g.pc 55 0 ++ d.fetch ++ d.issue ++ d.opnd ++ d.exec ++ d.wb
    ++ d.level ++ (0 : BitVec 4) ++ BitVec.ofNat 64 g.time ++ g.opc ++ (0 : BitVec 119)
/-- SAMPLE_TAG: an instruction that a core tagged for a context is written back; its record is appended to the context's
sample queue. It is dropped and counted where the queue is full, and where its header or slot fails a check, of which R439 and R442
say nothing (R437, R439; DESIGN CHOICE, log 87). -/
def execSampleTag (d : SampleData) (s : State) : Host.Outcome State Fault Refusal :=
  let x := s.ctx d.ctx
  .next (match x.samplers.find? (fun y => y.core == d.core) with
    | some y =>
      match y.tags[d.tag]? with
      | none => s
      | some g =>
      -- one that is not written back yet cannot be appended, and levels 6 to 15 are not used
      if s.groups.any (fun q => q.threads.any (fun t => t.ost == g.name && (t.holds g.pc || q.holdsWord g.pc))) || 5 < d.level.toNat then s else
      let s1 := s.updCtx d.ctx (fun c => { c with samplers := c.samplers.map (fun y =>
        if y.core == d.core then { y with tags := y.tags.eraseIdx d.tag } else y) })
      let drop := s1.updCtx d.ctx (fun y => { y with sampleDrops := y.sampleDrops + 1 })
      (match s1.queue d.ctx x.sampleQueue true accRmw.device with
       | .error _ => drop
       | .ok q => s1.actFor d.ctx (fun z => match z.pushTo q (sampleRecord x.pid g d) with | some (s2, _) => s2 | none => drop))
    | none => s)

end Sys2Proof.Machine
end

