-- ==== Sys2Proof/Machine/Keys.lean ====
section
/-! DEFINITION. The hash and the signatures that R426 binds the boot to: SHAKE128 and SHAKE256 of FIPS 202, and the
verification of ML-DSA-65 of FIPS 204 with an empty context string. The manual names the two standards and gives neither;
what stands here is taken from them (log 9). Bytes are in order of address, bits of a byte from the least significant. -/

namespace Sys2Proof.Machine.Keys

/-! ### Keccak and the two functions of FIPS 202 -/

/-- The 25 lanes of the permutation's state: lane (x, y) has number x + 5y. -/
abbrev Lanes := List W64
def Lanes.at' (a : Lanes) (x y : Nat) : W64 := a.getD (x % 5 + 5 * (y % 5)) 0
def Lanes.make (f : Nat → Nat → W64) : Lanes := (List.range 25).map (fun i => f (i % 5) (i / 5))
def rotations : List Nat := [0, 1, 62, 28, 27, 36, 44, 6, 55, 20, 3, 10, 43, 25, 39, 41, 45, 15, 21, 8, 18, 2, 61, 56, 14]
def roundConstants : List W64 :=
  [0x0000000000000001, 0x0000000000008082, 0x800000000000808A, 0x8000000080008000, 0x000000000000808B, 0x0000000080000001,
   0x8000000080008081, 0x8000000000008009, 0x000000000000008A, 0x0000000000000088, 0x0000000080008009, 0x000000008000000A]
  ++ [0x000000008000808B, 0x800000000000008B, 0x8000000000008089, 0x8000000000008003, 0x8000000000008002, 0x8000000000000080,
   0x000000000000800A, 0x800000008000000A, 0x8000000080008081, 0x8000000000008080, 0x0000000080000001, 0x8000000080008008]
/-- One round: the column parities, the rotations and the permutation of lanes, the rows, the constant. -/
def keccakRound (a : Lanes) (rc : W64) : Lanes :=
  let c := (List.range 5).map (fun x => (List.range 5).foldl (fun p y => p ^^^ a.at' x y) 0)
  let b := Lanes.make (fun x y => a.at' x y ^^^ c.getD ((x + 4) % 5) 0 ^^^ (c.getD ((x + 1) % 5) 0).rotateLeft 1)
  let p := Lanes.make (fun x y => (b.at' (x + 3 * y) x).rotateLeft (rotations.getD ((x + 3 * y) % 5 + 5 * x) 0))
  let r := Lanes.make (fun x y => p.at' x y ^^^ (~~~(p.at' (x + 1) y) &&& p.at' (x + 2) y))
  r.set 0 (r.at' 0 0 ^^^ rc)
def keccak (a : Lanes) : Lanes := roundConstants.foldl keccakRound a

def wordOf (l : List Byte) : W64 := (l.take 8).foldr (fun b w => w <<< 8 ||| b.zeroExtend 64) 0
def bytesOf (w : W64) : List Byte := (List.range 8).map (fun k => w.extractLsb' (8 * k) 8)
/-- A block of `rate` bytes goes into the state. -/
def absorb (rate : Nat) (a : Lanes) (block : List Byte) : Lanes :=
  keccak (Lanes.make (fun x y => let i := x + 5 * y
    if 8 * i < rate then a.at' x y ^^^ wordOf (block.drop (8 * i)) else a.at' x y))
def absorbAll (rate : Nat) : (blocks : Nat) → Lanes → List Byte → Lanes
  | 0, a, _ => a
  | n + 1, a, m => absorbAll rate n (absorb rate a (m.take rate)) (m.drop rate)
def squeeze (rate : Nat) : (blocks : Nat) → Lanes → List Byte
  | 0, _ => []
  | n + 1, a => (a.flatMap bytesOf).take rate ++ squeeze rate n (keccak a)
/-- The message with the suffix of the SHAKE functions and the padding, whole blocks of `rate` bytes. -/
def padded (rate : Nat) (m : List Byte) : List Byte :=
  let gap := rate - m.length % rate
  if gap = 1 then m ++ [0x9F] else m ++ 0x1F :: List.replicate (gap - 2) 0 ++ [0x80]
/-- n bytes of output. -/
def shake (rate : Nat) (m : List Byte) (n : Nat) : List Byte :=
  (squeeze rate ((n + rate - 1) / rate) (absorbAll rate (m.length / rate + 1) (List.replicate 25 0) (padded rate m))).take n
def shake128 (m : List Byte) (n : Nat) : List Byte := shake 168 m n
def shake256 (m : List Byte) (n : Nat) : List Byte := shake 136 m n

/-! ### ML-DSA-65: its parameters and the ring (FIPS 204) -/

abbrev q : Nat := 8380417
/-- A polynomial of 256 coefficients modulo q. -/
abbrev Poly := List Nat
abbrev gamma1 : Nat := 2 ^ 19
abbrev alpha : Nat := 523776
abbrev beta : Nat := 196
abbrev tau : Nat := 49
abbrev omega : Nat := 55
abbrev rows : Nat := 6
abbrev cols : Nat := 5

def addP (a b : Poly) : Poly := List.zipWith (fun x y => (x + y) % q) a b
def subP (a b : Poly) : Poly := List.zipWith (fun x y => (x + (q - y)) % q) a b
def mulP (a b : Poly) : Poly := List.zipWith (fun x y => x * y % q) a b
/-- The 8 bits of k in reverse order. -/
def bitRev8 (k : Nat) : Nat := (List.range 8).foldl (fun v j => v * 2 + k / 2 ^ j % 2) 0
def zeta (k : Nat) : Nat := 1753 ^ k % q
/-- The number-theoretic transform: node k of the tree of butterflies, d levels above the coefficients. -/
def nttAt : (d k : Nat) → Poly → Poly
  | 0, _, a => a
  | d + 1, k, a =>
    let lo := a.take (2 ^ d)
    let t := (a.drop (2 ^ d)).map (fun x => zeta (bitRev8 k) * x % q)
    nttAt d (2 * k) (addP lo t) ++ nttAt d (2 * k + 1) (subP lo t)
def ntt (a : Poly) : Poly := nttAt 8 1 a
def unNttAt : (d k : Nat) → Poly → Poly
  | 0, _, a => a
  | d + 1, k, a =>
    let lo := unNttAt d (2 * k) (a.take (2 ^ d))
    let hi := unNttAt d (2 * k + 1) (a.drop (2 ^ d))
    addP lo hi ++ (subP lo hi).map (fun x => zeta (512 - bitRev8 k) * x % q)
def unNtt (a : Poly) : Poly := (unNttAt 8 1 a).map (fun x => 8347681 * x % q)

/-! ### ML-DSA-65: unpacking and sampling -/

/-- The bytes as one number, the first byte lowest. -/
def leNum (l : List Byte) : Nat := l.foldr (fun b n => b.toNat + 256 * n) 0
/-- 256 fields of w bits. -/
def fields (w : Nat) (l : List Byte) : List Nat := let n := leNum l; (List.range 256).map (fun i => n / 2 ^ (w * i) % 2 ^ w)
/-- Item i of items of n bytes. -/
def item (l : List Byte) (n i : Nat) : List Byte := (l.drop (n * i)).take n

/-- The coefficients below q among the 23-bit numbers of a stream. -/
def rejections : List Byte → List Nat
  | b0 :: b1 :: b2 :: r =>
    let z := b0.toNat + 256 * b1.toNat + 65536 * (b2.toNat % 128)
    if z < q then z :: rejections r else rejections r
  | _ => []
/-- An entry of the public matrix, from a stream of 298 numbers, the least at which the standard lets a sampler give up. -/
def matrixAt (rho : List Byte) (r s : Nat) : Poly :=
  (rejections (shake128 (rho ++ [BitVec.ofNat 8 s, BitVec.ofNat 8 r]) 894)).take 256

/-- Coefficients of the challenge from place i on: each takes the next byte of the stream that is not above its place. -/
def ballFrom (signs : Nat) : (n : Nat) → (i : Nat) → List Byte → Poly → Poly
  | 0, _, _, c => c
  | n + 1, i, bs, c =>
    let rest := bs.dropWhile (fun b => decide (i < b.toNat))
    let j := (rest.headD 0).toNat
    let sign := signs.testBit (i + tau - 256)
    ballFrom signs n (i + 1) (rest.drop 1) ((c.set i (c.getD j 0)).set j (if sign then q - 1 else 1))
def sampleInBall (seed : List Byte) : Poly :=
  let s := shake256 seed 680
  ballFrom (leNum (s.take 8)) tau (256 - tau) (s.drop 8) (List.replicate 256 0)

/-- The places of the hints of one row: they rise strictly. -/
def rising : List Nat → Bool
  | a :: b :: r => decide (a < b) && rising (b :: r)
  | _ => true
/-- The hints, row by row; none where they are not in the one form that the standard admits. -/
def hints (y : List Byte) : Option (List (List Nat)) :=
  let ends := (y.drop omega).map BitVec.toNat
  let place := (y.take omega).map BitVec.toNat
  let row := fun (i : Nat) => let lo := if i = 0 then 0 else ends.getD (i - 1) 0; (place.drop lo).take (ends.getD i 0 - lo)
  let ok := (List.range rows).all (fun i =>
    decide ((if i = 0 then 0 else ends.getD (i - 1) 0) ≤ ends.getD i 0 ∧ ends.getD i 0 ≤ omega) && rising (row i))
  if ok && (place.drop (ends.getD (rows - 1) 0)).all (· == 0) then some ((List.range rows).map row) else none

/-- The high part of r modulo q, moved by a hint. -/
def useHint (h : Bool) (r : Nat) : Nat :=
  let low := r % alpha
  let up := decide (0 < low ∧ low ≤ alpha / 2)
  let high := if low ≤ alpha / 2 then r / alpha else r / alpha + 1
  -- the top range wraps to 0, and its low part is negative
  let r1 := if high = 16 then 0 else high
  if !h then r1 else if up && decide (high ≠ 16) then (r1 + 1) % 16 else (r1 + 15) % 16

/-- The verification: public key, message, signature. -/
def mlDsa65 (pk m sig : List Byte) : Bool :=
  if pk.length ≠ 1952 ∨ sig.length ≠ 3309 then false else
  match hints (sig.drop 3248) with
  | none => false
  | some hs =>
    let rho := pk.take 32
    let t1 := fun (r : Nat) => ntt ((fields 10 (item (pk.drop 32) 320 r)).map (fun x => x * 2 ^ 13 % q))
    let z := (List.range cols).map (fun s => (fields 20 (item (sig.drop 48) 640 s)).map (fun v => (gamma1 : Int) - v))
    let zs := z.map (fun p => ntt (p.map (fun (x : Int) => (x % (q : Int)).toNat)))
    let c := ntt (sampleInBall (sig.take 48))
    let mu := shake256 (shake256 pk 64 ++ [0, 0] ++ m) 64
    let w1 := (List.range rows).map (fun r =>
      let sum := (List.range cols).foldl (fun a s => addP a (mulP (matrixAt rho r s) (zs.getD s []))) (List.replicate 256 0)
      let w := unNtt (subP sum (mulP c (t1 r)))
      (List.range 256).map (fun i => useHint ((hs.getD r []).contains i) (w.getD i 0)))
    let enc := w1.flatMap (fun p => (List.range 128).map (fun i => BitVec.ofNat 8 (p.getD (2 * i) 0 + 16 * p.getD (2 * i + 1) 0)))
    z.all (fun p => p.all (fun x => decide (x.natAbs < gamma1 - beta))) && shake256 (mu ++ enc) 48 == sig.take 48

end Sys2Proof.Machine.Keys
end

