-- ==== Sys2Proof/Machine/Package.lean ====
section
/-! DEFINITION. The package: its functions and the host port, contexts coming and going, multi-package gang launches,
the links and the domain, boot, the configuration record, spares, clocks, power, and the registers of BAR0 (R405 to
R408, R419 to R440, R199, R360). -/

namespace Sys2Proof.Machine

/-! ### The end of a context's work (R404, R405, R421) -/

/-- The address of the element of offset j of a GATHER, SCATTER or SCATA (R247). -/
def elemAddr (s : State) (e : Env) (t : Thread) (x : FmtG) (j : Nat) : W64 :=
  match s.remap e.pen x.rmp.toNat ((baseForm e t x.idx).val j) with
  | .ok i => (baseForm e t x.base).val j + i * sclOf x.scl
  | .error f => f.va
/-- A reset may find the strand of a group inside a SCATTER or SCATA: the elements that the guard admits below some index are
then performed and those from there on are not, and a PARTIAL record names the first of these. A strand's GATHER is one read for
every index (R18, R253). Which, if any, is a free choice (R251, R405; log 1). -/
def State.cutElement (s : State) (gid : Nat) : State :=
  let g := s.group gid
  let found := match s.issueOf gid with | .instr i => if i.regsOk (s.launchOf g.pen).regs then elementsOf i else none | .illfmt => none
  match g.run, g.threads, found with
  | some r, [t], some (m, x) =>
    let e := envOf g r
    let j' := Config.freeKey s.fresh gid % (t.n + 1)
    (match m.each, t.guardRuns m.gd with
     | none, _ | _, none => s
     | some f, some rs =>
       let ks := (List.range j').filter (runTrue rs)
       let stops := ks.any (fun k => match f s e t k with | .error _ => true | .ok _ => false)
       match (List.range t.n).find? (fun k => decide (j' ≤ k) && runTrue rs k) with
       | none => s
       | some j =>
       if g.lanes || !g.resident s || g.stall.isSome || ks.isEmpty || stops || m.lay s e t then s else
       let s1 := (eachLoop f e ks s.bump t).1
       let l := s.launchOf g.pen
       s1.logRecord l.ctx (mkRecord (elemAddr s e t x j) (BitVec.ofNat 64 j) 0 e.wpc g.slotNum 0 l.ctx l.id (t.lo + j) (t.n - j - 1)
         s.now (s.pen g.pen).vcore 0 0 0 false cPARTIAL))
  | _, _, _ => s
def State.cutElements (s : State) (c : Nat) : State :=
  ((s.groups.filter (fun g => s.ctxOf g.pen == c)).map Group.id).foldl State.cutElement s

/-- Where an operation that is forced to fail stands: the address of its first element not performed, and the elements that
it has performed (R392, R405; log 92). -/
def EngOp.partialAt (o : EngOp) : W64 × Nat :=
  match o.kind with
  | .copy c => let row := if c.ring.isSome then o.row / 2 else 0; (BitVec.ofNat 64 (c.chunks.getD row (0, 0, 0)).2.1, row)
  | .mma m => (0, m.steps)
  | .accld _ a | .accst _ a | .drain _ _ a => (a, 0)
  | .rpred r => (BitVec.ofNat 64 r.vaddr, 0)
  | .rcheck r | .rgath r => (BitVec.ofNat 64 r.waddr, 0)
  | .stage d => (d.addr, 0)
  | .accz => (0, 0)
/-- An engine operation of a context that is reset or destroyed runs to its completion point, or fails with a record
(R404, R405). -/
def State.forceOp (s : State) (id : Nat) : State :=
  let s1 := (s.startOps id).complete id
  match s1.ops.find? (·.id == id) with
  | none => s1
  | some o =>
    let js := s1.jointOps o
    let s2 : State := { s1 with ops := s1.ops.map (fun q => if js.any (fun j => j.id == q.id) then { q with cancelled := true } else q) }
    (js.foldl (fun x q => x.logPlain q.ctx q.launch q.partialAt.1 (BitVec.ofNat 64 q.partialAt.2) cPARTIAL 0 2) s2).complete id
def State.forceOps (s : State) (c : Nat) : State :=
  (s.ops.filter (fun o => o.ctx == c)).foldl (fun x o => x.forceOp o.id) s
/-- Launches that waited for their operations alone are finished. -/
def State.finishAll (s : State) (c : Nat) : State :=
  (s.launches.filter (fun l => l.ctx == c)).foldl (fun x l => x.tryFinish l.id) s
/-- The QPOPs of a context that still wait for a packet: those of threads, of records and of ended threads. -/
def State.waitingPops (s : State) (c : Nat) : List (Nat × W64) :=
  ((s.groups.filter (fun g => s.ctxOf g.pen == c)).flatMap (fun g => g.threads.flatMap (fun t =>
      t.pend.filterMap (fun p => p.queue.map (fun a => (p.op, a)))))
    ++ (s.conts.filter (fun k => k.ctx == c)).flatMap (fun k => k.pops)
    ++ (s.lostPops.filter (fun p => p.ctx == c && !p.done)).map (fun p => (p.op, p.header))).dedup
/-- They end without a packet, each with a record (R404, R405; log 48). -/
def State.endPops (s : State) (c : Nat) : State :=
  { (s.waitingPops c).foldl (fun x p => x.logPlain c 0 p.2 0 cPARTIAL accRmw.acc) s with
    lostPops := s.lostPops.filter (fun p => p.ctx != c) }
/-- The pushes that counters of a context still owe, those of operations that have just completed among them: each is made now,
and one for which its queue has no room ends with a record that names its ready record (R341, R404, R405; log 53). -/
def State.endActions (s : State) (c : Nat) : State :=
  let s1 := (s.depActs.filter (fun a => a.ctx == c)).foldl (fun x a => x.pushAction a.id) s
  (s1.depActs.filter (fun a => a.ctx == c)).foldl (fun x a => x.logPlain c 0 a.addr 0 cPARTIAL accRmw.acc) s1
/-- The records that are still to be written: of threads that Turjo was servicing, and of device accesses that waited for it
(R405; log 53). -/
def State.flushRecords (s : State) (c : Nat) : State :=
  let s1 := (s.parked.filter (fun p => p.ctx == c && !p.forwarded)).foldl (fun x p => x.logRecord c p.record) s
  (s.devWaits.filter (fun w => w.ctx == c)).foldl (fun x w => x.logPlain c w.names.2 w.names.1 0 cXLATE w.code) s1
/-- Everything the context holds is released; its shed lines are written back, and its memory is left unchanged (R199, R405).
While a thermal trip holds the dies it stays stopped by that alone (R435). The registers of the context itself, $bintm among
them, keep what was written there: R405 lists none (R50; log 98). -/
def State.releaseCtx (s0 : State) (c : Nat) : State :=
  let s := (s0.ctx c).shedLines.foldl (fun x p => x.writeBack p.2 p.1) s0
  let mine := fun (l : Nat) => s.launches.any (fun x => x.id == l && x.ctx == c)
  let pen := fun (p : Nat) => s.pens.any (fun x => x.id == p && mine x.launch)
  let grp := fun (g : Nat) => s.groups.any (fun x => x.id == g && pen x.pen)
  let gone := fun (m : Member) => match m.kind with | .team l _ | .pens l _ => mine l | .group g _ => grp g
  let s1 := s.updCtx c (fun x => { x with stopped := s.tripHold, thermal := s.tripHold, staged := 0, shed := [0, 0, 0, 0], shedLines := [], samplers := [] })
  { s1 with
    groups := s.groups.filter (fun g => !pen g.pen)
    pens := s.pens.filter (fun p => !mine p.launch)
    tasks := s.tasks.filter (fun t => !mine t.launch)
    launches := s.launches.filter (fun l => l.ctx != c)
    members := s.members.filter (fun m => !gone m)
    reservations := s.reservations.filter (fun r => s.members.any (fun m => m.id == r.member && !gone m))
    conts := s.conts.filter (fun k => k.ctx != c)
    lostPops := s.lostPops.filter (fun p => p.ctx != c)
    tethers := (s.tethers.map (fun t => { t with waiters := t.waiters.filter (fun w => !grp w.gid) })).filter (fun t => !t.waiters.isEmpty)
    ops := s.ops.filter (fun o => o.ctx != c)
    parked := s.parked.filter (fun p => p.ctx != c)
    cells := s.cells.map (fun k => if k.owner == some c then Cell.reset else k)
    hists := s.hists.map (fun h => match h with | some x => if x.ctx == c then none else h | none => none)
    runs := s.runs.filter (fun r => r.ctx != c)
    depActs := s.depActs.filter (fun a => a.ctx != c)
    devWaits := s.devWaits.filter (fun w => w.ctx != c)
    gangs := s.gangs.filter (fun g => g.ctx != c)
    dies := s.dies.map (fun d => { d with bins := d.bins.filter (fun b => b.ctx != c) }) }
/-- The tasks of a context end as killed, those of spawns in bins and of launches not yet placed among them, and its continuation
records as dropped (R55, R323, R324, R363). -/
def State.killCtx (s : State) (c : Nat) : State :=
  let mine := fun (g : Group) => s.ctxOf g.pen == c
  let dead := (s.groups.filter mine).flatMap (fun g => g.alive.map (fun t => (g.pen, t)))
  let spawned := s.dies.flatMap (fun d => (d.bins.filter (fun b => b.ctx == c)).flatMap (fun b => b.spawns.map (fun p => p.task)))
  let s1 := dead.foldl (fun x d => (x.noteKill d.2.task true).leavePops d.1 d.2) s
  let s2 := spawned.foldl (fun x t => x.noteKill t false) s1
  let s3 : State := { s2.mapThreads (fun g t => if mine g then t.exit else t) with
    dies := s2.dies.map (fun d => { d with bins := d.bins.filter (fun b => b.ctx != c) })
    launches := s2.launches.map (fun l => if l.ctx == c then { l with unplaced := [] } else l) }
  let s4 := (s3.tasks.filter (fun t => (s3.launch t.launch).ctx == c)).foldl State.endTask s3
  (s4.conts.filter (fun k => k.ctx == c)).foldl State.endRecord s4
/-- The work of a context ends: its threads stop at exact points, its operations complete or fail, its records are
written; then everything that it holds is released. A reset is reported to the host (R405); where the context is destroyed its
threads have ended as kills (R363). -/
def State.endCtx (s : State) (c : Nat) (destroyed : Bool) : State :=
  let s1 := ((s.cutElements c).updCtx c (fun x => { x with stopped := true })).forceOps c
  let s2 := ((((if destroyed then s1.killCtx c else s1).endPops c).finishAll c).endActions c).flushRecords c
  ({ s2 with resetsDone := if destroyed then s2.resetsDone else s2.resetsDone ++ [c] } : State).releaseCtx c
/-- The reset of a virtual function (R405). -/
def State.resetCtx (s : State) (c : Nat) : State := s.endCtx c false
def State.hasCtx (s : State) (c : Nat) : Bool := s.ctxs.any (·.id == c)
def execVfReset (ctx : Nat) (s : State) : Host.Outcome State Fault Refusal :=
  .next (if s.hasCtx ctx then s.resetCtx ctx else s)
/-- VF_DISABLE: the context is destroyed: its threads end as kills and its operations as R404 states (R363, R389, R421). -/
def execVfDisable (ctx : Nat) (s : State) : Host.Outcome State Fault Refusal :=
  .next (if s.hasCtx ctx then { s.endCtx ctx true with ctxs := (s.endCtx ctx true).ctxs.filter (fun x => x.id != ctx) } else s)
/-- PF_FLR: the mailbox only (R421). -/
def execPfFlr (s : State) : Host.Outcome State Fault Refusal := .next { s with mailbox := [] }

/-- VF_ENABLE: Turjo creates the context (R419 to R421, R439). -/
def Context.ofInit (c : Nat) (i : CtxInit) : Context :=
  { Context.blank with
    id := c, root := i.root, privBase := i.privateBase, pid := i.pid, vw := i.vw, faultLog := i.faultLog, bintm := 0x14
    dispatchQueues := i.dispatchQueues, copyQueues := i.copyQueues, budget := i.budgetMiB
    samplePeriod := i.samplePeriod, sampleQueue := i.sampleQueue }
/-- What Turjo must give: a root table at a multiple of 64 KiB, VW at a multiple of 64 GiB, a private base at a multiple
of 2^40, a budget of at most 4,096 MiB and a sampling period of R439 (R189, R200, R358, R420). -/
def CtxInit.ok (i : CtxInit) : Bool :=
  decide (i.root % 65536 = 0) && decide (i.vw.toNat % 2 ^ 36 = 0) && decide (i.privateBase.toNat % 2 ^ 40 = 0)
    && decide (i.budgetMiB ≤ 4096) && decide (i.samplePeriod = 0 ∨ (2 ^ 8 ≤ i.samplePeriod ∧ i.samplePeriod ≤ 2 ^ 24))
def execVfEnable (ctx : Nat) (init : CtxInit) (s : State) : Host.Outcome State Fault Refusal :=
  .next (if s.boot == .running && decide (1 ≤ ctx ∧ ctx ≤ 1024) && !s.hasCtx ctx && CtxInit.ok init
    then { s with ctxs := s.ctxs ++ [{ Context.ofInit ctx init with stopped := s.tripHold, thermal := s.tripHold }] } else s)
/-- Turjo sets a context's sampling period and its queue; each core's count begins anew (R439). -/
def State.setSampling (s : State) (ctx p : Nat) (queue : W64) : State :=
  if p = 0 ∨ (2 ^ 8 ≤ p ∧ p ≤ 2 ^ 24) then
    s.updCtx ctx (fun x => { x with samplePeriod := p, sampleQueue := queue, samplers := x.samplers.map (fun y => { y with count := 0 }) })
  else s

/-! ### Accesses from the host port (R211, R220, R223, R419, R420) -/

/-- The host port is enabled (R425, R427). -/
def State.hostPort (s : State) : Bool := s.boot == .tested || s.boot == .running
/-- Host accesses are checked as thread accesses, but not against the Range-Lock Table (R220, R420). -/
def hostKind (k : AccKind) : AccKind := { k with lock := false }
def State.reply (s : State) (d : Option Nat) : State := { s with hostReplies := s.hostReplies ++ [d] }
/-- A function that is not enabled completes a request that expects data with Unsupported Request. -/
def State.noFunction (s : State) (wantsData : Bool) : State := if wantsData then s.reply none else s
/-- The mailbox: plain storage of 1 MiB (log 31). -/
def State.mailboxAccess (s : State) (off size : Nat) (write : Option Nat) : State :=
  if 2 ^ 20 < off + size then s.noFunction write.isNone else
  match write with
  | none => s.reply (some (Memory.load s.mailbox off size))
  | some v => { s with mailbox := Memory.store s.mailbox off size v }
/-- A check of a window's access fails: a record of FR.KIND 3 (R420). -/
def State.windowFail (s : State) (c : Nat) (f : FaultInfo) : State := s.logPlain c 0 f.va f.aux f.cause f.acc
/-- A read through a window, line by line (log 92). -/
def State.windowRead (s : State) (c : Nat) (va size : Nat) : State :=
  match s.readGlobal c va size (hostKind accRead) with
  | .error f => (s.windowFail c f).reply none
  | .ok v => s.reply (some v)
/-- The part of a write that falls within one line; one that covers a bad line whole makes it sound (R223). -/
def State.windowWrite (s : State) (c : Nat) (va n v : Nat) : State :=
  let a := BitVec.ofNat 64 va
  match s.globalLoc c a n (hostKind accWrite) with
  | .ok l => s.actFor c (·.writeLoc l n v)
  | .error f =>
    match f.cause == cMEMERR && decide (n = 128), s.translate c a with
    | true, some leaf => if s.gone (.phys leaf.pa) then s.windowFail c f else s.actFor c (fun x => (x.cure (.phys leaf.pa)).writeLoc (.phys leaf.pa) 128 v)
    | _, _ => s.windowFail c f
/-- A window of a virtual function: translated and checked (R420). -/
def State.windowAccess (s : State) (c off size : Nat) (write : Option Nat) : State :=
  if 2 ^ 36 < off + size then s.noFunction write.isNone else
  let va := (s.ctx c).vw.toNat + off
  match write with
  | none => s.windowRead c va size
  | some v => (pieces 128 va size).foldl (fun x p => x.windowWrite c p.1 p.2 (v / 2 ^ (8 * (p.1 - va)) % 2 ^ (8 * p.2))) s
/-- BAR2_ACCESS: a request of `size` bytes, once the host port is enabled. -/
def execBar2Access (ctx off size : Nat) (write : Option Nat) (s : State) : Host.Outcome State Fault Refusal :=
  .next (if !s.hostPort then s
    else if ctx = 0 then s.mailboxAccess off size write
    else if s.hasCtx ctx then s.windowAccess ctx off size write
    else s.noFunction write.isNone)

/-- The value that an AtomicOp of n bytes stores (R419). -/
def hostNew (op : HostAtomic) (n old operand compare : Nat) : Nat :=
  match op with
  | .fetchAdd => (old + operand) % 2 ^ (8 * n)
  | .swap => operand % 2 ^ (8 * n)
  | .cas => if old = compare % 2 ^ (8 * n) then operand % 2 ^ (8 * n) else old
/-- A CAS whose comparison fails stores nothing (R419). -/
def hostMiss (op : HostAtomic) (n old compare : Nat) : Bool :=
  match op with
  | .cas => old != compare % 2 ^ (8 * n)
  | _ => false
/-- HOST_ATOMICOP: one atomic access, which needs both permissions (R202, R419); one that is not aligned to its size is an
unsupported request (log 92). -/
def execHostAtomicop (ctx off : Nat) (op : HostAtomic) (wide : Bool) (operand compare : W64) (s : State) :
    Host.Outcome State Fault Refusal :=
  let n := if wide then 8 else 4
  let va := (s.ctx ctx).vw + BitVec.ofNat 64 off
  let new := fun (old : Nat) => hostNew op n old operand.toNat compare.toNat
  .next (if !s.hostPort then s
    else if off % n ≠ 0 then s.reply none
    else if ctx = 0 then
      if 2 ^ 20 < off + n then s.reply none
      else
        let old := Memory.load s.mailbox off n
        ({ s with mailbox := Memory.store s.mailbox off n (new old) } : State).reply (some old)
    else if !s.hasCtx ctx || decide (2 ^ 36 < off + n) then s.reply none
    else match s.globalLoc ctx va n (hostKind accRmw) with
      | .error f => (s.windowFail ctx f).reply none
      | .ok l =>
        let old := s.readLoc l n
        (if hostMiss op n old compare.toNat then s else s.actFor ctx (·.writeLoc l n (new old))).reply (some old))
/-- Software sets an entry of a function's MSI-X table, through the host port (R419, R427). -/
def State.setMsix (s : State) (fn vec : Nat) (addr : W64) (data : W32) : State :=
  if 1024 < fn ∨ 2048 ≤ vec ∨ !s.hostPort then s else
  let rest := s.msixTable.filter (fun p => p.1 != (fn, vec))
  { s with msixTable := if addr = 0 ∧ data = 0 then rest else rest ++ [((fn, vec), addr, data)] }

/-! ### Multi-package gang launches (R406 to R408) -/

/-- GL.STATUS of each package, two bits each. -/
def glStatus (w p : Nat) : Nat := w / 4 ^ p % 4
def glSetStatus (w p v : Nat) : Nat := w - glStatus w p * 4 ^ p + v * 4 ^ p
/-- The record's place, read by the device. -/
def State.gangRecord (s : State) (c : Nat) (a : W64) : Except FaultInfo Loc :=
  if a.toNat % 128 ≠ 0 then .error ⟨cALIGN, a, 0, 3, none⟩ else s.globalLoc c a 128 accRmw.device
/-- GANG_LAUNCH_START: the members are pending, and this package's part, if it has one, is a launch (R406). -/
def State.gangStart (s : State) (c : Nat) (a : W64) : State :=
  match s.gangRecord c a with
  | .error f => s.logPlain c 0 f.va f.aux f.cause f.acc
  | .ok l =>
    let pkt := BitVec.ofNat 512 (s.readLoc l 64)
    let pkgs := s.readLoc (locAdd l 72) 8
    let id := s.fresh
    let home := decide (locPa l / 2 ^ 46 = s.pkg)
    let status := (List.range 64).foldl (fun w p => if pkgs.testBit p then w + 4 ^ p else w) 0
    let s1 := if home then s.actFor c (fun x =>
        (((x.writeLoc (locAdd l 64) 4 0).writeLoc (locAdd l 68) 4 id).writeLoc (locAdd l 80) 8 0).writeLoc (locAdd l 88) 16 status)
      else s
    let n := cpF pkt 95 64 + 1
    let part := pkgs.testBit s.pkg && s1.launchOk c pkt n
    let s2 : State := { s1 with gangs := s1.gangs ++ [⟨c, a, s1.clk, false, if part then s1.fresh else 0⟩] }
    if !pkgs.testBit s.pkg then s2.bump
    else if part then s2.createLaunch c pkt n (cpF pkt 11 8) (BitVec.ofNat 64 (cpF pkt 255 192)) 0 none (some a)
    else s2.failLaunch c pkt a
/-- A launch of the record is under way: begun, and neither acknowledged by every member nor failed. -/
def State.gangPending (s : State) (c : Nat) (a : W64) : Bool := s.gangs.any (fun g => g.ctx == c && g.addr == a && !g.failed)
/-- A start at a record whose launch is under way is not taken, of which the manual says nothing; one that has failed is no
longer under way (R406; log 56). -/
def execGangLaunchStart (ctx : Nat) (addr : W64) (s : State) : Host.Outcome State Fault Refusal :=
  .next (if s.hasCtx ctx && !s.gangPending ctx addr then s.gangStart ctx addr else s)

/-- GANG_LAUNCH_ACK: a pending member acknowledges; with the last one GL.RESULT is 1 (R406). -/
def execGangLaunchAck (ctx : Nat) (addr : W64) (pkg : Nat) (s : State) : Host.Outcome State Fault Refusal :=
  .next (if !s.gangPending ctx addr then s else
    match s.gangRecord ctx addr with
    | .error f => s.logPlain ctx 0 f.va f.aux f.cause f.acc
    | .ok l =>
      let st := s.readLoc (locAdd l 88) 16
      if 64 ≤ pkg || glStatus st pkg != 1 then s else
      let ack := s.readLoc (locAdd l 80) 8 ||| 2 ^ pkg
      let st1 := glSetStatus st pkg 2
      let s1 := s.actFor ctx (fun x => (x.writeLoc (locAdd l 80) 8 ack).writeLoc (locAdd l 88) 16 st1)
      if (List.range 64).all (fun p => glStatus st1 p == 0 || glStatus st1 p == 2) then
        { s1.actFor ctx (·.writeLoc (locAdd l 64) 4 1) with gangs := s1.gangs.filter (fun g => !(g.ctx == ctx && g.addr == addr && !g.failed)) }
      else s1)

/-- The threads of the part, those whose task is of a launch of it that is under way, that wait on GL.PHASE are killed there
(R408). -/
def State.killGang (s : State) (c : Nat) (a : W64) (phase : Loc) : State :=
  let hit := fun (g : Group) (t : Thread) =>
    s.gangs.any (fun k => k.ctx == c && k.addr == a && !k.failed && k.launch == (s.task t.task).launch)
      && (s.threadLaunch t).gang == some a && s.ctxOf g.pen == c && match t.status with | .waita m => m.loc == phase | _ => false
  let dead := s.groups.flatMap (fun g => (g.threads.filter (hit g)).map (fun t => (g.pen, t)))
  let s1 := dead.foldl (fun x d => (x.noteKill d.2.task true).leavePops d.1 d.2) s
  let s2 := s1.mapThreads (fun g t => if hit g t then t.exit else t)
  (dead.map Prod.fst).dedup.foldl State.settle s2
/-- GANG_LAUNCH_TIMEOUT: 50 µs after the start a member has not acknowledged (R408). -/
def State.gangFail (s : State) (c : Nat) (a : W64) : State :=
  match s.gangRecord c a with
  | .error f => s.logPlain c 0 f.va f.aux f.cause f.acc
  | .ok l =>
    let st := s.readLoc (locAdd l 88) 16
    let st1 := (List.range 64).foldl (fun w p => if glStatus w p == 1 then glSetStatus w p 3 else w) st
    let s1 := s.actFor c (fun x => (x.writeLoc (locAdd l 88) 16 st1).writeLoc (locAdd l 64) 4 2)
    let s2 := s1.killGang c a (locAdd l 120)
    let s3 : State := { s2 with gangs := s2.gangs.map (fun (g : Gang) => if g.ctx == c && g.addr == a then { g with failed := true } else g) }
    s3.logPlain c (s.readLoc (locAdd l 68) 4) a (BitVec.ofNat 64 (s.readLoc (locAdd l 80) 8)) cGLFAIL 0
def execGangLaunchTimeout (ctx : Nat) (addr : W64) (s : State) : Host.Outcome State Fault Refusal :=
  .next (if s.gangs.any (fun g => g.ctx == ctx && g.addr == addr && !g.failed && decide (g.start + 50000 ≤ s.clk)) then s.gangFail ctx addr else s)

/-! ### Phinos Link and the domain (R422 to R424) -/

def leWord (l : List Byte) : Nat := pack 8 (l.map BitVec.toNat)
def leBytes (n v : Nat) : List Byte := (List.range n).map (fun k => BitVec.ofNat 8 (v / 256 ^ k))

/-- A flit's header, and its 256 bytes: header, payload, CRC-64 over both (R422). -/
def Flit.header (f : Flit) : W64 := f.dst ++ f.src ++ f.vc ++ f.seq ++ f.len ++ (0 : BitVec 29)
def Flit.body (f : Flit) : List Byte := leBytes 8 f.header.toNat ++ (f.payload ++ List.replicate 240 0).take 240
def Flit.bytes (f : Flit) : List Byte := f.body ++ leBytes 8 (Config.crc64 f.body).toNat
def crcGood (b : List Byte) : Bool := (Config.crc64 (b.take 248)).toNat == leWord (b.drop 248)
/-- The flit that bytes hold. -/
def Flit.parse (b : List Byte) : Flit :=
  let h := BitVec.ofNat 64 (leWord (b.take 8))
  { dst := bits h 63 58, src := bits h 57 52, vc := bits h 51 49, seq := bits h 48 37, len := bits h 36 29, payload := (b.drop 8).take 240 }

def State.updPort (s : State) (k : Nat) (f : Port → Port) : State := { s with ports := s.ports.modify k f }
/-- The transmitter keeps its last 2,048 flits (R423). -/
def Port.send (p : Port) (f : Flit) : Port := { p with sent := (p.sent ++ [f]).drop (p.sent.length + 1 - 2048) }
def Port.nextSeq (p : Port) : BitVec 12 := match p.sent.getLast? with | some f => f.seq + 1 | none => 0
/-- The flit of virtual channel 3 that asks for replay from the number that the receiver expects (R423; log 93). -/
def Port.request (p : Port) (me : Nat) : Flit :=
  { dst := BitVec.ofNat 6 (p.peer.getD 0), src := BitVec.ofNat 6 me, vc := 3, seq := p.nextSeq, len := 2, payload := leBytes 2 p.expect.toNat }
def Port.ask (p : Port) (me now : Nat) : Port := { p.send (p.request me) with asked := some (p.asked.getD now) }
/-- A port carries flits: trained, in service, and not retraining (R430). -/
def State.portCarries (s : State) (k : Nat) : Bool :=
  match s.ports[k]? with
  | some p => p.trained && p.inService && !(s.units.retraining.any (fun u => match u with | .linkLane q _ => q == k | _ => false))
  | none => false
/-- A port leads to a package: it is at the other end, or is reached through the member of the domain there (R424). -/
def State.leads (s : State) (k p : Nat) : Bool :=
  (s.ports[p]?).any (fun x => x.peer == some k || (x.beyond.contains k && x.peer.any s.domain.contains))
/-- Members of the domain that no port reaches: none that carries traffic leads to them; and since when (R423, R424; log 60). -/
def State.reach (s : State) : State :=
  let lost := s.domain.filter (fun k => !((List.range s.ports.length).any (fun p => s.leads k p && s.portCarries p)))
  { s with unreached := lost.map (fun k => (k, ((s.unreached.find? (·.1 == k)).map (·.2)).getD s.clk)) }
/-- FLIT_RECEIVE: the flit with the number expected is accepted; any other, and one whose CRC does not match, is discarded
and replay is asked for (R423). -/
def execFlitReceive (port : Nat) (bytes : List Byte) (s : State) : Host.Outcome State Fault Refusal :=
  .next (if bytes.length ≠ 256 || !s.portCarries port then s else s.updPort port (fun p =>
    if crcGood bytes && (Flit.parse bytes).seq == p.expect then { p with expect := p.expect + 1, asked := none }
    else p.ask s.pkg s.clk))
/-- REPLAY_REQUEST: the flits kept from the expected number on are sent again, which changes timing only (R423; log 15). -/
def execReplayRequest (_port : Nat) (_expected : BitVec 12) (s : State) : Host.Outcome State Fault Refusal := .next s
/-- REPLAY_TIMEOUT: a partner has not answered replay for 1 ms; the port goes out of service (R423). -/
def execReplayTimeout (port : Nat) (s : State) : Host.Outcome State Fault Refusal :=
  .next (match (s.ports[port]?).bind Port.asked with
    | some t => if t + 1000000 ≤ s.clk then (s.updPort port (fun p => { p with inService := false, asked := none })).reach else s
    | none => s)
/-- PACKAGE_LEAVE_DOMAIN: a package that resets, or that no port has reached for 10 ms, leaves; accesses to it raise MEMERR
from then on, and only after its reset can it join again (R226, R424). -/
def execPackageLeaveDomain (x : Leaver) (s : State) : Host.Outcome State Fault Refusal :=
  let pkg := x.num
  let due := s.unreached.any (fun u => u.1 == pkg && decide (u.2 + 10000000 ≤ s.clk))
  let out : State := { s with domain := s.domain.filter (· != pkg), unreached := s.unreached.filter (fun u => u.1 != pkg) }
  .next (if x.reset then ({ out with left := s.left.filter (· != pkg) } : State).reach
    else if s.domain.contains pkg && due then ({ out with left := pkg :: s.left } : State).reach
    else s)
/-- The timer steps forward by `d`, which no timeout counts and no die clock runs (R424). -/
def State.stepTimer (s : State) (d : Nat) : State :=
  { s with now := s.now + d, stepped := s.stepped + d, dies := s.dies.map (fun x => { x with cycAt := x.cycAt + d }) }
/-- DOMAIN_JOIN: ports reach a package: of those given, the ones that carry traffic and that have it at their other end, no other
member being there, or a member of the domain through which it is reached. For a package that is in the domain already they are
the ports that lead to it now. Two packages with one number do not join, and the ports between them stay out of service;
otherwise a timer that is behind steps forward once (R424; log 60). -/
def execDomainJoin (x : Joiner) (timer : Nat) (s : State) : Host.Outcome State Fault Refusal :=
  let pkg := x.num
  .next (if 64 ≤ pkg ∨ pkg ∈ s.left ∨ !s.hostPort then s
    else if pkg = s.pkg then (x.ports.foldl (fun y k => y.updPort k (fun p => { p with inService := false })) s).reach
    else
      let taken := fun (k : Nat) => ((s.ports[k]?).bind Port.peer).any (fun q => q != pkg && s.domain.contains q)
      let ps := x.ports.filter (fun k => s.portCarries k && !taken k)
      let vs := x.via.filter (fun k => s.portCarries k && taken k)
      if ps.isEmpty && vs.isEmpty then s else
      let s0 : State := { s with ports := s.ports.map (fun p => { p with beyond := p.beyond.filter (· != pkg) }) }
      let s1 := ps.foldl (fun y k => y.updPort k (fun p => { p with peer := some pkg })) s0
      let s2 := vs.foldl (fun y k => y.updPort k (fun p => { p with beyond := pkg :: p.beyond })) s1
      if pkg ∈ s.domain then s2.reach
      else (({ s2 with domain := sortBy id (pkg :: s.domain) } : State).stepTimer (timer - s.now)).reach)

/-! ### The configuration record (R428, R429) -/

/-- The header of a configuration record, and bytes 0 to 687 of a copy (R428). -/
def CfgRec.header (r : CfgRec) : BitVec 512 :=
  r.seq ++ r.grade ++ r.pkg ++ BitVec.ofBool r.ownv ++ (0 : BitVec 1) ++ r.yards ++ r.sysc ++ r.copy ++ r.ways ++ (0 : BitVec 288)
def CfgRec.bytes (r : CfgRec) : List Byte := leBytes 64 (CfgRec.header r).toNat ++ r.dramMap ++ r.linkMap ++ r.owner
/-- The lane maps and the key hash have the lengths of R428, so that a copy has 3,997 bytes. -/
def CfgRec.sized (r : CfgRec) : Bool := decide (r.dramMap.length = 512 ∧ r.linkMap.length = 48 ∧ r.owner.length = 64)
/-- The 3,997 bytes of a copy; a copy with no signature of its own bears the device's. -/
def CfgCopy.bytes (c : CfgCopy) : List Byte := CfgRec.bytes c.rec' ++ c.sig.getD (leBytes 3309 (Config.deviceSign (CfgRec.bytes c.rec')).toNat)
/-- A copy's signature verifies under the device key; the signature that the device itself makes does (R429; log 13). -/
def CfgCopy.signed (c : CfgCopy) : Bool :=
  match c.sig with | none => true | some b => Keys.mlDsa65 Config.deviceKey (CfgRec.bytes c.rec') b
/-- The certificate in the store verifies under the root key; the one made at manufacture does (R429; log 13). -/
def State.certOk (s : State) : Bool := match s.cert with | none => true | some b => Config.certVerifies b
/-- A copy is valid: its signature and the certificate of the device key verify (R429). -/
def State.cfgCopyValid (s : State) (c : CfgCopy) : Bool := s.certOk && c.signed
/-- The index of the copy to use: the valid one with the higher sequence number. -/
def State.cfgIndex (s : State) : Nat :=
  match s.cfg with
  | [a, b] => if s.cfgCopyValid b && (!s.cfgCopyValid a || decide (a.rec'.seq.toNat < b.rec'.seq.toNat)) then 1 else 0
  | _ => 0
def State.cfgValid (s : State) : Bool := s.cfg.any s.cfgCopyValid
/-- The other copy is written with CFG.SEQ one higher, read back and verified; it is the one in use if it verifies, and only
then does what the change allows happen. Where the store does not take the write, what is read back does not verify (R429; log
13). -/
def State.writeCfg (s : State) (r : CfgRec) (then' : State → State) : State :=
  let k := 1 - s.cfgUse
  let new : CfgCopy := ⟨{ r with seq := s.cfgRec.seq + 1 }, if s.storeFails.contains k then some [] else none⟩
  let s1 : State := { s with cfg := s.cfg.set k new }
  if (s1.cfg[k]?).any s1.cfgCopyValid then then' { s1 with cfgUse := k } else s1

/-! ### Boot (R425 to R427) -/

/-- The parts of an image and the checks of R426, against the hash of a key. -/
def imageOk (hash : List Byte) (b : List Byte) : Bool :=
  let len := leWord ((b.drop 8).take 8)
  let key := (b.drop 64).take 1952
  decide (leWord (b.take 8) = 0x50484E534F4F5442) && ((b.drop 16).take 48).all (· == 0)
    && decide (b.length = 64 + 1952 + len + 3309) && Keys.shake256 key 64 == hash
    && Keys.mlDsa65 key (b.take (64 + 1952 + len)) (b.drop (64 + 1952 + len))
def imageBody (b : List Byte) : List Byte := (b.drop (64 + 1952)).take (leWord ((b.drop 8).take 8))
/-- Recovery, until the next request 60 s from now (R427). -/
def State.recovery (s : State) : State := { s with boot := .recovery, healthBoot := 1, bootAt := s.clk }
/-- The image that was fetched is verified and loaded, and DRAM and the ports train; a normal boot takes the owner's key
where the record names one, recovery the root key only. -/
def State.tryImage (s : State) (b : BootInput) (inRecovery : Bool) : State :=
  let r := s.cfgRec
  let hash := if r.ownv && !inRecovery then r.owner else Config.rootKeyHash
  if imageOk hash b.image.bytes && b.hardwareOk && s.cfgValid then
    { s with boot := .verified, healthBoot := 2, image := imageBody b.image.bytes }
  else s.recovery
/-- POWER_GOOD (R425). -/
def execPowerGood (b : BootInput) (s : State) : Host.Outcome State Fault Refusal :=
  .next (if s.boot != .reset then s else
    let s1 : State := { s with cfgUse := s.cfgIndex, bootAt := s.clk }
    if !s1.cfgValid then s1.recovery
    else if b.dhcp6 then s1.tryImage b false
    else { s1 with boot := .dhcp })
/-- DHCPV6_TIMEOUT: 10 s have passed since the request without an answer (R425). -/
def execDhcpv6Timeout (b : BootInput) (s : State) : Host.Outcome State Fault Refusal :=
  .next (if s.boot != .dhcp || decide (s.clk < s.bootAt + 10000000000) then s else if b.dhcp4 then s.tryImage b false else s.recovery)
/-- RECOVERY_RETRY: 60 s after the last request, another image, and, where neither copy verifies, a record sent with it, which is accepted if it verifies
as a record does (R427). -/
def execRecoveryRetry (b : BootInput) (s : State) : Host.Outcome State Fault Refusal :=
  .next (if s.boot != .recovery || decide (s.clk < s.bootAt + 60000000000) then s
    else if !(b.dhcp6 || b.dhcp4) then s.recovery else
    match s.cfgValid, b.record with
    | false, some r =>
      if !CfgRec.sized r.1 then s.recovery else
      let s1 : State := { s with cfg := s.cfg.set 0 ⟨r.1, some r.2⟩, cfgUse := 0 }
      let s2 := s1.tryImage b true
      if s2.boot == .verified then s2 else s.recovery
    | _, _ => s.tryImage b true)
/-- The spare maps of the record are applied, the compute dies leave their reset, the ports carry flits and the host port is
enabled (R425). -/
def State.bringUp (s : State) : State :=
  let u := Units.ofCfg s.cfgRec
  { s with boot := .tested, selfTestAt := s.clk
           units := { s.units with yards := u.yards, sysc := u.sysc, copy := u.copy, ways := u.ways, dramMap := u.dramMap, linkMap := u.linkMap }
           ports := s.ports.map (fun p => { p with trained := true })
           dies := s.dies.map (fun _ => { Die.reset with cycAt := s.now }) }
/-- Turjo starts, and sets HEALTH.BOOT to 3 (R425). -/
def State.turjoStart (s : State) : State := if s.boot == .tested then { s with boot := .running, healthBoot := 3 } else s

/-- POWER_LOSS: all work ends; the persistent store stays, but for a copy that was being written (R424, R429, R431). -/
def execPowerLoss (midWrite : Bool) (s : State) : Host.Outcome State Fault Refusal :=
  .next { State.reset with
    agenda := s.agenda, fresh := s.fresh + 1, cert := s.cert, storeFails := s.storeFails, cfgUse := s.cfgUse
    cfg := if midWrite then s.cfg.modify (1 - s.cfgUse) (fun x => { x with sig := some [] }) else s.cfg
    units := { s.units with retraining := [], corrected := [], thresholds := [] }
    healthReplace := s.healthReplace, healthExh := s.healthExh }

/-! ### Spares and degraded operation (R430, R431) -/

/-- The first spare of a class: built, not in service, not retired. -/
def spareOf (n : Nat) (inService : Nat → Bool) (retired : Nat → Bool) : Option Nat :=
  (List.range n).find? (fun k => !inService k && !retired k)
def setBit {n : Nat} (w : BitVec n) (k : Nat) (b : Bool) : BitVec n :=
  if b then w ||| BitVec.ofNat n (2 ^ k) else w &&& ~~~(BitVec.ofNat n (2 ^ k))
/-- A class has no spare left (R431). -/
def State.exhaust (s : State) (bit : Nat) : State := { s with healthReplace := true, healthExh := setBit s.healthExh bit true }
/-- A change of the units in service: once the record that holds it is written and verified, they change, and what
follows happens (R429, R430). -/
def State.recordUnits (s : State) (u : Units) (then' : State → State) : State :=
  s.writeCfg { s.cfgRec with yards := u.yards, sysc := u.sysc, copy := u.copy, ways := u.ways, dramMap := u.dramMap, linkMap := u.linkMap }
    (fun x => then' { x with units := u })
/-- The teams of a yard are saved, and restored on the spare, whole, those too in which no thread is ready (R336, R430;
log 34). -/
def State.moveYard (s : State) (yard : Nat) (spare : Option Nat) : State :=
  let ps := s.pens.filter (fun p => !p.saved && (p.core.map (· / Config.coresPerYard)) == some yard)
  let teams := (ps.map (fun p => (p.launch, p.vcore / (s.launch p.launch).c))).dedup
  teams.foldl (fun x t =>
    let y := x.saveTeam t.1 t.2
    let x1 := if y.members.any (fun m => m.kind == .pens t.1 t.2) || spare.isNone then y
      else y.addMember (.pens t.1 t.2) (y.launch t.1).prio
    match spare, x1.members.find? (fun m => m.kind == .pens t.1 t.2) with
    | some y, some m => x1.placeTeam m t.1 t.2 y false
    | _, _ => x1) s
/-- Shed ways of a die beyond what its ways allow are withdrawn (R199, R430). -/
def State.shedLimit (s : State) (die : Nat) : Nat :=
  if ((List.range 18).filter (fun w => s.units.ways.getLsbD (18 * die + w))).length < 16 then 7 else 8
/-- A context holds n ways of a die; where that is fewer than before, its lines there are written back and leave the shed. -/
def State.setShed (s : State) (c die n : Nat) : State :=
  let x := s.ctx c
  let off := if n < x.shed.getD die 0 then x.shedLines.filter (fun p => p.1 == die) else []
  (off.foldl (fun y p => y.writeBack p.2 die) s).updCtx c (fun y =>
    { y with shed := y.shed.set die n, shedLines := y.shedLines.filter (fun p => !off.contains p) })
def State.trimShed (s : State) (die : Nat) : State :=
  (s.ctxs.foldl (fun (acc : State × Nat) (c : Context) =>
    let n := min (c.shed.getD die 0) acc.2
    (acc.1.setShed c.id die n, acc.2 - n)) (s, s.shedLimit die)).1
/-- A lane of a group or port that has `lanes` lanes in service and two spares, numbered after them, whose lane map has two
bytes from `at'` on: the map after the lane is replaced, or none where no spare is left (R428, R430). -/
def replaceLane (map : List Byte) (at' lanes l : Nat) (retired : Nat → Bool) : Option (List Byte) :=
  let free := (List.range 2).find? (fun n => map.getD (at' + n) 0xFF == 0xFF && !retired (lanes + n) && decide (lanes + n ≠ l))
  let victim := if l < lanes then BitVec.ofNat 8 l else map.getD (at' + (l - lanes)) 0xFF
  let cleared := if l < lanes then map else map.set (at' + (l - lanes)) 0xFF
  free.map (fun n => cleared.set (at' + n) victim)
/-- A lane serves: it is not replaced, or is a spare that replaces one. -/
def laneServes (map : List Byte) (at' lanes l : Nat) : Bool :=
  if l < lanes then !((List.range 2).any (fun n => map.getD (at' + n) 0xFF == BitVec.ofNat 8 l))
  else map.getD (at' + (l - lanes)) 0xFF != 0xFF

/-- The lines of an L2 way are written back: those that memory lists, and those written since their last write-back (R225, R430;
log 34). -/
def State.flushWay (s : State) (way : Nat) : State :=
  ((((s.mem ++ s.dram).map (fun (c : Host.Cell) => c.1 / 128) ++ s.writers.map Prod.fst).dedup).filter (fun l => Config.lineWay l == way)).foldl (fun x l => x.writeBack l (way / 18)) s
/-- A unit that is built (R430). -/
def PkgUnit.built : PkgUnit → Bool
  | .yard d y => decide (d < 4 ∧ y < 9)
  | .sysCore k | .copyEngine k => decide (k < 18)
  | .way d w => decide (d < 4 ∧ w < 18)
  | .dramLane g l => decide (g < 256 ∧ l < 74)
  | .linkLane p l => decide (p < 24 ∧ l < 10)
/-- A unit that is in service (R430). -/
def Units.serve (x : Units) (u : PkgUnit) : Bool :=
  match u with
  | .yard d y => x.yards.getLsbD (9 * d + y)
  | .sysCore k => x.sysc.getLsbD k
  | .copyEngine k => x.copy.getLsbD k
  | .way d w => x.ways.getLsbD (18 * d + w)
  | .dramLane g l => laneServes x.dramMap (2 * g) 72 l
  | .linkLane p l => laneServes x.linkMap (2 * p) 8 l
/-- A unit in service is retired and a spare of its class brought into service, if one is left; a unit that fails while it is
not in service is no spare from then on (R430). -/
def State.retire (s : State) (u : PkgUnit) : State :=
  if s.units.retired.contains u || !PkgUnit.built u then s else
  let mu : Units := { s.units with retired := u :: s.units.retired }
  let gone := fun (f : Nat → PkgUnit) (k : Nat) => (u :: s.units.retired).contains (f k)
  if !s.units.serve u then { s with units := mu } else
  match u with
  | .yard d y =>
    let sp := spareOf 9 (fun k => s.units.yards.getLsbD (9 * d + k)) (gone (.yard d))
    let ys := match sp with | some k => setBit (setBit s.units.yards (9 * d + y) false) (9 * d + k) true | none => setBit s.units.yards (9 * d + y) false
    s.recordUnits { mu with yards := ys } (fun x =>
      let s2 := x.moveYard (9 * d + y) (sp.map (9 * d + ·))
      if sp.isSome then s2 else s2.exhaust d)
  | .sysCore k =>
    let sp := spareOf 18 (fun j => s.units.sysc.getLsbD j) (gone .sysCore)
    let v := match sp with | some j => setBit (setBit s.units.sysc k false) j true | none => setBit s.units.sysc k false
    s.recordUnits { mu with sysc := v } (fun x => if sp.isSome then x else x.exhaust 4)
  | .copyEngine k =>
    let sp := spareOf 18 (fun j => s.units.copy.getLsbD j) (gone .copyEngine)
    let v := match sp with | some j => setBit (setBit s.units.copy k false) j true | none => setBit s.units.copy k false
    s.recordUnits { mu with copy := v } (fun x => if sp.isSome then x else x.exhaust 5)
  | .way d w =>
    let sp := spareOf 18 (fun j => s.units.ways.getLsbD (18 * d + j)) (gone (.way d))
    let v := match sp with | some j => setBit (setBit s.units.ways (18 * d + w) false) (18 * d + j) true | none => setBit s.units.ways (18 * d + w) false
    s.recordUnits { mu with ways := v } (fun x =>
      let s1 := x.flushWay (18 * d + w)
      if sp.isSome then s1 else (s1.exhaust (6 + d)).trimShed d)
  | .dramLane g l =>
    (match replaceLane s.units.dramMap (2 * g) 72 l (gone (.dramLane g)) with
     | some m => s.recordUnits { mu with dramMap := m, retraining := u :: s.units.retraining } (fun x => x)
     | none =>
       if s.units.eccGroups.contains g then { s with units := { mu with deadGroups := (g :: s.units.deadGroups).dedup } }
       else ({ s with units := { mu with eccGroups := g :: s.units.eccGroups } } : State).exhaust 10)
  | .linkLane p l =>
    (match replaceLane s.units.linkMap (2 * p) 8 l (gone (.linkLane p)) with
     | some m => s.recordUnits { mu with linkMap := m, retraining := u :: s.units.retraining } State.reach
     | none => ({ s with units := { mu with narrowPorts := (p :: s.units.narrowPorts).dedup } } : State).exhaust 11)
/-- SELF_TEST: each unit that fails is retired, at boot and every 24 hours from then on (R425, R430). -/
def execSelfTest (failed : List PkgUnit) (s : State) : Host.Outcome State Fault Refusal :=
  .next (if s.boot == .verified then failed.foldl State.retire s.bringUp
    else if s.hostPort && decide (s.selfTestAt + 86400000000000 ≤ s.clk) then failed.foldl State.retire { s with selfTestAt := s.clk }
    else s)
/-- The class of a unit, as the thresholds are numbered. -/
def unitClass : PkgUnit → Nat
  | .yard _ _ => 0 | .sysCore _ => 1 | .copyEngine _ => 2 | .way _ _ => 3 | .dramLane _ _ => 4 | .linkLane _ _ => 5
/-- Corrected errors of a unit in the last hour exceed the threshold of its class, if Turjo has set one (R430). -/
def State.pastThreshold (s : State) (u : PkgUnit) : Bool :=
  let n := ((s.units.corrected.filter (fun x => x.1 == u && decide (s.now < x.2.1 + 3600000000000))).map (fun x => x.2.2)).sum
  match s.units.thresholds.find? (·.1 == unitClass u) with | some t => decide (t.2 < n) | none => false
/-- CORRECTED_ERROR_THRESHOLD (R430). -/
def execCorrectedErrorThreshold (u : PkgUnit) (s : State) : Host.Outcome State Fault Refusal :=
  .next (if s.pastThreshold u then
      { s.retire u with units := { (s.retire u).units with corrected := s.units.corrected.filter (fun x => x.1 != u) } }
    else s)
/-- Turjo sets the threshold of a class (R430). -/
def State.setThreshold (s : State) (cls n : Nat) : State :=
  { s with units := { s.units with thresholds := s.units.thresholds.filter (·.1 != cls) ++ [(cls, n)] } }
/-- RETRAIN_COMPLETE: the group or port carries traffic again (R430). -/
def execRetrainComplete (u : PkgUnit) (s : State) : Host.Outcome State Fault Refusal :=
  .next ({ s with units := { s.units with retraining := s.units.retraining.filter (· != u) } } : State).reach
/-- Units in service of each class of HEALTH.EXH, as a record holds them, reach the number of R430; of lanes, some spare of
every group or port is free. -/
def CfgRec.full (r : CfgRec) (bit : Nat) : Bool :=
  let n := fun {k : Nat} (w : BitVec k) (lo m : Nat) => ((List.range m).filter (fun j => w.getLsbD (lo + j))).length
  let lanes := fun (m : List Byte) (k : Nat) => (List.range k).all (fun g => m.getD (2 * g) 0xFF == 0xFF || m.getD (2 * g + 1) 0xFF == 0xFF)
  if bit < 4 then decide (8 ≤ n r.yards (9 * bit) 9) else if bit = 4 then decide (16 ≤ n r.sysc 0 18)
  else if bit = 5 then decide (16 ≤ n r.copy 0 18) else if bit < 10 then decide (16 ≤ n r.ways (18 * (bit - 6)) 18)
  else if bit = 10 then lanes r.dramMap 256 else lanes r.linkMap 24
/-- A unit that a record names in service, or a lane of a group or port whose spares it leaves unused. -/
def CfgRec.serves (r : CfgRec) (u : PkgUnit) : Bool :=
  match u with
  | .yard d y => r.yards.getLsbD (9 * d + y)
  | .sysCore k => r.sysc.getLsbD k
  | .copyEngine k => r.copy.getLsbD k
  | .way d w => r.ways.getLsbD (18 * d + w)
  | .dramLane g _ => r.dramMap.getD (2 * g) 0xFF == 0xFF && r.dramMap.getD (2 * g + 1) 0xFF == 0xFF
  | .linkLane p _ => r.linkMap.getD (2 * p) 0xFF == 0xFF && r.linkMap.getD (2 * p + 1) 0xFF == 0xFF
/-- CONFIG_RECORD_SERVICE: a record written at vendor service; its units serve again, and the condition is cleared in each
class that the record fills (R431; log 94). -/
def execConfigRecordService (r : CfgRec) (s : State) : Host.Outcome State Fault Refusal :=
  let exh := BitVec.ofNat 12 (((List.range 12).map (fun b => if s.healthExh.getLsbD b && !CfgRec.full r b then 2 ^ b else 0)).sum)
  let spare := fun (m : List Byte) (g : Nat) => m.getD (2 * g) 0xFF == 0xFF || m.getD (2 * g + 1) 0xFF == 0xFF
  .next (if !CfgRec.sized r then s else s.writeCfg r (fun x => { x with
    units := { Units.ofCfg r with
      retired := s.units.retired.filter (fun u => !CfgRec.serves r u)
      eccGroups := s.units.eccGroups.filter (fun g => !spare r.dramMap g)
      deadGroups := s.units.deadGroups.filter (fun g => !spare r.dramMap g)
      narrowPorts := s.units.narrowPorts.filter (fun p => !spare r.linkMap p)
      thresholds := s.units.thresholds }
    healthReplace := s.healthReplace && decide (exh ≠ 0), healthExh := exh }))

/-! ### Clocks, power and cooling (R433, R435) -/

/-- A frequency step begins: the cycle counter holds its value until the clock has relocked. -/
def State.relockTo (s : State) (die q : Nat) : State :=
  s.updDie die (fun d => if d.relock.isNone && d.code == q then d else { d with cycles := s.cycles die, relock := some q })
/-- DIEFREQ: a write of 14 or 15 is ignored (R433); while a thermal trip lasts the dies are held at 0.8 GHz (R435). -/
def State.diefreq (s : State) (die : Nat) (v : W64) : State :=
  let q := (bits v 3 0).toNat
  if 4 ≤ die || 14 ≤ q then s else
  (s.updDie die (fun d => { d with setCode := q })).relockTo die (if s.tripHold then 0 else q)
def execDiefreqWrite (die : Nat) (value : W64) (s : State) : Host.Outcome State Fault Refusal :=
  .next (if s.hostPort then s.diefreq die value else s)
/-- RELOCK_COMPLETE: the new frequency takes effect and the step is captured; the log keeps 64 (R418, R433). -/
def Die.relocked (d : Die) (now : Nat) : Die :=
  match d.relock with
  | none => d
  | some q =>
    let r : StepRec := { num := ((d.steps.getLast?).map StepRec.num).getD 0 + 1, time := now, cycle := d.cycles, old := d.code, new := q }
    { d with code := q, relock := none, cycAt := now, steps := (d.steps ++ [r]).drop (d.steps.length + 1 - 64) }
def execRelockComplete (die : Nat) (s : State) : Host.Outcome State Fault Refusal := .next (s.updDie die (fun d => d.relocked s.now))

/-- A die is lowered by one step. -/
def State.lower (s : State) (die : Nat) : State :=
  let d := s.die die
  let q := d.relock.getD d.code
  if q = 0 then s else s.relockTo die (q - 1)
/-- The last lowering is 100 µs old. -/
def State.paced (s : State) : Bool := match s.loweredAt with | some t => decide (t + 100000 ≤ s.clk) | none => true
/-- POWER_SAMPLE: watts over 10 ms and 1 ms, and each die's temperature in °C (R435). A die so lowered goes up again only when Turjo
writes its frequency or a trip ends: DESIGN CHOICE (log 107). -/
def State.powerSample (s0 : State) (mean10 mean1 : Nat) (temps : List Nat) : State :=
  let s : State := { s0 with temps := temps }
  if temps.any (fun t => decide (115 ≤ t)) then
    -- a context that is stopped already stays stopped for its own reason
    let s1 : State := { s with healthTrip := true, tripHold := true
                               ctxs := s.ctxs.map (fun c => { c with stopped := true, thermal := c.thermal || !c.stopped }) }
    (List.range 4).foldl (fun x d => x.relockTo d 0) s1
  else if s.tripHold then s
  else if !s.paced then s
  else
    let all := if 2600 < mean1 then List.range 4 else []
    let top := s.dies.foldl (fun m d => max m d.code) 0
    let one := if all.isEmpty && decide (2200 < mean10) then ((List.range 4).filter (fun d => (s.die d).code == top)).take 1 else []
    let hot := (List.range 4).filter (fun d => decide (100 < temps.getD d 0))
    let ds := (all ++ one ++ hot).dedup
    if ds.isEmpty then s else { ds.foldl State.lower s with loweredAt := some s.clk }
def execPowerSample (mean10 mean1 : Nat) (temps : List Nat) (s : State) : Host.Outcome State Fault Refusal :=
  .next (s.powerSample mean10 mean1 temps)
/-- Below 95 °C Turjo resumes the contexts that the trip stopped, and the dies return to the codes it set (R435). -/
def State.thermalResume (s : State) : State :=
  if !s.tripHold || s.temps.any (fun t => decide (95 ≤ t)) then s else
  let s1 := ((s.ctxs.filter (·.thermal)).map Context.id).foldl State.resumeCtx { s with tripHold := false }
  (List.range 4).foldl (fun x d => x.relockTo d (x.die d).setCode) s1

/-! ### The registers of BAR0, function 0 (R432, R440) -/

def popc {n : Nat} (w : BitVec n) (lo k : Nat) : Nat := ((List.range k).filter (fun j => w.getLsbD (lo + j))).length
def State.ident (s : State) : W64 := (0x0009 : BitVec 16) ++ Config.identStep ++ BitVec.ofNat 6 s.pkg ++ (0 : BitVec 2) ++ Config.identSerial
def State.throttle (s : State) : Bool := s.dies.any (fun d => decide (d.code < d.setCode))
def State.health (s : State) : W64 :=
  (0 : BitVec 32) ++ bit1 s.healthReplace ++ bit1 s.healthTrip ++ bit1 s.throttle ++ (0 : BitVec 1) ++ BitVec.ofNat 4 s.healthBoot
    ++ (0 : BitVec 12) ++ s.healthExh
def State.cap (s : State) : W64 :=
  let y := fun (d : Nat) => BitVec.ofNat 4 (popc s.units.yards (9 * d) 9)
  let w := fun (d : Nat) => BitVec.ofNat 5 (popc s.units.ways (18 * d) 18)
  (0 : BitVec 8) ++ y 3 ++ y 2 ++ y 1 ++ y 0 ++ BitVec.ofNat 8 (popc s.units.sysc 0 18) ++ BitVec.ofNat 8 (popc s.units.copy 0 18)
    ++ w 3 ++ w 2 ++ w 1 ++ w 0 ++ (0 : BitVec 4)
/-- What a read of BAR0 of function 0 returns (R440). -/
def State.readBar0 (s : State) (off : Nat) : W64 :=
  if off = 0 then s.ident else if off = 8 then s.health else if off = 16 then s.cap else if off = 24 then s.cecnt
  else if 0x40 ≤ off ∧ off < 0x60 ∧ off % 8 = 0 then BitVec.ofNat 64 (s.die ((off - 0x40) / 8)).setCode else 0
/-- BAR0 of a virtual function: the fault log's address and $flov (R420). -/
def State.readStatus (s : State) (c off : Nat) : W64 :=
  if off = 0 then (s.ctx c).faultLog.getD 0 else if off = 8 then (s.ctx c).flov.zeroExtend 64 else 0
/-- HEALTH: bit 30 is W1C, the rest read-only. -/
def State.writeHealth (s : State) (v : W64) : State := if isSet v 30 then { s with healthTrip := false } else s
def State.writeCecnt (s : State) (v : W64) : State := { s with cecnt := s.cecnt &&& ~~~v }
def execHealthWrite (value : W64) (s : State) : Host.Outcome State Fault Refusal := .next (if s.hostPort then s.writeHealth value else s)
def execCecntWrite (value : W64) (s : State) : Host.Outcome State Fault Refusal := .next (if s.hostPort then s.writeCecnt value else s)
/-- A read of BAR0 by the host, or by Turjo: function 0's registers, or the status of a virtual function (R420, R440). -/
def State.bar0Read (s : State) (fn off : Nat) : State :=
  if !s.hostPort then s
  else if 65536 ≤ off then s.reply none
  else if fn = 0 then s.reply (some (s.readBar0 off).toNat)
  else if s.hasCtx fn then s.reply (some (s.readStatus fn off).toNat)
  else s.reply none
/-- REGISTER_WRITE: the register's access codes hold; read-only registers and other offsets ignore it (R9, R440). -/
def execRegisterWrite (off : Nat) (value : W64) (s : State) : Host.Outcome State Fault Refusal :=
  .next (if !s.hostPort then s else if off = 8 then s.writeHealth value else if off = 24 then s.writeCecnt value
    else if 0x40 ≤ off ∧ off < 0x60 ∧ off % 8 = 0 then s.diefreq ((off - 0x40) / 8) value else s)
/-- ECC has corrected n errors of a class: its count saturates (R432). Those of a unit's arrays are kept for an hour, for its
threshold (R430). -/
def State.countCorrected (s : State) (cls n : Nat) (u : Option PkgUnit) : State :=
  if 4 ≤ cls then s else
  let old := (s.cecnt.toNat / 2 ^ (16 * cls)) % 65536
  let new := min 65535 (old + n)
  let live := s.units.corrected.filter (fun x => decide (s.now < x.2.1 + 3600000000000))
  { s with cecnt := s.cecnt + BitVec.ofNat 64 ((new - old) * 2 ^ (16 * cls))
           units := { s.units with corrected := match u with | some k => live ++ [(k, s.now, n)] | none => live } }

/-! ### Grants by Turjo (R199, R352, R360) -/

/-- SHED_WAY_GRANT: up to 8 ways of a die in all, 7 with 15 in service; a withdrawal changes no value. -/
def execShedWayGrant (ctx die ways : Nat) (s : State) : Host.Outcome State Fault Refusal :=
  let others := ((s.ctxs.filter (fun c => c.id != ctx)).map (fun c => c.shed.getD die 0)).sum
  .next (if 4 ≤ die || !s.hasCtx ctx || decide (s.shedLimit die < others + ways) then s
    else s.setShed ctx die ways)
/-- INCUMBENT_CELL_ALLOCATE (R360). -/
def execIncumbentCellAllocate (ctx cell : Nat) (s : State) : Host.Outcome State Fault Refusal :=
  .next (if !s.hasCtx ctx || (s.cell cell).owner.isSome then s else s.updCell cell (fun _ => { Cell.reset with owner := some ctx }))
/-- Turjo allocates a histogram under a number of the context; it holds one bin until it is configured (R352). -/
def State.histAllocate (s : State) (h ctx num : Nat) : State :=
  if !s.hasCtx ctx || 16 ≤ num || s.hists.any (fun x => match x with | some y => y.ctx == ctx && y.num == num | none => false)
    || (s.hists.getD h none).isSome then s
  else { s with hists := s.hists.set h (some { ctx := ctx, num := num, nb := 1, bins := [] }) }

end Sys2Proof.Machine
end

