-- ==== Sys2Proof/Machine/Dispatch.lean ====
section
/-! DEFINITION. The dispatch: one arm for each constructor of `Instr`, each one call of that row's meaning. -/

namespace Sys2Proof.Machine

def exec (i : Instr) (s : State) : Host.Outcome State Fault Refusal :=
  match i with
  | .iadd w x => Sys2Proof.Machine.execIadd w x s
  | .isub w x => Sys2Proof.Machine.execIsub w x s
  | .imul w x => Sys2Proof.Machine.execImul w x s
  | .imulh v x => Sys2Proof.Machine.execImulh v x s
  | .imad w x => Sys2Proof.Machine.execImad w x s
  | .idiv v x => Sys2Proof.Machine.execIdiv v x s
  | .irem v x => Sys2Proof.Machine.execIrem v x s
  | .imin v x => Sys2Proof.Machine.execImin v x s
  | .imax v x => Sys2Proof.Machine.execImax v x s
  | .iabs x => Sys2Proof.Machine.execIabs x s
  | .and x => Sys2Proof.Machine.execAnd x s
  | .or x => Sys2Proof.Machine.execOr x s
  | .xor x => Sys2Proof.Machine.execXor x s
  | .not x => Sys2Proof.Machine.execNot x s
  | .shl x => Sys2Proof.Machine.execShl x s
  | .shr v x => Sys2Proof.Machine.execShr v x s
  | .rot x => Sys2Proof.Machine.execRot x s
  | .bfx v x => Sys2Proof.Machine.execBfx v x s
  | .bfi x => Sys2Proof.Machine.execBfi x s
  | .popc x => Sys2Proof.Machine.execPopc x s
  | .clz x => Sys2Proof.Machine.execClz x s
  | .ctz x => Sys2Proof.Machine.execCtz x s
  | .iclamp v x => Sys2Proof.Machine.execIclamp v x s
  | .sel x => Sys2Proof.Machine.execSel x s
  | .mov x => Sys2Proof.Machine.execMov x s
  | .movi x => Sys2Proof.Machine.execMovi x s
  | .movhi x => Sys2Proof.Machine.execMovhi x s
  | .lea x => Sys2Proof.Machine.execLea x s
  | .addi x => Sys2Proof.Machine.execAddi x s
  | .imulw v x => Sys2Proof.Machine.execImulw v x s
  | .bswap x => Sys2Proof.Machine.execBswap x s
  | .brev x => Sys2Proof.Machine.execBrev x s
  | .cmp cc x => Sys2Proof.Machine.execCmp cc x s
  | .pand x => Sys2Proof.Machine.execPand x s
  | .por x => Sys2Proof.Machine.execPor x s
  | .pnot x => Sys2Proof.Machine.execPnot x s
  | .ppop x => Sys2Proof.Machine.execPpop x s
  | .ptest x => Sys2Proof.Machine.execPtest x s
  | .bra x => Sys2Proof.Machine.execBra x s
  | .brx x => Sys2Proof.Machine.execBrx x s
  | .call x => Sys2Proof.Machine.execCall x s
  | .callx x => Sys2Proof.Machine.execCallx x s
  | .ret x => Sys2Proof.Machine.execRet x s
  | .splice x => Sys2Proof.Machine.execSplice x s
  | .exit x => Sys2Proof.Machine.execExit x s
  | .loop x => Sys2Proof.Machine.execLoop x s
  | .nop x => Sys2Proof.Machine.execNop x s
  | .movix x => Sys2Proof.Machine.execMovix x s
  | .range x => Sys2Proof.Machine.execRange x s
  | .formq x => Sys2Proof.Machine.execFormq x s
  | .laydn x => Sys2Proof.Machine.execLaydn x s
  | .yield x => Sys2Proof.Machine.execYield x s
  | .kpoint x => Sys2Proof.Machine.execKpoint x s
  | .ld v x => Sys2Proof.Machine.execLd v x s
  | .st v x => Sys2Proof.Machine.execSt v x s
  | .lds v x => Sys2Proof.Machine.execLds v x s
  | .sts v x => Sys2Proof.Machine.execSts v x s
  | .pref x => Sys2Proof.Machine.execPref x s
  | .cpsIn x => Sys2Proof.Machine.execCpsIn x s
  | .cpsOut x => Sys2Proof.Machine.execCpsOut x s
  | .rngwait x => Sys2Proof.Machine.execRngwait x s
  | .rngfree x => Sys2Proof.Machine.execRngfree x s
  | .rngfill x => Sys2Proof.Machine.execRngfill x s
  | .rngclaim x => Sys2Proof.Machine.execRngclaim x s
  | .rngcfgConfigure x => Sys2Proof.Machine.execRngcfgConfigure x s
  | .rngcfgQuery x => Sys2Proof.Machine.execRngcfgQuery x s
  | .ringWaiterRetest isEngine id lane => Sys2Proof.Machine.execRingWaiterRetest isEngine id lane s
  | .atom op x => Sys2Proof.Machine.execAtom op x s
  | .cas w x => Sys2Proof.Machine.execCas w x s
  | .atomf t x => Sys2Proof.Machine.execAtomf t x s
  | .waita x => Sys2Proof.Machine.execWaita x s
  | .waitaTimeout gid lane => Sys2Proof.Machine.execWaitaTimeout gid lane s
  | .waitaDeviceWake gid lane => Sys2Proof.Machine.execWaitaDeviceWake gid lane s
  | .wake x => Sys2Proof.Machine.execWake x s
  | .barArriveWait sc x => Sys2Proof.Machine.execBarArriveWait sc x s
  | .barWait sc x => Sys2Proof.Machine.execBarWait sc x s
  | .bararv sc x => Sys2Proof.Machine.execBararv sc x s
  | .barrierWaitEnd gid lane => Sys2Proof.Machine.execBarrierWaitEnd gid lane s
  | .gather w x => Sys2Proof.Machine.execGather w x s
  | .scatter w x => Sys2Proof.Machine.execScatter w x s
  | .scata t x => Sys2Proof.Machine.execScata t x s
  | .rmapset x => Sys2Proof.Machine.execRmapset x s
  | .engfence x => Sys2Proof.Machine.execEngfence x s
  | .fadd t x => Sys2Proof.Machine.execFadd t x s
  | .fsub t x => Sys2Proof.Machine.execFsub t x s
  | .fmul t x => Sys2Proof.Machine.execFmul t x s
  | .fma t x => Sys2Proof.Machine.execFma t x s
  | .fdiv t x => Sys2Proof.Machine.execFdiv t x s
  | .fsqrt t x => Sys2Proof.Machine.execFsqrt t x s
  | .frcp x => Sys2Proof.Machine.execFrcp x s
  | .frsq x => Sys2Proof.Machine.execFrsq x s
  | .fexp2 x => Sys2Proof.Machine.execFexp2 x s
  | .flog2 x => Sys2Proof.Machine.execFlog2 x s
  | .fmin t x => Sys2Proof.Machine.execFmin t x s
  | .fmax t x => Sys2Proof.Machine.execFmax t x s
  | .fcmp cc t x => Sys2Proof.Machine.execFcmp cc t x s
  | .cvt v x => Sys2Proof.Machine.execCvt v x s
  | .frnd m t x => Sys2Proof.Machine.execFrnd m t x s
  | .red op x => Sys2Proof.Machine.execRed op x s
  | .scan op x => Sys2Proof.Machine.execScan op x s
  | .shfl m x => Sys2Proof.Machine.execShfl m x s
  | .vote m x => Sys2Proof.Machine.execVote m x s
  | .elect x => Sys2Proof.Machine.execElect x s
  | .convergentWindowExpiry gid pc => Sys2Proof.Machine.execConvergentWindowExpiry gid pc s
  | .bspack f x => Sys2Proof.Machine.execBspack f x s
  | .bsunpk f x => Sys2Proof.Machine.execBsunpk f x s
  | .lmul x => Sys2Proof.Machine.execLmul x s
  | .lacc x => Sys2Proof.Machine.execLacc x s
  | .bplane w x => Sys2Proof.Machine.execBplane w x s
  | .qdot v x => Sys2Proof.Machine.execQdot v x s
  | .mmap v x => Sys2Proof.Machine.execMmap v x s
  | .mmaf v x => Sys2Proof.Machine.execMmaf v x s
  | .mmal x => Sys2Proof.Machine.execMmal x s
  | .mmasp v x => Sys2Proof.Machine.execMmasp v x s
  | .mwait x => Sys2Proof.Machine.execMwait x s
  | .accz x => Sys2Proof.Machine.execAccz x s
  | .accld x => Sys2Proof.Machine.execAccld x s
  | .accst x => Sys2Proof.Machine.execAccst x s
  | .drain v x => Sys2Proof.Machine.execDrain v x s
  | .gangset x => Sys2Proof.Machine.execGangset x s
  | .hitch x => Sys2Proof.Machine.execHitch x s
  | .gangtoExpiry pen => Sys2Proof.Machine.execGangtoExpiry pen s
  | .rpred x => Sys2Proof.Machine.execRpred x s
  | .rcheck x => Sys2Proof.Machine.execRcheck x s
  | .rgath x => Sys2Proof.Machine.execRgath x s
  | .mprog x => Sys2Proof.Machine.execMprog x s
  | .mcancel x => Sys2Proof.Machine.execMcancel x s
  | .engineQueueRoom gid => Sys2Proof.Machine.execEngineQueueRoom gid s
  | .rangeLockIssueRetry gid => Sys2Proof.Machine.execRangeLockIssueRetry gid s
  | .engineOpStart op => Sys2Proof.Machine.execEngineOpStart op s
  | .engineOpCompletion op => Sys2Proof.Machine.execEngineOpCompletion op s
  | .qpush x => Sys2Proof.Machine.execQpush x s
  | .qpop x => Sys2Proof.Machine.execQpop x s
  | .queueWaiterRetest gid lane => Sys2Proof.Machine.execQueueWaiterRetest gid lane s
  | .copyD1 x => Sys2Proof.Machine.execCopyD1 x s
  | .copyD2 x => Sys2Proof.Machine.execCopyD2 x s
  | .copyGather x => Sys2Proof.Machine.execCopyGather x s
  | .spawnRange x => Sys2Proof.Machine.execSpawnRange x s
  | .spawnSingle x => Sys2Proof.Machine.execSpawnSingle x s
  | .binTimerExpiry die ctx entry => Sys2Proof.Machine.execBinTimerExpiry die ctx entry s
  | .spawnBinFree gid => Sys2Proof.Machine.execSpawnBinFree gid s
  | .cont x => Sys2Proof.Machine.execCont x s
  | .continuationResume ctx addr pen => Sys2Proof.Machine.execContinuationResume ctx addr pen s
  | .depset x => Sys2Proof.Machine.execDepset x s
  | .depdec x => Sys2Proof.Machine.execDepdec x s
  | .depActionPush id => Sys2Proof.Machine.execDepActionPush id s
  | .graphrun x => Sys2Proof.Machine.execGraphrun x s
  | .graphNodeFire run node => Sys2Proof.Machine.execGraphNodeFire run node s
  | .graphRunEnd run => Sys2Proof.Machine.execGraphRunEnd run s
  | .condw x => Sys2Proof.Machine.execCondw x s
  | .histadd x => Sys2Proof.Machine.execHistadd x s
  | .histlatchLatch x => Sys2Proof.Machine.execHistlatchLatch x s
  | .histlatchConfigure x => Sys2Proof.Machine.execHistlatchConfigure x s
  | .wsdecl x => Sys2Proof.Machine.execWsdecl x s
  | .incupd x => Sys2Proof.Machine.execIncupd x s
  | .incrdKey x => Sys2Proof.Machine.execIncrdKey x s
  | .incrdCounters x => Sys2Proof.Machine.execIncrdCounters x s
  | .incumbentKeyPropagate cell loc => Sys2Proof.Machine.execIncumbentKeyPropagate cell loc s
  | .tbsetNextTask x => Sys2Proof.Machine.execTbsetNextTask x s
  | .tbsetOwnTask x => Sys2Proof.Machine.execTbsetOwnTask x s
  | .tbsetNextCounter x => Sys2Proof.Machine.execTbsetNextCounter x s
  | .stage x => Sys2Proof.Machine.execStage x s
  | .pflag x => Sys2Proof.Machine.execPflag x s
  | .govsetQueue x => Sys2Proof.Machine.execGovsetQueue x s
  | .govsetThresholds x => Sys2Proof.Machine.execGovsetThresholds x s
  | .govsetControl x => Sys2Proof.Machine.execGovsetControl x s
  | .governorPeriod launch => Sys2Proof.Machine.execGovernorPeriod launch s
  | .killtParked x => Sys2Proof.Machine.execKilltParked x s
  | .killtSelf x => Sys2Proof.Machine.execKilltSelf x s
  | .cycrd v x => Sys2Proof.Machine.execCycrd v x s
  | .trap x => Sys2Proof.Machine.execTrap x s
  | .assert x => Sys2Proof.Machine.execAssert x s
  | .syscall x => Sys2Proof.Machine.execSyscall x s
  | .syscallReply gid lane result => Sys2Proof.Machine.execSyscallReply gid lane result s
  | .brk x => Sys2Proof.Machine.execBrk x s
  | .rdsr x => Sys2Proof.Machine.execRdsr x s
  | .wrsr x => Sys2Proof.Machine.execWrsr x s
  | .eretHandler x => Sys2Proof.Machine.execEretHandler x s
  | .eretResume x => Sys2Proof.Machine.execEretResume x s
  | .clauseStart gid => Sys2Proof.Machine.execClauseStart gid s
  | .laneRowGrant gid => Sys2Proof.Machine.execLaneRowGrant gid s
  | .spliceWaitExpiry gid => Sys2Proof.Machine.execSpliceWaitExpiry gid s
  | .memoryOpCompletion op => Sys2Proof.Machine.execMemoryOpCompletion op s
  | .turjoService handle act => Sys2Proof.Machine.execTurjoService handle act s
  | .contextStop ctx => Sys2Proof.Machine.execContextStop ctx s
  | .contextResume ctx => Sys2Proof.Machine.execContextResume ctx s
  | .launchPacket ctx queue => Sys2Proof.Machine.execLaunchPacket ctx queue s
  | .graphRunPacket ctx queue => Sys2Proof.Machine.execGraphRunPacket ctx queue s
  | .copyQueuePacket ctx queue => Sys2Proof.Machine.execCopyQueuePacket ctx queue s
  | .placeMember die => Sys2Proof.Machine.execPlaceMember die s
  | .reservationExpiry member => Sys2Proof.Machine.execReservationExpiry member s
  | .coreWake core => Sys2Proof.Machine.execCoreWake core s
  | .penSave pen => Sys2Proof.Machine.execPenSave pen s
  | .penRestore pen yard => Sys2Proof.Machine.execPenRestore pen yard s
  | .savedImageCompletion op => Sys2Proof.Machine.execSavedImageCompletion op s
  | .taskEnd task => Sys2Proof.Machine.execTaskEnd task s
  | .deviceAccessRetry id act => Sys2Proof.Machine.execDeviceAccessRetry id act s
  | .stagingTransfer task => Sys2Proof.Machine.execStagingTransfer task s
  | .lostWriteback line ctx die shed => Sys2Proof.Machine.execLostWriteback line ctx die shed s
  | .shootdownComplete id => Sys2Proof.Machine.execShootdownComplete id s
  | .vfReset ctx => Sys2Proof.Machine.execVfReset ctx s
  | .pfFlr => Sys2Proof.Machine.execPfFlr s
  | .vfEnable ctx init => Sys2Proof.Machine.execVfEnable ctx init s
  | .vfDisable ctx => Sys2Proof.Machine.execVfDisable ctx s
  | .bar2Access ctx off size write => Sys2Proof.Machine.execBar2Access ctx off size write s
  | .hostAtomicop ctx off op wide operand compare => Sys2Proof.Machine.execHostAtomicop ctx off op wide operand compare s
  | .gangLaunchStart ctx addr => Sys2Proof.Machine.execGangLaunchStart ctx addr s
  | .gangLaunchTimeout ctx addr => Sys2Proof.Machine.execGangLaunchTimeout ctx addr s
  | .flitReceive port bytes => Sys2Proof.Machine.execFlitReceive port bytes s
  | .replayRequest port expected => Sys2Proof.Machine.execReplayRequest port expected s
  | .replayTimeout port => Sys2Proof.Machine.execReplayTimeout port s
  | .packageLeaveDomain pkg => Sys2Proof.Machine.execPackageLeaveDomain pkg s
  | .domainJoin pkg timer => Sys2Proof.Machine.execDomainJoin pkg timer s
  | .powerGood b => Sys2Proof.Machine.execPowerGood b s
  | .dhcpv6Timeout b => Sys2Proof.Machine.execDhcpv6Timeout b s
  | .recoveryRetry b => Sys2Proof.Machine.execRecoveryRetry b s
  | .selfTest failed => Sys2Proof.Machine.execSelfTest failed s
  | .diefreqWrite die value => Sys2Proof.Machine.execDiefreqWrite die value s
  | .relockComplete die => Sys2Proof.Machine.execRelockComplete die s
  | .powerSample mean10 mean1 temps => Sys2Proof.Machine.execPowerSample mean10 mean1 temps s
  | .healthWrite value => Sys2Proof.Machine.execHealthWrite value s
  | .cecntWrite value => Sys2Proof.Machine.execCecntWrite value s
  | .registerWrite off value => Sys2Proof.Machine.execRegisterWrite off value s
  | .sampleTag d => Sys2Proof.Machine.execSampleTag d s
  | .foldWindowExpiry gid pc => Sys2Proof.Machine.execFoldWindowExpiry gid pc s
  | .unassignedOpcode w => Sys2Proof.Machine.execUnassignedOpcode w s
  | .priorityAging member => Sys2Proof.Machine.execPriorityAging member s
  | .powerLoss midWrite => Sys2Proof.Machine.execPowerLoss midWrite s
  | .correctedErrorThreshold u => Sys2Proof.Machine.execCorrectedErrorThreshold u s
  | .retrainComplete u => Sys2Proof.Machine.execRetrainComplete u s
  | .debuggerResume handle kill => Sys2Proof.Machine.execDebuggerResume handle kill s
  | .shedWayGrant ctx die ways => Sys2Proof.Machine.execShedWayGrant ctx die ways s
  | .incumbentCellAllocate ctx cell => Sys2Proof.Machine.execIncumbentCellAllocate ctx cell s
  | .gangLaunchAck ctx addr pkg => Sys2Proof.Machine.execGangLaunchAck ctx addr pkg s
  | .configRecordService r => Sys2Proof.Machine.execConfigRecordService r s

end Sys2Proof.Machine
end

