-- ==== Sys2Proof/Machine/Sched.lean ====
section
/-! DEFINITION. What happens next: an input that has arrived, an event that is due, a group that issues, an event of the
device, or nothing (log 3, 4). An event that has nothing to do leaves the state as it is, and is never chosen. -/

namespace Sys2Proof.Machine

/-! ### Inputs (log 3) -/

/-- Turjo edits page-table entries: accesses may use the old entries until a shoot-down that follows has completed (R204,
R438). -/
def State.tableEdit (s : State) (ctx : Nat) (lo hi : W64) (stores : List SysStore) (sysc : Nat) : State :=
  (s.noteEdit ctx lo hi stores sysc).sysStores stores
/-- Turjo issues a translation shoot-down, which is logged (R204, R438). -/
def State.shootDown (s : State) (ctx : Nat) (lo hi : W64) (sysc : Nat) : State :=
  { s.bump with
    shoots := s.shoots ++ [⟨s.fresh, ctx, lo, hi, [], sysc, s.now, some s.shootLog.length⟩]
    shootLog := s.shootLog ++ [shootRecord lo hi ctx (s.ctx ctx).pid 0 s.now 0 sysc 1] }
/-- A WAKE of another package chooses the oldest waiter here: its wait ends (R238). -/
def State.peerWake (s : State) (c pa : Nat) : State :=
  match (s.waitersAt c (.phys pa)).find? (fun w => match w.1 with | .here _ _ => true | .peer _ => false) with
  | some w => s.endWait w.1
  | none => s
/-- A thread of another package begins to wait at an address, or ends its wait (R238). -/
def State.peerWait (s : State) (c pa : Nat) (begins : Bool) : State :=
  if begins then { s.bump with peerWaits := s.peerWaits ++ [⟨c, pa, s.fresh⟩] }
  else { s with peerWaits := s.peerWaits.eraseP (fun w => w.ctx == c && w.pa == pa) }
/-- The effect of an input that is no event of the table. -/
def State.applyInput (s : State) (x : Input) : State :=
  match x with
  | .event _ => s
  | .corrupt line => { s with poison := (line :: s.poison).dedup }
  | .corruptScratch pen line => s.updPen pen (fun p => { p with bad := (line :: p.bad).dedup })
  | .corrected cls n unit => s.countCorrected cls n unit
  | .unitError u => s.retire u
  | .threshold cls n => s.setThreshold cls n
  | .writeBack line die => if 4 ≤ die then s else s.writeBack line die
  | .engineAdvance op n => s.engAdvance op n
  | .storeFail copy => { s with storeFails := (copy :: s.storeFails).dedup }
  | .peerStore pa size v => if s.sound pa size then s.writeLoc (.phys pa) size v.toNat else s
  | .peerWait ctx pa begins => s.peerWait ctx pa begins
  | .peerWake ctx pa => s.peerWake ctx pa
  | .tableEdit ctx lo hi stores sysc => s.tableEdit ctx lo hi stores sysc
  | .shootDown ctx lo hi sysc => s.shootDown ctx lo hi sysc
  | .sysStore w sysc => s.sysStore w sysc
  | .histAllocate h ctx num => s.histAllocate h ctx num
  | .stagingShare die n => if 1 ≤ n ∧ n ≤ 8 then s.updDie die (fun d => { d with share := n }) else s
  | .debugger ctx on => s.updCtx ctx (fun c => { c with debugger := on })
  | .thermalResume => s.thermalResume
  | .turjoStart => s.turjoStart
  | .samplePeriod ctx p queue => s.setSampling ctx p queue
  | .msixEntry fn vec addr data => s.setMsix fn vec addr data
  | .bar0Read fn off => s.bar0Read fn off
/-- The head of the agenda arrives after `ns` nanoseconds. -/
def State.arrive (s : State) (ns : Nat) (rest : List (Nat × Input)) : State :=
  { s with agenda := rest, cur := none, now := s.now + ns, draw := s.fresh, fresh := s.fresh + 1 }
/-- An input takes effect. One that names an instruction word is no event, and has none. -/
def State.input (s : State) (x : Input) : State :=
  match x with
  | .event i => (match exec i s with | .next t => t | .fault _ => s | .refused _ => s)
  | y => s.applyInput y

/-! ### Events that time brings -/

/-- Pairs of a group and a thread whose status passes a test. -/
def State.waiting (s : State) (p : Status → Bool) : List (Nat × Thread) :=
  s.groups.flatMap (fun g => (g.threads.filter (fun t => p t.status)).map (fun t => (g.id, t)))
def isWaita : Status → Bool | .waita _ => true | _ => false
def isSpliceSt : Status → Bool | .splice _ _ => true | _ => false
def isConvSt : Status → Bool | .conv _ _ => true | _ => false
/-- A list from its k-th member on, and round. -/
def turnList {α : Type} (l : List α) (k : Nat) : List α := l.drop (k % l.length) ++ l.take (k % l.length)
/-- Events whose time may have come, by kind. -/
def State.timedKinds (s : State) : List (List Instr) :=
  [ (s.waiting isWaita).map (fun p => Instr.waitaTimeout p.1 p.2.lane),
    (s.pens.filter (fun p => !p.hitch.isEmpty)).map (fun p => Instr.gangtoExpiry p.id),
    (List.range s.dies.length).flatMap (fun d => (s.die d).bins.map (fun b => Instr.binTimerExpiry d b.ctx b.entry)),
    (s.waiting isSpliceSt).flatMap (fun p => [Instr.spliceWaitExpiry p.1, Instr.foldWindowExpiry p.1 p.2.hdr]),
    (s.waiting isConvSt).map (fun p => Instr.convergentWindowExpiry p.1 p.2.pc),
    s.reservations.map (fun r => Instr.reservationExpiry r.member),
    s.members.map (fun m => Instr.priorityAging m.id),
    s.gangs.map (fun g => Instr.gangLaunchTimeout g.ctx g.addr),
    ((List.range s.ports.length).filter (fun k => ((s.ports[k]?).bind Port.asked).isSome)).map Instr.replayTimeout,
    s.unreached.map (fun u => Instr.packageLeaveDomain ⟨u.1, false⟩),
    (s.launches.filter (fun l => l.gov.set.enabled)).map (fun l => Instr.governorPeriod l.id) ]

/-! ### Events of the device -/

/-- Local copies of a key that are behind it (R361). -/
def staleCopies (c : Cell) (now : Nat) : List KeyLoc :=
  if c.owner.isNone || (c.base == c.key && c.locals.isEmpty) then [] else
  (((List.range 4).map KeyLoc.die) ++ (List.range 216).map KeyLoc.core).filter (fun l => c.localKey now l != c.key)
def isRingSt : Status → Bool | .ring _ _ _ => true | _ => false
def isPushSt : Status → Bool | .push _ _ _ => true | _ => false
def isBarSt : Status → Bool | .bar _ _ _ _ _ _ => true | _ => false
/-- A group that waits inside a clause asks again (R22, R48, R214, R287). -/
def stallEvent (g : Group) : List Instr :=
  match g.stall with
  | some (.row _) => [.laneRowGrant g.id]
  | some .queue => [.engineQueueRoom g.id]
  | some .range => [.rangeLockIssueRetry g.id]
  | some .bin => [.spawnBinFree g.id]
  | _ => []
/-- Memory-class operations that have not completed, the oldest first; a QPOP of a thread completes by its queue. -/
def State.openOps (s : State) : List Nat :=
  sortBy id (s.groups.flatMap (fun g => g.threads.flatMap (fun t => (t.pend.filter (fun p => !p.engine && p.queue.isNone)).map Pend.op))
    ++ s.conts.flatMap Cont.ops ++ s.lostPops.map LostPop.op).dedup
/-- Waits for a queue: of a QPUSH and of QPOPs. -/
def State.queueWaits (s : State) : List Instr :=
  (s.waiting isPushSt).map (fun p => Instr.queueWaiterRetest p.1 p.2.lane)
    ++ s.groups.flatMap (fun g => (g.threads.filter (fun t => t.pend.any (·.queue.isSome))).map (fun t => Instr.queueWaiterRetest g.id t.lane))
/-- Resumptions of continuation records that wait for nothing. -/
def State.resumptions (s : State) : List Instr :=
  (s.conts.filter (fun k => k.zero && k.ops.isEmpty)).flatMap (fun k =>
    (0 :: (s.pens.filter (fun p => p.launch == k.launch || k.launch == 0)).map Pen.id).map (fun p => Instr.continuationResume k.ctx k.addr p))
/-- Events of waiting threads and engine operations, by kind. -/
def State.waitKinds (s : State) : List (List Instr) :=
  [ s.openOps.map Instr.memoryOpCompletion,
    (s.ops.filter (fun o => !o.started && !o.cancelled && !o.atHitch)).map (fun o => Instr.engineOpStart o.id),
    s.ops.map (fun o => Instr.ringWaiterRetest true o.id 0),
    s.ops.map (fun o => Instr.engineOpCompletion o.id),
    s.groups.flatMap stallEvent,
    (s.waiting isRingSt).map (fun p => Instr.ringWaiterRetest false p.1 p.2.lane),
    s.queueWaits,
    (s.waiting isBarSt).map (fun p => Instr.barrierWaitEnd p.1 p.2.lane) ]
/-- Events of the scheduler, the queues and the walker. -/
def State.schedulerKinds (s : State) : List (List Instr) :=
  [ s.tasks.map (fun t => Instr.taskEnd t.id),
    (s.tasks.filter (fun t => (!t.decls.isEmpty && !t.begun) || !t.jobs.isEmpty)).map (fun t => Instr.stagingTransfer t.id),
    if s.members.isEmpty && decide (s.enlist = s) then [] else (List.range 4).map Instr.placeMember,
    s.ctxs.flatMap (fun c => c.dispatchQueues.flatMap (fun q => [Instr.launchPacket c.id q, Instr.graphRunPacket c.id q])),
    s.ctxs.flatMap (fun c => c.copyQueues.map (fun q => Instr.copyQueuePacket c.id q)),
    s.runs.flatMap (fun r => (r.ready ++ r.arrivals).map (fun a => Instr.graphNodeFire r.id a) ++ [Instr.graphRunEnd r.id]),
    s.depActs.map (fun a => Instr.depActionPush a.id),
    s.resumptions ]
/-- Events of clocks, keys, shoot-downs and spares. -/
def State.packageKinds (s : State) : List (List Instr) :=
  [ ((List.range s.dies.length).filter (fun d => (s.die d).relock.isSome)).map Instr.relockComplete,
    (List.range s.cells.length).flatMap (fun k => (staleCopies (s.cell k) s.now).map (fun l => Instr.incumbentKeyPropagate k l)),
    (s.shoots.filter (fun h => h.logAt.isSome)).map (fun h => Instr.shootdownComplete h.id),
    s.units.retraining.map Instr.retrainComplete,
    ((s.units.corrected.map (fun x => x.1)).dedup).map Instr.correctedErrorThreshold ]

/-! ### The choice (log 4) -/

/-- The first event of a list that has something to do. -/
def State.firstEnabled (s : State) (l : List Instr) : Option Instr :=
  l.find? (fun i => match exec i s with | .next t => decide (t ≠ s) | .fault _ => false | .refused _ => false)
/-- After eight steps without a turn of the device, the device comes first. -/
def State.deviceFirst (s : State) : Bool := decide (8 ≤ s.duty)

/-- What happens next where no input is to come. -/
inductive Turn where
  | issue (gid : Nat)
  | event (i : Instr)
  | device (i : Instr)
  | idle
  deriving DecidableEq, Repr

/-- The next event of some kinds: the n-th turn begins with the n-th kind, and, every other time it comes to a kind, with the next
event of it, else with the first, so that no event that stays enabled is passed over for ever (R56). -/
def State.nextOf (s : State) (ks : List (List Instr)) (n : Nat) : Option Instr :=
  let v := n / ks.length
  (turnList ks n).findSome? (fun l => s.firstEnabled (if v % 2 = 0 then l else turnList l (v / 2)))
def State.deviceEvent (s : State) : Option Instr := s.nextOf (s.waitKinds ++ s.schedulerKinds ++ s.packageKinds) s.devTurn
def State.timedEvent (s : State) : Option Instr := s.nextOf s.timedKinds s.timeTurn
def State.deviceTurn (s : State) : Option Turn := s.deviceEvent.map Turn.device
/-- Events whose time has come and groups that can issue, the one and the other first in turn. -/
def State.coreTurn (s : State) : Option Turn :=
  let due := fun (_ : Unit) => s.timedEvent.map Turn.event
  let group := fun (_ : Unit) => s.nextGroup.map (fun g => Turn.issue g.id)
  if s.duty % 2 = 0 then (due ()).orElse group else (group ()).orElse due
/-- What happens next: the cores and the events that are due, then the device; after eight such steps the device first, so that
neither keeps the other from going on (R56; log 4). -/
def State.schedule (s : State) : Turn :=
  let t := if s.deviceFirst then s.deviceTurn.orElse (fun _ => s.coreTurn) else s.coreTurn.orElse (fun _ => s.deviceTurn)
  t.getD .idle

/-- The group issues the word its clause has reached, or starts a clause. -/
def issue (gid : Nat) (s : State) : Host.Outcome State Fault Refusal :=
  match s.issueOf gid with
  | .instr i => exec i (s.beginIssue gid)
  | .illfmt => .next ((s.beginIssue gid).rejectWord illfmt)

/-! ### A machine that is about to issue one word (log 11) -/

/-- The one-word clause around a word: class 5 admits every block, and no flag is set or waited for. -/
def fetchHeader : Header := { ecl := 5, cnt := 0, wait := 0, seta := 15, setb := 15, yld := false, lit := 0 }
abbrev fetchAt : Nat := 0x1000
/-- A launch of one index, whose strand has read the clause and stands at its word. -/
def fetchLaunch : Launch := { Launch.blank with id := 1, ctx := 1, entry := BitVec.ofNat 64 fetchAt, stk := 0x100000 }
def fetchRun (w : W64) : Run :=
  { hdr := BitVec.ofNat 64 fetchAt, head := fetchHeader, words := [w], pos := 0, sel := [0], from' := 0, conv := false,
    dz2 := false }
def fetchThread (seed : Nat) : Thread := newThread fetchLaunch seed 0 1 0 1 (BitVec.ofNat 64 fetchAt) true none
def fetchGroup (seed : Nat) (w : W64) : Group :=
  { newGroup 1 1 false [fetchThread seed] with place := .slot 0, run := some (fetchRun w) }
def fetchPen : Pen := { Pen.create 1 1 0 0 0 with core := some 0, saved := false }
/-- The context's tables map the first gigabyte to the same physical addresses, with every permission. -/
abbrev fetchRoot : Nat := 0x20000
def fetchCtx : Context := { Context.blank with id := 1, root := fetchRoot }
def fetchMem (m : List Host.Cell) (w : W64) : List Host.Cell :=
  let m1 := Memory.store m fetchRoot 8 0x30001
  let m2 := Memory.store m1 0x30000 8 0x1F
  let m3 := Memory.store m2 fetchAt 8 fetchHeader.encode.toNat
  Memory.store m3 (fetchAt + 8) 8 w.toNat
def State.placeWord (s : State) (w : W64) : State :=
  { s with
    agenda := [], boot := .running, mem := fetchMem s.mem w
    duty := 1
    groups := [fetchGroup s.fresh w], pens := [fetchPen], launches := [fetchLaunch], ctxs := [fetchCtx]
    tasks := [{ Task.blank with id := 1, launch := 1, launchOwn := true }]
    dies := s.dies.map (fun d => { d with relock := none }) }

end Sys2Proof.Machine
end

