-- ==== Sys2Proof/Machine/Step.lean ====
section
/-! DEFINITION. One step of the machine: an input of the agenda, or what the schedule says comes next. -/

namespace Sys2Proof.Machine

def step (s : State) : Host.Outcome State Fault Refusal :=
  match s.agenda with
  | (ns, x) :: rest => .next ((s.arrive ns rest).input x)
  | [] =>
    match s.schedule with
    | .issue gid => issue gid s
    | .event i => exec i s.timeStep
    | .device i => exec i s.devStep
    | .idle => .next s.tick

/-- The machine with the word where the next step issues it. -/
def State.withFetchWord (s : State) (nbits w : Nat) : State := s.placeWord (BitVec.ofNat 64 (w % 2 ^ nbits))

end Sys2Proof.Machine
end

