-- ==== Sys2Proof/Safety.lean ====
section
/-! DEFINITION. The terms in which statements are made: a thread that issues an instruction, the state in which the
instruction has been performed, the canonical form of every memory, and a step that does not stop. -/

namespace Sys2Proof.Machine

/-- Group g issues, at the word its clause r has reached, and t is the one thread it issues for: a strand, or the lane
thread of the one lane selected. -/
structure Issues (s : State) (g : Group) (r : Run) (t : Thread) : Prop where
  cur : s.cur = some g.id
  grp : s.group g.id = g
  run : g.run = some r
  strand : g.lanes = false → g.threads = [t]
  lane : g.lanes = true → r.sel = [t.lane] ∧ r.from' = 0 ∧ g.thread t.lane = some t ∧ t.n = 1

/-- The guard is true for every index of the thread (R31, R441). -/
def GuardTrue (g : Group) (t : Thread) (gd : Guard) : Prop :=
  if g.lanes then t.laneGuard gd = some true else t.guardRuns gd = some [(0, t.n, true)]

/-- Thread t issues instruction i under a guard that is true, and i names no register beyond the launch's (R72). -/
structure Performs (s : State) (g : Group) (r : Run) (t : Thread) (i : Instr) (gd : Guard) : Prop extends Issues s g r t where
  regs : i.regsOk (s.launchOf g.pen).regs = true
  guard : GuardTrue g t gd

/-- The source of an operand as the thread reads it, in the type given. -/
def Thread.reads (t : Thread) (g : Group) (r : Run) (ty : STy) (o : Opd) : Form := t.src (!g.lanes) r.head.lit ty o

/-- It reads a and b, or a, b and c, from the sources of an A-format instruction. -/
def Thread.reads2 (t : Thread) (g : Group) (r : Run) (ty : STy) (x : FmtA) (a b : W64) : Prop :=
  t.reads g r ty x.a = .u a ∧ t.reads g r ty x.b = .u b
def Thread.reads3 (t : Thread) (g : Group) (r : Run) (ty : STy) (x : FmtA) (a b c : W64) : Prop :=
  t.reads2 g r ty x a b ∧ t.reads g r ty x.c = .u c

/-- The thread, changed to t, goes on behind the instruction: at the next word of the clause, or at the next clause
(R58); places that have come free are released and waits at SPLICE are settled. -/
def State.perform (s : State) (g : Group) (r : Run) (t : Thread) : State :=
  ((s.updThread g.id t.lane (fun _ => t)).advance (envOf g r) [t.lane]).settle g.pen

/-- The outcome of a short-latency instruction that gives v and raises fl: D and the newest history entry take v (R69). -/
def State.gives (s : State) (g : Group) (r : Run) (t : Thread) (d : Opd) (v : W64) (fl : Fpx := 0) :
    Host.Outcome State Fault Refusal := .next (s.perform g r ((t.result d (.u v)).orFpx fl))

/-- The outcome of an instruction after which the thread's record is t and nothing else has changed. -/
def State.makes (s : State) (g : Group) (r : Run) (t : Thread) : Host.Outcome State Fault Refusal := .next (s.perform g r t)

/-- The thread, changed to t, has left the clause; where it waits at the clause's first instruction it keeps the words that
it has read (R212). -/
def State.performLeave (s : State) (g : Group) (r : Run) (t : Thread) : State :=
  ((s.updThread g.id t.lane (fun _ => t.keep (s.group g.id).run)).advance (envOf g r) []).settle g.pen

/-- v is the exact integer y narrowed to width w as R138 says: bounded under .sat, else modulo 2^w, sign-extended. -/
def Narrowed (w : Nat) (cl : Clamp) (v : W64) (y : Int) : Prop :=
  v.toInt = if cl = .sat then max (-(2 ^ (w - 1))) (min y (2 ^ (w - 1) - 1)) else y.bmod (2 ^ w)

/-- The signed reading of a modified source, or the unsigned reading. -/
def Reads (v : Sgn) (m : Mod) (a : W64) : Int := match v with | .s => modInt 64 m a | .n => a.toNat

/-- The thread goes on at the clause of header a. -/
def Thread.goTo (t : Thread) (a : W64) : Thread := { t with pc := a, hdr := a, status := .ready }

/-- The state that lane accesses without an order among them start from: a lane group draws the order (R169; log 5). -/
def State.drawn (s : State) (g : Group) : State := if g.lanes then s.bump else s

/-- The access that the thread makes is allowed, in s and in the state from which the lanes' accesses start, where it reaches
location l. -/
def Reaches (s : State) (g : Group) (r : Run) (t : Thread) (sp : Space) (ea : W64) (n : Nat) (k : AccKind) (idx : Option Nat)
    (l : Loc) : Prop :=
  (∃ l0, s.threadAccess (envOf g r) t sp ea n k idx = .ok l0) ∧ (s.drawn g).threadAccess (envOf g r) t sp ea n k idx = .ok l

/-- The thread that owes the results of the memory-class operation it starts, which FLG or its clause gives a flag: until
the operation completes its destinations are unpredictable (R66 to R68). -/
def Thread.owing (t : Thread) (s : State) (g : Group) (r : Run) (flg : BitVec 4) (writes : List (Nat × Form)) (fl : Fpx := 0)
    (queue : Option W64 := none) : Thread :=
  t.owe { op := s.fresh, flag := namedFlag flg r.head.seta, writes := writes, fpx := fl, engine := false, queue := queue,
          pc := (envOf g r).wpc } s.fresh

/-- The outcome of a memory-class instruction that starts such an operation in s. -/
def State.owes (s : State) (g : Group) (r : Run) (t : Thread) (flg : BitVec 4) (writes : List (Nat × Form)) (fl : Fpx := 0) :
    Host.Outcome State Fault Refusal := .next (s.bump.perform g r (t.owing s g r flg writes fl))

/-- The thread waits with status st at an instruction that ends its clause, and stands at the next clause. -/
def Thread.waits (t : Thread) (g : Group) (r : Run) (st : Status) : Thread :=
  { t with pc := (envOf g r).next, hdr := (envOf g r).next, status := st }

/-- The participants of group g that issue a matrix-class instruction together, el, the lowest, being elected (R45, R285). -/
structure Elects (s : State) (g : Group) (r : Run) (i : Instr) (el : Thread) (parts : List Thread) : Prop where
  cur : s.cur = some g.id
  grp : s.group g.id = g
  run : g.run = some r
  regs : i.regsOk (s.launchOf g.pen).regs = true
  all : sortBy Thread.lane (if g.lanes then g.threads.filter (fun t => r.sel.contains t.lane) else g.threads) = parts
  first : parts.head? = some el

/-- Every participant, changed by f, goes on behind the instruction, or, held, leaves the clause; $part says whether a lane
thread of the group was absent (R44). -/
def State.performAll (s : State) (g : Group) (r : Run) (parts : List Thread) (f : Thread → Thread) (held : Bool := false) :
    State :=
  ((s.updGroup g.id (fun x => x.mapLanes (parts.map Thread.lane) (fun t => { f t with part := (envOf g r).absent }))).advance
    (envOf g r) (if held then [] else parts.map Thread.lane)).settle g.pen

/-- Every memory of the machine is in its canonical form: memory as the caches show it, DRAM, each pen's scratch, the
mailbox. -/
def State.memForm (s : State) : Bool :=
  Memory.wf s.mem && Memory.wf s.dram && s.pens.all (fun p => Memory.wf p.scratch) && Memory.wf s.mailbox

/-- A safe step: the machine goes on. The manual stops the machine nowhere. -/
def State.goesOn (s : State) : Prop := ∃ t, step s = .next t

end Sys2Proof.Machine
end

