-- ==== Sys2Proof/Certificates/Slice0/Obligations.lean ====
section
/-! DEFINITION. The statements for the provers. Each docstring names the rules of the manual that the statement
formalises. -/

open Sys2Proof Sys2Proof.Machine

/-! ### Encoding (R58 to R81) -/

/-- R71, R77, R80: decoding the word of a well-formed instruction gives it back, operands and all. -/
def Obligations.DecodeOfEncode : Prop :=
  ∀ (i : Instr) (w : W64), i.wf = true → encode i = some w → decodeWord w = .ok i

/-- R71, R77: a word that decodes is the word of the instruction that it decodes to, and that instruction is well formed:
no bit of a word is dropped. -/
def Obligations.EncodeOfDecode : Prop :=
  ∀ (w : W64) (i : Instr), decodeWord w = .ok i → encode i = some w ∧ i.wf = true

/-- Words written out from the spec's tables (R72, R77 to R80), one or two of each block, decode to what they stand for. -/
def Obligations.DecodedWords : Prop :=
  -- IADD.i64 g1, g2, g3: OPC 0x001, D 0x001, A 0x002, B 0x003
  decodeWord 0x0080080401800000
    = .ok (.iadd .i64 { gd := .always, d := ⟨.g, 1⟩, a := ⟨.g, 2⟩, b := ⟨.g, 3⟩, c := ⟨.g, 0⟩, ma := .none, mb := .none,
                        mc := .none, cl := .none, sc := 0 })
  -- MOVI g5, 7: OPC 0x025, D 0x005, IMM32 7 in bits 32:1
  ∧ decodeWord 0x128028000000000E = .ok (.movi { gd := .always, d := ⟨.g, 5⟩, a := ⟨.g, 0⟩, imm := 7 })
  -- @p BRA +2 headers: OPC 0x04F, GD 01, TGT26 2 in bits 42:17
  ∧ decodeWord 0x27A0000000040000 = .ok (.bra { gd := .top, a := ⟨.g, 0⟩, tgt := 2, spl := 0 })
  -- LD.b64 g4, [s: g6 + 8]: OPC 0x086, V 0x004, BASE 0x006, OFF20 8, SPACE 01
  ∧ decodeWord 0x4300200C00010800
    = .ok (.ld .b64 { gd := .always, v := ⟨.g, 4⟩, base := ⟨.g, 6⟩, off := 8, space := .scratch, hint := .normal })
  -- ATOM.xchg g1, [g2], o3 with FLG 0xF: OPC 0x0C9, B 0x103, FLG 15, WM 00
  ∧ decodeWord 0x6480080481F80000
    = .ok (.atom .xchg { gd := .always, d := ⟨.g, 1⟩, a := ⟨.g, 2⟩, b := ⟨.o, 3⟩, flg := 15, wm := 0 })
  -- FADD.f16x4 g1, -g2, |half| with SC 7, CL 11: OPC 0x102, B special 5
  ∧ decodeWord 0x8100080582800C7C
    = .ok (.fadd .f16x4 { gd := .always, d := ⟨.g, 1⟩, a := ⟨.g, 2⟩, b := ⟨.special, 5⟩, c := ⟨.g, 0⟩, ma := .neg, mb := .abs,
                          mc := .none, cl := .c11, sc := 7 })
  -- FSQRT.f64 g1, |g2|: OPC 0x112, MA 10
  ∧ decodeWord 0x8900080400001000
    = .ok (.fsqrt .f64 { gd := .always, d := ⟨.g, 1⟩, a := ⟨.g, 2⟩, b := ⟨.g, 0⟩, c := ⟨.g, 0⟩, ma := .abs, mb := .none,
                         mc := .none, cl := .none, sc := 0 })
  -- VOTE.count g1, g2: OPC 0x151
  ∧ decodeWord 0xA880080400000000
    = .ok (.vote .count { gd := .always, d := ⟨.g, 1⟩, a := ⟨.g, 2⟩, b := ⟨.g, 0⟩, c := ⟨.g, 0⟩, ma := .none, mb := .none,
                          mc := .none, cl := .none, sc := 0 })
  -- ACCZ tile 3: OPC 0x18E, ACC 3 in bits 22:18
  ∧ decodeWord 0xC7000000000C0000
    = .ok (.accz { gd := .always, d := ⟨.g, 0⟩, a := ⟨.g, 0⟩, b := ⟨.g, 0⟩, acc := 3, pa := 0, pb := 0, zc := false,
                   bsel := 0, gng := false, spa := false, spb := false, flg := 0 })
  -- RDSR g2, $epc: OPC 0x1D8, D 0x002, SRN 0x011 in bits 32:21
  ∧ decodeWord 0xEC00100002200000 = .ok (.rdsr { gd := .always, d := ⟨.g, 2⟩, a := ⟨.g, 0⟩, srn := 0x011 })

/-- R80, R71: exactly the opcode values outside the assigned ranges of the grid raise ILLOP, whatever the other bits. -/
def Obligations.UnassignedOpcodes : Prop :=
  ∀ w : W64, decodeWord w = .illop ↔
    ¬ ((opcOf w).toNat ≤ 0x02C ∨ (0x040 ≤ (opcOf w).toNat ∧ (opcOf w).toNat ≤ 0x05D)
      ∨ (0x080 ≤ (opcOf w).toNat ∧ (opcOf w).toNat ≤ 0x09A) ∨ (0x0C0 ≤ (opcOf w).toNat ∧ (opcOf w).toNat ≤ 0x0DE)
      ∨ (0x100 ≤ (opcOf w).toNat ∧ (opcOf w).toNat ≤ 0x13D) ∨ (0x140 ≤ (opcOf w).toNat ∧ (opcOf w).toNat ≤ 0x160)
      ∨ (0x180 ≤ (opcOf w).toNat ∧ (opcOf w).toNat ≤ 0x19C) ∨ (0x1C0 ≤ (opcOf w).toNat ∧ (opcOf w).toNat ≤ 0x1DE))

/-- R62: a header decodes exactly when its opening bits are 1100, its class is 0 to 5 and its flag fields name a flag or
none; each field is then read from its bits, and encoding gives the word back. -/
def Obligations.ClauseHeaders : Prop :=
  ∀ w : W64,
    ((decodeHeader w).isSome = true ↔
      (w.toNat / 2 ^ 60 = 12 ∧ w.toNat / 2 ^ 57 % 8 ≤ 5
        ∧ (w.toNat / 2 ^ 37 % 16 ≤ 11 ∨ w.toNat / 2 ^ 37 % 16 = 15) ∧ (w.toNat / 2 ^ 33 % 16 ≤ 11 ∨ w.toNat / 2 ^ 33 % 16 = 15)))
    ∧ ∀ h, decodeHeader w = some h → h.encode = w ∧ h.ecl.toNat = w.toNat / 2 ^ 57 % 8 ∧ h.cnt.toNat = w.toNat / 2 ^ 53 % 16
      ∧ (∀ k < 12, h.wait.getLsbD k = w.getLsbD (41 + k)) ∧ h.seta.toNat = w.toNat / 2 ^ 37 % 16
      ∧ h.setb.toNat = w.toNat / 2 ^ 33 % 16 ∧ h.yld = w.getLsbD 32 ∧ h.lit.toNat = w.toNat % 2 ^ 32

/-! ### The step (log 3, 4, 11) -/

/-- A step runs the decoded instruction: where no input is to come and the schedule lets group gid issue, inside a clause
whose word decodes to i and whose class admits i's block, the step is exec of i in the state in which the group holds its
core's issue slot (R30, R63, R65). `beginIssue` is what the step adds: the turn, the time that passes, the thread ages. -/
def Obligations.StepRunsDecoded : Prop :=
  ∀ (s : State) (gid : Nat) (r : Run) (i : Instr),
    s.agenda = [] → s.schedule = .issue gid → (s.group gid).run = some r →
    (if r.dz2 then decodeDz2 (r.words.getD r.pos 0) else decodeWord (r.words.getD r.pos 0)) = .ok i →
    eclAdmits r.head.ecl (opcOf (r.words.getD r.pos 0)).toNat = true →
    step s = exec i (s.beginIssue gid)

/-- The other turns of the schedule, and the agenda: an input that has arrived comes first; an event that is due, or one that the
device brings in its turn, runs while time passes; where nothing can happen, time passes. After eight steps in which the device has
had no turn, an event of the device that can happen comes next (R56). The turns go round the kinds of events, and every other time
round the events of a kind; of two events of a kind, each comes first in its turn. The order is the model's own choice (log 3 and 4). -/
def Says.Turns : Prop :=
  (∀ (s : State) (ns : Nat) (x : Input) (rest : List (Nat × Input)), s.agenda = (ns, x) :: rest →
      step s = .next ((s.arrive ns rest).input x))
  ∧ (∀ (s : State) (i : Instr), s.agenda = [] → s.schedule = .event i → step s = exec i { s.tick with timeTurn := s.timeTurn + 1 })
  ∧ (∀ (s : State) (i : Instr), s.agenda = [] → s.schedule = .device i →
      step s = exec i { s.tick with devTurn := s.devTurn + 1, duty := 0 })
  ∧ (∀ s : State, s.agenda = [] → s.schedule = .idle → step s = .next s.tick)
  ∧ (∀ (s : State) (i : Instr), 8 ≤ s.duty → s.deviceEvent = some i → s.schedule = .device i)
  ∧ (∀ (s : State) (gid : Nat), s.duty < (s.beginIssue gid).duty ∧ s.duty < s.tick.duty)
  ∧ (∀ (s : State) (ks : List (List Instr)) (n j : Nat) (i t : Instr), n % ks.length = j → ks[j]? = some [i, t] →
      (s.firstEnabled [i, t] ≠ none → n / ks.length % 4 = 0 → s.nextOf ks n = s.firstEnabled [i, t])
      ∧ (s.firstEnabled [t, i] ≠ none → n / ks.length % 4 = 3 → s.nextOf ks n = s.firstEnabled [t, i]))

/-- The word placed where the next step issues it is the word that the next step runs, as the first instruction after
reset (log 11). -/
def Says.PlacedWordRuns : Prop :=
  ∀ (w : W64) (i : Instr), decodeWord w = .ok i →
    step (State.reset.withFetchWord 64 w.toNat) = exec i ((State.reset.placeWord w).beginIssue 1)

/-! ### Every step (tier 3), and reset -/

/-- The machine stops nowhere: from every state whatever, a step answers a next state (R383: every fault is handled by the
machine itself). -/
def Obligations.EveryStepGoesOn : Prop := ∀ s : State, s.goesOn

/-- An invariant of every step: DRAM, every pen's scratch and the mailbox stay in canonical form, so that equal memories are
equal data (R8; log 2). -/
def Obligations.StepKeepsMemoryForm : Prop :=
  ∀ s t : State, s.memForm = true → step s = .next t → t.memForm = true

/-- Reset leaves memory in canonical form, with nothing listed: what it holds then is the model's choice (log 2). -/
def Says.ResetMemoryForm : Prop := State.reset.memForm = true

/-- Reset values, those that the spec's tables give (R425, R433, R359, R360): no context, every die at code 13 with no relock, an
empty step log and a staging share of 1/8, every Incumbent Cell unallocated. Two are the model's choice (log 12): a cell that is not
allocated holds the largest key, which R360 gives a cell when it is allocated, and no corrected error is counted, for which R432
and R440 give no reset value. -/
def Says.ResetRegisters : Prop :=
  State.reset.ctxs = [] ∧ State.reset.dies.length = 4
  ∧ (∀ d < 4, (State.reset.die d).code = 13 ∧ (State.reset.die d).setCode = 13 ∧ (State.reset.die d).relock = none
      ∧ (State.reset.die d).steps = [] ∧ (State.reset.die d).share = 1)
  ∧ State.reset.cells.length = 256
  ∧ (∀ c < 256, (State.reset.cell c).owner = none ∧ (State.reset.cell c).key = 0x7FFFFFFFFFFFFFFF)
  ∧ State.reset.cecnt = 0 ∧ State.reset.healthReplace = false

/-- R69, R72: what an instruction that writes a result leaves as it was. Performing it changes no memory, no pen, no special
register outside the thread, and no group of another pen; in the thread it changes D, the history and $fpx alone, and a destination
that is no register is not written. -/
def Obligations.FrameOfPerforming : Prop :=
  ∀ (s : State) (g : Group) (r : Run) (t : Thread) (d : Opd) (f : Form) (fl : Fpx), (s.groups.map Group.id).Nodup →
    let v := (t.result d f).orFpx fl
    (∀ u ∈ [s.perform g r v, s.performLeave g r v],
      u = { s with groups := u.groups, fresh := u.fresh } ∧ (∀ l n, u.readLoc l n = s.readLoc l n)
      ∧ ∀ y ∈ s.groups, y.id ≠ g.id → y.pen ≠ g.pen → y ∈ u.groups)
    ∧ v = { t with regs := v.regs, hist := v.hist, fpx := t.fpx ||| fl }
    ∧ (∀ k, k ≠ Opd.key d → v.regs.get k = t.regs.get k)
    ∧ (d.file = .special → v.regs = t.regs) ∧ (d.file ≠ .special → v.regs.get (Opd.key d) = f)

/-- The turns of the schedule, and how a placed word comes to run: `Says.Turns`, `Says.PlacedWordRuns`. -/
def Obligations.StepTurns : Prop :=
  Says.Turns ∧ Says.PlacedWordRuns

/-- The state after reset: `Says.ResetRegisters` (log 12), and memory in canonical form (log 2). -/
def Obligations.ResetState : Prop :=
  Says.ResetMemoryForm ∧ Says.ResetRegisters

/-! ### Block 0: integer and address arithmetic (R134 to R144)

In a lane thread and, for sources in U form, in a strand. `t.reads g r .int o = .u a` says that the thread reads a from
the operand; `modInt w m a` is the signed reading of its low w bits after the source modifier m, which `SourceModifiers`
states. -/

/-- R75, R138: what the integer source modifiers do at width w: nothing, negation modulo 2^w, the absolute value modulo
2^w, and its negation. -/
def Says.SourceModifiers : Prop :=
  ∀ (w : Nat) (a : W64), 1 ≤ w → w ≤ 64 →
    modInt w .none a = (a.setWidth w).toInt
    ∧ modInt w .neg a = (-(a.setWidth w)).toInt
    ∧ modInt w .abs a = (if (a.setWidth w).msb then -(a.setWidth w) else a.setWidth w).toInt
    ∧ modInt w .negAbs a = (if (a.setWidth w).msb then a.setWidth w else -(a.setWidth w)).toInt

/-- R138: IADD, ISUB, IMUL and IMAD at both widths, and IABS, give the exact result on the modified sources, bounded under
.sat and modulo 2^w otherwise; no flag is raised. -/
def Says.IntegerArithmetic : Prop :=
  ∀ (s : State) (g : Group) (r : Run) (t : Thread) (w : IntW) (x : FmtA) (a b c : W64),
    (t.reads2 g r .int x a b → Performs s g r t (.iadd w x) x.gd → ∃ v, exec (.iadd w x) s = s.gives g r t x.d v
        ∧ Narrowed (IntW.bits w) x.cl v (modInt (IntW.bits w) x.ma a + modInt (IntW.bits w) x.mb b))
    ∧ (t.reads2 g r .int x a b → Performs s g r t (.isub w x) x.gd → ∃ v, exec (.isub w x) s = s.gives g r t x.d v
        ∧ Narrowed (IntW.bits w) x.cl v (modInt (IntW.bits w) x.ma a - modInt (IntW.bits w) x.mb b))
    ∧ (t.reads2 g r .int x a b → Performs s g r t (.imul w x) x.gd → ∃ v, exec (.imul w x) s = s.gives g r t x.d v
        ∧ Narrowed (IntW.bits w) x.cl v (modInt (IntW.bits w) x.ma a * modInt (IntW.bits w) x.mb b))
    ∧ (t.reads3 g r .int x a b c → Performs s g r t (.imad w x) x.gd → ∃ v, exec (.imad w x) s = s.gives g r t x.d v
        ∧ Narrowed (IntW.bits w) x.cl v
            (modInt (IntW.bits w) x.ma a * modInt (IntW.bits w) x.mb b + modInt (IntW.bits w) x.mc c))
    ∧ (t.reads g r .int x.a = .u a → Performs s g r t (.iabs x) x.gd → ∃ v, exec (.iabs x) s = s.gives g r t x.d v
        ∧ Narrowed 64 x.cl v |modInt 64 x.ma a|)

/-- The arithmetic instructions of R17's affine rows at a width: what each computes of its modified sources, and whether it
is a product of its first two. -/
def affineOps (w : IntW) (x : FmtA) : List (Instr × (Int → Int → Int → Int) × Bool) :=
  [(.iadd w x, fun a b _ => a + b, false), (.isub w x, fun a b _ => a - b, false),
   (.imul w x, fun a b _ => a * b, true), (.imad w x, fun a b c => a * b + c, true)]
/-- What such an instruction computes at offset k of the range, on sources modified at width w, modulo 2^w. -/
def affineAt (w : Nat) (t : Thread) (g : Group) (r : Run) (x : FmtA) (f : Int → Int → Int → Int) (k : Nat) : Int :=
  (f (modInt w x.ma ((t.reads g r .int x.a).val k)) (modInt w x.mb ((t.reads g r .int x.b).val k))
    (modInt w x.mc ((t.reads g r .int x.c).val k))).bmod (2 ^ w)

/-- R17, R136: in a strand whose guard is true an affine result stays whole: the form written has, at every index of the range,
the value that the instruction gives on the values its sources have there, whatever the forms of the sources are. So for
IADD, ISUB, IMUL and IMAD, without .sat or an absolute modifier, unless the two factors of a product are both affine: at 64
bits always, at 32 bits where at every index the 32-bit result equals the 64-bit one. So for ADDI, MOV and NOT, for SHL by a
uniform amount, and for LEA by a uniform scale. -/
def Obligations.AffineResults : Prop :=
  ∀ (s : State) (g : Group) (r : Run) (t : Thread) (x : FmtA) (y : FmtI) (c : W64), g.lanes = false →
    (x.cl = .none → (∀ m ∈ [x.ma, x.mb, x.mc], Mod.isAbs m = false) →
      (∀ p ∈ affineOps .i64 x, (p.2.2 = true → ¬((t.reads g r .int x.a).isA = true ∧ (t.reads g r .int x.b).isA = true)) →
        Performs s g r t p.1 x.gd →
        ∃ f, exec p.1 s = s.makes g r (t.result x.d f) ∧ ∀ k < t.n, (f.val k).toInt = affineAt 64 t g r x p.2.1 k)
      ∧ (∀ p ∈ affineOps .i32 x, (p.2.2 = true → ¬((t.reads g r .int x.a).isA = true ∧ (t.reads g r .int x.b).isA = true)) →
        (∀ k < t.n, affineAt 32 t g r x p.2.1 k = affineAt 64 t g r x p.2.1 k) → Performs s g r t p.1 x.gd →
        ∃ f, exec p.1 s = s.makes g r (t.result x.d f) ∧ ∀ k < t.n, (f.val k).toInt = affineAt 32 t g r x p.2.1 k))
    ∧ (t.reads g r .int x.b = .u c → Performs s g r t (.shl x) x.gd →
      ∃ f, exec (.shl x) s = s.makes g r (t.result x.d f)
        ∧ ∀ k < t.n, f.val k = BitVec.ofNat 64 (((t.reads g r .int x.a).val k).toNat * 2 ^ c.toNat))
    ∧ (t.reads g r .int x.c = .u c → x.cl = .none → (∀ m ∈ [x.ma, x.mb], Mod.isAbs m = false) → Performs s g r t (.lea x) x.gd →
      ∃ f, exec (.lea x) s = s.makes g r (t.result x.d f)
        ∧ ∀ k < t.n, f.val k = BitVec.ofInt 64 (modInt 64 x.ma ((t.reads g r .int x.a).val k)
            + if c.toNat < 64 then modInt 64 x.mb ((t.reads g r .int x.b).val k) * 2 ^ c.toNat else 0))
    ∧ (Performs s g r t (.addi y) y.gd →
      ∃ f, exec (.addi y) s = s.makes g r (t.result y.d f)
        ∧ ∀ k < t.n, f.val k = (t.reads g r .int y.a).val k + y.imm.signExtend 64)
    ∧ (Performs s g r t (.mov x) x.gd →
      ∃ f, exec (.mov x) s = s.makes g r (t.result x.d f) ∧ ∀ k < t.n, f.val k = (t.reads g r .int x.a).val k)
    ∧ (Performs s g r t (.not x) x.gd →
      ∃ f, exec (.not x) s = s.makes g r (t.result x.d f) ∧ ∀ k < t.n, f.val k = ~~~((t.reads g r .int x.a).val k))

/-- R137, R139, R144: IMULH gives the high 64 bits of the product; division and remainder truncate toward zero, a divisor
of 0 gives all ones and raises IDZ; IMULW writes both halves of the product, the high half to the register's successor. -/
def Says.ProductsAndDivision : Prop :=
  ∀ (s : State) (g : Group) (r : Run) (t : Thread) (v : Sgn) (x : FmtA) (a b : W64),
    (t.reads2 g r .int x a b → Performs s g r t (.imulh v x) x.gd →
      exec (.imulh v x) s = s.gives g r t x.d (BitVec.ofInt 64 ((Reads v x.ma a * Reads v x.mb b) / 2 ^ 64)))
    ∧ (t.reads2 g r .int x a b → Performs s g r t (.idiv v x) x.gd →
      exec (.idiv v x) s = if Reads v x.mb b = 0 then s.gives g r t x.d 0xFFFFFFFFFFFFFFFF fxIDZ
        else s.gives g r t x.d (BitVec.ofInt 64 (if x.cl = .sat then min ((Reads v x.ma a).tdiv (Reads v x.mb b)) (2 ^ 63 - 1)
          else (Reads v x.ma a).tdiv (Reads v x.mb b))))
    ∧ (t.reads2 g r .int x a b → Performs s g r t (.irem v x) x.gd →
      exec (.irem v x) s = if Reads v x.mb b = 0 then s.gives g r t x.d 0xFFFFFFFFFFFFFFFF fxIDZ
        else s.gives g r t x.d (BitVec.ofInt 64 ((Reads v x.ma a).tmod (Reads v x.mb b))))
    ∧ (t.reads2 g r .int x a b → Performs s g r t (.imulw v x) x.gd →
      exec (.imulw v x) s = s.makes g r
        { t.result x.d (.u ((BitVec.ofInt 128 (Reads v x.ma a * Reads v x.mb b)).extractLsb' 0 64)) with
          regs := (t.result x.d (.u ((BitVec.ofInt 128 (Reads v x.ma a * Reads v x.mb b)).extractLsb' 0 64))).regs.set
            (Opd.key x.d + 1) (.u ((BitVec.ofInt 128 (Reads v x.ma a * Reads v x.mb b)).extractLsb' 64 64)) })

/-- R137, R143: minimum, maximum and clamp, signed or unsigned; SEL; the moves and constants; LEA, whose scaled term is 0
when the shift is 64 or more. -/
def Says.SelectMoveAddress : Prop :=
  ∀ (s : State) (g : Group) (r : Run) (t : Thread) (v : Sgn) (x : FmtA) (y : FmtI) (a b c d : W64),
    (t.reads2 g r .int x a b → Performs s g r t (.imin v x) x.gd →
      exec (.imin v x) s = s.gives g r t x.d (BitVec.ofInt 64 (min (Reads v x.ma a) (Reads v x.mb b))))
    ∧ (t.reads2 g r .int x a b → Performs s g r t (.imax v x) x.gd →
      exec (.imax v x) s = s.gives g r t x.d (BitVec.ofInt 64 (max (Reads v x.ma a) (Reads v x.mb b))))
    ∧ (t.reads3 g r .int x a b c → Performs s g r t (.iclamp v x) x.gd →
      exec (.iclamp v x) s
        = s.gives g r t x.d (BitVec.ofInt 64 (min (max (Reads v x.ma a) (Reads v x.mb b)) (Reads v x.mc c))))
    ∧ (t.reads3 g r .int x a b c → Performs s g r t (.sel x) x.gd → exec (.sel x) s = s.gives g r t x.d (if c = 0 then b else a))
    ∧ (t.reads g r .int x.a = .u a → Performs s g r t (.mov x) x.gd → exec (.mov x) s = s.gives g r t x.d a)
    ∧ (Performs s g r t (.movi y) y.gd → exec (.movi y) s = s.gives g r t y.d (y.imm.signExtend 64))
    ∧ (t.reads g r .int y.a = .u d → Performs s g r t (.movhi y) y.gd →
      exec (.movhi y) s = s.gives g r t y.d (BitVec.ofNat 64 (y.imm.toNat * 2 ^ 32 + d.toNat % 2 ^ 32)))
    ∧ (t.reads g r .int y.a = .u d → Performs s g r t (.addi y) y.gd → exec (.addi y) s = s.gives g r t y.d (d + y.imm.signExtend 64))
    ∧ (t.reads3 g r .int x a b c → Performs s g r t (.lea x) x.gd →
      exec (.lea x) s = s.gives g r t x.d (BitVec.ofInt 64 (modInt 64 x.ma a
        + if c.toNat < 64 then modInt 64 x.mb b * 2 ^ c.toNat else 0)))

/-- R137, R140, R141: the bitwise operations; shifts take the amount whole; fields of position b[5:0] and length
min(b[14:8], 64 − position). -/
def Says.LogicShiftsFields : Prop :=
  ∀ (s : State) (g : Group) (r : Run) (t : Thread) (x : FmtA) (a b c : W64),
    (t.reads2 g r .int x a b → Performs s g r t (.and x) x.gd → exec (.and x) s = s.gives g r t x.d (a &&& b))
    ∧ (t.reads2 g r .int x a b → Performs s g r t (.or x) x.gd → exec (.or x) s = s.gives g r t x.d (a ||| b))
    ∧ (t.reads2 g r .int x a b → Performs s g r t (.xor x) x.gd → exec (.xor x) s = s.gives g r t x.d (a ^^^ b))
    ∧ (t.reads g r .int x.a = .u a → Performs s g r t (.not x) x.gd → exec (.not x) s = s.gives g r t x.d (~~~a))
    ∧ (t.reads2 g r .int x a b → Performs s g r t (.shl x) x.gd → exec (.shl x) s = s.gives g r t x.d (BitVec.ofNat 64 (a.toNat * 2 ^ b.toNat)))
    ∧ (t.reads2 g r .int x a b → Performs s g r t (.shr .n x) x.gd → exec (.shr .n x) s = s.gives g r t x.d (BitVec.ofNat 64 (a.toNat / 2 ^ b.toNat)))
    ∧ (t.reads2 g r .int x a b → Performs s g r t (.shr .s x) x.gd → exec (.shr .s x) s = s.gives g r t x.d (BitVec.ofInt 64 (a.toInt / 2 ^ b.toNat)))
    ∧ (t.reads2 g r .int x a b → Performs s g r t (.rot x) x.gd → exec (.rot x) s = s.gives g r t x.d (a.rotateLeft (b.toNat % 64)))
    ∧ (t.reads2 g r .int x a b → Performs s g r t (.bfx .n x) x.gd → ∃ v, exec (.bfx .n x) s = s.gives g r t x.d v
        ∧ v.toNat = a.toNat / 2 ^ (b.toNat % 64) % 2 ^ min (b.toNat / 256 % 128) (64 - b.toNat % 64))
    ∧ (t.reads2 g r .int x a b → Performs s g r t (.bfx .s x) x.gd → ∃ v, exec (.bfx .s x) s = s.gives g r t x.d v
        ∧ v.toInt = if min (b.toNat / 256 % 128) (64 - b.toNat % 64) = 0 then 0
            else ((a.toNat / 2 ^ (b.toNat % 64) : Nat) : Int).bmod (2 ^ min (b.toNat / 256 % 128) (64 - b.toNat % 64)))
    ∧ (t.reads3 g r .int x a b c → Performs s g r t (.bfi x) x.gd → ∃ v, exec (.bfi x) s = s.gives g r t x.d v
        ∧ ∀ k < 64, v.getLsbD k
            = if c.toNat % 64 ≤ k ∧ k < c.toNat % 64 + min (c.toNat / 256 % 128) (64 - c.toNat % 64)
              then a.getLsbD (k - c.toNat % 64) else b.getLsbD k)

/-- R137, R142: the counts of bits, each 64 for a source of 0 where it counts zeros, and the reversals of bytes and bits. -/
def Says.BitCountsReversals : Prop :=
  ∀ (s : State) (g : Group) (r : Run) (t : Thread) (x : FmtA) (a : W64), t.reads g r .int x.a = .u a →
    (Performs s g r t (.popc x) x.gd → ∃ v, exec (.popc x) s = s.gives g r t x.d v
        ∧ v.toNat = ((List.range 64).filter (fun k => a.getLsbD k)).length)
    ∧ (Performs s g r t (.clz x) x.gd → ∃ v, exec (.clz x) s = s.gives g r t x.d v
        ∧ if a = 0 then v = 64 else v.toNat < 64 ∧ a.getLsbD (63 - v.toNat) = true ∧ ∀ k < 64, 63 - v.toNat < k → a.getLsbD k = false)
    ∧ (Performs s g r t (.ctz x) x.gd → ∃ v, exec (.ctz x) s = s.gives g r t x.d v
        ∧ if a = 0 then v = 64 else v.toNat < 64 ∧ a.getLsbD v.toNat = true ∧ ∀ k < v.toNat, a.getLsbD k = false)
    ∧ (Performs s g r t (.bswap x) x.gd → ∃ v, exec (.bswap x) s = s.gives g r t x.d v
        ∧ ∀ k < 8, v.toNat / 256 ^ k % 256 = a.toNat / 256 ^ (7 - k) % 256)
    ∧ (Performs s g r t (.brev x) x.gd → ∃ v, exec (.brev x) s = s.gives g r t x.d v
        ∧ ∀ k < 64, v.getLsbD k = a.getLsbD (63 - k))

/-- Sums and products with source modifiers: `Says.SourceModifiers`, `Says.IntegerArithmetic`. -/
def Obligations.IntegerSums : Prop :=
  Says.SourceModifiers ∧ Says.IntegerArithmetic

/-- Products, quotients, choices, moves, addresses: `Says.ProductsAndDivision`, `Says.SelectMoveAddress`. -/
def Obligations.IntegerChoices : Prop :=
  Says.ProductsAndDivision ∧ Says.SelectMoveAddress

/-- Logic, shifts, fields, counts: `Says.LogicShiftsFields`, `Says.BitCountsReversals`. -/
def Obligations.BitOperations : Prop :=
  Says.LogicShiftsFields ∧ Says.BitCountsReversals

/-! ### Block 1: predicates, control, strands (R145 to R165) -/

/-- The truth of a CMP variant on its two sources (R145). -/
def cmpTruth (cc : CmpCC) (x : FmtA) (a b : W64) : Prop :=
  match cc with
  | .eq => modInt 64 x.ma a = modInt 64 x.mb b
  | .ne => modInt 64 x.ma a ≠ modInt 64 x.mb b
  | .lts => modInt 64 x.ma a < modInt 64 x.mb b
  | .les => modInt 64 x.ma a ≤ modInt 64 x.mb b
  | .gts => modInt 64 x.ma a > modInt 64 x.mb b
  | .ges => modInt 64 x.ma a ≥ modInt 64 x.mb b
  | .ltn => a.toNat < b.toNat
  | .len => a.toNat ≤ b.toNat
  | .gtn => a.toNat > b.toNat
  | .gen => a.toNat ≥ b.toNat

/-- The indices at offsets p to p + q − 1 are exactly those of the thread's range at which P holds. -/
def OneRun (t : Thread) (P : Nat → Prop) (p q : Nat) : Prop := p + q ≤ t.n ∧ ∀ k < t.n, P k ↔ p ≤ k ∧ k < p + q

/-- R31 to R33, R145, R146: a compare under a true guard, on a stack with room, whose true set is one run of the range
(every lane thread's is), pushes one entry that is true at exactly the indices where the comparison holds, and changes
nothing else of the thread. -/
def Says.ComparesPush : Prop :=
  ∀ (s : State) (g : Group) (r : Run) (t : Thread) (cc : CmpCC) (x : FmtA) (p q : Nat), t.preds.length < 16 →
    (Performs s g r t (.cmp cc x) x.gd →
      OneRun t (fun k => cmpTruth cc x ((t.reads g r .int x.a).val k) ((t.reads g r .int x.b).val k)) p q →
      ∃ e, exec (.cmp cc x) s = s.makes g r { t with preds := e :: t.preds }
        ∧ ∀ k < t.n, e.has (t.lo + k) = true ↔ cmpTruth cc x ((t.reads g r .int x.a).val k) ((t.reads g r .int x.b).val k))
    ∧ (Performs s g r t (.ptest x) x.gd →
      OneRun t (fun k => (t.reads g r .int x.a).val k &&& (t.reads g r .int x.b).val k ≠ 0) p q →
      ∃ e, exec (.ptest x) s = s.makes g r { t with preds := e :: t.preds }
        ∧ ∀ k < t.n, e.has (t.lo + k) = true ↔ (t.reads g r .int x.a).val k &&& (t.reads g r .int x.b).val k ≠ 0)

/-- R148: the stack operations on a thread whose stack holds the entries needed, where the result is one run. -/
def Says.StackOperations : Prop :=
  ∀ (s : State) (g : Group) (r : Run) (t : Thread) (x : FmtA) (p1 p2 : Ivl) (rest : List Ivl) (p q : Nat),
    (Performs s g r t (.pand x) .always → t.preds = p1 :: p2 :: rest →
      OneRun t (fun k => p1.has (t.lo + k) = true ∧ p2.has (t.lo + k) = true) p q →
      ∃ e, exec (.pand x) s = s.makes g r { t with preds := e :: rest }
        ∧ ∀ k < t.n, e.has (t.lo + k) = true ↔ p1.has (t.lo + k) = true ∧ p2.has (t.lo + k) = true)
    ∧ (Performs s g r t (.por x) .always → t.preds = p1 :: p2 :: rest →
      OneRun t (fun k => p1.has (t.lo + k) = true ∨ p2.has (t.lo + k) = true) p q →
      ∃ e, exec (.por x) s = s.makes g r { t with preds := e :: rest }
        ∧ ∀ k < t.n, e.has (t.lo + k) = true ↔ p1.has (t.lo + k) = true ∨ p2.has (t.lo + k) = true)
    ∧ (Performs s g r t (.pnot x) .always → t.preds = p1 :: rest →
      OneRun t (fun k => ¬ p1.has (t.lo + k) = true) p q →
      ∃ e, exec (.pnot x) s = s.makes g r { t with preds := e :: rest }
        ∧ ∀ k < t.n, e.has (t.lo + k) = true ↔ ¬ p1.has (t.lo + k) = true)
    ∧ (Performs s g r t (.ppop x) .always → t.preds = p1 :: rest →
      exec (.ppop x) s = s.makes g r { t with preds := rest })

/-- Where branch distances count from (R79, R98). -/
def branchOrigin (r : Run) : W64 := if r.dz2 then r.hdr + 8 + 8 * BitVec.ofNat 64 r.pos else r.hdr
/-- The next clause address (R58). -/
def nextClause (r : Run) : W64 := r.hdr + 8 + 8 * BitVec.ofNat 64 r.words.length

/-- R149, R150, R153: a branch, call or return under a true guard, to a target that the checks of R60 and R151 pass, ends
the clause for the thread, which goes on at the target; a call writes the next clause address to lk, g254, and nothing else, and
leaves the history as it was, while LOOP decrements its counter, modulo 2^64, a result that enters the history (log 19), and
branches unless it has reached 0. -/
def Says.Branches : Prop :=
  ∀ (s : State) (g : Group) (r : Run) (t : Thread) (x : FmtB) (a : W64),
    let rel := branchOrigin r + 8 * x.tgt.signExtend 64
    (Performs s g r t (.bra x) x.gd → s.checkTarget (s.ctxOf g.pen) rel = .ok () →
      exec (.bra x) s = .next (s.performLeave g r (t.goTo rel)))
    ∧ (Performs s g r t (.call x) x.gd → s.checkTarget (s.ctxOf g.pen) rel = .ok () →
      exec (.call x) s
        = .next (s.performLeave g r (({ t with regs := t.regs.set 254 (.u (nextClause r)) } : Thread).goTo rel)))
    ∧ (t.reads g r .int x.a = .u a → s.checkTarget (s.ctxOf g.pen) a = .ok () →
      (Performs s g r t (.brx x) x.gd → exec (.brx x) s = .next (s.performLeave g r (t.goTo a)))
      ∧ (Performs s g r t (.ret x) x.gd → exec (.ret x) s = .next (s.performLeave g r (t.goTo a)))
      ∧ (Performs s g r t (.callx x) x.gd → exec (.callx x) s
          = .next (s.performLeave g r (({ t with regs := t.regs.set 254 (.u (nextClause r)) } : Thread).goTo a))))
    ∧ (Performs s g r t (.loop x) x.gd → t.reads g r .int x.a = .u a →
      (a = 1 → exec (.loop x) s = s.makes g r (t.result x.a (.u 0)))
      ∧ (a ≠ 1 → s.checkTarget (s.ctxOf g.pen) rel = .ok () →
        exec (.loop x) s = .next (s.performLeave g r ((t.result x.a (.u (a - 1))).goTo rel))))

/-- The branch forms with the address that each goes to, `a` being the value of its register. -/
def branchForms (r : Run) (x : FmtB) (a : W64) : List (Instr × W64) :=
  let rel := branchOrigin r + 8 * x.tgt.signExtend 64
  [(.bra x, rel), (.call x, rel), (.loop x, rel), (.brx x, a), (.ret x, a), (.callx x, a)]

/-- R60, R151, R153: a target that fails a check, whatever the check and the form of branch (a LOOP that branches), parks the
strand at the branch, which has none of its effects: the record appended names the cause, the address, the branch word and the
strand's whole range, and the thread is as it was. Where Turjo does not hold the record, the thread has no QPOP that waits. -/
def Says.BranchToBadTarget : Prop :=
  ∀ (s : State) (g : Group) (r : Run) (t : Thread) (x : FmtB) (a : W64) (f : FaultInfo), g.lanes = false →
    t.reads g r .int x.a = .u a → t.ih = false → (turjoFirst f.cause = true ∨ ∀ p ∈ t.pend, p.queue = none) →
    ∀ b ∈ branchForms r x a, Performs s g r t b.1 x.gd → (b.1 = .loop x → a ≠ 1) → s.checkTarget (s.ctxOf g.pen) b.2 = .error f →
      ∃ u p, exec b.1 s = .next (State.settle u g.pen) ∧ u.parked = s.parked ++ [p]
        ∧ p.gid = g.id ∧ p.lanes = [t.lane] ∧ bits p.record 7 0 = BitVec.ofNat 8 f.cause ∧ bits p.record 511 448 = f.va
        ∧ bits p.record 319 264 = bits (r.hdr + 8 + 8 * BitVec.ofNat 64 r.pos) 55 0
        ∧ bits p.record 159 128 = BitVec.ofNat 32 t.lo ∧ bits p.record 127 96 = BitVec.ofNat 32 (t.n - 1)
        ∧ (u.group g.id).threads = [{ t with status := .parked p.handle, pc := r.hdr + 8 + 8 * BitVec.ofNat 64 r.pos,
                                             hdr := if r.dz2 then r.hdr + 8 + 8 * BitVec.ofNat 64 r.pos else r.hdr,
                                             cps := none }]

/-- R156, R41: SPLICE, first in its clause. A strand whose top record does not name the clause passes it; one whose top record
does, and a lane thread of a group in which no fold has failed there, arrives and waits; nothing of its registers changes. A
lane thread passes a SPLICE whose fold has failed, which is forgotten once every lane thread has passed it. -/
def Says.Splice : Prop :=
  ∀ (s : State) (g : Group) (r : Run) (t : Thread) (x : FmtI), Performs s g r t (.splice x) .always → r.pos = 0 →
    (g.lanes = false → (∀ q ∈ t.splices.head?, q.addr ≠ r.hdr) → exec (.splice x) s = s.makes g r t)
    ∧ ((g.lanes = false ∧ ∃ q ∈ t.splices.head?, q.addr = r.hdr) ∨ (g.lanes = true ∧ g.foldFailed r.hdr = false) →
      exec (.splice x) s
        = .next (s.performLeave g r { t with pc := r.hdr, hdr := r.hdr, status := .splice (s.cycles (s.penDie g.pen)) s.draw }))
    ∧ (g.lanes = true → g.foldFailed r.hdr = true →
      exec (.splice x) s = (s.updGroup g.id (fun y => y.passFold r.hdr [t.lane])).makes g r t)

/-- The machine after a thread of a pen has ended: its QPOPs in flight stay outstanding (R404; log 48). -/
def endedIn (s : State) (pen : Nat) (t : Thread) : State :=
  { s with lostPops := s.lostPops ++ t.pend.filterMap (fun p => p.queue.map (fun a => (⟨p.op, s.ctxOf pen, pen, a, false⟩ : LostPop))) }
/-- A thread that has exited: its loads in flight are discarded (R157). -/
def exited (t : Thread) : Thread := { t with status := .exited, pend := [], engOps := [] }

/-- R157, R159, R163 to R165, R338, R363, R404: EXIT ends the thread; that its QPOPs in flight stay outstanding, here and after a kill, is
the model's choice of the ends that R404 allows (log 48). NOP, and LAYDN in a lane group, do nothing; a kill point ends a
thread of a bounded task whose bound is not below the core's key, counting the kill, and otherwise KPOINT does nothing and
YIELD, last in its clause, gives up the turn and latches $role. After a YIELD the group is evicted or not; with no ready member
it is not. -/
def Says.ExitNopYield : Prop :=
  ∀ (s : State) (g : Group) (r : Run) (t : Thread) (x : FmtA),
    let bounded := (s.task t.task).cell.v = true
      ∧ ((s.cell (s.task t.task).cell.cell.toNat).localKey s.now (.core ((s.pen g.pen).core.getD 0))).toInt
          ≤ (s.task t.task).cell.bound.toInt
    let killed := endedIn (s.noteKill t.task true) g.pen t
    (Performs s g r t (.exit x) x.gd → exec (.exit x) s = .next ((endedIn s g.pen t).performLeave g r (exited t)))
    ∧ (Performs s g r t (.nop x) x.gd → exec (.nop x) s = s.makes g r t)
    ∧ (Performs s g r t (.laydn x) .always → g.lanes = true → exec (.laydn x) s = s.makes g r t)
    ∧ (Performs s g r t (.kpoint x) .always →
      (¬ bounded → exec (.kpoint x) s = s.makes g r t)
      ∧ (bounded → exec (.kpoint x) s = .next (killed.performLeave g r (exited t))))
    ∧ (Performs s g r t (.yield x) .always → r.pos + 1 = r.words.length →
      (bounded → exec (.yield x) s = .next ((killed.performLeave g r (exited t)).yieldEvict g.id))
      ∧ (¬ bounded → exec (.yield x) s = .next (((s.updGroup g.id (fun y => { y with yielded := true })).perform g r
          { t with role := roleOf (s.launchOf g.pen) (s.pen g.pen) }).yieldEvict g.id)))
    ∧ (∀ v : State, (v.yieldEvict g.id = v ∨ v.yieldEvict g.id = v.enlist.evict g.id)
        ∧ (v.enlist.members = [] → v.yieldEvict g.id = v))

/-- Instructions of blocks 0, 4 and 5 whose result is of class E wherever a source is in A form (R17): those of format A with one
destination register, but for the affine ones, and IMULW, which has two. -/
def eInstrs (x : FmtA) : List Instr := List.flatten
  [[Instr.and x, Instr.or x, Instr.xor x, Instr.rot x, Instr.bfi x, Instr.popc x, Instr.clz x, Instr.ctz x, Instr.bswap x,
     Instr.brev x, Instr.iabs x, Instr.sel x, Instr.lmul x, Instr.lacc x, Instr.frcp x, Instr.frsq x, Instr.fexp2 x, Instr.flog2 x,
     Instr.bplane .p4 x, Instr.bplane .p8 x],
   [Sgn.s, Sgn.n].flatMap (fun v => [Instr.shr v x, Instr.bfx v x, Instr.imulh v x, Instr.imulw v x, Instr.idiv v x, Instr.irem v x,
     Instr.imin v x, Instr.imax v x, Instr.iclamp v x, Instr.qdot v x]),
   [FTy.f64, FTy.f32, FTy.f16x4, FTy.bf16x4].flatMap (fun t => [Instr.fadd t x, Instr.fsub t x, Instr.fmul t x, Instr.fma t x]),
   [FP.f64, FP.f32].flatMap (fun t => [Instr.fdiv t x, Instr.fsqrt t x, Instr.fmin t x, Instr.fmax t x]),
   [FrndM.rn, .rz, .rd, .ru].flatMap (fun m => [Instr.frnd m .f64 x, Instr.frnd m .f32 x]),
   [CvtV.f64f32, .f32f64, .bf16f32, .f16f32, .f32f16, .f32bf16, .e4m3f32, .e5m2f32, .e2m1f32, .lns6f32, .f32lns6, .f64s64, .s64f64,
     .f32s32, .s32f32, .f64n64].map (Instr.cvt · x),
   [BsF.i8, BsF.i4, BsF.e4m3, BsF.e2m1].flatMap (fun f => [Instr.bspack f x, Instr.bsunpk f x])]

/-- R19 to R23, R272: an instruction that lays a strand down does so first and then executes once per lane. For LAYDN; for an
instruction of `eInstrs` (AND, OR, XOR, ROT, BFI, POPC, CLZ, CTZ, BSWAP, BREV, IABS, SEL, SHR, BFX, IMULH, IMULW, IDIV, IREM, IMIN, IMAX,
ICLAMP, FADD, FSUB, FMUL, FMA, FDIV, FSQRT, FRCP, FRSQ, FEXP2, FLOG2, FMIN, FMAX, FRND, CVT, BSPACK, BSUNPK, BPLANE, LMUL, LACC,
QDOT) and MOVHI, with source A in A form; and for LD and LDS at an address in A form, executing it in a strand of at most 64
indices that gets a lane row is executing it in the lane group that the lay-down makes of the strand; so are products of two affine factors, SHL and LEA by an
affine amount, the 32-bit arithmetic whose result differs from the 64-bit one at some index (R17), and RED and SCAN where R272
lays down. -/
def Says.LayDownFirst : Prop :=
  ∀ (s s1 : State) (g : Group) (r : Run) (t : Thread) (x : FmtA) (gid : Nat), g.lanes = false → t.n ≤ 64 →
    s.rowQueue g.id ((s.pen g.pen).core.getD 0) = false → s.layDown g.id = some (s1, gid) →
    (Performs s g r t (.laydn x) .always → exec (.laydn x) s = exec (.laydn x) s1)
    ∧ (∀ i ∈ eInstrs x, Performs s g r t i x.gd → (t.reads g r .int x.a).isA = true → exec i s = exec i s1)
    ∧ (∀ y : FmtI, Performs s g r t (.movhi y) y.gd → (t.reads g r .int y.a).isA = true → exec (.movhi y) s = exec (.movhi y) s1)
    ∧ (∀ y : FmtM, (t.reads g r .int y.base).isA = true →
      ∀ i ∈ [LdV.n8, .s8, .n16, .s16, .n32, .s32, .b64, .b128].map (Instr.ld · y) ++ [LdsV.b32, .b64, .b128].map (Instr.lds · y),
        Performs s g r t i y.gd → exec i s = exec i s1)
    ∧ (∀ i ∈ [IntW.i32, IntW.i64].flatMap (fun w => [Instr.imul w x, Instr.imad w x]), Performs s g r t i x.gd →
      (t.reads g r .int x.a).isA = true → (t.reads g r .int x.b).isA = true → exec i s = exec i s1)
    ∧ (Performs s g r t (.shl x) x.gd → (t.reads g r .int x.b).isA = true → exec (.shl x) s = exec (.shl x) s1)
    ∧ (Performs s g r t (.lea x) x.gd → (t.reads g r .int x.c).isA = true → exec (.lea x) s = exec (.lea x) s1)
    ∧ (x.cl = .none → (∀ m ∈ [x.ma, x.mb, x.mc], Mod.isAbs m = false) → ∀ p ∈ affineOps .i32 x, Performs s g r t p.1 x.gd →
      (t.reads g r .int x.a).isA = true ∨ (t.reads g r .int x.b).isA = true →
      (∃ k < t.n, affineAt 32 t g r x p.2.1 k ≠ affineAt 64 t g r x p.2.1 k) → exec p.1 s = exec p.1 s1)
    ∧ (r.pos = 0 →
      (∀ i ∈ [Instr.red .fadd64 x, .red .fadd32 x, .red .fmin32 x, .red .fmax32 x, .scan .fadd32 x],
        Performs s g r t i .always → exec i s = exec i s1)
      ∧ ∀ i ∈ [Instr.red .imin x, .red .imax x, .red .and x, .red .or x, .scan .iadd64 x],
        Performs s g r t i .always → (t.reads g r .int x.a).isA = true → exec i s = exec i s1)

/-- R20, R65: in a lane group each lane selected executes for itself. AND, OR and XOR with several lanes selected, all under a
true guard: every selected lane thread's D and newest history entry take the combination of its own a and b; the threads of
other lanes keep their records. -/
def Says.LanesActEach : Prop :=
  ∀ (s : State) (g : Group) (r : Run) (x : FmtA) (a b : Nat → W64),
    s.cur = some g.id → s.group g.id = g → g.run = some r → g.lanes = true → r.from' = 0 → r.sel.Nodup → r.sel.Pairwise (· ≤ ·) →
    ∀ p ∈ ([(.and x, (· &&& ·)), (.or x, (· ||| ·)), (.xor x, (· ^^^ ·))] : List (Instr × (W64 → W64 → W64))),
      p.1.regsOk (s.launchOf g.pen).regs = true →
      (∀ l ∈ r.sel, ∃ t, g.thread l = some t ∧ t.laneGuard x.gd = some true
        ∧ t.reads g r .int x.a = .u (a l) ∧ t.reads g r .int x.b = .u (b l)) →
      exec p.1 s = .next (((s.updGroup g.id (fun y => { y with threads := y.threads.map (fun t =>
        if t.lane ∈ r.sel then ((g.thread t.lane).getD t).result x.d (.u (p.2 (a t.lane) (b t.lane))) else t) })).advance
          (envOf g r) r.sel).settle g.pen)

/-- The instructions that give registers a result at once: those of class E, and the affine ones. -/
def resultInstrs (x : FmtA) : List Instr :=
  eInstrs x ++ [.mov x, .not x, .shl x, .lea x]
    ++ [IntW.i32, IntW.i64].flatMap (fun w => [Instr.iadd w x, Instr.isub w x, Instr.imul w x, Instr.imad w x])
/-- The plain stores, and the line copies. -/
def storeInstrs (y : FmtM) : List Instr :=
  [StV.b8, .b16, .b32, .b64, .b128].map (Instr.st · y) ++ [LdsV.b32, .b64, .b128].map (Instr.sts · y) ++ [.cpsIn y, .cpsOut y]

/-- R31, R441, R70, R135: under a guard that is false for every index of a strand, or for the lane, an instruction with a
register result changes no register, and a store no memory; neither raises a fault, whatever its operands are. The history shifts
for a short-latency result: the newest entry takes D's unchanged value, an unpredictable one where D is no register. -/
def Says.FalseGuard : Prop :=
  ∀ (s : State) (g : Group) (r : Run) (t : Thread) (x : FmtA) (y : FmtM), Issues s g r t → t.n ≠ 0 →
    let isFalse := fun gd => if g.lanes then t.laneGuard gd = some false else t.guardRuns gd = some [(0, t.n, false)]
    (∀ i ∈ resultInstrs x, isFalse x.gd → i.regsOk (s.launchOf g.pen).regs = true →
      exec i s = .next (((s.bump.updThread g.id t.lane (fun u => if g.lanes then t.skipped x.d s.fresh else u.skipped x.d s.fresh)).advance
        (envOf g r) [t.lane]).settle g.pen))
    ∧ (∀ i ∈ storeInstrs y, isFalse y.gd → i.regsOk (s.launchOf g.pen).regs = true →
      exec i s = .next ((((s.drawn g).updThread g.id t.lane (fun u => if g.lanes then t else u)).advance (envOf g r) [t.lane]).settle g.pen))
    ∧ ∀ seed, t.skipped x.d seed = { t with hist := t.hist.push (if x.d.file = .special then .u (Config.freeReg seed 520)
        else t.regs.get (Opd.key x.d)) }

/-- Compares and stack operations: `Says.ComparesPush`, `Says.StackOperations`. -/
def Obligations.PredicateStack : Prop :=
  Says.ComparesPush ∧ Says.StackOperations

/-- Branches to good and to bad targets: `Says.Branches`, `Says.BranchToBadTarget`. -/
def Obligations.BranchesAndTargets : Prop :=
  Says.Branches ∧ Says.BranchToBadTarget

/-- The other control instructions: `Says.Splice`, `Says.ExitNopYield` (log 48). -/
def Obligations.SpliceExitYield : Prop :=
  Says.Splice ∧ Says.ExitNopYield

/-- Lanes act each for itself, a false guard changes nothing: `Says.LanesActEach`, `Says.FalseGuard`. -/
def Obligations.LanesAndGuards : Prop :=
  Says.LanesActEach ∧ Says.FalseGuard

/-! ### Block 2: plain memory (R166 to R175) -/

/-- The value that a load variant gives (R171). -/
def loadedValue (v : LdV) (m : Nat) : List Form :=
  match v with
  | .n8 | .n16 | .n32 | .b64 => [.u (BitVec.ofNat 64 m)]
  | .s8 => [.u ((BitVec.ofNat 8 m).signExtend 64)]
  | .s16 => [.u ((BitVec.ofNat 16 m).signExtend 64)]
  | .s32 => [.u ((BitVec.ofNat 32 m).signExtend 64)]
  | .b128 => [.u (BitVec.ofNat 64 (m % 2 ^ 64)), .u (BitVec.ofNat 64 (m / 2 ^ 64))]

/-- R66 to R68, R166, R171: LD at an address in U form that passes the checks reads at base + OFF20, sets the flag that its clause
gives its class, and leaves its destination unpredictable; the operation that it starts owes V, and V + 1, the value read, zero-
or sign-extended. Memory is as it was, and HINT shed alone touches the context (R199). That a load reads in the step of its issue and owes that value is the model's choice among the
moments that R209 allows (log 6). LDS is short-latency, reaches the scratch of the member named, and gives its value at once (R173). -/
def Says.Loads : Prop :=
  ∀ (s : State) (g : Group) (r : Run) (t : Thread) (x : FmtM) (a : W64), t.reads g r .int x.base = .u a →
    (∀ (v : LdV) (l : Loc), Performs s g r t (.ld v x) x.gd →
      Reaches s g r t x.space (a + x.off.signExtend 64) (LdV.size v) accRead none l →
      ∃ (w : State) (p : Pend) (u : Thread), exec (.ld v x) s = .next (w.bump.perform g r u)
        ∧ w = { s with ctxs := w.ctxs, fresh := w.fresh } ∧ (x.hint ≠ .shed → w = s.drawn g)
        ∧ p.flag = namedFlag 15 r.head.seta ∧ p.engine = false ∧ p.fpx = 0
        ∧ p.writes.map Prod.snd = loadedValue v (s.readLoc l (LdV.size v))
        ∧ p.writes.map Prod.fst = (List.range p.writes.length).map (fun k => Opd.key x.v + k)
        ∧ u.pend = t.pend ++ [p] ∧ (p.flag < 12 → u.flags.getLsbD p.flag = true)
        ∧ u = { t with pend := u.pend, flags := u.flags, regs := u.regs }
        ∧ ∀ k, k ∉ p.writes.map Prod.fst → u.regs.get k = t.regs.get k)
    ∧ (∀ (v : LdsV) (l : Loc), v ≠ .b128 → Performs s g r t (.lds v x) x.gd →
      (∃ l0, s.teamLoc g.pen (a + x.off.signExtend 64) (LdsV.size v) accRead = .ok l0) →
      (s.drawn g).teamLoc g.pen (a + x.off.signExtend 64) (LdsV.size v) accRead = .ok l →
      exec (.lds v x) s = .next ((s.drawn g).perform g r
        (t.result x.v (.u (BitVec.ofNat 64 (s.readLoc l (LdsV.size v)))))))
    ∧ (∀ (l : Loc), Performs s g r t (.lds .b128 x) x.gd →
      (∃ l0, s.teamLoc g.pen (a + x.off.signExtend 64) 16 accRead = .ok l0) →
      (s.drawn g).teamLoc g.pen (a + x.off.signExtend 64) 16 accRead = .ok l →
      exec (.lds .b128 x) s = .next ((s.drawn g).perform g r
        { t.result x.v (.u (BitVec.ofNat 64 (s.readLoc l 16 % 2 ^ 64))) with
          regs := (t.result x.v (.u (BitVec.ofNat 64 (s.readLoc l 16 % 2 ^ 64)))).regs.set (Opd.key x.v + 1)
            (.u (BitVec.ofNat 64 (s.readLoc l 16 / 2 ^ 64))) }))

/-- What the completion of a memory-class operation leaves in a thread that it is owed to. Each destination holds its result:
where no other flag names it (an operation in flight, an earlier result) a read gives it; while another operation names the
flag of this one, its reads stay unpredictable under that flag. A register that is no destination, and stands under no flag,
is as it was. (Of a strand not every index of which owes the result, `forms` leaves the register open: log 95.) -/
def delivered (s u : State) (g : Group) (t : Thread) (p : Pend) : Prop :=
  let shared := p.flag < 12 ∧ ∃ q ∈ t.pend, q.op ≠ p.op ∧ q.flag = p.flag
  let written := (p.forms p.writes).foldl (fun f w => f.set w.1 w.2) t.regs
  ∃ t' : Thread, (u.group g.id).thread t.lane = some t' ∧ u.mem = s.mem
    ∧ (∀ w ∈ p.writes, shared → t'.regs.held w.1 = written.get w.1 ∧ p.flag ∈ t'.regs.lateKeys w.1)
    ∧ (∀ w ∈ p.writes, ¬ shared → (∀ q ∈ t.pend, q.op ≠ p.op → ∀ v ∈ q.writes, v.1 ≠ w.1) → (∀ v ∈ t.regs.late, v.1 ≠ w.1) →
        t'.regs.get w.1 = written.get w.1 ∧ t'.regs.lateKeys w.1 = [])
    ∧ (∀ k, (∀ w ∈ p.writes, w.1 ≠ k) → (∀ v ∈ t.regs.late, v.1 ≠ k) → t'.regs.get k = t.regs.get k)
    ∧ t'.fpx = t.fpx ||| p.fpx
    ∧ t'.pend = t.pend.filter (fun q => q.op != p.op)
    ∧ (p.flag < 12 → (t'.flags.getLsbD p.flag = true ↔ t.flags.getLsbD p.flag = true ∧ ∃ q ∈ t.pend, q.op ≠ p.op ∧ q.flag = p.flag))

/-- R66, R68: when a memory-class operation of a thread completes, its results are written, its flags raised in $fpx, and
the flag that it named is cleared unless another operation in flight names it. While another names it, a read of what was
written stays unpredictable, until the flag clears.
Completions come in any order (log 6). -/
def Says.MemoryCompletion : Prop :=
  ∀ (s : State) (g : Group) (t : Thread) (p : Pend), s.group g.id = g → g ∈ s.groups → t ∈ g.threads →
    (g.threads.map Thread.lane).Nodup → p ∈ t.pend → (t.pend.map Pend.op).Nodup → p.engine = false → p.queue = none →
    (∀ m, t.status ≠ .waita m) → (∀ o ∈ s.ops, o.id ≠ p.op) → (∀ k ∈ s.conts, ∀ q ∈ k.pops, q.1 ≠ p.op) →
    (∀ q ∈ s.lostPops, q.op ≠ p.op) →
    ∃ u : State, exec (.memoryOpCompletion p.op) s = .next u ∧ delivered s u g t p

/-- R166, R170, R172, R173: a store by one index. ST, and STS, write exactly the low bytes of V, at the location that the
effective address reaches: those bytes then read as the value, every other byte of that memory as before, and no register,
flag or other memory changes; of a line of global memory it is noted for whom it was written last (R225; log 34). HINT shed alone touches the context (R199).
That the access takes effect in the step of the issue is log 6. -/
def Says.StoresOfOne : Prop :=
  ∀ (s : State) (g : Group) (r : Run) (t : Thread) (x : FmtM) (l : Loc), s.memForm = true → t.n = 1 →
    (∀ v : StV, Performs s g r t (.st v x) x.gd → (∃ l0, stLoc v x s (envOf g r) t 0 = .ok l0) →
      stLoc v x s.bump (envOf g r) t 0 = .ok l →
      ∃ u : State, exec (.st v x) s = .next (u.perform g r t)
        ∧ u = { s with mem := u.mem, writers := u.writers, pens := u.pens, ctxs := u.ctxs, fresh := u.fresh }
        ∧ (x.hint ≠ .shed → u.ctxs = s.ctxs)
        ∧ u.readLoc l (StV.size v) = storeValue (envOf g r) t x.v (StV.size v) 0
        ∧ (match l with
           | .phys a => u.pens = s.pens ∧ ∀ b, b < a ∨ a + StV.size v ≤ b → Memory.get u.mem b = Memory.get s.mem b
           | .scr p o => u.mem = s.mem ∧ (∀ q, q ≠ p → u.pen q = s.pen q)
              ∧ u.pen p = { s.pen p with scratch := (u.pen p).scratch }
              ∧ ∀ b, b < o ∨ o + StV.size v ≤ b → Memory.get (u.pen p).scratch b = Memory.get (s.pen p).scratch b))
    ∧ (∀ v : LdsV, Performs s g r t (.sts v x) x.gd → (∃ l0, stsLoc v x s (envOf g r) t 0 = .ok l0) →
      stsLoc v x s.bump (envOf g r) t 0 = .ok l →
      ∃ u : State, exec (.sts v x) s = .next (u.perform g r t) ∧ u = { s with pens := u.pens, fresh := u.fresh }
        ∧ u.readLoc l (LdsV.size v) = storeValue (envOf g r) t x.v (LdsV.size v) 0
        ∧ ∃ p o, l = .scr p o ∧ (∀ q, q ≠ p → u.pen q = s.pen q)
          ∧ u.pen p = { s.pen p with scratch := (u.pen p).scratch }
          ∧ ∀ b, b < o ∨ o + LdsV.size v ≤ b → Memory.get (u.pen p).scratch b = Memory.get (s.pen p).scratch b)

/-- R169, R170: a strand of any length stays whole and stores for each index: a scratch ST under a true guard, allowed for
every index, leaves every byte outside the indices' bytes as it was, and where the bytes of index k meet those of no other
index, they hold the value of index k. Memory, the other pens, every group but for the performing, every thread's registers and
every context are as they were. -/
def Says.BlockStore : Prop :=
  ∀ (s : State) (g : Group) (r : Run) (t : Thread) (v : StV) (x : FmtM) (o : Nat → Nat), s.memForm = true → g.lanes = false →
    x.space = .scratch → Performs s g r t (.st v x) x.gd →
    (∀ k < t.n, stLoc v x s (envOf g r) t k = .ok (.scr g.pen (o k))) →
    ∃ u : State, exec (.st v x) s = .next (u.perform g r t) ∧ u = { s with pens := u.pens, fresh := u.fresh }
      ∧ (∀ q, q ≠ g.pen → u.pen q = s.pen q) ∧ u.pens.map Pen.id = s.pens.map Pen.id
      ∧ u.pen g.pen = { s.pen g.pen with scratch := (u.pen g.pen).scratch }
      ∧ (∀ b, (∀ k < t.n, b < o k ∨ o k + StV.size v ≤ b) →
          Memory.get (u.pen g.pen).scratch b = Memory.get (s.pen g.pen).scratch b)
      ∧ ∀ k < t.n, (∀ j < t.n, j ≠ k → o j + StV.size v ≤ o k ∨ o k + StV.size v ≤ o j) →
          Memory.load (u.pen g.pen).scratch (o k) (StV.size v) = storeValue (envOf g r) t x.v (StV.size v) k

/-- R166, R168, R384: an access that is not aligned to its size is refused with ALIGN before any other check, in every
space, whatever the kind of access; a scratch access beyond $scsz with PERM; a global address of more than 56 bits with
XLATE. -/
def Obligations.AccessChecks : Prop :=
  ∀ (s : State) (pen i : Nat) (hwm : BitVec 40) (sp : Space) (ea : W64) (n : Nat) (k : AccKind), 0 < n →
    (ea.toNat % n ≠ 0 → ∃ f, s.access pen i hwm sp ea n k = .error f ∧ f.cause = cALIGN ∧ f.acc = k.acc)
    ∧ (ea.toNat % n = 0 → (s.pen pen).scsz < ea.toNat + n → ∃ f, s.access pen i hwm .scratch ea n k = .error f ∧ f.cause = cPERM)
    ∧ (ea.toNat % n = 0 → 2 ^ 56 ≤ ea.toNat → ∃ f, s.access pen i hwm .global ea n k = .error f ∧ f.cause = cXLATE)
    ∧ (ea.toNat % n = 0 → 2 ^ 40 ≤ ea.toNat → ∃ f, s.access pen i hwm .priv ea n k = .error f ∧ f.cause = cXLATE)

/-- R174, R199: PREF changes no memory and no register and raises no fault; with HINT shed, where the context holds shed ways
on the pen's die and the address translates to readable memory, its line is kept in the shed of that die. -/
def Says.Prefetch : Prop :=
  ∀ (s : State) (g : Group) (r : Run) (t : Thread) (x : FmtM), t.n = 1 → Performs s g r t (.pref x) x.gd →
    ∃ u : State, exec (.pref x) s = .next (u.perform g r t) ∧ u = { s with ctxs := u.ctxs, fresh := u.fresh }
      ∧ (x.hint ≠ .shed → u.ctxs = s.ctxs)
      ∧ (∀ pa, x.hint = .shed → x.space = .global → s.ctxOf g.pen ∈ s.ctxs.map Context.id →
          0 < (s.ctx (s.ctxOf g.pen)).shed.getD (s.penDie g.pen) 0 →
          s.globalLoc (s.ctxOf g.pen) (((t.reads g r .int x.base).val 0) + x.off.signExtend 64) 1 accRead.device = .ok (.phys pa) →
          (s.penDie g.pen, pa / 128) ∈ (u.ctx (s.ctxOf g.pen)).shedLines)

/-- R175: CPS copies one line of 128 bytes, by 16 accesses of 8 bytes on each side, all of them allowed: CPS.out writes the
scratch line to the location of the effective address, CPS.in the other way about; every other byte is as it was. HINT shed
alone touches the context (R199).
That the access takes effect in the step of the issue is log 6. -/
def Says.LineCopies : Prop :=
  ∀ (s : State) (g : Group) (r : Run) (t : Thread) (x : FmtM) (pa o : Nat), s.memForm = true → t.n = 1 → t.cps = none →
    let reach := fun (out : Bool) => (∀ j < 16, cpsAt true out x s (envOf g r) t 0 j = .ok (.phys (pa + 8 * j)))
      ∧ ∀ j < 16, cpsAt false (!out) x s (envOf g r) t 0 j = .ok (.scr g.pen (o + 8 * j))
    (Performs s g r t (.cpsOut x) x.gd → reach true →
      ∃ u : State, exec (.cpsOut x) s = .next (u.perform g r t)
        ∧ u = { s with mem := u.mem, writers := u.writers, ctxs := u.ctxs, fresh := u.fresh }
        ∧ (x.hint ≠ .shed → u.ctxs = s.ctxs)
        ∧ (∀ k < 128, Memory.get u.mem (pa + k) = Memory.get (s.pen g.pen).scratch (o + k))
        ∧ ∀ b, b < pa ∨ pa + 128 ≤ b → Memory.get u.mem b = Memory.get s.mem b)
    ∧ (Performs s g r t (.cpsIn x) x.gd → reach false →
      ∃ (u : State) (t' : Thread), exec (.cpsIn x) s = .next (u.perform g r t')
        ∧ u = { s with pens := u.pens, ctxs := u.ctxs, fresh := u.fresh } ∧ (x.hint ≠ .shed → u.ctxs = s.ctxs)
        ∧ t' = { t with flags := t'.flags, pend := t'.pend }
        ∧ (∀ k < 128, Memory.get (u.pen g.pen).scratch (o + k) = Memory.get s.mem (pa + k))
        ∧ ∀ b, b < o ∨ o + 128 ≤ b → Memory.get (u.pen g.pen).scratch b = Memory.get (s.pen g.pen).scratch b)

/-- Loads and the delivery of their results: `Says.Loads`, `Says.MemoryCompletion`. -/
def Obligations.LoadsAndCompletion : Prop :=
  Says.Loads ∧ Says.MemoryCompletion

/-- Stores by one index, and by every index of a strand: `Says.StoresOfOne`, `Says.BlockStore`. -/
def Obligations.StoresAndBlocks : Prop :=
  Says.StoresOfOne ∧ Says.BlockStore

/-- PREF and CPS: `Says.Prefetch`, `Says.LineCopies`. -/
def Obligations.PrefetchAndLines : Prop :=
  Says.Prefetch ∧ Says.LineCopies

/-! ### Block 2: rings (R176 to R184) -/

/-- R178, R180: a ring status word holds FREE, FILLED, the head and the tail; RNGCFG with WM 1 gives it; with WM 0 and a
configuration that passes the checks, it configures the ring with every slot FREE and gives the status from before. -/
def Says.RingSetUp : Prop :=
  (∀ q : Ring, q.slots.length ≤ 4096 → q.head < 4096 → q.tail < 4096 →
    q.status.toNat = (q.slots.filter (· == .free)).length + 2 ^ 16 * (q.slots.filter (· == .filled)).length
      + 2 ^ 32 * q.head + 2 ^ 48 * q.tail)
  ∧ ∀ (s : State) (g : Group) (r : Run) (t : Thread) (x : FmtQ) (n b : W64),
    t.reads g r .int x.a = .u n → t.reads g r .int x.b = .u b →
    (Performs s g r t (.rngcfgQuery x) x.gd →
      exec (.rngcfgQuery x) s = s.gives g r t x.d (s.ring g.pen (n.toNat % 8)).status)
    ∧ (Performs s g r t (.rngcfgConfigure x) x.gd → bits b 63 45 = 0 → bits b 31 28 = 0 → bits b 23 21 = 0 →
      6 ≤ (bits b 27 24).toNat → (bits b 27 24).toNat ≤ 16 → (bits b 44 32).toNat ≤ 4096 → (bits b 20 0).toNat % 64 = 0 →
      ((bits b 44 32).toNat = 0 ∨
        (bits b 20 0).toNat + (bits b 44 32).toNat * 2 ^ (bits b 27 24).toNat ≤ (s.pen g.pen).scsz) →
      s.ringHeld g.pen (n.toNat % 8) = false →
      exec (.rngcfgConfigure x) s = .next ((s.setRing g.pen (n.toNat % 8)
        { cfg := b, head := 0, tail := 0, slots := List.replicate (bits b 44 32).toNat .free }).perform g r
          (t.result x.d (.u (s.ring g.pen (n.toNat % 8)).status))))

/-- R181, R183, R184: on an enabled ring RNGCLAIM claims the slot at the tail if it is FREE, and RNGWAIT takes the slot at
the head if it is FILLED: D takes the slot's offset, and the pointer moves on around the ring. Otherwise with WM 1 D takes
all ones, and with WM 0 (first in its clause) the thread waits. A thread that waits tests again in the same way. -/
def Says.RingClaimsAndTakes : Prop :=
  ∀ (s : State) (g : Group) (r : Run) (t : Thread) (x : FmtQ) (n : W64),
    let k := n.toNat % 8
    let q := s.ring g.pen k
    let slot := fun (j : Nat) => BitVec.ofNat 64 ((bits q.cfg 20 0).toNat + j * 2 ^ (bits q.cfg 27 24).toNat)
    let claimed : State := s.setRing g.pen k { q with slots := q.slots.set q.tail .claimed, tail := (q.tail + 1) % (bits q.cfg 44 32).toNat }
    let taken : State := s.setRing g.pen k { q with slots := q.slots.set q.head .taken, head := (q.head + 1) % (bits q.cfg 44 32).toNat }
    let waits := fun (c : Bool) => s.performLeave g r { t with pc := r.hdr, hdr := r.hdr, status := .ring k c x.d }
    t.reads g r .int x.a = .u n → (x.wm = 1 ∨ r.pos = 0 ∧ x.wm = 0) → (bits q.cfg 44 32).toNat ≠ 0 →
    (Performs s g r t (.rngclaim x) x.gd →
      exec (.rngclaim x) s =
        if q.slots.getD q.tail .claimed = .free then .next (claimed.perform g r (t.result x.d (.u (slot q.tail))))
        else if x.wm = 1 then s.gives g r t x.d 0xFFFFFFFFFFFFFFFF else .next (waits true))
    ∧ (Performs s g r t (.rngwait x) x.gd →
      exec (.rngwait x) s =
        if q.slots.getD q.head .free = .filled then .next (taken.perform g r (t.result x.d (.u (slot q.head))))
        else if x.wm = 1 then s.gives g r t x.d 0xFFFFFFFFFFFFFFFF else .next (waits false))
    ∧ (∀ (gid lane : Nat) (u : Thread) (c : Bool) (d : Opd), (s.group gid).pen = g.pen → (s.group gid).thread lane = some u →
      u.status = .ring k c d → (s.group gid).resident s = true →
      exec (.ringWaiterRetest false gid lane) s = .next (
        if c then (if q.slots.getD q.tail .claimed = .free then claimed.updThread gid lane (fun v => v.resumeWith d (slot q.tail)) else s)
        else (if q.slots.getD q.head .free = .filled then taken.updThread gid lane (fun v => v.resumeWith d (slot q.head)) else s)))

/-- R182: RNGFILL marks a CLAIMED slot, claimed by a thread or by a copy, FILLED and RNGFREE marks a TAKEN slot FREE, where b is
the offset of a slot of an enabled ring. Nothing else changes. -/
def Says.RingMarks : Prop :=
  ∀ (s : State) (g : Group) (r : Run) (t : Thread) (x : FmtQ) (n : W64) (m : Nat),
    let q := s.ring g.pen (n.toNat % 8)
    t.reads g r .int x.a = .u n → m < (bits q.cfg 44 32).toNat →
    t.reads g r .int x.b = .u (BitVec.ofNat 64 ((bits q.cfg 20 0).toNat + m * 2 ^ (bits q.cfg 27 24).toNat)) →
    (Performs s g r t (.rngfill x) x.gd → (q.slots.getD m .free = .claimed ∨ ∃ op, q.slots.getD m .free = .engine op) →
      exec (.rngfill x) s = .next ((s.setRing g.pen (n.toNat % 8) { q with slots := q.slots.set m .filled }).perform g r t))
    ∧ (Performs s g r t (.rngfree x) x.gd → q.slots.getD m .free = .taken →
      exec (.rngfree x) s = .next ((s.setRing g.pen (n.toNat % 8) { q with slots := q.slots.set m .free }).perform g r t))

/-! ### Block 3: atomics, waits, barriers, gather and scatter (R227 to R256) -/

/-- R8, R170, R207: writing n bytes at a location makes them read as the value modulo 2^(8n); every other byte of DRAM and
of every pen's scratch reads as before; nothing else of the machine changes, but that it is noted for which context a line was
written last (R225; log 34), and the memories keep their form. -/
def Obligations.MemoryWrites : Prop :=
  ∀ (s : State) (l : Loc) (n v : Nat), s.memForm = true → (∀ p o, l = .scr p o → p ∈ s.pens.map Pen.id) →
    (s.writeLoc l n v).memForm = true
    ∧ (s.writeLoc l n v).readLoc l n = v % 2 ^ (8 * n)
    ∧ s.writeLoc l n v = { s with mem := (s.writeLoc l n v).mem, writers := (s.writeLoc l n v).writers, pens := (s.writeLoc l n v).pens }
    ∧ (∀ k j, (match l, k with
          | .phys a, .phys b => a + n ≤ b ∨ b + j ≤ a
          | .scr p a, .scr q b => p ≠ q ∨ a + n ≤ b ∨ b + j ≤ a
          | _, _ => True) → (s.writeLoc l n v).readLoc k j = s.readLoc k j)

/-- The value that ATOM leaves at its location (R232). -/
def atomValue (op : AtomOp) (old b : W64) : W64 :=
  match op with
  | .add32 => ((old.setWidth 32) + (b.setWidth 32)).setWidth 64
  | .add64 => old + b
  | .and => old &&& b
  | .or => old ||| b
  | .xor => old ^^^ b
  | .mins => if old.slt b then old else b
  | .maxs => if old.slt b then b else old
  | .minn => if old < b then old else b
  | .maxn => if old < b then b else old
  | .xchg => b

/-- R231 to R235: in a lane group ATOM, CAS and ATOMF read and write their location at one point; the location takes the
rule's value, and the operation owes D the old value (with the flags of the addition, for ATOMF). A strand is always laid
down first.
That the access takes effect in the step of the issue is log 6. -/
def Obligations.Atomics : Prop :=
  ∀ (s : State) (g : Group) (r : Run) (t : Thread) (x : FmtQ) (a b : W64) (l : Loc),
    t.reads g r .int x.a = .u a → (s.threadLaunch t).gang = none → g.lanes = true →
    (∀ op, Performs s g r t (.atom op x) x.gd → Reaches s g r t (spaceOfWm x.wm) a (AtomOp.size op) accRmw (some 0) l →
      t.reads g r .int x.b = .u b →
      let old := BitVec.ofNat 64 (s.readLoc l (AtomOp.size op))
      exec (.atom op x) s = (s.bump.writeLoc l (AtomOp.size op) (atomValue op old b).toNat).owes g r t x.flg [(Opd.key x.d, .u old)])
    ∧ (∀ w, Performs s g r t (.cas w x) x.gd → Reaches s g r t (spaceOfWm x.wm) a (CasW.size w) accRmw (some 0) l →
      let old := s.readLoc l (CasW.size w)
      let equal := old = storeValue (envOf g r) t x.d (CasW.size w) 0
      exec (.cas w x) s = (if equal then s.bump.writeLoc l (CasW.size w) (storeValue (envOf g r) t x.b (CasW.size w) 0) else s.bump).owes g r t
          x.flg (if w = .i128 then [(Opd.key x.d, .u (BitVec.ofNat 64 (old % 2 ^ 64))), (Opd.key x.d + 1, .u (BitVec.ofNat 64 (old / 2 ^ 64)))]
            else [(Opd.key x.d, .u (BitVec.ofNat 64 old))]))
    ∧ (∀ ty, Performs s g r t (.atomf ty x) x.gd → Reaches s g r t (spaceOfWm x.wm) a (AtomfT.size ty) accRmw (some 0) l →
      t.reads g r (AtomfT.sty ty) x.b = .u b →
      let old := s.readLoc l (AtomfT.size ty)
      let sum : Nat × Fpx := match ty with
        | .f64 => F64.add old b.toNat
        | .f32 => F32.add old (b.toNat % 2 ^ 32)
        | .bf16x2 => ((BF16.add (old % 2 ^ 16) (b.toNat % 2 ^ 16)).1 % 2 ^ 16
              + 2 ^ 16 * ((BF16.add (old / 2 ^ 16 % 2 ^ 16) (b.toNat / 2 ^ 16 % 2 ^ 16)).1 % 2 ^ 16),
            (BF16.add (old % 2 ^ 16) (b.toNat % 2 ^ 16)).2 ||| (BF16.add (old / 2 ^ 16 % 2 ^ 16) (b.toNat / 2 ^ 16 % 2 ^ 16)).2)
      exec (.atomf ty x) s
        = (s.bump.writeLoc l (AtomfT.size ty) sum.1).owes g r t x.flg [(Opd.key x.d, .u (BitVec.ofNat 64 old))] sum.2)

/-- R19, R235: where a strand of at most 64 indices issues ATOM, CAS or ATOMF, executing it is executing it in the lane group
that laying the strand down makes, whatever the forms of its operands. -/
def Says.AtomicsLayDown : Prop :=
  ∀ (s s1 : State) (g : Group) (r : Run) (t : Thread) (x : FmtQ) (gid : Nat), g.lanes = false → t.n ≤ 64 →
    s.rowQueue g.id ((s.pen g.pen).core.getD 0) = false → s.layDown g.id = some (s1, gid) →
    (∀ op, Performs s g r t (.atom op x) x.gd → exec (.atom op x) s = exec (.atom op x) s1)
    ∧ (∀ w, Performs s g r t (.cas w x) x.gd → exec (.cas w x) s = exec (.cas w x) s1)
    ∧ (∀ ty, Performs s g r t (.atomf ty x) x.gd → exec (.atomf ty x) s = exec (.atomf ty x) s1)

/-- R237, R238: WAITA, last in its clause, compares the 8 bytes at its address with b. Where they differ its result 0 is owed
at once; where they are equal the thread waits, and its wait ends by WAKE with 1, after its timeout with 2, or when the device
ends it with 3. Ending a wait writes the status into D. WAKE gives the number of waiters that it ends, at most b.
That the access takes effect in the step of the issue is log 6. -/
def Obligations.WaitAndWake : Prop :=
  ∀ (s : State) (g : Group) (r : Run) (t : Thread) (x : FmtQ) (a b : W64) (l : Loc),
    t.reads g r .int x.a = .u a → t.reads g r .int x.b = .u b → (s.threadLaunch t).gang = none →
    (Performs s g r t (.waita x) x.gd → r.pos + 1 = r.words.length →
      s.threadAccess (envOf g r) t (spaceOfWm x.wm) a 8 accWaita = .ok l →
      exec (.waita x) s =
        if s.readLoc l 8 ≠ b.toNat then s.owes g r t x.flg [(Opd.key x.d, .u 0)]
        else .next (s.bump.performLeave g r ((t.owing s g r x.flg [(Opd.key x.d, .u 0)]).waits g r
          (.waita { loc := l, ea := a, space := spaceOfWm x.wm, b := b, order := s.fresh, start := s.clk, op := s.fresh }))))
    ∧ (Performs s g r t (.wake x) x.gd → wakeLoc s (envOf g r) t x = .ok l →
      exec (.wake x) s = .next ((s.wake (s.ctxOf g.pen) l b.toNat).1.perform g r
        (t.result x.d (.u (BitVec.ofNat 64 (min b.toNat (s.waitersAt (s.ctxOf g.pen) l).length))))))
    ∧ (∀ (gid lane : Nat) (u : Thread) (m : Monitor), (s.group gid).thread lane = some u → u.status = .waita m →
      (s.group gid).resident s = true →
      (u.wto ≠ 0 → m.start + 1000 * u.wto.toNat ≤ s.clk →
        exec (.waitaTimeout gid lane) s = .next (s.updThread gid lane (Thread.endWaita · 2)))
      ∧ exec (.waitaDeviceWake gid lane) s = .next (s.updThread gid lane (Thread.endWaita · 3)))
    ∧ ∀ (u : Thread) (m : Monitor) (p : Pend) (st : W64), u.status = .waita m → u.pend.find? (·.op == m.op) = some p →
      p.mixed = none → (∀ q ∈ u.pend, q.op ≠ m.op → q.flag ≠ p.flag) →
      (u.endWaita st).status = .ready
        ∧ (∀ w ∈ p.writes, (∀ q ∈ u.pend, q.op ≠ m.op → ∀ v ∈ q.writes, v.1 ≠ w.1) → (∀ v ∈ u.regs.late, v.1 ≠ w.1) →
            (u.endWaita st).regs.get w.1 = .u st)
        ∧ (u.endWaita st).pend = u.pend.filter (·.op != m.op)

/-- R242, R244, R245: BARARV, and BAR with WM 0, by one thread arrive at the record of the address for every index of the
thread. When ARRIVED reaches EXPECT the count starts again and PHASE advances. BARARV gives the phase before; BAR goes on with
the phase that ends its wait, or waits. BAR with WM 1 waits while the phase is b. A wait ends when a read of the record, checked
as the instruction's own, gives another phase, and not while it gives the same. -/
def Obligations.Barriers : Prop :=
  ∀ (s : State) (g : Group) (r : Run) (t : Thread) (sc : BarS) (x : FmtQ) (a : W64) (l : Loc) (b : BarRec),
    t.reads g r .int x.a = .u a → barRec (s.readLoc l 16) = some b → s.memForm = true →
    let full : Bool := decide (b.expect ≤ b.arrived + t.n)
    let new : BarRec := if full then ⟨(b.phase + 1) % 2 ^ 32, b.expect, 0⟩ else ⟨b.phase, b.expect, b.arrived + t.n⟩
    (issuers s (envOf g r) t = [t] → barLoc sc s (envOf g r) a accRmw = .ok l → b.arrived + t.n < 2 ^ 40 →
      (Performs s g r t (.bararv sc x) x.gd →
        exec (.bararv sc x) s
          = .next ((s.writeLoc l 16 new.code).perform g r (t.result x.d (.u (BitVec.ofNat 64 b.phase)))))
      ∧ (Performs s g r t (.barArriveWait sc x) x.gd → r.pos + 1 = r.words.length →
        exec (.barArriveWait sc x) s =
          if full then .next ((s.writeLoc l 16 new.code).perform g r (t.result x.d (.u (BitVec.ofNat 64 new.phase))))
          else .next ((s.writeLoc l 16 new.code).performLeave g r (t.waits g r (.bar l a (BitVec.ofNat 32 b.phase) x.d (envOf g r).wpc r.hdr)))))
    ∧ (∀ p : W64, t.reads g r .int x.b = .u p → barLoc sc s (envOf g r) a accRead = .ok l →
      Performs s g r t (.barWait sc x) x.gd → r.pos + 1 = r.words.length →
      exec (.barWait sc x) s =
        if b.phase ≠ p.toNat % 2 ^ 32 then s.gives g r { t with arrived := none } x.d (BitVec.ofNat 64 b.phase)
        else .next (s.performLeave g r (({ t with arrived := none } : Thread).waits g r
          (.bar l a (p.setWidth 32) x.d (envOf g r).wpc r.hdr))))
    ∧ (∀ (gid lane : Nat) (u : Thread) (ea : W64) (p : W32) (d : Opd) (pc hdr : W64), (s.group gid).thread lane = some u →
      u.status = .bar l ea p d pc hdr → (s.group gid).resident s = true → s.barRead l ea = .ok b →
      exec (.barrierWaitEnd gid lane) s = if b.phase = p.toNat then .next s else .next (s.updThread gid lane
        (fun v => { v.result d (.u (BitVec.ofNat 64 b.phase)) with status := .ready })))

/-- R247 to R250: GATHER owes V the element at base + index · scale; SCATTER stores the low bytes of V there, and SCATA
adds V to it in one access; each by one index, the index remapped by the slot that RMP names.
That the access takes effect in the step of the issue is log 6. -/
def Says.GatherScatter : Prop :=
  ∀ (s : State) (g : Group) (r : Run) (t : Thread) (x : FmtG) (l : Loc),
    (∀ w a i, t.reads g r .int x.base = .u a → t.reads g r .int x.idx = .u i → Performs s g r t (.gather w x) x.gd →
      (∃ l0, elemLoc s (envOf g r) t x (ElemW.size w) accRead 0 = .ok l0) →
      elemLoc (s.drawn g) (envOf g r) t x (ElemW.size w) accRead 0 = .ok l →
      exec (.gather w x) s = (s.drawn g).owes g r t 15 [(Opd.key x.v, .u (BitVec.ofNat 64 (s.readLoc l (ElemW.size w))))])
    ∧ (t.n = 1 → ∀ w, Performs s g r t (.scatter w x) x.gd → (∃ l0, elemLoc s (envOf g r) t x (ElemW.size w) accWrite 0 = .ok l0) →
      elemLoc s.bump (envOf g r) t x (ElemW.size w) accWrite 0 = .ok l →
      exec (.scatter w x) s
        = .next ((s.bump.writeLoc l (ElemW.size w) (storeValue (envOf g r) t x.v (ElemW.size w) 0)).perform g r t))
    ∧ (t.n = 1 → t.pend = [] → ∀ (ty : ScataT) (v : W64), t.reads g r (if ty = .addf32 then .f32 else .int) x.v = .u v →
      Performs s g r t (.scata ty x) x.gd →
      (∃ l0, elemLoc s (envOf g r) t x (ScataT.size ty) accRmw 0 = .ok l0) →
      elemLoc s.bump (envOf g r) t x (ScataT.size ty) accRmw 0 = .ok l →
      let old := s.readLoc l (ScataT.size ty)
      let sum : Nat × Fpx := match ty with
        | .add32 => ((old + v.toNat) % 2 ^ 32, 0)
        | .add64 => ((old + v.toNat) % 2 ^ 64, 0)
        | .addf32 => F32.add old (v.toNat % 2 ^ 32)
      exec (.scata ty x) s = (s.bump.writeLoc l (ScataT.size ty) sum.1).owes g r t 15 [] sum.2)

/-- R254, R255: RMAPSET sets remap slot a of the pen when its configuration passes the checks; a slot of kind 1 gives the
index modulo its parameter, one of kind 2 the high bits of a product, one of kind 3 an entry of a table in scratch; slot 0
gives the index itself. -/
def Says.RemapSlots : Prop :=
  (∀ (s : State) (g : Group) (r : Run) (t : Thread) (x : FmtA) (a b c : W64),
    t.reads g r .int x.a = .u a → t.reads g r .int x.b = .u b → t.reads g r .int x.c = .u c →
    remapBad a b c (s.pen g.pen).scsz = none → Performs s g r t (.rmapset x) x.gd →
    exec (.rmapset x) s
      = .next ((s.updPen g.pen (fun p => { p with remaps := p.remaps.set (a.toNat - 1) ⟨b, c⟩ })).perform g r t))
  ∧ ∀ (s : State) (pen k : Nat) (x : W64),
    s.remap pen 0 x = .ok x
    ∧ (∀ q, (s.pen pen).remaps[k]? = some q →
      (q.cfg.toNat % 4 = 1 → s.remap pen (k + 1) x = .ok (BitVec.ofNat 64 (x.toNat % q.par.toNat)))
      ∧ (q.cfg.toNat % 4 = 2 → s.remap pen (k + 1) x
          = .ok (BitVec.ofNat 64 ((x.toNat * q.par.toNat) % 2 ^ 64 / 2 ^ (64 - (bits q.cfg 14 8).toNat))))
      ∧ (q.cfg.toNat % 4 = 3 → x.toNat < (bits q.cfg 44 24).toNat →
          let w := if (bits q.cfg 17 16).toNat = 0 then 4 else 8
          s.locked (.scr pen (q.par.toNat + x.toNat * w)) w false = false → (s.pen pen).sound (q.par.toNat + x.toNat * w) w = true →
          s.remap pen (k + 1) x = .ok (BitVec.ofNat 64 (Memory.load (s.pen pen).scratch (q.par.toNat + x.toNat * w) w)))
      ∧ (q.cfg.toNat % 4 = 3 → (bits q.cfg 44 24).toNat ≤ x.toNat → ∃ f, s.remap pen (k + 1) x = .error f ∧ f.cause = cPERM)
      ∧ (q.cfg.toNat % 4 = 0 → ∃ f, s.remap pen (k + 1) x = .error f ∧ f.cause = cILLFMT))

/-- R256: ENGFENCE, last in its clause, gives 0 at once where no operation is outstanding, the thread's own with WM 0 and the
pen's with another WM, and otherwise waits for those that are, with the failure that is remembered of those completed before (log
38). -/
def Says.EngineFence : Prop :=
  ∀ (s : State) (g : Group) (r : Run) (t : Thread) (x : FmtQ), Performs s g r t (.engfence x) x.gd →
    r.pos + 1 = r.words.length →
    exec (.engfence x) s =
      if (if x.wm = 0 then t.engOps else s.penOps g.pen) = [] then s.gives g r t x.d 0
      else .next (s.performLeave g r (t.waits g r (.fence (if x.wm = 0 then t.engOps else s.penOps g.pen)
        (if x.wm = 0 then t.engFail else (s.pen g.pen).engFail) x.d)))

/-- The scratch rings: `Says.RingSetUp`, `Says.RingClaimsAndTakes`, `Says.RingMarks`. -/
def Obligations.Rings : Prop :=
  Says.RingSetUp ∧ Says.RingClaimsAndTakes ∧ Says.RingMarks

/-- Strands that an instruction lays down: `Says.LayDownFirst`, `Says.AtomicsLayDown`. -/
def Obligations.LayDownBeforeActing : Prop :=
  Says.LayDownFirst ∧ Says.AtomicsLayDown

/-- Gather, scatter and the remap slots: `Says.GatherScatter`, `Says.RemapSlots`. -/
def Obligations.GatherScatterRemap : Prop :=
  Says.GatherScatter ∧ Says.RemapSlots

/-! ### Block 4: floating point (R104 to R132, R257 to R267) -/

/-- The number (−1)^s · m · 2^e. -/
def ratOf (s : Bool) (m : Nat) (e : Int) : ℚ := (if s then -1 else 1) * m * 2 ^ e

/-- R104, R110 to R112, R126: y is the code, and the flags, of x rounded once into format f; a zero has the sign z. A number that
rounds, with an unbounded exponent, to more than the largest finite value gives the infinity of its sign, or the largest finite
value where the format has none, with OF and NX. Any other gives the nearest finite value of the format, of two the even one; NX
where it differs from x, and UF too where x, rounded with an unbounded exponent, is below the smallest normal value. -/
def RoundsTo (f : FFmt) (z : Bool) (x : ℝ) (y : Nat × Fpx) : Prop :=
  ∃ (s : Bool) (N : Nat) (Q : Int), (s = true ↔ x < 0 ∨ x = 0 ∧ z = true) ∧ f.decode f.maxCode = .fin false N Q ∧
    let edge : ℝ := (ratOf false (2 * N + 1) (Q - 1) : ℚ)
    let beyond := edge < |x| ∨ edge = |x| ∧ N % 2 = 1
    let tiny := |x| < ((ratOf false (2 ^ (f.mw + 2) - 1) (f.qmin - 2) : ℚ) : ℝ)
    (beyond → y = (withSign f s (if f.hasInf then f.inf else f.maxCode), fxOF ||| fxNX))
    ∧ (¬ beyond → y.1 < 2 ^ f.width ∧ ∃ n q, f.decode y.1 = .fin s n q ∧
      let d : ℝ := |((ratOf s n q : ℚ) : ℝ) - x|
      (∀ c t k p, f.decode c = .fin t k p → d ≤ |((ratOf t k p : ℚ) : ℝ) - x|
        ∧ (d = |((ratOf t k p : ℚ) : ℝ) - x| → ratOf t k p ≠ ratOf s n q → n % 2 = 0))
      ∧ (d = 0 → y.2 = 0) ∧ (d ≠ 0 → (tiny → y.2 = fxUF ||| fxNX) ∧ (¬ tiny → y.2 = fxNX)))

/-- R104, R110 to R112, R126: a finite value ±m·2^e is rounded once into every format, to the nearest value that the format holds,
ties to even, with OF, UF and NX as `RoundsTo` says. -/
def Obligations.RoundsToNearestEven : Prop :=
  ∀ f ∈ [F64, F32, F16, BF16, E4M3, E5M2, E2M1], ∀ (s : Bool) (m : Nat) (e : Int),
    RoundsTo f s ((ratOf s m e : ℚ) : ℝ) (f.round s m e)

/-- The element-wise result of an operation on three sources: each element is decoded after its modifier, operated on
exactly, scaled by 2^SC, rounded once, and clamped (R261). -/
def floatResult (ty : FTy) (x : FmtA) (op : FVal → FVal → FVal → Ex) (a b c : W64) : W64 × Fpx :=
  let f := FTy.fmt ty
  let v := fun (m : Mod) (w : W64) (j : Nat) => f.decode (f.modify m (w.toNat / 2 ^ (f.width * j) % 2 ^ f.width))
  elementwise f.width (FTy.elems ty) (fun j => (op (v x.ma a j) (v x.mb b j) (v x.mc c j)).finish f x.sc x.cl)

def FPty : FP → FTy | .f64 => .f64 | .f32 => .f32

/-- R261, R262, R132: the arithmetic instructions give the one rounding of the exact result, element by element, and raise
the flags of that rounding.
`Says.ExactResults` says what is rounded; FEXP2 and FLOG2 round values that are exact on 512 bits (log 20). -/
def Says.Arithmetic : Prop :=
  ∀ (s : State) (g : Group) (r : Run) (t : Thread) (x : FmtA) (a b c : W64),
    let gives := fun (v : W64 × Fpx) => s.gives g r t x.d v.1 v.2
    (∀ ty, t.reads2 g r (FTy.sty ty) x a b →
      (Performs s g r t (.fadd ty x) x.gd → exec (.fadd ty x) s = gives (floatResult ty x (fun a b _ => exAdd a b) a b 0))
      ∧ (Performs s g r t (.fsub ty x) x.gd → exec (.fsub ty x) s = gives (floatResult ty x (fun a b _ => exAdd a b.neg) a b 0))
      ∧ (Performs s g r t (.fmul ty x) x.gd → exec (.fmul ty x) s = gives (floatResult ty x (fun a b _ => exMul a b) a b 0)))
    ∧ (∀ ty, t.reads3 g r (FTy.sty ty) x a b c → Performs s g r t (.fma ty x) x.gd →
      exec (.fma ty x) s = gives (floatResult ty x exFma a b c))
    ∧ (∀ ty, t.reads2 g r (FP.sty ty) x a b → Performs s g r t (.fdiv ty x) x.gd →
      exec (.fdiv ty x) s = gives (floatResult (FPty ty) x (fun a b _ => exDiv a b) a b 0))
    ∧ (∀ ty, t.reads g r (FP.sty ty) x.a = .u a → Performs s g r t (.fsqrt ty x) x.gd →
      exec (.fsqrt ty x) s = gives (floatResult (FPty ty) x (fun a _ _ => exSqrt a) a 0 0))
    ∧ (t.reads g r .f32 x.a = .u a →
      (Performs s g r t (.frcp x) x.gd → exec (.frcp x) s = gives (floatResult .f32 x (fun a _ _ => exRcp a) a 0 0))
      ∧ (Performs s g r t (.frsq x) x.gd → exec (.frsq x) s = gives (floatResult .f32 x (fun a _ _ => exRsq a) a 0 0))
      ∧ (Performs s g r t (.fexp2 x) x.gd → exec (.fexp2 x) s = gives (floatResult .f32 x (fun a _ _ => exExp2 a) a 0 0))
      ∧ (Performs s g r t (.flog2 x) x.gd → exec (.flog2 x) s = gives (floatResult .f32 x (fun a _ _ => exLog2 a) a 0 0)))

/-- R110, R131, R132, R261, R262: the exact results that FADD, FSUB, FMUL, FMA, FDIV, FSQRT, FRCP and FRSQ scale by 2^SC and round
once. Of finite sources they are the sum, the product, the quotient, the root; a zero sum is −0 only of two negative zeros, and any
other zero has the sign of the operation. NaN, infinities and zero divisors give what R262 lists. -/
def Says.ExactResults : Prop :=
  (∀ f ∈ [F64, F32, F16, BF16], ∀ (sc : BitVec 3) (s t u : Bool) (m n k : Nat) (e g h : Int),
    let A : ℝ := (ratOf s m e : ℚ)
    let B : ℝ := (ratOf t n g : ℚ)
    let C : ℝ := (ratOf u k h : ℚ)
    let a := FVal.fin s m e
    let b := FVal.fin t n g
    let rounds := fun (z : Bool) (x : ℝ) (y : Ex) => RoundsTo f z (x * 2 ^ sc.toInt) (y.finish f sc .none)
    rounds (s && t) (A + B) (exAdd a b)
    ∧ rounds (s != t) (A * B) (exMul a b)
    ∧ rounds ((s != t) && u) (A * B + C) (exFma a b (.fin u k h))
    ∧ (n ≠ 0 → rounds (s != t) (A / B) (exDiv a b))
    ∧ (s = false ∨ m = 0 → rounds s (Real.sqrt A) (exSqrt a))
    ∧ (m ≠ 0 → rounds s (1 / A) (exRcp a))
    ∧ (m ≠ 0 → s = false → rounds false (1 / Real.sqrt A) (exRsq a)))
  ∧ (∀ (a b c : FVal), let nv : Fpx := if a.isSnan || b.isSnan then fxNV else 0
    (a.isNan = true ∨ b.isNan = true → exAdd a b = .nan nv ∧ exMul a b = .nan nv ∧ exDiv a b = .nan nv
      ∧ exFma a b c = .nan (nv ||| if c.isSnan then fxNV else 0))
    ∧ (a.isNan = false → b.isNan = false → c.isNan = true →
      exFma a b c = .nan (if c.isSnan || exMul a b == .nan fxNV then fxNV else 0))
    ∧ (a.isNan = true → exSqrt a = .nan (if a.isSnan then fxNV else 0)))
  ∧ ∀ (s t u : Bool) (m n : Nat) (e g : Int),
    let a := FVal.fin s m e
    let b := FVal.fin t n g
    let sum := fun (x y : Bool) => if x = y then Ex.inf x 0 else .nan fxNV
    exAdd (.inf s) (.inf t) = sum s t ∧ exAdd (.inf s) b = .inf s 0 ∧ exAdd a (.inf t) = .inf t 0
    ∧ exMul (.inf s) (.inf t) = .inf (s != t) 0
    ∧ exMul (.inf s) b = (if n = 0 then .nan fxNV else .inf (s != t) 0) ∧ exMul a (.inf t) = (if m = 0 then .nan fxNV else .inf (s != t) 0)
    ∧ exFma (.inf s) (.inf t) (.inf u) = sum (s != t) u ∧ exFma a b (.inf u) = .inf u 0
    ∧ (n ≠ 0 → exFma (.inf s) b (.inf u) = sum (s != t) u ∧ exFma b (.inf s) (.inf u) = sum (s != t) u
        ∧ exFma (.inf s) b a = .inf (s != t) 0 ∧ exFma b (.inf s) a = .inf (s != t) 0)
    ∧ exDiv (.inf s) (.inf t) = .nan fxNV ∧ exDiv (.inf s) b = .inf (s != t) 0 ∧ (∃ q, exDiv a (.inf t) = .num (s != t) 0 q)
    ∧ (n = 0 → exDiv a b = if m = 0 then .nan fxNV else .inf (s != t) fxDZ)
    ∧ exSqrt (.inf s) = (if s then .nan fxNV else .inf false 0) ∧ (s = true → m ≠ 0 → exSqrt a = .nan fxNV)

/-- R76, R266: the clamp of a result, a code of the format: .sat gives the largest finite value of its sign for an infinity; .c01 and
.c11 give the nearest value of their interval, +0 for a NaN, and .c11 leaves a zero its sign. A NaN is the canonical one, and an
infinity the one of its sign, before the clamp. -/
def Says.Clamps : Prop :=
  (∀ (f : FFmt) (sc : BitVec 3) (cl : Clamp) (s : Bool) (fl : Fpx), (Ex.nan fl).finish f sc cl = (f.clamp cl f.nan, fl)
    ∧ (Ex.inf s fl).finish f sc cl = (f.clamp cl (withSign f s f.inf), fl)
    ∧ ∀ m e, (Ex.num s m e).finish f sc cl
      = (f.clamp cl ((Ex.num s m e).finish f sc .none).1, ((Ex.num s m e).finish f sc .none).2))
  ∧ ∀ f ∈ [F64, F32, F16, BF16, E4M3, E5M2, E2M1], ∀ c < 2 ^ f.width,
    f.clamp .none c = c
    ∧ (f.clamp .sat c = match f.decode c with | .inf s => withSign f s f.maxCode | _ => c)
    ∧ match f.decode c with
      | .nan _ => f.clamp .c01 c = 0 ∧ f.clamp .c11 c = 0
      | .inf s => (∃ n q, f.decode (f.clamp .c01 c) = .fin false n q ∧ ratOf false n q = if s then 0 else 1)
          ∧ ∃ n q, f.decode (f.clamp .c11 c) = .fin s n q ∧ ratOf false n q = 1
      | .fin s m e => (∃ n q, f.decode (f.clamp .c01 c) = .fin false n q ∧ ratOf false n q = max 0 (min 1 (ratOf s m e)))
          ∧ ∃ n q, f.decode (f.clamp .c11 c) = .fin s n q ∧ ratOf s n q = max (-1) (min 1 (ratOf s m e))

/-- The code that a source holds after its modifier (R258, R259). -/
def codeOf (ty : FP) (m : Mod) (a : W64) : Nat := (FP.fmt ty).modify m (a.toNat % 2 ^ (FP.fmt ty).width)

/-- Two codes that are no NaN, compared as R264 says: zeros equal, otherwise by sign and magnitude. -/
def codeLt (f : FFmt) (p q : Nat) : Prop := f.cmpKey p < f.cmpKey q
def codeEq (f : FFmt) (p q : Nat) : Prop := f.cmpKey p = f.cmpKey q

/-- R263, R264, R267: FMIN and FMAX return one operand bit for bit, the other where one is a NaN, the canonical NaN where both
are; FCMP on a stack with room pushes an entry that is true for the whole range or for none of it, unordered operands making
.ne and .un true alone; FRND gives the integral value by its mode. NV is raised as each entry says. -/
def Says.FloatChoices : Prop :=
  ∀ (s : State) (g : Group) (r : Run) (t : Thread) (x : FmtA) (ty : FP) (a b : W64),
    let f := FP.fmt ty
    let p := codeOf ty x.ma a
    let q := codeOf ty x.mb b
    let nan := fun (c : Nat) => (f.decode c).isNan
    let snan : Fpx := if (f.decode p).isSnan || (f.decode q).isSnan then fxNV else 0
    let out := fun (y : Nat) => BitVec.ofNat 64 (f.clamp x.cl y)
    (t.reads2 g r (FP.sty ty) x a b →
      (Performs s g r t (.fmin ty x) x.gd → exec (.fmin ty x) s = s.gives g r t x.d (out (
        if nan p && nan q then f.nan else if nan p then q else if nan q then p else if f.key q < f.key p then q else p)) snan)
      ∧ (Performs s g r t (.fmax ty x) x.gd → exec (.fmax ty x) s = s.gives g r t x.d (out (
        if nan p && nan q then f.nan else if nan p then q else if nan q then p else if f.key p < f.key q then q else p)) snan)
      ∧ ∀ cc, Performs s g r t (.fcmp cc ty x) x.gd → t.preds.length < 16 →
        ∃ (v : Bool) (fl : Fpx), exec (.fcmp cc ty x) s = s.makes g r (({ t with preds := t.entry v :: t.preds } : Thread).orFpx fl)
          ∧ (v = true ↔ match cc with
              | .eq => nan p = false ∧ nan q = false ∧ codeEq f p q
              | .ne => nan p = true ∨ nan q = true ∨ ¬ codeEq f p q
              | .lt => nan p = false ∧ nan q = false ∧ codeLt f p q
              | .le => nan p = false ∧ nan q = false ∧ ¬ codeLt f q p
              | .un => nan p = true ∨ nan q = true)
          ∧ fl = match cc with
              | .lt | .le => if nan p || nan q then fxNV else 0
              | _ => snan)
    ∧ ∀ md, t.reads g r (FP.sty ty) x.a = .u a → Performs s g r t (.frnd md ty x) x.gd →
      ∃ y fl, exec (.frnd md ty x) s = s.gives g r t x.d (out y) fl ∧
        match f.decode p with
        | .nan sig => y = f.nan ∧ fl = if sig then fxNV else 0
        | .inf _ => y = p ∧ fl = 0
        | .fin sg m e => fl = 0 ∧ if m = 0 then y = p else y = (f.round sg (toIntegral md sg m e).1.natAbs 0).1

/-- R11, R130: the integer that a finite value ±m·2^e becomes in each rounding mode: exact where it is an integer, otherwise
the nearer (of two the even one), or the next toward zero, toward −infinity, toward +infinity. -/
def Says.IntegralValues : Prop :=
  ∀ (md : FrndM) (s : Bool) (m : Nat) (k : Nat),
    let v : Int := if s then -(m : Int) else m
    let y := toIntegral md s m (-(k : Int))
    y.2 = decide (m % 2 ^ k = 0)
    ∧ match md with
      | .rn => 2 * |y.1 * 2 ^ k - v| ≤ 2 ^ k ∧ (2 * |y.1 * 2 ^ k - v| = 2 ^ k → y.1 % 2 = 0)
      | .rz => y.1 = v.tdiv (2 ^ k)
      | .rd => y.1 * 2 ^ k ≤ v ∧ v < (y.1 + 1) * 2 ^ k
      | .ru => v ≤ y.1 * 2 ^ k ∧ (y.1 - 1) * 2 ^ k < v

/-- R126 to R129, R265, R266: CVT gives the converted value of its row, and raises its flags. Between floating-point formats
a finite value is scaled and rounded once into the destination; an integer is rounded into its format; a finite value
becomes the nearest integer, bounded, a bound raising NV. -/
def Says.Conversions : Prop :=
  ∀ (s : State) (g : Group) (r : Run) (t : Thread) (x : FmtA) (v : CvtV) (a : W64),
    t.reads g r (CvtV.sty v) x.a = .u a → Performs s g r t (.cvt v x) x.gd →
    exec (.cvt v x) s = s.gives g r t x.d (cvtOp v x a).1 (cvtOp v x a).2
    ∧ (∀ p ∈ [(CvtV.f64f32, F32, F64), (.f32f64, F64, F32), (.bf16f32, F32, BF16), (.f16f32, F32, F16), (.f32f16, F16, F32),
          (.f32bf16, BF16, F32), (.e4m3f32, F32, E4M3), (.e5m2f32, F32, E5M2), (.e2m1f32, F32, E2M1)], v = p.1 →
        ∀ sg m e, p.2.1.decode (p.2.1.modify x.ma (a.toNat % 2 ^ p.2.1.width)) = .fin sg m e →
          cvtOp v x a = (BitVec.ofNat 64 (p.2.2.clamp x.cl (p.2.2.round sg m (e + x.sc.toInt)).1), (p.2.2.round sg m (e + x.sc.toInt)).2))
    ∧ (∀ p ∈ [(CvtV.f64s64, modInt 64 x.ma a, F64), (.f32s32, modInt 32 x.ma a, F32), (.f64n64, (a.toNat : Int), F64)], v = p.1 →
        cvtOp v x a = (BitVec.ofNat 64 (p.2.2.clamp x.cl (p.2.2.round (decide (p.2.1 < 0)) p.2.1.natAbs x.sc.toInt).1),
          (p.2.2.round (decide (p.2.1 < 0)) p.2.1.natAbs x.sc.toInt).2))
    ∧ (∀ sg m e, F64.decode (F64.modify x.ma a.toNat) = .fin sg m e → v = .s64f64 →
        let i := (toIntegral .rn sg m e).1
        cvtOp v x a = (BitVec.ofInt 64 (max (-(2 ^ 63)) (min (2 ^ 63 - 1) i)),
          if i > 2 ^ 63 - 1 ∨ i < -(2 ^ 63) then fxNV else if (toIntegral .rn sg m e).2 then 0 else fxNX))

/-- The code of magnitude m that CVT to lns6 gives under the clamp of x, of sign s (R266). -/
def lnsGives (x : FmtA) (s : Bool) (m : Nat) : W64 :=
  BitVec.ofNat 64 (match x.cl with
    | .none | .sat => (if s then 32 else 0) + m
    | .c01 => if s then 0 else min m 16
    | .c11 => (if s then 32 else 0) + min m 16)

/-- R107, R126 to R129, R266: CVT of a NaN or an infinity, row by row; CVT between binary32 and lns6, each magnitude going to the code
whose interval holds it, and each code to its value rounded once; CVT to a 32-bit integer. -/
def Says.ConversionRows : Prop :=
  ∀ (x : FmtA) (a : W64),
    let single := F32.modify x.ma (a.toNat % 2 ^ 32)
    let scale : ℝ := 2 ^ x.sc.toInt
    (∀ p ∈ [(CvtV.f64f32, F32, F64), (.f32f64, F64, F32), (.bf16f32, F32, BF16), (.f16f32, F32, F16), (.f32f16, F16, F32),
        (.f32bf16, BF16, F32), (.e4m3f32, F32, E4M3), (.e5m2f32, F32, E5M2), (.e2m1f32, F32, E2M1)],
      let v := p.2.1.decode (p.2.1.modify x.ma (a.toNat % 2 ^ p.2.1.width))
      let dst := p.2.2
      (v.isNan = true → cvtOp p.1 x a
        = (BitVec.ofNat 64 (dst.clamp x.cl dst.nan), if v.isSnan = true ∨ p.1 = .e2m1f32 then fxNV else 0))
      ∧ ∀ s, v = .inf s → cvtOp p.1 x a = if p.1 = .e4m3f32 ∨ p.1 = .e2m1f32
          then (BitVec.ofNat 64 (dst.clamp x.cl (withSign dst s dst.maxCode)), fxOF ||| fxNX)
          else (BitVec.ofNat 64 (dst.clamp x.cl (withSign dst s dst.inf)), 0))
    ∧ (match F32.decode single with
      | .nan _ => cvtOp .lns6f32 x a = (0, fxNV)
      | .inf s => cvtOp .lns6f32 x a = (lnsGives x s 31, fxOF ||| fxNX)
      | .fin s m e =>
        let v : ℝ := ((ratOf false m e : ℚ) : ℝ) * scale
        let at' := fun (k : ℝ) => (2 : ℝ) ^ ((k - 16) / 4)
        (v = 0 → cvtOp .lns6f32 x a = (lnsGives x s 0, 0))
        ∧ (0 < v → v < 2 ^ (-4 : ℤ) → cvtOp .lns6f32 x a = (lnsGives x s 0, fxUF ||| fxNX))
        ∧ (at' 31.5 ≤ v → cvtOp .lns6f32 x a = (lnsGives x s 31, fxOF ||| fxNX))
        ∧ ∀ k : Nat, 1 ≤ k → k ≤ 31 → (if k = 1 then 2 ^ (-4 : ℤ) else at' (k - 1 / 2)) ≤ v → v < at' (k + 1 / 2) →
            (v = at' k → cvtOp .lns6f32 x a = (lnsGives x s k, 0)) ∧ (v ≠ at' k → cvtOp .lns6f32 x a = (lnsGives x s k, fxNX)))
    ∧ (let s := a.getLsbD 5
      let m := a.toNat % 32
      ∃ y, cvtOp .f32lns6 x a = (BitVec.ofNat 64 (F32.clamp x.cl y.1), y.2)
        ∧ RoundsTo F32 s (if m = 0 then 0 else (if s then -1 else 1) * (2 : ℝ) ^ (((m : ℝ) - 16) / 4) * scale) y)
    ∧ (let out := fun (i : Int) => BitVec.ofNat 64 (i % 2 ^ 32).toNat
      match F32.decode single with
      | .nan _ => cvtOp .s32f32 x a = (0, fxNV)
      | .inf s => cvtOp .s32f32 x a = (out (if s then -(2 ^ 31) else 2 ^ 31 - 1), fxNV)
      | .fin s m e => ∃ i : Int, 2 * |(i : ℚ) - ratOf s m e| ≤ 1 ∧ (2 * |(i : ℚ) - ratOf s m e| = 1 → i % 2 = 0)
          ∧ cvtOp .s32f32 x a = (out (max (-(2 ^ 31)) (min (2 ^ 31 - 1) i)),
              if i < -(2 ^ 31) ∨ 2 ^ 31 - 1 < i then fxNV else if (i : ℚ) = ratOf s m e then 0 else fxNX))
    ∧ match F64.decode (F64.modify x.ma a.toNat) with
      | .nan _ => cvtOp .s64f64 x a = (0, fxNV)
      | .inf s => cvtOp .s64f64 x a = (BitVec.ofInt 64 (if s then -(2 ^ 63) else 2 ^ 63 - 1), fxNV)
      | .fin _ _ _ => True

/-! ### Block 5: packing, lns6, planes, dot products (R276 to R283) -/

/-- R277, R280 to R283: BSPACK replaces the two fields of its pair, and no other bit, by the quantised elements; LMUL multiplies
eight lns6 elements; LACC and QDOT add eight exact products to C; BPLANE transposes the bits of the elements. The flags that
BSPACK raises, on NaN and infinite elements among others, rest on log 37. -/
def Says.PackingAndDots : Prop :=
  ∀ (s : State) (g : Group) (r : Run) (t : Thread) (x : FmtA) (a b c : W64),
    let byte := fun (w : W64) (j : Nat) => w.toNat / 256 ^ j % 256
    let sum := fun (p : Nat → Nat → Int) => c.toInt + ((List.range 8).map (fun j => p (byte a j) (byte b j))).sum
    let fit := fun (y : Int) => BitVec.ofInt 64 (if x.cl = .sat then max (-(2 ^ 63)) (min y (2 ^ 63 - 1)) else y)
    (∀ f, t.reads g r .f32 x.a = .u a → t.reads g r .int x.b = .u b → t.reads g r .int x.c = .u c →
      Performs s g r t (.bspack f x) x.gd →
      ∃ v, exec (.bspack f x) s = s.gives g r t x.d v
            ((BsF.quant f b (a.toNat % 2 ^ 32)).2 ||| (BsF.quant f b (a.toNat / 2 ^ 32)).2)
        ∧ ∀ k < 64 / BsF.width f, v.toNat / 2 ^ (BsF.width f * k) % 2 ^ BsF.width f
            = if k = 2 * BsF.pos f b then (BsF.quant f b (a.toNat % 2 ^ 32)).1 % 2 ^ BsF.width f
              else if k = 2 * BsF.pos f b + 1 then (BsF.quant f b (a.toNat / 2 ^ 32)).1 % 2 ^ BsF.width f
              else c.toNat / 2 ^ (BsF.width f * k) % 2 ^ BsF.width f)
    ∧ (∀ f, t.reads2 g r .int x a b → Performs s g r t (.bsunpk f x) x.gd →
      let e := fun (k : Nat) => unquant f b (a.toNat / 2 ^ (BsF.width f * (2 * BsF.pos f b + k)) % 2 ^ BsF.width f)
      exec (.bsunpk f x) s = s.gives g r t x.d (BitVec.ofNat 64 ((e 0).1 % 2 ^ 32 + 2 ^ 32 * ((e 1).1 % 2 ^ 32))) ((e 0).2 ||| (e 1).2))
    ∧ (t.reads2 g r .int x a b → Performs s g r t (.lmul x) x.gd →
      ∃ v fl, exec (.lmul x) s = s.gives g r t x.d v fl ∧ ∀ j < 8,
        let m := (byte a j % 32 : Int) + byte b j % 32 - 16
        byte v j = 32 * ((byte a j / 32 + byte b j / 32) % 2)
          + if byte a j % 32 = 0 ∨ byte b j % 32 = 0 then 0 else if 31 < m then 31 else if m < 1 then 0 else m.toNat)
    ∧ (t.reads3 g r .int x a b c →
      (Performs s g r t (.lacc x) x.gd → exec (.lacc x) s = s.gives g r t x.d (fit (sum lnsProd)))
      ∧ (Performs s g r t (.qdot .s x) x.gd → exec (.qdot .s x) s
          = s.gives g r t x.d (fit (sum (fun p q => (BitVec.ofNat 8 p).toInt * (BitVec.ofNat 8 q).toInt))))
      ∧ (Performs s g r t (.qdot .n x) x.gd → exec (.qdot .n x) s = s.gives g r t x.d (fit (sum (fun p q => (p : Int) * q)))))
    ∧ (∀ w : PlaneW, t.reads g r .int x.a = .u a → Performs s g r t (.bplane w x) x.gd →
      let n := if w = .p4 then 4 else 8
      ∃ v, exec (.bplane w x) s = s.gives g r t x.d v ∧ ∀ p < n, ∀ j < 64 / n, v.getLsbD (64 / n * p + j) = a.getLsbD (n * j + p))

/-- R116, R118, R126, R276 to R278: the element that BSPACK makes of a binary32 code under a descriptor with exponent E and zero point Z,
and the value that BSUNPK makes of an element. An integer element is the nearest integer to x · 2^(127−E), plus Z, bounded; an e4m3
or e2m1 element x · 2^(127−E) rounded once; E = 255 stands for a NaN. (That a signalling NaN raises NV there too is log 99.) -/
def Says.Quantised : Prop :=
  ∀ (b : W64) (code : Nat), code < 2 ^ 32 →
    let E : Int := ((b.toNat % 256 : Nat) : Int)
    let Z : Int := (b.extractLsb' 8 8).toInt
    let x := F32.decode code
    (∀ p ∈ [(BsF.i8, 8), (.i4, 4)], let lo : Int := -(2 ^ (p.2 - 1))
      let hi : Int := 2 ^ (p.2 - 1) - 1
      let fits := fun (i : Int) (fl : Fpx) => BsF.quant p.1 b code
        = ((max lo (min hi i) % 2 ^ p.2).toNat, fl ||| if i < lo ∨ hi < i then fxNV else 0)
      (E = 255 ∨ x.isNan = true → fits Z fxNV)
      ∧ (E ≠ 255 → ∀ s, x = .inf s → fits (if s then lo else hi) fxNV)
      ∧ (E ≠ 255 → ∀ s m e, x = .fin s m e → let v := ratOf s m (e + 127 - E)
          ∃ i : Int, 2 * |(i : ℚ) - v| ≤ 1 ∧ (2 * |(i : ℚ) - v| = 1 → i % 2 = 0) ∧ fits (i + Z) (if (i : ℚ) = v then 0 else fxNX)))
    ∧ (∀ p ∈ [(BsF.e4m3, E4M3), (.e2m1, E2M1)], let q := BsF.quant p.1 b code
      (E = 255 ∨ x.isNan = true → q = (p.2.nan, if x.isSnan = true ∨ p.1 = .e2m1 then fxNV else 0))
      ∧ (E ≠ 255 → ∀ s, x = .inf s → q = (withSign p.2 s p.2.maxCode, fxOF ||| fxNX))
      ∧ (E ≠ 255 → ∀ s m e, x = .fin s m e → RoundsTo p.2 s ((ratOf s m (e + 127 - E) : ℚ) : ℝ) q))
    ∧ (E = 255 → ∀ f, unquant f b code = (0x7FC00000, 0))
    ∧ (E ≠ 255 → (∀ p ∈ [(BsF.i8, 8), (.i4, 4)], RoundsTo F32 false
          (((((BitVec.ofNat p.2 code).toInt - Z : Int) : ℚ) * 2 ^ (E - 127) : ℚ) : ℝ) (unquant p.1 b code))
      ∧ ∀ p ∈ [(BsF.e4m3, E4M3), (.e2m1, E2M1)], (∀ g, p.2.decode code = .nan g → unquant p.1 b code = (0x7FC00000, 0))
        ∧ ∀ s m e, p.2.decode code = .fin s m e → RoundsTo F32 s ((ratOf s m (e + E - 127) : ℚ) : ℝ) (unquant p.1 b code))

/-- The product of two lns6 codes (R121). -/
def logProduct (a b : Nat) : ℚ :=
  let e : Int := ((a % 32 + b % 32 : Nat) : Int) - 32
  if a % 32 = 0 ∨ b % 32 = 0 then 0
  else (if a / 32 % 2 = b / 32 % 2 then 1 else -1) * ([0x8000, 0x9838, 0xB505, 0xD745].getD (e % 4).toNat 0 : Nat) / 2 ^ 15
    * 2 ^ (e / 4)

/-- R121: the exact product of two lns6 codes is a multiple of 2^−23, whose sign is that of the product and which is 0 where a code is a
zero; four codes more double it. -/
def Says.LogProducts : Prop :=
  ∀ a b : Nat, a < 64 → b < 64 →
    (lnsProd a b : ℚ) = logProduct a b * 2 ^ 23
    ∧ (lnsProd a b = 0 ↔ a % 32 = 0 ∨ b % 32 = 0) ∧ lnsProd a b = lnsProd b a
    ∧ lnsProd ((a + 32) % 64) b = -lnsProd a b
    ∧ (1 ≤ a % 32 → a % 32 + 4 < 32 → lnsProd (a + 4) b = 2 * lnsProd a b)

/-! ### Block 5: the convergent operations (R268 to R275) -/

/-- R271, R272, R273, R274, R275, R44: in a strand, whose first instruction they are, RED .iadd64 gives the sum over the
range, and RED .imin, .imax, .and, .or a U source itself; SCAN .iadd64 of a U source gives the prefix sums; SHFL of a U
source that source; VOTE counts the indices whose value is not 0; ELECT gives 1; and $part is 0. -/
def Says.StrandReductions : Prop :=
  ∀ (s : State) (g : Group) (r : Run) (t : Thread) (x : FmtA), g.lanes = false → r.pos = 0 →
    let makes := fun (f : Form) => s.makes g r { t.result x.d f with part := false }
    (Performs s g r t (.red .iadd64 x) .always → ∃ v, exec (.red .iadd64 x) s = makes (.u v)
      ∧ v.toNat = ((List.range t.n).map (fun k => ((t.reads g r .int x.a).val k).toNat)).sum % 2 ^ 64)
    ∧ (∀ a, t.reads g r .int x.a = .u a →
      (∀ op ∈ [RedOp.imin, .imax, .and, .or], Performs s g r t (.red op x) .always → exec (.red op x) s = makes (.u a))
      ∧ (Performs s g r t (.scan .iadd64 x) .always → ∃ f, exec (.scan .iadd64 x) s = makes f
          ∧ ∀ k < t.n, f.val k = a * BitVec.ofNat 64 (k + 1))
      ∧ (∀ m, Performs s g r t (.shfl m x) .always → exec (.shfl m x) s = makes (.u a)))
    ∧ (∀ m, Performs s g r t (.vote m x) .always →
      let c := ((List.range t.n).filter (fun k => (t.reads g r .int x.a).val k != 0)).length
      exec (.vote m x) s = makes (.u (match m with
        | .any => if 0 < c then 1 else 0
        | .all => if c = t.n then 1 else 0
        | .count => BitVec.ofNat 64 c)))
    ∧ (Performs s g r t (.elect x) .always → exec (.elect x) s = makes (.u 1))

/-- The lanes of group g that issue, at the first word of their clause: the threads selected, in ascending order, each once. -/
structure Convenes (s : State) (g : Group) (r : Run) (i : Instr) : Prop where
  cur : s.cur = some g.id
  grp : s.group g.id = g
  run : g.run = some r
  lanes : g.lanes = true
  first : r.pos = 0 ∧ r.from' = 0
  regs : i.regsOk (s.launchOf g.pen).regs = true
  sel : r.sel = (g.threads.filter (fun t => r.sel.contains t.lane)).map Thread.lane
  rising : r.sel.Pairwise (· < ·)
  bound : ∀ l ∈ r.sel, l < 64
  all : (g.threads.map Thread.lane).Nodup

/-- What the convergent operation i does in every participant: thread t takes value v t, with flags fl t, and $part says
whether a lane was absent. -/
def givesAll (s : State) (g : Group) (r : Run) (d : Opd) (v : Thread → W64) (fl : Thread → Fpx) :
    Host.Outcome State Fault Refusal :=
  .next (((s.updGroup g.id (fun y => y.mapLanes r.sel (fun t =>
    let u := (g.thread t.lane).getD t
    { (u.result d (.u (v u))).orFpx (fl u) with part := (envOf g r).absent }))).advance (envOf g r) r.sel).settle g.pen)

/-- R44, R268 to R271, R273 to R275: in a lane group every participant takes the result of the operation over all of them, as
they stood before it: RED the root of the fixed tree, SCAN its own prefix, SHFL the value of the lane it names, or its own;
VOTE and ELECT what they count. -/
def Says.LaneReductions : Prop :=
  ∀ (s : State) (g : Group) (r : Run) (x : FmtA), r.sel ≠ [] →
    let parts := g.threads.filter (fun t => r.sel.contains t.lane)
    let src := fun (ty : STy) (o : Opd) (t : Thread) => (t.reads g r ty o).val 0
    let leaf := fun (ty : STy) (k : Nat) => (parts.find? (fun t => t.lane == k)).map (src ty x.a)
    (∀ op, Convenes s g r (.red op x) → ∃ y, tree (RedOp.op op) (leaf (RedOp.sty op)) 6 0 = some y ∧
      exec (.red op x) s = givesAll s g r x.d (fun _ => if RedOp.sty op = .f32 then (y.1.setWidth 32).setWidth 64 else y.1) (fun _ => y.2))
    ∧ (Convenes s g r (.scan .iadd64 x) → exec (.scan .iadd64 x) s
        = givesAll s g r x.d (fun t => ((parts.filter (fun u => u.lane ≤ t.lane)).map (src .int x.a)).sum) (fun _ => 0))
    ∧ (Convenes s g r (.scan .fadd32 x) → ∃ y : Thread → W64 × Fpx,
        (∀ t ∈ parts, scanTree (RedOp.op .fadd32) (leaf .f32) t.lane = some (y t)
          ∧ (t.lane = 63 → tree (RedOp.op .fadd32) (leaf .f32) 6 0 = some (y t)))
        ∧ exec (.scan .fadd32 x) s = givesAll s g r x.d (fun t => ((y t).1.setWidth 32).setWidth 64) (fun t => (y t).2))
    ∧ (∀ m, Convenes s g r (.shfl m x) → exec (.shfl m x) s = givesAll s g r x.d (fun t =>
        let b := (src .int x.b t).toNat
        let from' : Int := match m with
          | .idx => b | .up => (t.lane : Int) - b | .down => t.lane + b | .xor => (t.lane ^^^ b : Nat)
        if from' < 0 then src .int x.a t else ((leaf .int from'.toNat).getD (src .int x.a t))) (fun _ => 0))
    ∧ (∀ m, Convenes s g r (.vote m x) →
        let c := (parts.filter (fun t => src .int x.a t != 0)).length
        exec (.vote m x) s = givesAll s g r x.d (fun _ => match m with
          | .any => if 0 < c then 1 else 0
          | .all => if c = parts.length then 1 else 0
          | .count => BitVec.ofNat 64 c) (fun _ => 0))
    ∧ (Convenes s g r (.elect x) →
        exec (.elect x) s = givesAll s g r x.d (fun t => if some t.lane = r.sel.head? then 1 else 0) (fun _ => 0))

/-- Floating-point arithmetic, its exact results and its clamps: `Says.Arithmetic`, `Says.ExactResults`, `Says.Clamps`. -/
def Obligations.FloatArithmetic : Prop :=
  Says.Arithmetic ∧ Says.ExactResults ∧ Says.Clamps

/-- FMIN, FMAX, FCMP, FRND, CVT and the integers they round to: `Says.FloatChoices`, `Says.IntegralValues`, `Says.Conversions`,
`Says.ConversionRows`. -/
def Obligations.FloatChoicesAndIntegers : Prop :=
  Says.FloatChoices ∧ Says.IntegralValues ∧ Says.Conversions ∧ Says.ConversionRows

/-- Block packing, lns6 and dot products: `Says.PackingAndDots`, `Says.Quantised`, `Says.LogProducts`. -/
def Obligations.PackingAndProducts : Prop :=
  Says.PackingAndDots ∧ Says.Quantised ∧ Says.LogProducts

/-- The convergent operations in a strand and in a lane group: `Says.StrandReductions`, `Says.LaneReductions`. -/
def Obligations.ConvergentOperations : Prop :=
  Says.StrandReductions ∧ Says.LaneReductions

/-! ### Block 6: the Matrix Engine (R285 to R320) -/

/-- The operation that a matrix-class instruction issues. -/
def newOp (s : State) (g : Group) (el : Thread) (kind : OpKind) (tile dest : Option Nat) : EngOp :=
  { EngOp.blank with id := s.fresh, kind := kind, ctx := s.ctxOf g.pen, launch := (s.pen g.pen).launch, pen := some g.pen,
                     tile := tile, task := some el.task, dest := dest }

/-- The ranges pass the checks of R289, fewer than 16 matrix operations of the pen are outstanding, and the Range-Lock Table
has room. -/
def Issuable (s : State) (g : Group) (rs : List OpRange) : Prop :=
  s.engCheck g.pen (s.ctxOf g.pen) rs = .ok ()
  ∧ (s.ops.filter (fun o => o.pen == some g.pen && o.kind.isMatrix)).length < 16 ∧ s.rangeRoom rs = true

/-- The outcome of issuing an operation with these ranges: it joins the outstanding ones, every participant counts it as its
own, and, where the instruction is long-latency, owes its result under a flag. -/
def issuesOp (s : State) (g : Group) (r : Run) (parts : List Thread) (o : EngOp) (rs : List OpRange) (long : Bool) (flg : BitVec 4) :
    Host.Outcome State Fault Refusal :=
  .next ((s.register o rs).performAll g r parts (fun t => t.issued (envOf g r) s.fresh long flg o.dest))

/-- R213, R287: registering an operation adds it, last in order, to those outstanding, and changes nothing else but the
marks of overlap of R297. -/
def Says.Registration : Prop :=
  ∀ (s : State) (o : EngOp) (rs : List OpRange), ∃ q : EngOp,
    (s.register o rs).ops.map EngOp.id = s.ops.map EngOp.id ++ [q.id] ∧ q ∈ (s.register o rs).ops
    ∧ q = { o with ranges := q.ranges, pages := q.pages, uses := q.uses, overlap := q.overlap }
    ∧ (∀ x ∈ rs, x.scr = true → 0 < x.len →
        ∃ y ∈ q.ranges, y.pen = some (o.pen.getD 0) ∧ y.dst = x.dst ∧ y.lo = x.addr / 128 ∧ y.hi = (x.addr + x.len - 1) / 128 + 1)
    ∧ (∀ b ∈ (s.register o rs).ops, b.id ≠ q.id → ∃ a ∈ s.ops, b = { a with overlap := b.overlap })
    ∧ s.register o rs = { s with ops := (s.register o rs).ops, fresh := s.fresh + 1 }

/-- R290, R311 to R313: on a tile of the pen ACCZ issues an operation that owes nothing; ACCLD, ACCST and DRAIN, with a good
address word, issue one over 16,384 bytes, or 4,096 elements of DRAIN's format. -/
def Says.TileOperations : Prop :=
  ∀ (s : State) (g : Group) (r : Run) (el : Thread) (parts : List Thread) (x : FmtE) (scr : Bool) (a w : W64),
    let tile := some x.acc.toNat
    let good := (el.reads g r .int x.d).val 0 = w ∧ a.toNat % 128 = 0
      ∧ (w.getLsbD 63 = false → scr = false ∧ a = w ∧ w.toNat < 2 ^ 56)
      ∧ (w.getLsbD 63 = true → scr = true ∧ w.toNat = 2 ^ 63 + a.toNat ∧ a.toNat < 2 ^ 21)
    x.acc.toNat < (s.pen g.pen).accn →
    (Elects s g r (.accz x) el parts → Issuable s g [] →
      exec (.accz x) s = issuesOp s g r parts (newOp s g el .accz tile none) [] false 0)
    ∧ (good → Elects s g r (.accld x) el parts → Issuable s g [⟨scr, a.toNat, 16384, false⟩] →
      exec (.accld x) s = issuesOp s g r parts (newOp s g el (.accld scr a) tile none) [⟨scr, a.toNat, 16384, false⟩] true x.flg)
    ∧ (good → Elects s g r (.accst x) el parts → Issuable s g [⟨scr, a.toNat, 16384, true⟩] →
      exec (.accst x) s = issuesOp s g r parts (newOp s g el (.accst scr a) tile none) [⟨scr, a.toNat, 16384, true⟩] true x.flg)
    ∧ (∀ v, good → Elects s g r (.drain v x) el parts → Issuable s g [⟨scr, a.toNat, 4096 * DrainV.size v, true⟩] →
      exec (.drain v x) s = issuesOp s g r parts (newOp s g el (.drain v scr a) tile none)
        [⟨scr, a.toNat, 4096 * DrainV.size v, true⟩] true x.flg)

/-- The ranges of an MMA operation that is not joint (R289, R308). -/
def mmaRanges (d : MDesc) (p : Path) (x : FmtE) : List OpRange :=
  [⟨true, d.aoff, d.k * p.sliceA, false⟩, ⟨true, d.boff, d.k * p.sliceB, false⟩]
    ++ (if x.spa then [⟨true, d.abmp, d.k * 8, false⟩] else []) ++ (if x.spb then [⟨true, d.bbmp, d.k * 8, false⟩] else [])

/-- R291, R308, R309: an MMA instruction that is not joint, with a good descriptor, issues an operation of its path with the
descriptor's operands, its zero-point correction and block selection, and the scale registers of the participants. -/
def Says.MmaIssue : Prop :=
  ∀ (s : State) (g : Group) (r : Run) (el : Thread) (parts : List Thread) (x : FmtE) (d : MDesc),
    x.acc.toNat < (s.pen g.pen).accn → x.gng = false → d.k ≤ 32 * (4 - x.bsel.toNat) →
    (∀ a ∈ [d.aoff, d.boff, d.abmp, d.bbmp], a % 8 = 0) →
    let desc := fun (sparse : Bool) =>
      mdesc ((el.reads g r .int x.d).val 0) ((el.regs.get (Opd.key x.d + 1)).val 0) x.spa x.spb sparse = some d
    let issues := fun (i : Instr) (p : Path) (compressed : Bool) => Issuable s g (mmaRanges d p x) →
      ∃ m : Mma, exec i s = issuesOp s g r parts (newOp s g el (.mma m) (some x.acc.toNat) none) (mmaRanges d p x) true x.flg
        ∧ m.path = p ∧ m.k = d.k ∧ m.aoff = d.aoff ∧ m.boff = d.boff ∧ m.abmp = d.abmp ∧ m.bbmp = d.bbmp ∧ m.spa = x.spa
        ∧ m.spb = x.spb ∧ m.compressed = compressed ∧ m.zc = x.zc ∧ m.bsel = x.bsel.toNat ∧ m.steps = 0
        ∧ m.scaleA = scaleRegs (envOf g r) el parts x.a ∧ m.scaleB = scaleRegs (envOf g r) el parts x.b
    (∀ v, Elects s g r (.mmap v x) el parts → desc false → issues (.mmap v x)
      (.plane (x.pa.toNat + 1) (x.pb.toNat + 1) (decide (v = .ss ∨ v = .sn)) (decide (v = .ss ∨ v = .ns))) false)
    ∧ (∀ v, Elects s g r (.mmaf v x) el parts → desc false → issues (.mmaf v x) (.float (match v with
        | .bf16 => EFmt.bf16 | .f16 => .f16 | .e4m3 => .e4m3 | .e5m2 => .e5m2 | .e2m1 => .e2m1)) false)
    ∧ (Elects s g r (.mmal x) el parts → desc false → issues (.mmal x) .lns false)
    ∧ (∀ v p, Elects s g r (.mmasp v x) el parts → desc true → mmaspPath v x d.fmt = some p → issues (.mmasp v x) p true)

/-- R310, R296, R314, R319, R320: MWAIT, last in its clause, goes on where no operation of the tile is outstanding and otherwise
holds every participant; MPROG gives the tile's progress word, field by field: the operations outstanding, the status of the last one
completed, and of the oldest its state, its steps, the lowest k to come and the size of its step set (KNEXT before the bitmaps are read, and
after the last step, is the model's: log 39); MCANCEL cancels the tile's operations, those joint with them, and,
of one that waits at the hitch, those that have arrived there in the other members, which complete with it (R302; log 26); where no hitch event holds one of them,
it changes nothing else; GANGSET, of a pen that waits at no hitch, with a mask that is 0 or names a gang of
its team, sets MASK and clears SEQ, giving the word from before. -/
def Says.TileWaitsAndControl : Prop :=
  ∀ (s : State) (g : Group) (r : Run) (el : Thread) (parts : List Thread) (x : FmtE),
    let mine := s.ops.filter (fun o => o.pen == some g.pen && o.tile == some x.acc.toNat)
    (x.acc.toNat < (s.pen g.pen).accn →
      (Elects s g r (.mwait x) el parts → r.pos + 1 = r.words.length → exec (.mwait x) s =
        if mine = [] then .next (s.performAll g r parts id)
        else .next (s.performAll g r parts (fun t => t.waits g r (.mwait (mine.map EngOp.id))) true))
      ∧ (Elects s g r (.mprog x) el parts → ∃ w : W64, exec (.mprog x) s = .next (s.performAll g r parts (fun t => t.result x.b (.u w)))
          ∧ w.extractLsb' 40 24 = 0#24 ∧ w.extractLsb' 24 3 = 0#3 ∧ w.extractLsb' 32 8 = BitVec.ofNat 8 mine.length
          ∧ (∀ n, (s.pen g.pen).last.find? (fun p => p.1 == x.acc.toNat) = some (x.acc.toNat, n) → w.extractLsb' 30 2 = BitVec.ofNat 2 n)
          ∧ ((∀ p ∈ (s.pen g.pen).last, p.1 ≠ x.acc.toNat) → w.extractLsb' 30 2 = 0#2)
          ∧ (mine = [] → w.extractLsb' 27 3 = 0#3 ∧ w.extractLsb' 0 24 = 0#24)
          ∧ ∀ o ∈ mine.head?, w.extractLsb' 27 3 = (if o.started then 2#3 else 1#3)
            ∧ ((∀ m, o.kind ≠ .mma m) → w.extractLsb' 0 24 = 0#24)
            ∧ ∀ m, o.kind = .mma m →
              (m.unread = true → w.extractLsb' 0 24 = 0xFF#24)
              ∧ (m.unread = false → w.extractLsb' 16 8 = BitVec.ofNat 8 m.steps ∧ w.extractLsb' 0 8 = BitVec.ofNat 8 m.stepSet.length
                ∧ (∀ k, m.stepSet[m.steps]? = some k → w.extractLsb' 8 8 = BitVec.ofNat 8 k)
                ∧ (m.stepSet.length ≤ m.steps → w.extractLsb' 8 8 = BitVec.ofNat 8 m.k)))
      ∧ (Elects s g r (.mcancel x) el parts →
          let u := s.cancelTile g.pen x.acc.toNat
          let v := u.performAll g r parts id
          let hit := fun (o : EngOp) => decide (o.id ∈ mine.map EngOp.id ∨ (o.joint.isSome = true ∧ o.joint ∈ mine.map EngOp.joint))
          (∃ w : State, exec (.mcancel x) s = .next w ∧ (w = v ∨ w = (v.tryHitch g.pen).settle g.pen))
          ∧ u.ops.map EngOp.id = s.ops.map EngOp.id
          ∧ (∀ o ∈ s.ops, (hit o = true ∨ ∃ m ∈ mine, s.hitchMate m o = true) →
              ∃ j, { o with cancelled := true, atHitch := false, joint := j } ∈ u.ops ∧ (o.joint.isSome = true ∨ o.atHitch = false → j = o.joint))
          ∧ (∀ m, mine = [m] → m.atHitch = true → m.joint = none → ∀ o ∈ s.ops, s.hitchMate m o = true → o.atHitch = true → o.joint = none →
              ∀ q ∈ [m, o], { q with cancelled := true, atHitch := false, joint := some m.id } ∈ u.ops)
          ∧ ((∀ y ∈ s.pens, ∀ h ∈ y.hitch, ∀ o ∈ s.ops, hit o = true → h.op ≠ some o.id) →
            exec (.mcancel x) s = .next v ∧ u = { s with ops := u.ops }
            ∧ ∀ o ∈ s.ops, hit o = false → o ∈ u.ops)))
    ∧ (∀ a : W64, Elects s g r (.gangset x) el parts → (el.reads g r .int x.a).val 0 = a → (s.pen g.pen).hitch = [] →
      (bits a 5 0 = 0 ∨ s.gangOk (s.pen g.pen) (bits a 5 0) = true) →
      exec (.gangset x) s = .next ((s.updPen g.pen (fun p => { p with gangMask := bits a 5 0, gangSeq := 0 })).performAll g r parts
        (fun t => t.result x.b (.u (s.pen g.pen).gangWord))))

/-- The members of the team of pen k that wait at a hitch event with the SEQ of p and that p's MASK names (R299). -/
def hitchers (s : State) (k : Nat) (p : Pen) : List Pen :=
  (s.team (s.pen k)).filter (fun q => !q.hitch.isEmpty && !q.saved && q.gangSeq == p.gangSeq
    && (gangBits p.gangMask).contains (s.member q))

/-- Pen p of the team of pen k waits, and so does, with its SEQ, every member that its MASK names. -/
def Gathered (s : State) (k : Nat) (p : Pen) : Prop :=
  p ∈ s.team (s.pen k) ∧ p.hitch ≠ [] ∧ p.saved = false ∧ (hitchers s k p).length = (gangBits p.gangMask).length

/-- The first event of pen q has property f. -/
def Sys2Proof.Machine.Pen.headIs (q : Pen) (f : HitchWait → Bool) : Bool := q.hitch.head?.any f

/-- R299, R300, R301, R315: HITCH, last in its clause, of a pen whose MASK is not 0, arrives: the participants are held, and the
event waits with the pen's others. While no pen of the team has gathered every member that its MASK names, nothing passes. Once
one has, all of them under one MASK, with events of one kind and, of joint operations, of one instruction without SPA, each
passes: its SEQ advances, its event is gone, its threads are ready at the next clause, its operation is joined to the others.
Where their MASKs, kinds or instructions differ, or one has SPA, the event fails with ILLFMT in each of them.
Events of one pen stand in a queue, of which the first has SEQ (log 26). -/
def Says.Hitches : Prop :=
  (∀ (s : State) (g : Group) (r : Run) (el : Thread) (parts : List Thread) (x : FmtE), Elects s g r (.hitch x) el parts →
    r.pos + 1 = r.words.length → (s.pen g.pen).gangMask ≠ 0 →
    exec (.hitch x) s = .next ((((s.arriveHitch (envOf g r) parts none).performAll g r parts
      (fun t => t.waits g r .hitch) true).tryHitch g.pen).settle g.pen))
  ∧ (∀ (s : State) (p joint : Nat) (h : HitchWait), (s.pen p).hitch = h :: (s.pen p).hitch.tail → h ∉ (s.pen p).hitch.tail →
      p ∈ s.pens.map Pen.id → h.op = none →
      let u := s.passHitch p joint h
      (u.pen p).gangSeq = (s.pen p).gangSeq + 1 ∧ (u.pen p).hitch = (s.pen p).hitch.tail
      ∧ u.groups = s.groups.map (fun y => if y.id = h.gid then y.mapLanes h.lanes (fun t => { t with status := .ready }) else y)
      ∧ u = { s with pens := u.pens, groups := u.groups })
  ∧ (∀ (s : State) (k : Nat), (∀ p, ¬ Gathered s k p) → s.tryHitch k = s)
  ∧ (∀ (s : State) (k : Nat) (p : Pen), (s.pens.map Pen.id).Nodup → Gathered s k p → (∀ q, Gathered s k q → q ∈ hitchers s k p) →
      (∀ q ∈ hitchers s k p, q.gangMask = p.gangMask ∧ (∀ h ∈ q.hitch.head?, h ∉ q.hitch.tail)
        ∧ (s.hitchOp q).isSome = (s.hitchOp p).isSome
        ∧ ∀ o, s.hitchOp q = some o → o.spa = false ∧ ∀ y, s.hitchOp p = some y → o.sig = y.sig) →
      let u := s.tryHitch k
      let ms := hitchers s k p
      (∀ q ∈ ms, u.pen q.id = { q with gangSeq := q.gangSeq + 1, hitch := q.hitch.tail })
      ∧ (∀ i, i ∉ ms.map Pen.id → u.pen i = s.pen i)
      ∧ u.groups = s.groups.map (fun y => { y with threads := y.threads.map (fun t =>
          if ms.any (fun q => q.headIs (fun h => h.gid == y.id && h.lanes.contains t.lane)) then { t with status := .ready } else t) })
      ∧ u.ops = s.ops.map (fun o => if ms.any (fun q => q.headIs (fun h => h.op == some o.id)) then
          { o with atHitch := false, joint := some s.fresh } else o)
      ∧ u = { s with pens := u.pens, groups := u.groups, ops := u.ops, fresh := s.fresh + 1 })
  ∧ (∀ (s : State) (k : Nat) (p : Pen), (s.pens.map Pen.id).Nodup → Gathered s k p → (∀ q, Gathered s k q → q ∈ hitchers s k p) →
      (∀ q ∈ hitchers s k p, ∀ y ∈ hitchers s k q, y ∈ hitchers s k p) →
      (∃ q ∈ hitchers s k p, q.gangMask ≠ p.gangMask ∨ (s.hitchOp q).isSome ≠ (s.hitchOp p).isSome
        ∨ ∃ o, s.hitchOp q = some o ∧ (o.spa = true ∨ ∃ y, s.hitchOp p = some y ∧ o.sig ≠ y.sig)) →
      s.tryHitch k = (hitchers s k p).foldl (fun v q => match q.hitch with
        | h :: _ => v.failHitch q.id h illfmt | [] => v) s.bump)
  ∧ (∀ (s : State) (p : Nat) (h : HitchWait), (s.pen p).saved = false →
      (s.pen p).hitch.find? (fun y => decide (y.since + 1000000 ≤ s.clk)) = some h →
      exec (.gangtoExpiry p) s = .next (s.failHitch p h ⟨cGANGTO, 0, (s.pen p).gangWord, 0, none⟩))

/-- R303, R316 to R318: a predicted-row instruction whose record is readable and well formed, its fields aligned, issues the
operation of that record; RPRED and RCHECK owe B their bitmap. -/
def Says.PredictedRowsIssue : Prop :=
  ∀ (s : State) (g : Group) (r : Run) (el : Thread) (parts : List Thread) (x : FmtE) (l : Loc) (a : W64),
    s.access g.pen el.lo el.hwm .scratch ((el.reads g r .int x.d).val 0) 64 accRead = .ok l →
    let word := BitVec.ofNat 512 (s.readLoc l 64)
    let p := x.pa.toNat + 1
    let prb := fun (p : Nat) (mask : W64) => (⟨word, p, mask, (s.pen g.pen).rtau⟩ : Prb)
    let b := some (Opd.key x.b)
    prbReserved word = false → (el.reads g r .int x.a).val 0 = a →
    (Elects s g r (.rpred x) el parts → let q := prb 4 0
      q.xoff % 8 = 0 → q.uoff % 8 = 0 → q.vaddr % 128 = 0 →
      let rs : List OpRange := [⟨true, q.xoff, 4 * q.kw, false⟩, ⟨true, q.uoff, 32 * q.rk, false⟩, ⟨false, q.vaddr, 4 * q.rk * (q.kw / 8), false⟩]
      Issuable s g rs → exec (.rpred x) s = issuesOp s g r parts (newOp s g el (.rpred q) none b) rs true x.flg)
    ∧ (Elects s g r (.rcheck x) el parts → let q := prb p a
      q.xoff % 8 = 0 → q.soff % 128 = 0 → q.waddr % 128 = 0 →
      let rs : List OpRange := [⟨true, q.xoff, 4 * q.kw, false⟩, ⟨true, q.soff, 128, false⟩,
        ⟨false, q.waddr + (p - 1) * 64 * (q.kw / 8), 64 * (q.kw / 8), false⟩, ⟨false, q.waddr + (p - 2) * 64 * (q.kw / 8), 64 * (q.kw / 8), false⟩]
      Issuable s g rs → exec (.rcheck x) s = issuesOp s g r parts (newOp s g el (.rcheck q) none b) rs true x.flg)
    ∧ (Elects s g r (.rgath x) el parts → let q := prb p a
      q.doff % 8 = 0 → q.waddr % 128 = 0 → q.k0 + q.k ≤ q.kw →
      let rs : List OpRange := [⟨true, q.doff, 8 * p * q.k, true⟩, ⟨false, q.waddr, 64 * p * (q.kw / 8), false⟩]
      Issuable s g rs → exec (.rgath x) s = issuesOp s g r parts (newOp s g el (.rgath q) none none) rs true x.flg)

/-- R213, R216, R217, R287, R302, R311, R312: an operation that is alone and may begin starts, and reads its sources: ACCLD
its 16,384 bytes of scratch, ACCST and DRAIN their tile. One that has started and may complete ends: ACCLD writes its tile, and no
other; ACCST and DRAIN their bytes of scratch; the operation is no longer outstanding and the tile's last result is 1. That it reads at its start
and writes at its completion is the model's (log 7). The scratch holds no uncorrectable error, and a thread of the operation's
launch has not exited, so that the launch goes on. A group that waits for room in the queue, or in the table, issues again once
there is room. An ACCZ does not begin before every earlier operation on its tile is complete, those that read it among them. -/
def Says.EngineOperations : Prop :=
  (∀ (s : State) (o : EngOp), s.ops.find? (·.id == o.id) = some o → o.joint = none → s.canStart o = true →
    exec (.engineOpStart o.id) s = .next { s.bump with ops := s.ops.map (fun q => if q.id = o.id then s.load q else q) }
    ∧ (∀ a p, o.kind = .accld true a → o.pen = some p → (s.pen p).bad = [] → (s.load o).data = Memory.load (s.pen p).scratch a.toNat 16384)
    ∧ (∀ a p t, o.kind = .accst true a → o.pen = some p → o.tile = some t →
        ∀ i < 4096, (s.load o).data / 2 ^ (32 * i) % 2 ^ 32 = ((s.pen p).tile t i).toNat)
    ∧ (∀ v a p t, o.kind = .drain v true a → o.pen = some p → o.tile = some t → ∀ i < 4096,
        (s.load o).data / 2 ^ (8 * DrainV.size v * i) % 2 ^ (8 * DrainV.size v) = DrainV.elem v ((s.pen p).tile t i)))
  ∧ (∀ (s : State) (o : EngOp) (p t : Nat) (a : W64), s.ops.find? (·.id == o.id) = some o → o.joint = none →
      o.started = true → o.cancelled = false → s.engResident o = true → o.bad = none → o.overlap = false → o.pen = some p →
      o.tile = some t → (o.kind = .accld true a ∨ o.kind = .accst true a ∨ ∃ v, o.kind = .drain v true a) → p ∈ s.pens.map Pen.id → (s.pen p).bad = [] →
      (∃ q ∈ s.groups, q.pen ∈ s.pens.map Pen.id ∧ (s.pen q.pen).launch = o.launch ∧ ∃ y ∈ q.threads, y.status ≠ .exited) → s.memForm = true →
      ∃ u : State, exec (.engineOpCompletion o.id) s = .next u ∧ o.id ∉ u.ops.map EngOp.id ∧ u.mem = s.mem
        ∧ (t, 1) ∈ (u.pen p).last
        ∧ (o.kind = .accld true a → (∀ i < 4096, (u.pen p).tile t i = BitVec.ofNat 32 (o.data / 2 ^ (32 * i) % 2 ^ 32))
            ∧ (∀ k ≠ t, ∀ i < 4096, (u.pen p).tile k i = (s.pen p).tile k i) ∧ (u.pen p).scratch = (s.pen p).scratch)
        ∧ (∀ n, (o.kind = .accst true a ∧ n = 16384 ∨ ∃ v, o.kind = .drain v true a ∧ n = 4096 * DrainV.size v) →
            (∀ b < n, (Memory.get (u.pen p).scratch (a.toNat + b)).toNat = o.data / 2 ^ (8 * b) % 2 ^ 8)
            ∧ (∀ b, b < a.toNat ∨ a.toNat + n ≤ b → Memory.get (u.pen p).scratch b = Memory.get (s.pen p).scratch b)
            ∧ (u.pen p).tiles = (s.pen p).tiles))
  ∧ (∀ (s : State) (o q : EngOp), s.ops.find? (·.id == o.id) = some o → o.joint = none → o.kind = .accz → o.tile ≠ none →
      q ∈ s.before o → q.pen = o.pen → q.tile = o.tile → exec (.engineOpStart o.id) s = .next s)
  ∧ (∀ (s : State) (gid : Nat),
      ((s.group gid).stall = some .queue → s.queueRoom gid = true →
        exec (.engineQueueRoom gid) s = .next (s.updGroup gid (fun g => { g with stall := none })))
      ∧ ((s.group gid).stall = some .range → s.rangesInUse < 16384 →
        exec (.rangeLockIssueRetry gid) s = .next (s.updGroup gid (fun g => { g with stall := none }))))

/-- The value of a finite element. -/
def valOf (x : FVal) : ℚ := match x with | .fin s m e => ratOf s m e | _ => 0
/-- A sum of products: a number, an infinity or NaN. -/
inductive ExactSum where
  | nan
  | inf (s : Bool)
  | num (x : ℚ)
/-- The exact sum of the products of these pairs (R120, R316). -/
def totalOf (l : List (FVal × FVal)) : ExactSum :=
  let zero := fun (x : FVal) => match x with | .fin _ 0 _ => true | _ => false
  let infs := fun (x : FVal) => match x with | .inf _ => true | _ => false
  let neg := fun (x : FVal) => match x with | .inf s | .fin s _ _ => s | _ => false
  let void := l.any (fun p => p.1.isNan || p.2.isNan || (infs p.1 && zero p.2) || (zero p.1 && infs p.2))
  let has := fun (s : Bool) => l.any (fun p => (infs p.1 || infs p.2) && (neg p.1 != neg p.2) == s)
  if void || (has true && has false) then .nan
  else if has true then .inf true
  else if has false then .inf false
  else .num (l.map (fun p => valOf p.1 * valOf p.2)).sum

/-- R119, R120, R122, R124: y is what adding the exact sum g to element c of the accumulator gives: one rounding of it to binary32, and
c itself where the sum is 0. -/
def AddsTo (c : W32) (g : ExactSum) (y : W32) : Prop :=
  match g with
  | .nan => y = 0x7FC00000
  | .num x => if x = 0 then y = c else (match F32.decode c.toNat with
    | .nan _ => y = 0x7FC00000
    | .inf _ => y = c
    | .fin s m e => ∃ fl, RoundsTo F32 false (((ratOf s m e + x : ℚ)) : ℝ) (y.toNat, fl))
  | .inf t => match F32.decode c.toNat with
    | .nan _ => y = 0x7FC00000
    | .inf s => y = if s = t then c else 0x7FC00000
    | .fin _ _ _ => y = if t then 0xFF800000 else 0x7F800000

/-- The exponent and the zero point that govern block j of a row or column (R116, R117). -/
def scaleExp (w : W64) (j : Nat) : Nat := w.toNat / 2 ^ (16 * j) % 256
def scaleZero (w : W64) (j : Nat) : Int := (BitVec.ofNat 8 (w.toNat / 2 ^ (16 * j + 8))).toInt

/-- R115, R118, R119, R120 to R122, R292: what a unit of the sum, block or group u, folds into element i of the tile, which is row
i / 64 and column i % 64. The k of the unit count at which both elements are present. The plane path sums the exact products of
the integers, less their zero points where ZC is 1; the float path those of the formats; the lns path those of R121. The sum is
scaled by the two exponents of the unit's block, NaN where one is 0xFF, and added with one rounding. -/
def Says.UnitSums : Prop :=
  ∀ (m : Mma) (u i : Nat) (t : Nat → W32), i < 4096 →
    let r := i / 64
    let c := i % 64
    let block := m.bsel + match m.path with | .float _ => u / 2 | _ => u
    let ks := (List.range m.k).filter (fun k => k / m.path.unit == u
      && (m.bitsA.getD k 0xFFFFFFFFFFFFFFFF).getLsbD r && (m.bitsB.getD k 0xFFFFFFFFFFFFFFFF).getLsbD c)
    let wa := m.scaleA.getD r 0
    let wb := m.scaleB.getD c 0
    let ea := scaleExp wa block
    let eb := scaleExp wb block
    let scale : ℚ := 2 ^ ((ea : Int) + eb - 254)
    let sa := fun (k : Nat) => m.slicesA.getD k 0
    let sb := fun (k : Nat) => m.slicesB.getD k 0
    if ea = 255 ∨ eb = 255 then m.fold u t i = 0x7FC00000
    else match m.path with
      | .plane pa pb na nb =>
        let z := fun (w : W64) => if m.zc then scaleZero w block else 0
        let sum : Int := (ks.map (fun k => (planeElem pa na (sa k) r - z wa) * (planeElem pb nb (sb k) c - z wb))).sum
        AddsTo (t i) (.num (sum * scale)) (m.fold u t i)
      | .float f =>
        let el := fun (slice j : Nat) => (EFmt.f f).decode (slice / 2 ^ (EFmt.bits f * j) % 2 ^ EFmt.bits f)
        AddsTo (t i) (match totalOf (ks.map (fun k => (el (sa k) r, el (sb k) c))) with | .num x => .num (x * scale) | y => y) (m.fold u t i)
      | .lns =>
        let el := fun (slice j : Nat) => slice / 2 ^ (8 * j) % 2 ^ 8
        AddsTo (t i) (.num ((ks.map (fun k => logProduct (el (sa k) r) (el (sb k) c))).sum * scale)) (m.fold u t i)

/-- R115, R292: bit j of element r of a slice of p planes is bit r of plane j; a signed element is their two's-complement integer. -/
def Says.PlaneElements : Prop :=
  ∀ (p : Nat) (signed : Bool) (slice r : Nat), 1 ≤ p → r < 64 →
    let v := planeElem p signed slice r
    (if signed then -(2 ^ (p - 1)) ≤ v ∧ v < 2 ^ (p - 1) else 0 ≤ v ∧ v < 2 ^ p)
    ∧ ∀ j < p, (v % 2 ^ p).toNat.testBit j = slice.testBit (64 * j + r)

/-- R119, R120, R122, R123, R294: an MMA operation that is alone, and has read no bad line, completes: the units that have a step left
fold into the tile, in ascending order, and an element becomes NaN where a unit without a step, so with a sum of 0, has E = 0xFF in
one of its pairs (log 25). That it writes at its completion is the model's (log 7). A thread of the operation's launch has not
exited, so that the launch goes on. -/
def Says.UnitsFold : Prop :=
  ∀ (s : State) (o : EngOp) (m : Mma) (p t : Nat), o.kind = .mma m → s.ops.find? (·.id == o.id) = some o → o.joint = none →
    o.started = true → o.cancelled = false → s.engResident o = true → o.bad = none → m.badMap = [] →
    (∀ w ∈ m.badA ++ m.badB, w = 0) → o.pen = some p → o.tile = some t → p ∈ s.pens.map Pen.id → m.steps ≤ m.stepSet.length →
    (∃ q ∈ s.groups, q.pen ∈ s.pens.map Pen.id ∧ (s.pen q.pen).launch = o.launch ∧ ∃ y ∈ q.threads, y.status ≠ .exited) →
    let all := List.range ((m.k + m.path.unit - 1) / m.path.unit)
    let left := all.filter (fun u => (m.stepSet.drop m.steps).any (fun k => k / m.path.unit == u))
    let idle := all.filter (fun u => !m.stepSet.any (fun k => k / m.path.unit == u))
    let block := fun (u : Nat) => m.bsel + match m.path with | .float _ => u / 2 | _ => u
    let void := fun (i : Nat) => idle.any (fun u =>
      scaleExp (m.scaleA.getD (i / 64) 0) (block u) == 255 || scaleExp (m.scaleB.getD (i % 64) 0) (block u) == 255)
    ∃ u : State, exec (.engineOpCompletion o.id) s = .next u ∧ o.id ∉ u.ops.map EngOp.id ∧ u.mem = s.mem
      ∧ (t, 1) ∈ (u.pen p).last ∧ (u.pen p).scratch = (s.pen p).scratch
      ∧ (∀ i < 4096, (u.pen p).tile t i = if void i then 0x7FC00000
          else left.foldl (fun c v => m.fold v (fun _ => c) i) ((s.pen p).tile t i))
      ∧ ∀ k ≠ t, ∀ i < 4096, (u.pen p).tile k i = (s.pen p).tile k i

/-- R125: what DRAIN makes of an element of the tile: an integer, and a value of a narrower format, are cut toward zero and bounded by
the largest finite one, as an infinity is. -/
def Says.DrainConverts : Prop :=
  ∀ (x : W32), let v := F32.decode x.toNat
    DrainV.elem .f32 x = (if v.isNan then 0x7FC00000 else x.toNat)
    ∧ (∀ p ∈ [(DrainV.bf16, BF16), (.f16, F16), (.e4m3, E4M3)], let y := DrainV.elem p.1 x
      y < 2 ^ p.2.width ∧ match v with
      | .nan _ => y = p.2.nan
      | .inf s => y = withSign p.2 s p.2.maxCode
      | .fin s m e => ∃ n q, p.2.decode y = .fin s n q ∧ ratOf false n q ≤ ratOf false m e
          ∧ ∀ c t k h, p.2.decode c = .fin t k h → ratOf false k h ≤ ratOf false m e → ratOf false k h ≤ ratOf false n q)
    ∧ match v with
      | .nan _ => DrainV.elem .i8 x = 0
      | .inf s => DrainV.elem .i8 x = if s then 0x80 else 0x7F
      | .fin s m e => ∃ i : Nat, (i : ℚ) ≤ ratOf false m e ∧ ratOf false m e < i + 1
          ∧ DrainV.elem .i8 x = (max (-128) (min 127 (if s then -(i : Int) else i)) % 256).toNat

/-- Byte a that an engine operation reads, of its pen's scratch or of global memory. -/
def engByte (s : State) (o : EngOp) (scr : Bool) (a : Nat) : Nat := s.readLoc (o.loc scr a) 1
/-- Bit k of row r of plane j of an array of planes of `rows` rows of `rb` bytes, in global memory (R304). -/
def planeBit (s : State) (o : EngOp) (base rows rb j r k : Nat) : Bool :=
  (engByte s o false (base + j * rows * rb + r * rb + k / 8)).testBit (k % 8)
/-- The binary32 value at address a of scratch. -/
def single (s : State) (o : EngOp) (a : Nat) : FVal :=
  F32.decode ((List.range 4).map (fun b => engByte s o true (a + b) * 2 ^ (8 * b))).sum
/-- The four-bit two's-complement integer of these bits. -/
def nibble (b : Nat → Bool) : Int :=
  (if b 0 then 1 else 0) + (if b 1 then 2 else 0) + (if b 2 then 4 else 0) - (if b 3 then 8 else 0)
/-- An integer as a value. -/
def intOf (v : Int) : FVal := .fin (decide (v < 0)) v.natAbs 0

/-- R304, R306, R316 to R318: what a predicted-row operation computes when it starts, where it reads no bad line (that it reads there is
log 7). RPRED: bit r says that the exact sum over U and the rounded h is NaN, infinite, or not below the threshold; which h, and
which sums of products, are NaN or infinite is the model's choice (log 36). RCHECK: of the
rows not predicted, those whose bound does not hold. RGATH: the window of the selected rows, plane by plane. -/
def Says.PredictedResults : Prop :=
  ∀ (s : State) (o : EngOp) (r : Prb), (s.load o).bad = none →
    let x := fun (k : Nat) => single s o (r.xoff + 4 * k)
    let word := fun (k : Nat) => (s.load o).data / 2 ^ (64 * k) % 2 ^ 64
    (o.kind = .rpred r → ∃ h : Nat → FVal,
      (∀ i < r.rk, match totalOf ((List.range r.kw).map (fun k => (intOf (nibble (fun j => planeBit s o r.vaddr r.rk r.rb j i k)), x k))) with
        | .nan => (h i).isNan = true
        | .inf t => h i = .inf t
        | .num v => ∃ y, RoundsTo F32 false ((v : ℚ) : ℝ) y ∧ h i = F32.decode y.1)
      ∧ ∀ row < 64, ((s.load o).result.getLsbD row = true ↔
        match totalOf ((List.range r.rk).map (fun i =>
          (intOf (nibble (fun j => (engByte s o true (r.uoff + 32 * i + 8 * j + row / 8)).testBit (row % 8))), h i))) with
        | .num v => (match F32.decode (r.word.extractLsb' 224 32).toNat with
          | .nan _ => False
          | .inf t => t = true
          | .fin t m e => ratOf t m e ≤ |v|)
        | _ => True))
    ∧ (o.kind = .rcheck r → 2 ≤ r.p → ∀ row < 64, ((s.load o).result.getLsbD row = true ↔ r.mask.getLsbD row = false ∧
        let e := engByte s o true (r.soff + 2 * row)
        let z := (BitVec.ofNat 8 (engByte s o true (r.soff + 2 * row + 1))).toInt
        let bit := fun (j k : Nat) => if planeBit s o r.waddr 64 r.rb j row k then (1 : Int) else 0
        let q := fun (k : Nat) => 2 ^ (r.p - 2) * bit (r.p - 2) k - 2 ^ (r.p - 1) * bit (r.p - 1) k
        let ks := List.range r.kw
        let scale : ℚ := 2 ^ ((e : Int) - 127)
        ¬ (e ≠ 255 ∧ (∀ k ∈ ks, ∃ t m h, x k = .fin t m h) ∧ ∃ t m h, F32.decode r.tau.toNat = .fin t m h ∧
          |scale * (ks.map (fun k => valOf (x k) * ((q k - z : Int) : ℚ))).sum|
            + (ks.map (fun k => |valOf (x k)|)).sum * (2 ^ (r.p - 2) - 1) * scale ≤ ratOf t m h)))
    ∧ (o.kind = .rgath r → ∀ k < r.k, ∀ j < r.p, ∀ row < 64, (word (r.p * k + j)).testBit row
        = (r.mask.getLsbD row && planeBit s o r.waddr 64 r.rb j row (r.k0 + k)))

/-- R224, R307, R316 to R318: the completion of a predicted-row operation that is alone: RPRED and RCHECK give their bitmap to a thread
that owes it and owes nothing else, RGATH writes its planes, and nothing else of scratch. After a failure RCHECK gives the rows
that are not predicted, and RGATH leaves 0 in every bit of the rows not selected. -/
def Says.PredictedRowsComplete : Prop :=
  ∀ (s : State) (o : EngOp) (p : Nat) (r : Prb), s.ops.find? (·.id == o.id) = some o → o.joint = none → o.started = true →
    o.cancelled = false → s.engResident o = true → o.pen = some p → o.tile = none → p ∈ s.pens.map Pen.id → (s.pen p).bad = [] →
    (∃ q ∈ s.groups, q.pen ∈ s.pens.map Pen.id ∧ (s.pen q.pen).launch = o.launch ∧ ∃ y ∈ q.threads, y.status ≠ .exited) → s.memForm = true →
    ∃ u : State, exec (.engineOpCompletion o.id) s = .next u ∧ o.id ∉ u.ops.map EngOp.id
      ∧ (∀ (g : Group) (t : Thread) (q : Pend) (d : Nat), (o.kind = .rpred r ∨ o.kind = .rcheck r) → o.dest = some d → s.group g.id = g →
          g ∈ s.groups → t ∈ g.threads → (g.threads.map Thread.lane).Nodup → t.pend = [q] → q.op = o.id → q.mixed = none →
          t.regs.late = [] → t.status = .ready →
          ∃ t', (u.group g.id).thread t.lane = some t' ∧ t'.pend = []
            ∧ (o.bad = none → t'.regs.get d = .u o.result)
            ∧ (o.bad ≠ none → o.kind = .rcheck r → t'.regs.get d = .u (~~~r.mask)))
      ∧ (o.kind = .rgath r → (∀ b, b < r.doff ∨ r.doff + 8 * r.p * r.k ≤ b → Memory.get (u.pen p).scratch b = Memory.get (s.pen p).scratch b)
          ∧ ∀ w < r.p * r.k, let v := Memory.load (u.pen p).scratch (r.doff + 8 * w) 8
            (o.bad = none → v = o.data / 2 ^ (64 * w) % 2 ^ 64)
            ∧ (o.bad ≠ none → ∀ row < 64, r.mask.getLsbD row = false → v.testBit row = false))

/-- Engine operations are registered, start and complete; what DRAIN writes: `Says.Registration`, `Says.EngineOperations`,
`Says.DrainConverts`. -/
def Obligations.OperationsRun : Prop :=
  Says.Registration ∧ Says.EngineOperations ∧ Says.DrainConverts

/-- RPRED, RCHECK and RGATH: `Says.PredictedRowsIssue`, `Says.PredictedResults`, `Says.PredictedRowsComplete` (log 7, 36). -/
def Obligations.PredictedRows : Prop :=
  Says.PredictedRowsIssue ∧ Says.PredictedResults ∧ Says.PredictedRowsComplete

/-- The sums of the matrix paths: `Says.PlaneElements`, `Says.UnitSums`, `Says.UnitsFold`. -/
def Obligations.MatrixSums : Prop :=
  Says.PlaneElements ∧ Says.UnitSums ∧ Says.UnitsFold

/-- The matrix instructions issue their operations: `Says.TileOperations`, `Says.MmaIssue`. -/
def Obligations.MatrixIssue : Prop :=
  Says.TileOperations ∧ Says.MmaIssue

/-- Waits for engines, progress, and gangs: `Says.TileWaitsAndControl`, `Says.Hitches`, `Says.EngineFence`. -/
def Obligations.WaitsAndHitches : Prop :=
  Says.TileWaitsAndControl ∧ Says.Hitches ∧ Says.EngineFence

/-! ### Block 7: queues, copies, spawns, continuations (R321 to R347, R365 to R370) -/

/-- The block of eight registers at b holds the words of pkt. -/
def holdsPacket (g : Group) (r : Run) (t : Thread) (b : Opd) (pkt : BitVec 512) : Prop :=
  ∀ k < 8, t.reads g r .int { b with idx := b.idx + BitVec.ofNat 8 k } = .u (pkt.extractLsb' (64 * k) 64)

/-- The writes of a packet into the block at d (R367). -/
def packetWrites (d : Opd) (pkt : BitVec 512) : List (Nat × Form) :=
  (List.range 8).map (fun k => (Opd.key d + k, .u (pkt.extractLsb' (64 * k) 64)))

/-- R331, R366, R367: on a queue whose header and slot pass the checks, QPUSH places its packet and gives the index, QPOP
owes its block the packet that it takes. Where the queue is full or empty, with WM 1 QPUSH gives all ones and QPOP owes 0xFF
in the first register, and with WM 0 the thread of a QPUSH waits at its clause and a QPOP stays in flight. A waiter tests
again in the same way, unless it stands on a tether list, and what it writes is written for its context (log 34). A packet placed on a queue that is in no mode H goes to the slot at
WRITE, and WRITE advances; one taken there leaves READ advanced.
That a packet is placed, or taken, in the step of the issue is log 6. -/
def Obligations.Queues : Prop :=
  ∀ (s : State) (g : Group) (r : Run) (t : Thread) (x : FmtQ) (a : W64) (q : QView) (pkt : BitVec 512),
    t.reads g r .int x.a = .u a →
    (Performs s g r t (.qpush x) x.gd → holdsPacket g r t x.b pkt → (x.wm = 0 → r.pos = 0) →
      s.queue (s.ctxOf g.pen) a true accRmw = .ok q →
      exec (.qpush x) s = match s.pushTo q pkt with
        | some (u, i) => .next (u.perform g r (t.result x.d (.u i)))
        | none => if x.wm = 1 then s.gives g r t x.d 0xFFFFFFFFFFFFFFFF
          else .next (s.performLeave g r { t with pc := r.hdr, hdr := r.hdr, status := .push a pkt x.d }))
    ∧ (Performs s g r t (.qpop x) x.gd → s.queue (s.ctxOf g.pen) a false accRmw = .ok q →
      (∀ u p, s.popFrom (s.ctxOf g.pen) a q = some (u, p) → exec (.qpop x) s = u.owes g r t x.flg (packetWrites x.d p))
      ∧ (q.h.write = q.h.read → ∃ ws : List (Nat × Form), ws.map Prod.fst = (List.range 8).map (fun k => Opd.key x.d + k)
          ∧ (x.wm = 1 → ws.head? = some (Opd.key x.d, .u 0xFF) ∧ exec (.qpop x) s = s.owes g r t x.flg ws)
          ∧ (x.wm ≠ 1 → exec (.qpop x) s = .next (s.bump.perform g r (t.owing s g r x.flg ws 0 (some a))))))
    ∧ (∀ (gid lane : Nat) (w : Thread) (d : Opd) (u : State) (i : W64), (s.group gid).thread lane = some w →
      (s.group gid).resident s = true → s.listed ⟨gid, lane, 0⟩ = false → w.status = .push a pkt d →
      s.queue (s.ctxOf (s.group gid).pen) a true accRmw = .ok q → ({ s with actor := s.ctxOf (s.group gid).pen } : State).pushTo q pkt = some (u, i) →
      exec (.queueWaiterRetest gid lane) s = .next { u.updThread gid lane (fun v => v.resumeWith d i) with actor := s.actor })
    ∧ (∀ (gid lane : Nat) (w : Thread) (p : Pend) (ps : List Pend) (u : State), (s.group gid).thread lane = some w →
      (s.group gid).resident s = true → s.listed ⟨gid, lane, p.op⟩ = false → w.status = .ready →
      w.pend.filter (·.queue.isSome) = p :: ps → p.queue = some a → s.queue (s.ctxOf (s.group gid).pen) a false accRmw = .ok q →
      ({ s with actor := s.ctxOf (s.group gid).pen } : State).popFrom (s.ctxOf (s.group gid).pen) a q = some (u, pkt) →
      exec (.queueWaiterRetest gid lane) s
        = .next (ps.foldl (fun v y => v.retestPop gid lane y) { u.popDone p.op pkt with actor := s.actor }))
    ∧ (∀ c, q.h.modeH = false → q.h.write ≠ q.h.read →
      s.popFrom c a q = some (s.setIdx q q.h.write (q.h.read + 1), BitVec.ofNat 512 (s.readLoc q.rslot 64)))
    ∧ (q.h.modeH = false → s.pushTo q pkt = if 2 ^ q.h.lsize ≤ (q.h.write - q.h.read).toNat then none
        else some ((s.writeLoc q.wslot 64 pkt.toNat).setIdx q (q.h.write + 1) q.h.read, q.h.write))

/-- R342, R343, R346, R368: a COPY whose packet is readable and well formed, and whose ranges pass the checks, issues a copy
operation of that packet, which owes D its result. -/
def Says.CopyIssue : Prop :=
  ∀ (s : State) (g : Group) (r : Run) (t : Thread) (x : FmtQ) (a : W64) (l : Loc) (kind : Nat) (c : Copy) (idx : List Nat),
    t.reads g r .int x.a = .u a → s.access g.pen t.lo t.hwm .scratch a 64 accRead = .ok l →
    copyOf s (some g.pen) kind (BitVec.ofNat 512 (s.readLoc l 64)) = some c →
    (kind = 2 → c.sstr.toNat % 4 = 0) → gatherIdx s g.pen t.lo t.hwm c accRead = .ok idx →
    s.engCheck g.pen (s.ctxOf g.pen) ({ c with idx := idx } : Copy).ranges = .ok () →
    s.rangeRoom ({ c with idx := idx } : Copy).ranges = true →
    let issued : Host.Outcome State Fault Refusal :=
      .next ((s.register (newOp s g t (.copy { c with idx := idx }) none (some (Opd.key x.d))) ({ c with idx := idx } : Copy).ranges).perform
        g r (t.issued (envOf g r) s.fresh true x.flg (some (Opd.key x.d))))
    (kind = 0 → Performs s g r t (.copyD1 x) x.gd → exec (.copyD1 x) s = issued)
    ∧ (kind = 1 → Performs s g r t (.copyD2 x) x.gd → exec (.copyD2 x) s = issued)
    ∧ (kind = 2 → Performs s g r t (.copyGather x) x.gd → exec (.copyGather x) s = issued)

/-- What the completion of a one-dimensional copy within scratch leaves. -/
def copied (s u : State) (o : EngOp) (c : Copy) (p : Nat) : Prop :=
  o.id ∉ u.ops.map EngOp.id ∧ u.mem = s.mem
  ∧ Memory.load (u.pen p).scratch c.dst.toNat c.len = o.data % 2 ^ (8 * c.len)
  ∧ (∀ b, b < c.dst.toNat ∨ c.dst.toNat + c.len ≤ b → Memory.get (u.pen p).scratch b = Memory.get (s.pen p).scratch b)
  ∧ (u.pen p).tiles = (s.pen p).tiles

/-- Byte y of those that a copy moves: the addresses it is read from and written to (R343). -/
def copySrc (c : Copy) (y : Nat) : Nat :=
  let s := 2 ^ c.lesz
  match c.kind with
  | 0 => c.src.toNat + y
  | 1 => (c.src + BitVec.ofNat 64 (y / c.len) * c.sstr).toNat + y % c.len
  | _ => (c.src + BitVec.ofNat 64 (c.idx.getD (y / s) 0 * s)).toNat + y % s
def copyDst (c : Copy) (y : Nat) : Nat :=
  let s := 2 ^ c.lesz
  match c.kind with
  | 0 => c.dst.toNat + y
  | 1 => (c.dst + BitVec.ofNat 64 (y / c.len) * c.dstr).toNat + y % c.len
  | _ => (c.dst + BitVec.ofNat 64 (y / s * s)).toNat + y % s
/-- How many bytes it moves. -/
def copyBytes (c : Copy) : Nat := match c.kind with | 0 => c.len | 1 => c.rows * c.len | _ => c.rows * 2 ^ c.lesz

/-- R217, R342, R343, R345: a copy of any shape, within scratch, within global memory or between them, that starts and finds no bad line
has read each of its source bytes; one that has started ends with each at its destination, and every other byte of every memory is as
it was. (It is not into a ring, its destination bytes are apart, and lie in lines that hold data and no error.) That it reads at its
start and writes at its completion is the model's (log 7). A thread of the copy's launch has not exited, so that the launch goes on. -/
def Says.CopyMovesBytes : Prop :=
  ∀ (s : State) (o : EngOp) (c : Copy), o.kind = .copy c → c.kind < 3 → c.ring = none → s.ops.find? (·.id == o.id) = some o → o.joint = none →
    let moved := fun (d y : Nat) => d / 2 ^ (8 * y) % 2 ^ 8
    let at' := fun (y : Nat) => o.loc c.dstScr (copyDst c y)
    (s.canStart o = true → (s.load o).bad = none → ∃ u q, exec (.engineOpStart o.id) s = .next u ∧ q ∈ u.ops ∧ q.id = o.id ∧ q.started = true
      ∧ ∀ y < copyBytes c, moved q.data y = s.readLoc (o.loc c.srcScr (copySrc c y)) 1)
    ∧ (o.started = true → o.cancelled = false → o.bad = none → o.tile = none → c.dep = 0 → s.memForm = true →
      (c.dstScr = true → o.pen.getD 0 ∈ s.pens.map Pen.id) →
      (∀ y < copyBytes c, s.gone (at' y) = false ∧ s.poisoned (at' y) = false ∧ ∀ z < copyBytes c, at' y = at' z → y = z) →
      (∃ g ∈ s.groups, g.pen ∈ s.pens.map Pen.id ∧ (s.pen g.pen).launch = o.launch ∧ ∃ t ∈ g.threads, t.status ≠ .exited) →
      ∃ u : State, exec (.engineOpCompletion o.id) s = .next u ∧ o.id ∉ u.ops.map EngOp.id
        ∧ (∀ y < copyBytes c, u.readLoc (at' y) 1 = moved o.data y)
        ∧ (∀ l : Loc, (∀ y < copyBytes c, l ≠ at' y) → u.readLoc l 1 = s.readLoc l 1)
        ∧ u.pens.map Pen.tiles = s.pens.map Pen.tiles)

/-- R189, R192, R321, R369: SPAWN over a range makes a task, whose counter, bound and declarations are the issuer's pending
ones, and a strand of the range at the entry with g0 as given, fp and lk 0, gp the launch's, and sp of index i at
S + (i + 1)·Z; the strand waits to be placed, and the pending declarations and bound are spent. That it joins the issuer's own
pen is the model's choice (log 18). -/
def Says.SpawnOverRange : Prop :=
  ∀ (s : State) (g : Group) (r : Run) (t : Thread) (x : FmtQ) (a b d : W64), t.reads g r .int x.a = .u a →
    t.reads g r .int x.b = .u b → t.reads g r .int x.d = .u d → Performs s g r t (.spawnRange x) x.gd →
    let lo := b.toNat % 2 ^ 32
    let n := b.toNat / 2 ^ 32 + 1
    let l := s.threadLaunch t
    lo + n ≤ 2 ^ 32 → s.checkTarget (s.ctxOf g.pen) a = .ok () →
    ∃ (u : State) (k : Task) (y : Group) (w : Thread) (m : Member), exec (.spawnRange x) s = .next (u.perform g r t.spent)
      ∧ u = { s with tasks := s.tasks ++ [k], groups := s.groups ++ [y], members := s.members ++ [m], fresh := u.fresh }
      ∧ k.launch = (s.task t.task).launch ∧ k.tdep = t.ctr ∧ k.cell = t.bound ∧ k.launchOwn = false
      ∧ k.decls = t.decls.filter (fun e => bits e.word 31 0 != 0)
      ∧ (k.decls = [] → (∃ p ∈ s.pens, p.id = g.pen ∧ p.launch = k.launch) → y.pen = g.pen)
      ∧ ((∃ p ∈ s.pens, p.launch = k.launch) → ∃ p ∈ s.pens, p.id = y.pen ∧ p.launch = k.launch)
      ∧ y.lanes = false ∧ y.place = .saved ∧ y.threads = [w] ∧ m.kind = .group y.id true ∧ m.prio = k.prio
      ∧ w.lo = lo ∧ w.n = n ∧ w.pc = a ∧ w.hdr = a ∧ w.task = k.id ∧ w.status = .ready ∧ w.preds = [] ∧ w.splices = []
      ∧ w.regs.get 0 = .u d ∧ w.regs.get 252 = .u 0 ∧ w.regs.get 253 = .u l.gp ∧ w.regs.get 254 = .u 0
      ∧ ∀ j < n, (w.regs.get 255).val j = BitVec.ofNat 64 (l.stk.toNat + (lo + j + 1) * l.z)

/-- R48, R49: SPAWN of a single index goes into the bin of its context and entry on the pen's die: a new one, or the one in
use, which launches when it holds 64 spawns, or when its period has passed since the first, unless its context is stopped
(R401). A bin launches its spawns, in the order of their arrival, as one lane group, in a pen of the launch of its first spawn
(log 18, 40); a full bin of a stopped context waits, and the period is that at its end (log 82, 83). -/
def Says.SpawnBins : Prop :=
  ∀ (s : State) (g : Group) (r : Run) (t : Thread) (x : FmtQ) (a b d : W64),
    let die := s.penDie g.pen
    let c := s.ctxOf g.pen
    let k := spawnTask s t s.fresh
    let sp : Spawn := ⟨d.toNat, b, k.id⟩
    let u : State := { s.bump with tasks := s.tasks ++ [k] }
    (t.reads g r .int x.a = .u a → t.reads g r .int x.b = .u b → t.reads g r .int x.d = .u d → Performs s g r t (.spawnSingle x) x.gd →
      d.toNat < 2 ^ 32 → s.checkTarget c a = .ok () →
      (binFind (s.die die) c a = none → (s.die die).bins.length < 128 → exec (.spawnSingle x) s
        = .next ((u.updDie die (fun y => { y with bins := y.bins ++ [⟨c, a, k.launch, s.clk, [sp]⟩] })).perform g r t.spent))
      ∧ (∀ y, binFind (s.die die) c a = some y → y.spawns.length < 64 →
        let y1 : Bin := { y with spawns := y.spawns ++ [sp] }
        let v := u.updDie die (fun e => { e with bins := e.bins.map (fun z => if z.ctx == c && z.entry == a then y1 else z) })
        exec (.spawnSingle x) s = .next ((if y1.spawns.length < 64 ∨ (s.ctx c).stopped = true then v else v.launchBin die y1).perform g r t.spent)))
    ∧ (∀ (dd ctx : Nat) (e : W64) (y : Bin), binFind (s.die dd) ctx e = some y → (s.ctx ctx).stopped = false →
      (y.first + 100 * (s.ctx ctx).bintm.toNat ≤ s.clk ∨ 64 ≤ y.spawns.length) →
      exec (.binTimerExpiry dd ctx e) s = .next (s.launchBin dd y))
    ∧ (∀ gid, (s.group gid).stall = some .bin → (s.die (s.penDie (s.group gid).pen)).bins.length < 128 →
      exec (.spawnBinFree gid) s = .next (s.updGroup gid (fun y => { y with stall := none })))
    ∧ ∀ (dd : Nat) (y : Bin), ∃ z : Group, (s.launchBin dd y).groups = s.groups ++ [z] ∧ z.lanes = true
        ∧ z.threads.map Thread.lo = y.spawns.map Spawn.idx ∧ z.threads.map Thread.task = y.spawns.map Spawn.task
        ∧ z.threads.map Thread.lane = List.range y.spawns.length ∧ (∀ w ∈ z.threads, w.n = 1 ∧ w.pc = y.entry)
        ∧ ((∃ p ∈ s.pens, p.launch = y.launch) → ∃ p ∈ s.pens, p.id = z.pen ∧ p.launch = y.launch)
        ∧ (∃ m ∈ (s.launchBin dd y).members, m.kind = .group z.id true)

/-- The fields of a record's header stand where R52 puts them. -/
def headerFields (m : Nat) : Prop :=
  let h := contHead m
  h.pc.toNat = m % 2 ^ 64 ∧ h.lmask.toNat = m / 2 ^ 64 % 2 ^ 64 ∧ h.launch = m / 2 ^ 128 % 2 ^ 32 ∧ h.lo = m / 2 ^ 160 % 2 ^ 32
  ∧ h.n = m / 2 ^ 192 % 2 ^ 32 + 1 ∧ h.saved = m / 2 ^ 224 % 2 ^ 16 ∧ (h.lanes = true ↔ m / 2 ^ 240 % 4 = 1)
  ∧ h.regs = m / 2 ^ 256 % 2 ^ 128 ∧ h.forms = m / 2 ^ 384 % 2 ^ 32 ∧ h.ctx = m / 2 ^ 416 % 2 ^ 32

/-- R51, R52, R54, R370: a header's fields stand in their bits. The record that CONT makes of a strand has its indices, its
launch and context, the next clause, the counter's address and a slot of 16 bytes for each saved register; that of lanes has,
in its index block, the index of each lane present and 0xFFFF_FFFF for every other. A record resumed gives threads that have
the indices again, and in every saved register the value of every index, whichever form CONT chose for the slot (log 28). -/
def Says.ContinuationRecord : Prop :=
  (∀ m, headerFields m)
  ∧ (∀ (s : State) (e : Env) (x : FmtI) (t : Thread) (d : W64), e.strand = true → t.lo < 2 ^ 32 → 0 < t.n → t.n ≤ 2 ^ 32 →
      let k := contRecord s e x [t] d
      let h := contHead k.2
      k.2 / 2 ^ 448 % 2 ^ 64 = d.toNat ∧ h.ctx = s.ctxOf e.pen % 2 ^ 32 ∧ h.launch = (s.task t.task).launch % 2 ^ 32
      ∧ h.pc.toNat = e.next.toNat % 2 ^ 56 ∧ h.lanes = false ∧ h.lmask = 0 ∧ h.lo = t.lo ∧ h.n = t.n
      ∧ h.saved = (bits x.imm 15 0).toNat ∧ h.length = k.1
      ∧ (∀ i p, (contRegs x)[i]? = some p → h.regs / 2 ^ (8 * p.1) % 256 = p.2
          ∧ (h.forms / 2 ^ (2 * p.1) % 4, k.2 / 2 ^ (8 * (64 + 16 * i)) % 2 ^ 128)
            = match t.regs.get p.2 with | .u v => (0, v.toNat) | .a b st => (1, b.toNat + 2 ^ 64 * st.toNat))
      ∧ ∀ l seed task, ∃ w, contThreads l seed task h k.2 = [w] ∧ w.pc = h.pc ∧ w.lo = t.lo ∧ w.n = t.n ∧ w.task = task
          ∧ ∀ p ∈ contRegs x, ∀ j, (w.regs.get p.2).val j = (t.regs.get p.2).val j)
  ∧ (∀ (s : State) (e : Env) (x : FmtI) (ts : List Thread) (d : W64), e.strand = false → ts ≠ [] → (ts.map Thread.lane).Nodup →
      (∀ t ∈ ts, t.lane < 64 ∧ t.lo < 2 ^ 32) →
      let k := contRecord s e x ts d
      let h := contHead k.2
      k.2 / 2 ^ 448 % 2 ^ 64 = d.toNat ∧ h.ctx = s.ctxOf e.pen % 2 ^ 32 ∧ h.pc.toNat = e.next.toNat % 2 ^ 56 ∧ h.lanes = true
      ∧ h.saved = (bits x.imm 15 0).toNat ∧ h.length = k.1
      ∧ (∀ n < 64, (h.lmask.getLsbD n = true ↔ n ∈ ts.map Thread.lane)
          ∧ k.2 / 2 ^ (8 * (64 + 4 * n)) % 2 ^ 32 = ((ts.find? (·.lane == n)).map Thread.lo).getD 0xFFFFFFFF)
      ∧ ∀ l seed task, (contThreads l seed task h k.2).map Thread.lane = (List.range 64).filter (fun n => n ∈ ts.map Thread.lane)
          ∧ ∀ w ∈ contThreads l seed task h k.2, w.pc = h.pc ∧ w.n = 1 ∧ w.task = task
            ∧ ∃ t ∈ ts, w.lane = t.lane ∧ w.lo = t.lo ∧ ∀ p ∈ contRegs x, (w.regs.get p.2).val 0 = (t.regs.get p.2).val 0)

/-- R51 to R54, R347, R370: CONT, last in its clause, by one thread with no predicate entry, outside a handler and not killed,
whose record passes its checks, ends the thread as a continued end. The record of R51 stands in memory at its address; a counter
that is not zero takes the action of resuming it, over any that it had; every other byte is as it was. The record waits under its
address with the operations in flight, a QPOP that waits on its queue among them (log 48), and the launch of the thread's task
counts it (log 40). A record whose counter is zero and whose operations have completed resumes as a new task of its launch,
whose group is a ready member. -/
def Says.ContAndResume : Prop :=
  (∀ (s : State) (g : Group) (r : Run) (t : Thread) (x : FmtI) (a d : W64) (ls : List Loc) (cl : Loc),
    t.reads g r .int x.a = .u a → t.reads g r .int x.d = .u d → Performs s g r t (.cont x) x.gd → r.pos + 1 = r.words.length →
    issuers s (envOf g r) t = [t] → t.laneGuard x.gd = some true → t.preds = [] → t.ih = false → s.killed g.pen t = false →
    let rcd := contRecord s (envOf g r) x [t] d
    let l := (s.task t.task).launch
    let w := s.bump.writeWords ls rcd.2
    let zero := decide (w.readLoc cl 8 = 0)
    contLocs s (envOf g r) t a d rcd.1 = .ok (ls, cl) →
    ∃ u : State, exec (.cont x) s = .next (u.performLeave g r { t with status := .exited, pend := [], engOps := [] })
      ∧ u.conts = s.conts.filter (fun y => !(y.ctx == s.ctxOf g.pen && y.addr == a))
          ++ [⟨s.ctxOf g.pen, a, l, zero, (t.pend.map Pend.op).dedup, (t.pend.filterMap (fun p => p.queue.map (fun b => (p.op, b)))).dedup⟩]
      ∧ u.tasks = s.tasks.map (fun k => if k.id = t.task then { k with contEnd := true } else k)
      ∧ u.launches = s.launches.map (fun y => if y.id = l then { y with conts := y.conts.filter (· != a) ++ [a] } else y)
      ∧ u.mem = (if zero then w else w.writeLoc (locAdd cl 8) 8 (2 ^ 62 + a.toNat % 2 ^ 56)).mem
      ∧ u = { s with conts := u.conts, tasks := u.tasks, launches := u.launches, mem := u.mem, writers := u.writers, fresh := u.fresh }
      ∧ (s.memForm = true → ∀ b, (∀ p, .phys p ∈ ls → b < p ∨ p + 8 ≤ b) → (∀ p, cl = .phys p → b < p + 8 ∨ p + 16 ≤ b) →
          Memory.get u.mem b = Memory.get s.mem b))
  ∧ (∀ (s : State) (k : Cont) (pen : Nat) (l : Launch) (m whole : Nat),
    s.conts.find? (fun y => y.ctx == k.ctx && y.addr == k.addr && y.zero && y.ops.isEmpty) = some k → (s.ctx k.ctx).stopped = false →
    s.devRead k.ctx k.addr 64 = .ok m → (contHead m).bad m k.ctx = false → s.resumeBad k.ctx (contHead m).pc = false →
    s.launches.find? (fun y => y.id % 2 ^ 32 == (contHead m).launch && y.ctx == k.ctx) = some l →
    s.devRead k.ctx k.addr (contHead m).length = .ok whole → (∃ p ∈ s.pens, p.id = pen ∧ p.launch = l.id) →
    ∃ (u : State) (y : Group) (z : Task) (e : Member), exec (.continuationResume k.ctx k.addr pen) s = .next u
      ∧ u.tasks = s.tasks ++ [z] ∧ z.launch = l.id ∧ u.groups = s.groups ++ [y] ∧ y.pen = pen ∧ y.lanes = (contHead m).lanes
      ∧ y.threads = contThreads l (s.fresh + 2) z.id (contHead m) whole ∧ u.members = s.members ++ [e] ∧ e.kind = .group y.id true
      ∧ (∀ w ∈ y.threads, w.pc = (contHead m).pc ∧ w.task = z.id)
      ∧ ∀ w ∈ u.conts, w ∈ s.conts ∧ ¬(w.ctx = k.ctx ∧ w.addr = k.addr))

/-- CONT and the record that it leaves: `Says.ContAndResume`, `Says.ContinuationRecord`. -/
def Obligations.Continuations : Prop := Says.ContAndResume ∧ Says.ContinuationRecord

/-! ### Block 7: counters, graphs, histograms, declarations, the incumbent, the governor, KILLT (R339 to R382) -/

/-- R339 to R341, R371, R373: DEPSET writes a counter and its action word; with 0 it wakes the waiters there and takes the
action at once. DEPDEC takes away its amount, once for each index of a strand, and gives the new count; at 0 the action
word is cleared, the waiters are woken and the action is taken; an amount above the count changes no memory and gives all
ones. CONDW writes, ORs or adds. An action that pushes a packet is owed until the queue takes it; it reads the ready record by
words of 8 bytes, and fails with ALIGN where the record does not start at a multiple of 8 (log 97). -/
def Obligations.DependenceCounters : Prop :=
  ∀ (s : State) (g : Group) (r : Run) (t : Thread) (x : FmtQ) (a b d : W64) (l : Loc),
    t.reads g r .int x.a = .u a → t.reads g r .int x.b = .u b →
    let c := s.ctxOf g.pen
    let times := if g.lanes then 1 else t.n
    let cnt := s.readLoc l 8
    let amount := b.toNat * times
    let word := BitVec.ofNat 64 (s.readLoc (locAdd l 8) 8)
    let addr : W64 := word &&& 0x00FFFFFFFFFFFFFF
    (t.reads g r .int x.d = .u d → Performs s g r t (.depset x) x.gd → bits d 61 56 = 0 → ¬(bits d 63 62 = 3 ∧ bits d 55 11 ≠ 0) →
      s.access g.pen t.lo t.hwm .global a 16 accWrite = .ok l →
      exec (.depset x) s = if b ≠ 0 then .next ((s.writeLoc l 16 (b.toNat + 2 ^ 64 * d.toNat)).perform g r t)
        else if bits d 63 62 = 0 then .next (((s.writeLoc l 16 (2 ^ 64 * d.toNat)).wakeAll c l).perform g r t)
        else .next ((((s.writeLoc l 16 0).wakeAll c l).act c (bits d 63 62).toNat (d &&& 0x00FFFFFFFFFFFFFF)).perform g r t))
    ∧ (Performs s g r t (.depdec x) x.gd → s.access g.pen t.lo t.hwm .global a 16 accRmw = .ok l →
      let left := BitVec.ofNat 64 (cnt - amount)
      (cnt < amount → exec (.depdec x) s = .next ((s.logPlain c (s.pen g.pen).launch a (BitVec.ofNat 64 amount) cDEPUNDER 3).perform g r
        (t.result x.d (.u 0xFFFFFFFFFFFFFFFF))))
      ∧ (amount < cnt ∨ amount = 0 ∧ cnt = 0 →
        exec (.depdec x) s = .next ((s.writeLoc l 8 (cnt - amount)).perform g r (t.result x.d (.u left))))
      ∧ (cnt = amount → amount ≠ 0 → exec (.depdec x) s = .next ((((((s.writeLoc l 8 0).writeLoc (locAdd l 8) 8 0).wakeAll c l).act c
        (word.toNat / 2 ^ 62) addr)).perform g r (t.result x.d (.u 0)))))
    ∧ (Performs s g r t (.condw x) x.gd → s.access g.pen t.lo t.hwm .global a 8 accRmw = .ok l →
      exec (.condw x) s = .next ((s.writeLoc l 8 (if x.wm = 0 then b.toNat
        else if x.wm = 1 then (BitVec.ofNat 64 cnt ||| b).toNat else (cnt + amount) % 2 ^ 64)).perform g r t))
    ∧ (∀ (k : DepAct) (l0 : Loc) (lw : Nat → Loc) (pkt : BitVec 512) (v : QView) (u : State) (i : W64), s.depActs.find? (·.id == k.id) = some k →
      k.addr.toNat % 8 = 0 → s.globalLoc k.ctx k.addr 8 accRead.device = .ok l0 →
      (∀ j < 8, s.globalLoc k.ctx (k.addr + BitVec.ofNat 64 (64 + 8 * j)) 8 accRead.device = .ok (lw j)) →
      (∀ j < 8, (pkt.extractLsb' (64 * j) 64).toNat = s.readLoc (lw j) 8) →
      s.queue k.ctx (BitVec.ofNat 64 (s.readLoc l0 8)) true accRmw.device = .ok v →
      ({ s with depActs := s.depActs.filter (fun y => y.id != k.id), actor := k.ctx } : State).pushTo v pkt = some (u, i) →
      exec (.depActionPush k.id) s = .next { u with actor := s.actor })
    ∧ (∀ (k : DepAct), s.depActs.find? (·.id == k.id) = some k → k.addr.toNat % 8 ≠ 0 →
      exec (.depActionPush k.id) s = .next (({ s with depActs := s.depActs.filter (fun y => y.id != k.id) } : State).devFail k.ctx 0
        ⟨cALIGN, k.addr, 0, accRead.acc, none⟩ (.action k)))

/-- What a task node that fires launches (R349): N and $karg as its launch packet gives them, or, with GN.HSEL, as the bin of its latch
record holds them. -/
def nodeCount (s : State) (ctx : Nat) (n : GNode) (cnt : Nat) (karg : W64) : Prop :=
  if n.hsel then n.hist.toNat % 128 = 0 ∧ ∃ l, s.globalLoc ctx (n.hist + BitVec.ofNat 64 (16 + 16 * n.bin)) 16 accRead.device = .ok l
    ∧ cnt = s.readLoc l 8 ∧ karg = BitVec.ofNat 64 (s.readLoc (locAdd l 8) 8)
  else cnt = cpF n.pkt 95 64 + 1 ∧ karg = BitVec.ofNat 64 (cpF n.pkt 255 192)

/-- R348 to R350, R372: GRAPHRUN of a good entry node, with fewer than 16 runs of the context, begins a run whose entry node
is about to fire. A node that is about to fire, or whose last arrival awaited has come, in the graph of no earlier run of its context,
and whose record is good, takes effect, and its PEND is its NPRED again. A branch node sends an arrival to the successor its condition
chooses. A task node becomes a launch of the run's priority, with one ready member for each virtual yard, and sends its arrivals when
that finishes; a count of 0, or a packet that fails R328, ends it at once, and both successors have their arrivals. An arrival that
leaves predecessors outstanding is counted. A run with nothing firing, running or arriving ends. That arrivals are taken one at a time
from a list, that a run's first arrival at a node counts from its NPRED, and which nodes a running graph has, is the model's
(log 33); so is that a packet of another type in a task node fails R328 (log 112). -/
def Obligations.Graphs : Prop :=
  (∀ (s : State) (g : Group) (r : Run) (t : Thread) (x : FmtQ) (a b : W64) (l : Loc) (n : GNode), t.reads g r .int x.a = .u a →
    t.reads g r .int x.b = .u b → Performs s g r t (.graphrun x) x.gd → s.access g.pen t.lo t.hwm .global a 128 accRead = .ok l →
    (s.runs.filter (·.ctx == s.ctxOf g.pen)).length < 16 → gnode (s.readLoc l 128) = some n →
    exec (.graphrun x) s = .next (({ s.bump with runs := s.runs
      ++ [⟨s.fresh, s.ctxOf g.pen, a, b, (s.task t.task).prio, [a], [], [a], [], some (s.readLoc l 128)⟩] } : State).perform g r t))
  ∧ (∀ (s : State) (q : GraphRun) (a : W64) (l : Loc) (n : GNode), s.runs.find? (·.id == q.id) = some q →
    (∀ y ∈ s.runs.takeWhile (fun y => y.id != q.id), y.ctx = q.ctx → a ∉ s.graphNodes y) → (∀ w ∈ s.devWaits, w.acc ≠ .node q.id a) →
    a.toNat % 128 = 0 → s.globalLoc q.ctx a 128 accRead.device = .ok l →
    gnode (if a ∈ q.ready then q.first.getD (s.readLoc l 128) else s.readLoc l 128) = some n →
    let pend := if a ∈ q.reached then s.readLoc (locAdd l 40) 8 else n.npred
    let fires := a ∈ q.ready ∨ (a ∈ q.arrivals ∧ pend = 1)
    let took := fun (y : GraphRun) => if a ∈ q.ready then { y with ready := y.ready.erase a, first := none }
      else { y with arrivals := y.arrivals.erase a, reached := (a :: y.reached).dedup }
    let runs := fun (f : GraphRun → GraphRun) => s.runs.map (fun y => if y.id = q.id then took (f y) else y)
    let both := fun (y : GraphRun) => { y with arrivals := y.arrivals ++ [n.succ0, n.succ1].filter (· ≠ 0) }
    (fires → n.kind ≠ 0 → ∀ lc, s.globalLoc q.ctx n.cond 8 accRead.device = .ok lc →
      ∃ u : State, exec (.graphNodeFire q.id a) s = .next u ∧ u.mem = (s.writeLoc (locAdd l 40) 8 n.npred).mem
        ∧ u.runs = runs (fun y => { y with
            arrivals := y.arrivals ++ (if s.readLoc lc 8 ≠ 0 then [n.succ0] else [n.succ1]).filter (· ≠ 0) }))
    ∧ (fires → n.kind = 0 → ∀ cnt karg, nodeCount s q.ctx n cnt karg → ∃ u : State, exec (.graphNodeFire q.id a) s = .next u
        ∧ (s.memForm = true → u.readLoc (locAdd l 40) 8 = n.npred)
        ∧ (cnt = 0 ∨ s.launchOk q.ctx n.pkt cnt = false → u.launches = s.launches ∧ u.runs = runs both)
        ∧ (cnt ≠ 0 → s.launchOk q.ctx n.pkt cnt = true → ∃ x : Launch, u.launches = s.launches ++ [x] ∧ x.id = s.fresh ∧ x.ctx = q.ctx
            ∧ x.n = cnt ∧ x.karg = karg ∧ x.prio = q.prio ∧ x.node = some (q.id, a) ∧ x.entry.toNat = cpF n.pkt 191 128
            ∧ u.runs = runs (fun y => { y with running := y.running ++ [(x.id, n.succ0, n.succ1)] })
            ∧ (∀ k < x.yards, ∃ m ∈ u.members, m.kind = .team x.id k ∧ m.prio = q.prio)
            ∧ u.mem = (s.writeLoc (locAdd l 40) 8 n.npred).mem))
    ∧ (a ∉ q.ready → a ∈ q.arrivals → 1 < pend →
      exec (.graphNodeFire q.id a) s = .next ((s.actFor q.ctx (·.writeLoc (locAdd l 40) 8 (pend - 1))).updRun q.id (fun y =>
        { y with arrivals := y.arrivals.erase a, reached := (a :: y.reached).dedup }))))
  ∧ (∀ (s : State) (q : GraphRun), s.runs.find? (·.id == q.id) = some q → q.ready = [] → q.running = [] → q.arrivals = [] →
    exec (.graphRunEnd q.id) s = .next (s.endRun q))

/-- R352, R353, R374: HISTADD adds b, for each index, to a bin of a histogram that the context holds; HISTLATCH configure sets the
number of bins and clears them, and writes no D (log 29); HISTLATCH latch stores the count and the base address of each bin, clears the
counts and gives their total. -/
def Says.Histograms : Prop :=
  ∀ (s : State) (g : Group) (r : Run) (t : Thread) (x : FmtQ) (a b : W64) (i : Nat) (h : Histogram),
    t.reads g r .int x.a = .u a → t.reads g r .int x.b = .u b →
    (Performs s g r t (.histadd x) x.gd → s.hist (s.ctxOf g.pen) (bits a 19 16).toNat = some (i, h) → bits a 15 10 = 0 →
      bits a 63 20 = 0 → (bits a 9 0).toNat < h.nb → ∃ h1 : Histogram,
      exec (.histadd x) s = .next (({ s with hists := s.hists.set i (some h1) } : State).perform g r t)
      ∧ h1 = { h with bins := h1.bins }
      ∧ ∀ e, h1.count e = if e = (bits a 9 0).toNat then h.count e + BitVec.ofNat 32 (b.toNat * if g.lanes then 1 else t.n) else h.count e)
    ∧ (Performs s g r t (.histlatchConfigure x) x.gd → s.hist (s.ctxOf g.pen) (bits a 3 0).toNat = some (i, h) →
      1 ≤ (bits b 10 0).toNat → (bits b 10 0).toNat ≤ 1024 →
      exec (.histlatchConfigure x) s
        = .next (({ s with hists := s.hists.set i (some { h with nb := (bits b 10 0).toNat, bins := [] }) } : State).perform g r t))
    ∧ (∀ (lb ls : Loc) (w : Nat → Loc), Performs s g r t (.histlatchLatch x) x.gd → s.hist (s.ctxOf g.pen) (bits a 3 0).toNat = some (i, h) →
      b.toNat % 128 = 0 → s.access g.pen t.lo t.hwm .global b 8 accRead = .ok lb → s.access g.pen t.lo t.hwm .global (b + 8) 8 accRead = .ok ls →
      (∀ k < 2 * h.nb, s.access g.pen t.lo t.hwm .global (b + 16 + BitVec.ofNat 64 (8 * k)) 8 accWrite = .ok (w k)) →
      let upTo := fun (e : Nat) => ((List.range e).map (fun j => (h.count j).toNat)).sum
      let stores := (List.range h.nb).flatMap (fun e => [(w (2 * e), (h.count e).toNat),
        (w (2 * e + 1), (s.readLoc lb 8 + s.readLoc ls 8 * upTo e) % 2 ^ 64)])
      exec (.histlatchLatch x) s = .next (({ stores.foldl (fun y p => y.writeLoc p.1 8 p.2) s with
        hists := s.hists.set i (some { h with bins := [] }) } : State).perform g r (t.result x.d (.u (BitVec.ofNat 64 (upTo h.nb))))))

/-- R356, R360, R361, R375 to R380: WSDECL sets a pending declaration; TBSET sets the pending bound, the task's, or the pending
counter; INCUPD lowers the key of a cell of the context, and never raises it; INCRD owes a pair of the cell; a key reaches one
local copy, and 250 ns after an INCUPD no core or die uses a greater key than its; PFLAG gives the flags; STAGE issues a transfer
and counts its bytes.
That INCRD reads in the step of its issue is log 6; that TBSET ignores a[63:9] with V = 0, and with V = 1 completes only where they
are 0, is the model's choice (log 105). -/
def Says.TaskState : Prop :=
  ∀ (s : State) (g : Group) (r : Run) (t : Thread) (x : FmtQ) (a b d : W64),
    let c := s.ctxOf g.pen
    let k := a.toNat % 256
    let cell := s.cell k
    let held := a.toNat < 256 ∧ cell.owner = some c
    let bound : Bound := ⟨a.getLsbD 8, BitVec.ofNat 8 k, b⟩
    let boundOk := a.getLsbD 8 = true → a.toNat < 512 ∧ cell.owner = some c
    (Performs s g r t (.pflag x) x.gd → exec (.pflag x) s = s.gives g r t x.d (t.flags.setWidth 64))
    ∧ (t.reads g r .int x.b = .u b → Performs s g r t (.tbsetNextCounter x) x.gd → b.toNat < 2 ^ 56 →
      exec (.tbsetNextCounter x) s = s.makes g r { t with ctr := b })
    ∧ (t.reads g r .int x.a = .u a →
      (held → Performs s g r t (.incrdKey x) x.gd →
        exec (.incrdKey x) s = s.owes g r t x.flg [(Opd.key x.d, .u cell.key), (Opd.key x.d + 1, .u cell.tag)])
      ∧ (held → Performs s g r t (.incrdCounters x) x.gd →
        exec (.incrdCounters x) s = s.owes g r t x.flg [(Opd.key x.d, .u cell.drops), (Opd.key x.d + 1, .u cell.kills)]))
    ∧ (t.reads g r .int x.a = .u a → t.reads g r .int x.b = .u b →
      (Performs s g r t (.wsdecl x) x.gd → declBad b (s.pen g.pen).scsz = none →
        exec (.wsdecl x) s = s.makes g r { t with decls := t.decls.set x.wm.toNat ⟨a, b⟩ })
      ∧ (t.reads g r .int x.d = .u d → held → Performs s g r t (.incupd x) x.gd → exec (.incupd x) s =
        if b.toInt < cell.key.toInt then .next ((s.updCell k (fun y => { y.note s.now b with key := b, tag := d })).perform g r (t.result x.d (.u 1)))
        else s.gives g r t x.d 0)
      ∧ (boundOk → Performs s g r t (.tbsetNextTask x) x.gd → exec (.tbsetNextTask x) s = s.makes g r { t with bound := bound })
      ∧ (boundOk → Performs s g r t (.tbsetOwnTask x) x.gd →
        exec (.tbsetOwnTask x) s = .next ((s.updTask t.task (fun y => { y with cell := bound })).perform g r t))
      ∧ (Performs s g r t (.stage x) x.gd → declBad b (s.pen g.pen).scsz = none → a.toNat < 2 ^ 56 →
        s.engCheck g.pen c (declRanges ⟨a, b⟩) = .ok () → s.stageFits c (declLen b) = true → s.rangeRoom (declRanges ⟨a, b⟩) = true →
        ∃ u : State, exec (.stage x) s = .next (u.perform g r (t.issued (envOf g r) s.fresh true x.flg (some (Opd.key x.d))))
          ∧ u.ops = (s.register (newOp s g t (.stage ⟨a, b⟩) none (some (Opd.key x.d))) (declRanges ⟨a, b⟩)).ops
          ∧ u.ctxs = s.ctxs.map (fun y => if y.id = c then { y with staged := y.staged + s.stageBytes c b } else y)
          ∧ u = { s with ops := u.ops, ctxs := u.ctxs, tasks := u.tasks, fresh := u.fresh }))
    ∧ ∀ (n : Nat) (loc : KeyLoc), n < s.cells.length → ∃ u : State, exec (.incumbentKeyPropagate n loc) s = .next u
        ∧ (u.cell n).copyOf loc = (s.cell n).key ∧ (u.cell n).key = (s.cell n).key
        ∧ (∀ other, other ≠ loc → (u.cell n).copyOf other = (s.cell n).copyOf other)
        ∧ ∀ y : Cell, (y.localKey s.now loc).toInt ≤ (y.copyOf loc).toInt
          ∧ ∀ p, y.updates.find? (fun p => decide (p.1 + 250 ≤ s.now)) = some p → (y.localKey s.now loc).toInt ≤ p.2.toInt

/-- R354, R355, R381: GOVSET changes a stage's queue, its thresholds, or the control, at once in a launch whose governor is
disabled (log 30), and otherwise at the next period; a queue of 0 removes the stage, whose thresholds stay, the model's choice
(log 106). At the end of a period of an enabled governor with no change wanted, at most one unit moves, from a stage below its low
threshold to one above its high threshold, and MOVES counts it; that a stage whose header cannot be read is left out of the period,
with no record, is the model's choice (log 106). -/
def Says.Governor : Prop :=
  ∀ (s : State) (g : Group) (r : Run) (t : Thread) (x : FmtQ) (a b : W64), t.reads g r .int x.a = .u a → t.reads g r .int x.b = .u b →
    let stage := a.toNat % 8
    let sets := fun (f : GovSet → GovSet) => (.next ((s.govset g.pen f).perform g r t) : Host.Outcome State Fault Refusal)
    (Performs s g r t (.govsetQueue x) x.gd → exec (.govsetQueue x) s
      = sets (fun y => { y with stages := setStage y.stages stage { stageAt y.stages stage with queue := b } }))
    ∧ (Performs s g r t (.govsetThresholds x) x.gd → bits b 63 48 = 0 → (bits b 15 0).toNat < (bits b 31 16).toNat →
      (bits b 39 32).toNat ≤ (bits b 47 40).toNat → exec (.govsetThresholds x) s
      = sets (fun y => { y with stages := setStage y.stages stage { stageAt y.stages stage with
          low := (bits b 15 0).toNat, high := (bits b 31 16).toNat, min := (bits b 39 32).toNat, max := (bits b 47 40).toNat } }))
    ∧ (Performs s g r t (.govsetControl x) x.gd → b.toNat % 2 ^ 16 ≠ 0 → exec (.govsetControl x) s
      = sets (fun y => { y with enabled := a.getLsbD 0, yardUnit := a.getLsbD 1, period := b.toNat % 2 ^ 16 }))
    ∧ (∀ (p : Nat) (f : GovSet → GovSet) (l : Launch), s.launches.find? (·.id == (s.pen p).launch) = some l →
      let v := (s.govset p f).launch (s.pen p).launch
      (l.gov.set.enabled = true → v = { l with gov := { l.gov with want := some (f (l.gov.want.getD l.gov.set)) } })
      ∧ (l.gov.set.enabled = false → v.gov.set = f (l.gov.want.getD l.gov.set) ∧ v.gov.want = none))
    ∧ (∀ l : Launch, s.launches.find? (·.id == l.id) = some l → l.gov.set.enabled = true → l.gov.want = none → l.gov.nextAt ≤ s.clk →
      ∃ y : Gov, exec (.governorPeriod l.id) s = .next (s.updLaunch l.id (fun _ => { l with gov := y }))
        ∧ y.set = l.gov.set ∧ y.nextAt = s.clk + 1000 * l.gov.set.period
        ∧ (y.roles = l.gov.roles ∧ y.moves = l.gov.moves
          ∨ ∃ unit role, y.roles = setAssoc l.gov.roles unit role ∧ y.moves = l.gov.moves + 1
            ∧ (∃ p ∈ l.gov.set.stages, ∃ n, p.1 = role ∧ s.occupancy l.ctx p.2 = some n ∧ p.2.high < n)
            ∧ ∃ q ∈ l.gov.set.stages, (unit, q.1) ∈ l.gov.roles ∧ ∃ n, s.occupancy l.ctx q.2 = some n ∧ n < q.2.low))

/-- R363, R382, R404: KILLT of the own thread ends it as a kill; that its QPOPs in flight stay outstanding is the model's choice of the
ends that R404 allows (log 48). KILLT of a parked thread that a record of the context names kills
that thread: it has exited and is parked no longer. -/
def Says.Kills : Prop :=
  ∀ (s : State) (g : Group) (r : Run) (t : Thread) (x : FmtQ) (a : W64), t.reads g r .int x.a = .u a →
    (Performs s g r t (.killtSelf x) x.gd → exec (.killtSelf x) s
      = .next ((endedIn (s.noteKill t.task true) g.pen t).performLeave g r (exited t)))
    ∧ (∀ l p, Performs s g r t (.killtParked x) x.gd → s.access g.pen t.lo t.hwm .global a 64 accRead = .ok l →
      s.namedParked (s.ctxOf g.pen) (BitVec.ofNat 512 (s.readLoc l 64)) = some p →
      exec (.killtParked x) s = .next ((s.killParked p.handle).perform g r t)
      ∧ (∀ q ∈ (s.killParked p.handle).parked, q ∈ s.parked ∧ q.handle ≠ p.handle)
      ∧ ∀ y ∈ (s.killParked p.handle).groups, ∀ w ∈ y.threads, w.status ≠ .parked p.handle)
    ∧ ∀ k : Nat, (s.noteKill k true).tasks = s.tasks.map (fun y => if y.id = k then { y with killed := true } else y)
      ∧ ((s.task k).cell.v = true → ∀ c : Cell, s.cells[(s.task k).cell.cell.toNat]? = some c →
          (s.noteKill k true).cells = s.cells.set (s.task k).cell.cell.toNat { c with kills := c.kills + 1 })
      ∧ ((s.task k).cell.v = false → (s.noteKill k true).cells = s.cells)

/-- COPY issues an operation, and an operation moves its bytes: `Says.CopyIssue`, `Says.CopyMovesBytes`. -/
def Obligations.Copies : Prop :=
  Says.CopyIssue ∧ Says.CopyMovesBytes

/-- SPAWN over a range and of one index: `Says.SpawnOverRange`, `Says.SpawnBins`. -/
def Obligations.Spawns : Prop :=
  Says.SpawnOverRange ∧ Says.SpawnBins

/-- Histograms and the Pipeline Governor: `Says.Histograms` (log 29), `Says.Governor` (log 30, 106). -/
def Obligations.HistogramsAndGovernor : Prop :=
  Says.Histograms ∧ Says.Governor

/-- Declarations, bounds, the Incumbent Cells, staging, KILLT: `Says.TaskState` (log 6, 105), `Says.Kills` (log 48). -/
def Obligations.TaskStateAndKills : Prop :=
  Says.TaskState ∧ Says.Kills

/-! ### Identity, special registers, clocks (R160 to R162, R9, R410, R417, R418) -/

/-- The special registers that a thread reads (R410): all that the table lists, each from where it is held. -/
def specialRegisters (s : State) (g : Group) (t : Thread) : List (Nat × W64) :=
  let p := s.pen g.pen
  let k := s.task t.task
  let c := s.ctx (s.ctxOf g.pen)
  [(0x000, t.fpx.setWidth 64), (0x001, if t.part then 1 else 0), (0x002, p.spw.setWidth 64), (0x003, c.bintm.setWidth 64),
    (0x004, BitVec.ofNat 64 p.scsz), (0x005, t.hwm.setWidth 64), (0x006, t.wto.setWidth 64),
    (0x007, BitVec.ofNat 64 (p.gangSeq.toNat * 2 ^ 8 + p.gangMask.toNat)), (0x008, BitVec.ofNat 64 p.accn), (0x009, p.rtau.setWidth 64),
    (0x00A, k.tdep), (0x00B, BitVec.ofNat 64 ((if k.cell.v then 256 else 0) + k.cell.cell.toNat)), (0x00C, k.cell.bound), (0x00D, k.karg),
    (0x00E, t.role), (0x010, p.thv), (0x011, t.epc), (0x012, t.ecause), (0x013, c.flov.setWidth 64)]

/-- R410, R417: RDSR gives the value of every register listed, R9: WRSR of a writable one stores what its access codes say,
clears the bits of $fpx that are written as 1, and leaves a read-only one as it is. -/
def Says.SpecialRegisters : Prop :=
  ∀ (s : State) (g : Group) (r : Run) (t : Thread) (x : FmtS) (a : W64),
    (∀ p ∈ specialRegisters s g t, x.srn.toNat = p.1 → Performs s g r t (.rdsr x) x.gd → exec (.rdsr x) s = s.gives g r t x.d p.2)
    ∧ (t.reads g r .int x.a = .u a → Performs s g r t (.wrsr x) x.gd →
      (x.srn = 0x000 → exec (.wrsr x) s = s.makes g r { t with fpx := t.fpx &&& ~~~(a.setWidth 6) })
      ∧ (x.srn = 0x002 → exec (.wrsr x) s = .next ((s.updPen g.pen (fun p => { p with spw := a.setWidth 16 })).perform g r t))
      ∧ (x.srn = 0x003 → exec (.wrsr x) s = .next ((s.updCtx (s.ctxOf g.pen) (fun c => { c with
          bintm := BitVec.ofNat 10 (max 1 (min 1000 (a.toNat % 1024))) })).perform g r t))
      ∧ (x.srn = 0x006 → exec (.wrsr x) s = s.makes g r { t with wto := a.setWidth 32 })
      ∧ (x.srn = 0x007 → (s.pen g.pen).hitch = [] → a.toNat % 64 = 0 → exec (.wrsr x) s
          = .next ((s.updPen g.pen (fun p => { p with gangMask := 0, gangSeq := 0 })).perform g r t))
      ∧ (x.srn = 0x009 → exec (.wrsr x) s = .next ((s.updPen g.pen (fun p => { p with rtau := a.setWidth 32 })).perform g r t))
      ∧ (x.srn = 0x00A → exec (.wrsr x) s
          = .next ((s.updTask t.task (fun k => { k with tdep := BitVec.ofNat 64 (a.toNat % 2 ^ 56) })).perform g r t))
      ∧ (x.srn = 0x00B → a.getLsbD 8 = false → exec (.wrsr x) s
          = .next ((s.updTask t.task (fun k => { k with cell := { k.cell with v := false, cell := a.setWidth 8 } })).perform g r t))
      ∧ (x.srn = 0x00C → exec (.wrsr x) s
          = .next ((s.updTask t.task (fun k => { k with cell := { k.cell with bound := a } })).perform g r t))
      ∧ (x.srn = 0x010 → exec (.wrsr x) s
          = .next ((s.updPen g.pen (fun p => { p with thv := BitVec.ofNat 64 (a.toNat % 2 ^ 56) })).perform g r t))
      ∧ (x.srn = 0x011 → exec (.wrsr x) s = s.makes g r { t with epc := BitVec.ofNat 64 (2 ^ 63 + a.toNat % 2 ^ 56) })
      ∧ (x.srn.toNat ∈ [0x001, 0x004, 0x005, 0x008, 0x00D, 0x00E, 0x012, 0x013] → exec (.wrsr x) s = s.makes g r t))

/-- R160 to R162, R418: MOVIX gives the launch, the virtual core, the virtual yard, N, the first index of the pen, or the member
number; RANGE gives n − 1 above lo; FORMQ gives the form of a register in a strand; CYCRD gives the die number above the cycle
counter, the reference timer, or a step of the die's log, all ones where none is kept. -/
def Says.IdentityAndClocks : Prop :=
  ∀ (s : State) (g : Group) (r : Run) (t : Thread) (x : FmtA) (y : FmtS) (a : W64),
    let l := s.launchOf g.pen
    let p := s.pen g.pen
    let die := s.die (s.penDie g.pen)
    (Performs s g r t (.movix x) x.gd → exec (.movix x) s = s.gives g r t x.d (BitVec.ofNat 64 (match x.a.idx.toNat with
      | 0 => l.id | 1 => p.vcore | 2 => p.vcore / l.c | 3 => l.n
      | 4 => p.vcore * ((l.n + l.yards * l.c - 1) / (l.yards * l.c))
      | _ => p.vcore % l.c)))
    ∧ (Performs s g r t (.range x) x.gd → exec (.range x) s = s.gives g r t x.d (BitVec.ofNat 64 ((t.n - 1) * 2 ^ 32 + t.lo)))
    ∧ (Performs s g r t (.formq x) x.gd → x.a.file ≠ .special → exec (.formq x) s
        = s.gives g r t x.d (if g.lanes then 2 else if (t.reads g r .int x.a).isA then 1 else 0))
    ∧ (Performs s g r t (.cycrd .cyc y) y.gd → exec (.cycrd .cyc y) s = s.gives g r t y.d
        (BitVec.ofNat 64 (s.penDie g.pen % 4 * 2 ^ 62 + s.cycles (s.penDie g.pen) % 2 ^ 62)))
    ∧ (Performs s g r t (.cycrd .ref y) y.gd → exec (.cycrd .ref y) s = s.gives g r t y.d (BitVec.ofNat 64 s.now))
    ∧ (t.reads g r .int y.a = .u a → Performs s g r t (.cycrd .step y) y.gd →
      let q : W64 × W64 := match if a = 0 then die.steps.getLast? else die.steps.find? (fun z => decide (z.num = a.toNat)) with
        | some z => (BitVec.ofNat 64 z.time, BitVec.ofNat 64 (z.new % 16 * 2 ^ 60 + z.old % 16 * 2 ^ 56 + z.cycle % 2 ^ 56))
        | none => (0xFFFFFFFFFFFFFFFF, 0xFFFFFFFFFFFFFFFF)
      exec (.cycrd .step y) s = s.makes g r { t.result y.d (.u q.1) with
        regs := (t.result y.d (.u q.1)).regs.set (Opd.key y.d + 1) (.u q.2) })

/-! ### Taking a trap, returning, and faults (R383 to R401, R412 to R416) -/

/-- R395 to R398, R412: TRAP, in a thread that is in no handler and whose pen names one whose header is good: $epc takes the
next word of the clause, or the next clause address with HDR set, $ecause the code and the depths with IH set, and the thread goes
to the handler, the other registers and both stacks as they are. In Dzinum-2 code HDR is 0 wherever the next word stands (log
84). -/
def Says.TrapEntersHandler : Prop :=
  ∀ (s : State) (g : Group) (r : Run) (t : Thread) (x : FmtI), Performs s g r t (.trap x) x.gd →
    t.ecause.getLsbD 8 = false → (s.pen g.pen).thv ≠ 0 → s.checkTarget (s.ctxOf g.pen) (s.pen g.pen).thv = .ok () →
    t.splices.length ≤ 4 → t.preds.length ≤ 16 →
    ∃ u : Thread, exec (.trap x) s = .next (s.bump.performLeave g r u)
      ∧ u.pc = (s.pen g.pen).thv ∧ u.hdr = (s.pen g.pen).thv ∧ u.status = .ready
      ∧ u.ecause.toNat = x.imm.toNat * 2 ^ 32 + t.splices.length * 2 ^ 17 + t.preds.length * 2 ^ 12 + 2 ^ 8 + 0x0B
      ∧ (let last : Bool := decide (r.pos + 1 = r.words.length) && !r.dz2
        let resume : W64 := if last then r.hdr + 8 + 8 * BitVec.ofNat 64 r.words.length else r.hdr + 8 + 8 * BitVec.ofNat 64 r.pos + 8
        u.epc.toNat = (if last then 2 ^ 63 else 0) + resume.toNat % 2 ^ 56)
      ∧ u = { t with pc := u.pc, hdr := u.hdr, status := u.status, ecause := u.ecause, epc := u.epc, epcHdr := u.epcHdr,
                      cohort := u.cohort, cohorts := u.cohort :: t.cohorts }

/-- R413: ERET with a = 0 in a handler, at the depths of its entry, clears IH and goes to $epc.ADDR, which is checked as a branch
target where HDR is set; whichever of the two constructors the word has (log 16). A lane thread holds no splice records, so that
its depth of them is not compared (log 23). A lane group whose other lanes wait in the handler may still wait for it (log 96). -/
def Says.ReturnFromHandler : Prop :=
  ∀ (s : State) (g : Group) (r : Run) (t : Thread) (x : FmtA), t.reads g r .int x.a = .u 0 → t.ecause.getLsbD 8 = true →
    t.preds.length = t.ecause.toNat / 2 ^ 12 % 32 → (g.lanes = false → t.splices.length = t.ecause.toNat / 2 ^ 17 % 8) →
    let a := BitVec.ofNat 64 (t.epc.toNat % 2 ^ 56)
    (t.epc.getLsbD 63 = true → s.checkTarget (s.ctxOf g.pen) a = .ok ()) →
    let back : Thread := { t with ecause := t.ecause &&& ~~~0x100, pc := a, hdr := if t.epc.getLsbD 63 then a else t.epcHdr,
                                  status := .ready }
    (Performs s g r t (.eretHandler x) x.gd → exec (.eretHandler x) s = .next (s.performLeave g r back))
    ∧ (Performs s g r t (.eretResume x) x.gd → exec (.eretResume x) s = .next (s.performLeave g r back))

/-- The threads parked under a handle are ready to execute their instruction again, and are parked no longer (R389). -/
def unparked (s : State) (handle : Nat) : State :=
  { s with groups := s.groups.map (fun y => { y with threads := y.threads.map (fun w =>
             if w.status = .parked handle then { w with status := .ready } else w) }),
           parked := s.parked.filter (fun q => q.handle != handle) }

/-- R389, R413: ERET with a ≠ 0, the address of a record that has been forwarded and names a parked thread of the context:
that thread is ready to execute its instruction again and is parked no longer; the issuer goes on. -/
def Says.ResumeParked : Prop :=
  ∀ (s : State) (g : Group) (r : Run) (t : Thread) (x : FmtA) (a : W64) (l : Loc) (p : Parked), t.reads g r .int x.a = .u a → a ≠ 0 →
    s.access g.pen t.lo t.hwm .global a 64 accRead = .ok l →
    s.namedParked (s.ctxOf g.pen) (BitVec.ofNat 512 (s.readLoc l 64)) = some p → p.forwarded = true →
    let u := unparked s p.handle
    (Performs s g r t (.eretResume x) x.gd → exec (.eretResume x) s = .next (u.perform g r t))
    ∧ (Performs s g r t (.eretHandler x) x.gd → exec (.eretHandler x) s = .next (u.perform g r t))

/-- R391: the layout of a fault record. -/
def Obligations.FaultRecordLayout : Prop :=
  ∀ (va aux lmask pc : W64) (slot handle ctx launch first npm1 time vcore lane acc kind : Nat) (dbl : Bool) (cause : Nat),
    let w := mkRecord va aux lmask pc slot handle ctx launch first npm1 time vcore lane acc kind dbl cause
    w.extractLsb' 448 64 = va ∧ w.extractLsb' 384 64 = aux ∧ w.extractLsb' 320 64 = lmask
    ∧ w.extractLsb' 264 56 = pc.setWidth 56 ∧ w.extractLsb' 256 8 = BitVec.ofNat 8 slot ∧ w.extractLsb' 224 32 = BitVec.ofNat 32 handle
    ∧ w.extractLsb' 192 32 = BitVec.ofNat 32 ctx ∧ w.extractLsb' 160 32 = BitVec.ofNat 32 launch
    ∧ w.extractLsb' 128 32 = BitVec.ofNat 32 first ∧ w.extractLsb' 96 32 = BitVec.ofNat 32 npm1
    ∧ w.extractLsb' 48 48 = BitVec.ofNat 48 time ∧ w.extractLsb' 32 16 = BitVec.ofNat 16 vcore
    ∧ w.extractLsb' 24 8 = BitVec.ofNat 8 lane ∧ w.extractLsb' 20 4 = BitVec.ofNat 4 acc ∧ w.extractLsb' 16 4 = BitVec.ofNat 4 kind
    ∧ w.extractLsb' 9 7 = 0#7 ∧ w.getLsbD 8 = dbl ∧ w.extractLsb' 0 8 = BitVec.ofNat 8 cause

/-- R383, R387, R388, R393, R398: a fault of a load in a strand, of a cause that Turjo services first, in a thread that is in no
handler: the strand is parked whole under a new handle, standing at the instruction, with one record of the cause, the address and
its range; no register, no memory and nothing else of the machine changes. The handle's 32 bits are not 0 and not those of any other parked
thread; which they are is the model's (log 17). -/
def Says.LoadFaultParks : Prop :=
  ∀ (s : State) (g : Group) (r : Run) (t : Thread) (v : LdV) (x : FmtM) (a : W64) (f : FaultInfo), g.lanes = false →
    Performs s g r t (.ld v x) x.gd → t.reads g r .int x.base = .u a → t.ecause.getLsbD 8 = false →
    s.threadAccess (envOf g r) t x.space (a + x.off.signExtend 64) (LdV.size v) accRead = .error f → 5 ≤ f.cause → f.cause ≤ 9 →
    ∃ (u : State) (p : Parked), exec (.ld v x) s = .next (State.settle u g.pen)
      ∧ u = { s with groups := u.groups, parked := s.parked ++ [p], fresh := u.fresh }
      ∧ p.handle = s.newHandle ∧ p.ctx = s.ctxOf g.pen ∧ p.gid = g.id ∧ p.lanes = [t.lane] ∧ p.forwarded = false
      ∧ p.record = mkRecord f.va f.aux 0 (r.hdr + 8 + 8 * BitVec.ofNat 64 r.pos) g.slotNum s.newHandle (s.ctxOf g.pen) (s.launchOf g.pen).id
          t.lo (t.n - 1) s.now (s.pen g.pen).vcore 0 f.acc 0 false f.cause
      ∧ u.group g.id = { g with run := none, threads := [{ t with
          status := .parked s.newHandle, cps := none, pc := r.hdr + 8 + 8 * BitVec.ofNat 64 r.pos,
          hdr := if r.dz2 then r.hdr + 8 + 8 * BitVec.ofNat 64 r.pos else r.hdr }] }
      ∧ u.groups.map Group.id = s.groups.map Group.id ∧ (∀ y ∈ s.groups, y.id ≠ g.id → y ∈ u.groups)
      ∧ s.newHandle % 2 ^ 32 ≠ 0 ∧ ∀ q ∈ s.parked, s.newHandle % 2 ^ 32 ≠ q.handle % 2 ^ 32

/-- R385, R391, R399 to R401: a TRAP in a handler is a double fault: the strand is parked whole, standing at the TRAP, with a record
that has FR.DBL 1, the cause TRAP and $ecause in FR.AUX; its context is stopped; Turjo does not service it. The context has no fault
log, so that the record goes to Turjo's log alone and $flov counts it (R390). Nothing else changes. -/
def Says.TrapInHandlerStops : Prop :=
  ∀ (s : State) (g : Group) (r : Run) (t : Thread) (x : FmtI), g.lanes = false → Performs s g r t (.trap x) x.gd →
    t.ecause.getLsbD 8 = true → (s.ctx (s.ctxOf g.pen)).faultLog = none → s.hasCtx (s.ctxOf g.pen) = true →
    let at' := r.hdr + 8 + 8 * BitVec.ofNat 64 r.pos
    ∃ (u : State) (p : Parked), exec (.trap x) s = .next (State.settle u g.pen)
      ∧ u = { s with
          groups := u.groups, parked := s.parked ++ [p], errLog := s.errLog ++ [p.record], fresh := u.fresh
          ctxs := s.ctxs.map (fun y => if y.id = s.ctxOf g.pen then { y with flov := y.flov + 1, stopped := true, thermal := false } else y) }
      ∧ p.handle = s.newHandle ∧ p.ctx = s.ctxOf g.pen ∧ p.gid = g.id ∧ p.lanes = [t.lane] ∧ p.forwarded = true
      ∧ p.record = mkRecord 0 t.ecause 0 at' g.slotNum s.newHandle (s.ctxOf g.pen) (s.launchOf g.pen).id t.lo (t.n - 1) s.now
          (s.pen g.pen).vcore 0 0 0 true 0x0B
      ∧ u.group g.id = { g with run := none, threads := [{ t with
          status := .parked s.newHandle, cps := none, pc := at', hdr := if r.dz2 then at' else r.hdr }] }
      ∧ u.groups.map Group.id = s.groups.map Group.id ∧ ∀ y ∈ s.groups, y.id ≠ g.id → y ∈ u.groups

/-- R414 to R416: ASSERT of a thread whose value is not 0, and BRK without a debugger, do nothing; SYSCALL, last in its clause,
forwards the call number and the eight registers of A and waits, and the reply's result goes to D. -/
def Obligations.SystemCalls : Prop :=
  ∀ (s : State) (g : Group) (r : Run) (t : Thread) (x : FmtI),
    (Performs s g r t (.assert x) x.gd → issuers s (envOf g r) t = [t] → (∀ k < t.n, (t.reads g r .int x.a).val k ≠ 0) → 0 < t.n →
      t.laneGuard x.gd ≠ none → exec (.assert x) s = s.makes g r t)
    ∧ (Performs s g r t (.brk x) x.gd → (s.ctx (s.ctxOf g.pen)).debugger = false → exec (.brk x) s = s.makes g r t)
    ∧ (∀ vs : Nat → W64, (∀ k < 8, t.reads g r .int { x.a with idx := x.a.idx + BitVec.ofNat 8 k } = .u (vs k)) →
      Performs s g r t (.syscall x) x.gd → r.pos + 1 = r.words.length →
      ∃ name, exec (.syscall x) s = .next (({ s.bump with syscalls := s.syscalls ++ [(name, x.imm, (List.range 8).map vs)] } : State).performLeave
          g r (t.waits g r (.syscall x.d)))
        ∧ name.extractLsb' 128 32 = (s.ctx (s.ctxOf g.pen)).pid ∧ name.extractLsb' 0 32 = BitVec.ofNat 32 t.lo)
    ∧ (∀ (gid lane : Nat) (w : Thread) (d : Opd) (v : W64), (s.group gid).thread lane = some w → w.status = .syscall d →
      exec (.syscallReply gid lane v) s = .next (s.updThread gid lane (fun u => { u.result d (.u v) with status := .ready })))

/-- R414: a strand with an index whose value is 0 stops behind the ASSERT: at the next word of the clause, or at the next clause. Its
context stops. The record has the cause ASSERT, IMM32 in FR.VA, the lowest failing index in FR.FIRST and its value of D in FR.AUX; the
context has no fault log, so that the record goes to Turjo's log alone and $flov counts it (R390). The registers are as they were, and
nothing else changes. -/
def Says.FailingAssertStops : Prop :=
  ∀ (s : State) (g : Group) (r : Run) (t : Thread) (x : FmtI) (k : Nat), g.lanes = false → Performs s g r t (.assert x) x.gd →
    k < t.n → (t.reads g r .int x.a).val k = 0 → (∀ j < k, (t.reads g r .int x.a).val j ≠ 0) → t.ecause.getLsbD 8 = false →
    s.hasCtx (s.ctxOf g.pen) = true → (s.ctx (s.ctxOf g.pen)).faultLog = none →
    let next := r.hdr + 16 + 8 * BitVec.ofNat 64 r.pos
    ∃ (u : State) (rcd : BitVec 512), exec (.assert x) s = .next (u.performLeave g r
        { t with status := .asserted, pc := next, hdr := if r.pos + 1 = r.words.length ∨ r.dz2 = true then next else r.hdr })
      ∧ u = { s with
          errLog := s.errLog ++ [rcd]
          ctxs := s.ctxs.map (fun y => if y.id = s.ctxOf g.pen then { y with flov := y.flov + 1, stopped := true, thermal := false } else y) }
      ∧ rcd.extractLsb' 0 8 = 0x0C#8 ∧ rcd.extractLsb' 448 64 = x.imm.setWidth 64
      ∧ rcd.extractLsb' 384 64 = (t.reads g r .int x.d).val k ∧ rcd.extractLsb' 128 32 = BitVec.ofNat 32 (t.lo + k)

/-- Special registers, identity and clocks: `Says.SpecialRegisters`, `Says.IdentityAndClocks`. -/
def Obligations.RegistersAndClocks : Prop :=
  Says.SpecialRegisters ∧ Says.IdentityAndClocks

/-- Into the handler and back: `Says.TrapEntersHandler`, `Says.ReturnFromHandler`, `Says.ResumeParked`. -/
def Obligations.TrapsAndReturns : Prop :=
  Says.TrapEntersHandler ∧ Says.ReturnFromHandler ∧ Says.ResumeParked

/-- Threads that a fault parks or stops: `Says.LoadFaultParks`, `Says.TrapInHandlerStops`, `Says.FailingAssertStops`. -/
def Obligations.FaultsStop : Prop :=
  Says.LoadFaultParks ∧ Says.TrapInHandlerStops ∧ Says.FailingAssertStops

/-! ### Clauses and the waits of threads inside a core (R19 to R29, R39 to R43, R58 to R65, R71, R80) -/

/-- R20, R21: laying down a strand of at most 64 indices makes of it a lane group in which lane k is a thread of its own for
index lo + k, with the values of the registers and predicate entries there; of a longer strand, the lowest 64 indices become a new
lane group, the strand keeping the rest. -/
def Says.LayDown : Prop :=
  ∀ (s s1 : State) (gid n : Nat) (t : Thread), (s.group gid).threads = [t] → s.layDown gid = some (s1, n) →
    (64 < t.n → ∀ y ∈ s.groups, y.id ≠ s.fresh) →
    (s1.group n).lanes = true ∧ (s1.group n).threads.length = min t.n 64 ∧ (t.n ≤ 64 → n = gid)
    ∧ (∀ k < min t.n 64, ∃ u, (s1.group n).thread k = some u ∧ u.lo = t.lo + k ∧ u.n = 1 ∧ u.pc = t.pc ∧ u.task = t.task
        ∧ (∀ j, u.regs.get j = .u ((t.regs.get j).val k))
        ∧ u.preds.map (fun p => p.has (t.lo + k)) = t.preds.map (fun p => p.has (t.lo + k)))
    ∧ (64 < t.n → n ≠ gid ∧ ∃ u, (s1.group gid).threads = [u] ∧ u.lo = t.lo + 64 ∧ u.n = t.n - 64 ∧ u.preds.length = t.preds.length
        ∧ ∀ j k, (u.regs.get j).val k = (t.regs.get j).val (64 + k))

/-- R58, R62, R65: a strand at a clause boundary whose header and words can be fetched starts the clause, at its first word;
its history is fresh but after a wait (R69). One whose wait at the first word has ended goes on at the second, with the words
as they were read when the clause started (R212). -/
def Says.ClauseStarts : Prop :=
  ∀ (s : State) (gid : Nat) (t : Thread),
    let g := s.group gid
    let c := s.ctxOf g.pen
    g.lanes = false → g.threads = [t] → g.run = none → g.stall = none → g.resident s = true → s.clocked g.pen = true →
    (s.ctx c).stopped = false → s.isDz2 c t.pc = false →
    (∀ (h : Header) (l : Loc) (w : Nat → Loc), s.runnable c t = true → t.words = none → t.pc = t.hdr → t.hdr.toNat % 8 = 0 →
      s.globalLoc c t.hdr 8 accFetch = .ok l → decodeHeader (s.word l) = some h →
      (∀ k < h.cnt.toNat + 1, s.globalLoc c (t.hdr + 8 + BitVec.ofNat 64 (8 * k)) 8 accFetch = .ok (w k)) →
      exec (.clauseStart gid) s = .next (s.bump.updGroup gid (fun y =>
        { y.mapLanes [t.lane] (fun u => { u with
            status := .ready, age := 0, kept := none, hist := if u.status = .resume then u.hist else Hist.fresh s.fresh }) with
          run := some ⟨t.hdr, h, (List.range (h.cnt.toNat + 1)).map (fun k => s.word (w k)), 0, [t.lane], 0, false, false, false⟩ })))
    ∧ (∀ f : Fetched, t.status = .resume → t.kept = some f → t.pc = f.hdr + 16 → f.hdr.toNat + 16 < 2 ^ 64 → 1 < f.words.length →
      exec (.clauseStart gid) s = .next (s.bump.updGroup gid (fun y =>
        { y.mapLanes [t.lane] (fun u => { u with
            status := .ready, age := 0, kept := none, hist := if u.status = .resume then u.hist else Hist.fresh s.fresh }) with
          run := some ⟨f.hdr, f.head, f.words, 1, [t.lane], 0, false, f.dz2, false⟩ })))

/-- R41 to R44, R56: where every lane thread expected has arrived at a convergent clause, or the window of the first has passed,
the operation runs over those that came within it, at the next clause boundary of the group at the latest; a lane is absent at a word
that it does not issue. That the bound belongs to the window, that a window of 0 is the draw of one issue slot, and that lanes which
come later are left for the next run, is the model's reading (log 108). -/
def Says.ConvergesAt : Prop :=
  ∀ (s : State) (gid : Nat) (pc : W64) (f : Fetched),
    let g := s.group gid
    let c := s.ctxOf g.pen
    let waiting := g.threads.filter (isConvAt pc)
    let w := (s.pen g.pen).spw.toNat
    let ts := s.convSet g pc
    (∀ first ∈ waiting, (∀ t ∈ waiting, first.arrival.2 < t.arrival.2 ∨ t.arrival = first.arrival) →
      ∀ t, t ∈ ts ↔ t ∈ waiting ∧ t.arrival.1 ≤ first.arrival.1 + w ∧ (w = 0 → t.arrival.2 = first.arrival.2))
    ∧ (g.lanes = true → g.run = none → g.stall = none → g.resident s = true → s.clocked g.pen = true → (s.ctx c).stopped = false →
    s.fetch c pc ((ts.head?.map Thread.hdr).getD pc) = .ok f →
    let u := s.beginConv gid pc f
    (g.convReady = some pc ∨ (g.convReady = none ∧ s.convDue g = some pc) → exec (.clauseStart gid) s = .next u)
    ∧ (s.convDue g ≠ none ↔ ∃ t ∈ g.threads, ∃ k n, t.status = .conv k n ∧ k + w ≤ s.cycles (s.penDie g.pen))
    ∧ ((∃ t ∈ waiting, ∃ k n, t.status = .conv k n ∧ k + w ≤ s.cycles (s.penDie g.pen)) →
        exec (.convergentWindowExpiry gid pc) s = .next u)
    ∧ (g.id = gid → g ∈ s.groups → (u.group gid).run = some ⟨f.hdr, f.head, f.words, 0, ts.map Thread.lane, 0, true, f.dz2, false⟩)
    ∧ (∀ r : Run, (envOf g r).absent = g.alive.any (fun t => !r.sel.contains t.lane))
    ∧ u = { s with groups := u.groups, fresh := s.fresh + 1 })

/-- A thread past the word at which it waited, the first of its clause: at the second, or at the next clause where there is none. -/
def past (t : Thread) : Thread :=
  if t.kept.map (fun f => f.words.length) = some 1 then { t with status := .ready, pc := t.hdr + 16, hdr := t.hdr + 16, kept := none }
  else { t with status := .resume, pc := t.hdr + 16 }

/-- R22, R39, R41, R42: of the strands placed on a core, the one that has waited longest for a lane row gets one, which one that was
evicted while it waited does not delay: the model's choice (log 109); windows are those of log 108. A strand whose window at a SPLICE has passed goes
on without its record, at once where another comes there later; a fold whose window has passed fails, and the lane threads there go on past
it, but where all arrived within it: they fold, into a strand in the lowest-numbered free slot, the model's choice (log 76). -/
def Says.WaitsEnd : Prop :=
  ∀ (s : State) (gid : Nat),
    let g := s.group gid
    s.clocked g.pen = true →
    (∀ k s1 n, g.stall = some (.row k) → g.resident s = true → s.layDown gid = some (s1, n) →
      (∀ x ∈ s.coreGroups ((s.pen g.pen).core.getD 0), x.resident s = true → ∀ j, x.stall = some (.row j) → k ≤ j) →
      exec (.laneRowGrant gid) s = .next s1)
    ∧ (∀ t k n, g.threads = [t] → g.lanes = false → t.status = .splice k n → g.resident s = true →
      k + (s.pen g.pen).spw.toNat ≤ s.cycles (s.penDie g.pen) →
      exec (.spliceWaitExpiry gid) s = .next ((s.updThread gid t.lane (fun u =>
        past { u with splices := u.splices.drop 1 })).settle g.pen))
    ∧ (∀ pc, g.lanes = true → g.resident s = true →
      (∃ t ∈ g.threads, t.hdr = pc ∧ ∃ k n, t.status = .splice k n ∧ k + (s.pen g.pen).spw.toNat ≤ s.cycles (s.penDie g.pen)) →
      (g.foldReady ≠ some pc ∨ s.inWindow g = false →
        ∃ u : State, exec (.foldWindowExpiry gid pc) s = .next u ∧ u = { s with groups := u.groups }
          ∧ (u.group gid).threads = g.threads.map (fun v => if isSplice v && v.hdr == pc then past v else v))
      ∧ (∀ t0 w t k, g.foldReady = some pc → s.inWindow g = true → g.alive.head? = some t0 → t0.spliceWord = some w →
        foldThreads (liveSet w) s.fresh g.alive = some t → (s.freeSlots ((s.pen g.pen).core.getD 0)).head? = some k →
        ∃ u : State, exec (.foldWindowExpiry gid pc) s = .next u ∧ u = { s with groups := u.groups, fresh := s.fresh + 1 }
          ∧ (u.group gid).threads = [past t] ∧ (u.group gid).lanes = false
          ∧ (u.group gid).place = .slot k))
    ∧ (∀ pen, let w := (s.pen pen).spw.toNat
      let late := fun (v : Thread) => match v.status with
        | .splice k n => decide (k + w < s.cycles (s.penDie pen) ∨ (w = 0 ∧ n ≠ s.draw))
        | _ => false
      (s.passLate pen).groups = s.groups.map (fun y => { y with threads := y.threads.map (fun v =>
        if y.pen = pen ∧ y.lanes = false ∧ y.resident s = true ∧ late v = true then past { v with splices := v.splices.drop 1 } else v) }))
    ∧ ∀ (t : Thread) (d : Opd) (v : W64), t.resumeWith d v = past (t.result d (.u v))

/-- R71, R80: a word whose opcode is not assigned raises ILLOP: the strand that issues it is parked at the word, no more. That it is
parked whatever the word's guard bits say is the model's reading (log 24). -/
def Says.UnassignedWordParks : Prop :=
  ∀ (s : State) (g : Group) (r : Run) (t : Thread) (w : W64), g.lanes = false → Issues s g r t → t.ih = false →
    (∀ p ∈ t.pend, p.queue = none) →
    ∃ (u : State) (p : Parked), exec (.unassignedOpcode w) s = .next u ∧ u.parked = s.parked ++ [p]
      ∧ p.gid = g.id ∧ p.lanes = [t.lane] ∧ p.record.toNat % 2 ^ 8 = 0x01
      ∧ (u.group g.id).threads
          = [{ t with status := .parked p.handle, cps := none, pc := r.hdr + 8 + 8 * BitVec.ofNat 64 r.pos,
                      hdr := if r.dz2 then r.hdr + 8 + 8 * BitVec.ofNat 64 r.pos else r.hdr }]

/-- R98, R99: a Dzinum-2 word raises ILLOP exactly when R99 does not list its opcode. It decodes to an instruction exactly when
it is, but for FLG of WAKE, BAR and BARARV, that instruction's Dzinum-3 word, its operands are g registers or special codes other than
LIT, SPL16 and RMP are 0, and FLG is 0xF in format Q. -/
def Says.Dzinum2Words : Prop :=
  ∀ w : W64,
    let opc := (opcOf w).toNat
    let assigned := opc ≤ 0x02C ∨ (0x040 ≤ opc ∧ opc ≤ 0x05C ∧ opc ∉ [0x054, 0x058, 0x059, 0x05A, 0x05B]) ∨ (0x080 ≤ opc ∧ opc ≤ 0x093)
      ∨ (0x0C0 ≤ opc ∧ opc ≤ 0x0DC) ∨ (0x100 ≤ opc ∧ opc ≤ 0x13D) ∨ (0x140 ≤ opc ∧ opc ≤ 0x152) ∨ (0x1D1 ≤ opc ∧ opc ≤ 0x1DA)
    let formatQ := 0x0C0 ≤ opc ∧ opc ≤ 0x0D5
    let w3 := if 0x0D1 ≤ opc ∧ opc ≤ 0x0D5 then w &&& ~~~(0x780000 : W64) else w
    (decodeDz2 w = .illop ↔ ¬ assigned)
    ∧ ∀ i, decodeDz2 w = .ok i ↔ assigned ∧ decodeWord w3 = .ok i ∧ (formatQ → w.extractLsb' 19 4 = 0xF#4)
        ∧ (∀ o ∈ i.opds, o.file = .g ∨ (o.file = .special ∧ o.idx ≠ 0))
        ∧ (match i with
           | .bra x | .brx x | .call x | .callx x | .ret x | .loop x => x.spl = 0
           | .gather _ x | .scatter _ x | .scata _ x => x.rmp = 0
           | _ => True)

/-- R100 to R103: a translation holds the words from where a thread enters to the first that ends it, within their line, and up to a
word that must head its own; it is a clause of class 5 that waits for and sets f11. Any word of such a page may be a target. A strand is
laid down before Dzinum-2 code, or waits for a lane row. -/
def Says.Dzinum2Translations : Prop :=
  (∀ ws : List W64, ws ≠ [] → let t := dz2Words ws
    t <+: ws ∧ t ≠ []
    ∧ (∀ k, k + 1 < t.length → endsDz2 (t.getD k 0) = false ∧ wordIs true Instr.isCross (t.getD (k + 1) 0) = false)
    ∧ (t.length < ws.length → endsDz2 (t.getD (t.length - 1) 0) = true ∨ wordIs true Instr.isCross (ws.getD t.length 0) = true))
  ∧ (∀ (s : State) (c : Nat) (pc hdr : W64) (l : Nat → Loc), s.isDz2 c pc = true → pc.toNat % 8 = 0 →
    let n := (128 - pc.toNat % 128) / 8
    (∀ k < n, s.globalLoc c (pc + BitVec.ofNat 64 (8 * k)) 8 accFetch = .ok (l k)) →
    let ws := dz2Words ((List.range n).map (fun k => s.word (l k)))
    ws.length ≤ 16 ∧ s.fetch c pc hdr = .ok ⟨pc - 8,
      { ecl := 5, cnt := BitVec.ofNat 4 (ws.length - 1), wait := 0x800, seta := 11, setb := 11, yld := false, lit := 0 }, ws, true⟩)
  ∧ (∀ (s : State) (c : Nat) (a : W64) (l : Loc), s.isDz2 c a = true → a.toNat % 8 = 0 → a.toNat < 2 ^ 56 →
    s.globalLoc c a 8 accFetch = .ok l → s.checkTarget c a = .ok ())
  ∧ ∀ (s : State) (gid : Nat) (t : Thread),
    let g := s.group gid
    let c := s.ctxOf g.pen
    let core := (s.pen g.pen).core.getD 0
    g.lanes = false → g.threads = [t] → g.run = none → g.stall = none → g.resident s = true → s.clocked g.pen = true →
    (s.ctx c).stopped = false → s.runnable c t = true → s.isDz2 c t.pc = true →
    (∀ s1 n, s.rowQueue gid core = false → s.layDown gid = some (s1, n) → exec (.clauseStart gid) s = .next s1)
    ∧ (s.rowQueue gid core = true ∨ s.layDown gid = none →
        exec (.clauseStart gid) s = .next (s.bump.updGroup gid (fun x => { x with stall := some (.row s.fresh) })))

/-- How threads start clauses, converge, wait and are stopped, and Dzinum-2 code: `Says.LayDown`, `Says.ClauseStarts`,
`Says.ConvergesAt` (log 108), `Says.WaitsEnd` (log 76, 108, 109), `Says.UnassignedWordParks` (log 24), `Says.Dzinum2Words`,
`Says.Dzinum2Translations` (log 101). -/
def Obligations.ClauseBoundaries : Prop :=
  Says.LayDown ∧ Says.ClauseStarts ∧ Says.ConvergesAt ∧ Says.WaitsEnd ∧ Says.UnassignedWordParks ∧ Says.Dzinum2Words
  ∧ Says.Dzinum2Translations

/-! ### Acts of Turjo and of the device (R204, R225, R389 to R394, R401, R437 to R439, R442) -/

/-- Turjo's stores to physical memory (R204), those into a line that holds an uncorrectable error left out (R223). -/
def stored (s : State) (l : List SysStore) : State :=
  let made := l.filter (fun w => s.sound w.pa 8)
  { s with mem := made.foldl (fun m w => Memory.store m w.pa 8 w.value.toNat) s.mem
           writers := made.foldl (fun m w => noteWriter m w.pa 8 s.writer) s.writers }

/-- R204, R394, R438: of the stores by which Turjo maps a page, each is made and logged in its turn: one record for every entry of a
context's tables that it edits, with what the entry covers. An access may use the old entries from then on, but not one that was not
valid (log 91). The entries that a store touches are found from the root of each context; of a root table, entry k covers the 2^43
bytes from k · 2^43 on (R200). -/
def Says.MapEdits : Prop :=
  ∀ (s : State) (w : SysStore) (ws : List SysStore) (sysc : Nat),
    let hits := s.ctxs.flatMap (fun c => (s.entriesAt w.pa 3 c.root 0).map (fun e => (c.id, e.1, e.1 + e.2)))
    let u := s.mapEdit [w] sysc
    s.mapEdit [] sysc = s ∧ s.mapEdit (w :: ws) sysc = u.mapEdit ws sysc
    ∧ u = { stored s [w] with shoots := u.shoots, shootLog := u.shootLog, fresh := u.fresh }
    ∧ u.shootLog = s.shootLog ++ hits.map (fun h =>
        shootRecord (BitVec.ofNat 64 h.2.1) (BitVec.ofNat 64 h.2.2) h.1 (s.ctx h.1).pid 0 s.now 0 sysc 0)
    ∧ (w.pa % 8 = 0 → (s.tableWord w.pa).getLsbD 0 = false → u.shoots = s.shoots)
    ∧ (w.pa % 8 ≠ 0 ∨ (s.tableWord w.pa).getLsbD 0 = true → ∃ es : List Shoot, u.shoots = s.shoots ++ es
        ∧ es.map (fun e => (e.ctx, e.lo, e.hi)) = hits.map (fun h => (h.1, BitVec.ofNat 64 h.2.1, BitVec.ofNat 64 h.2.2))
        ∧ ∀ e ∈ es, e.logAt = none ∧ e.sysCore = sysc ∧ (w.pa % 8 = 0 → ⟨w.pa, s.tableWord w.pa⟩ ∈ e.old))
    ∧ ∀ root k : Nat, k < 2 ^ 13 → (k * 2 ^ 43, 2 ^ 43) ∈ s.entriesAt (root + 8 * k) 3 root 0

/-- R389, R393, R394, R401, R414, R416: Turjo resumes a thread parked with XLATE after its stores, one parked with
STACKGROW with its mapped depth raised by 64 KiB a page, in the lowest lane parked alone (log 61), and one parked with RLOCK once no
registered range covers the line; one parked with PERM or MEMERR it does not resume; it may forward the record. The debugger
resumes or kills a parked thread, stops a context, and lets a stopped one go on, unless a thermal trip lasts (R435). -/
def Says.FaultService : Prop :=
  (∀ (s : State) (p : Parked), s.parked.find? (fun q => q.handle == p.handle && !q.forwarded) = some p →
    let cause := p.record.toNat % 256
    let mapped := fun (l : List SysStore) (sysc : Nat) => unparked (s.mapEdit l sysc) p.handle
    (∀ stores raise sysc, cause = cXLATE ∨ (cause = cRLOCK ∧ s.lineCovered p = false) →
      exec (.turjoService p.handle (.resume stores raise sysc)) s = .next (mapped stores sysc))
    ∧ (∀ stores raise sysc, cause = cSTACKGROW → exec (.turjoService p.handle (.resume stores raise sysc)) s
        = .next ((mapped stores sysc).updThread p.gid (p.lanes.headD 0) (fun t => { t with hwm := t.hwm + BitVec.ofNat 40 (65536 * raise) })))
    ∧ (∀ stores raise sysc, cause = cPERM ∨ cause = cMEMERR ∨ (cause = cRLOCK ∧ s.lineCovered p = true) →
      exec (.turjoService p.handle (.resume stores raise sysc)) s = .next s)
    ∧ (5 ≤ cause → cause ≤ 9 → ∃ u : State, exec (.turjoService p.handle .forward) s = .next u
        ∧ u.parked = s.parked.map (fun q => if q.handle = p.handle then { q with forwarded := true } else q)
        ∧ ((s.ctx p.ctx).faultLog = none → u.errLog = s.errLog ++ [p.record])))
  ∧ (∀ (s : State) (p : Parked), p ∈ s.parked →
    exec (.debuggerResume p.handle false) s = .next (unparked s p.handle)
    ∧ exec (.debuggerResume p.handle true) s = .next (s.killParked p.handle))
  ∧ ∀ (s : State) (c : Nat),
    exec (.contextStop c) s = .next (s.updCtx c (fun x => { x with stopped := true, thermal := false }))
    ∧ (s.tripHold = true → exec (.contextResume c) s = .next s)
    ∧ (s.tripHold = false → exec (.contextResume c) s = .next (({ s with groups := s.groups.map (fun y => { y with threads := y.threads.map (fun w =>
          if w.status = .asserted ∧ s.ctxOf y.pen = c then { w with status := .ready } else w) }) } : State).updCtx c
        (fun x => { x with stopped := false, thermal := false })))

/-- R442: a device access that waits for Turjo is made again once it has mapped the page, or is left unperformed with a
record. -/
def Says.DeviceAccesses : Prop :=
  ∀ (s : State) (w : DevWait), s.devWaits.find? (fun y => y.id == w.id) = some w →
    let gone : State := { s with devWaits := s.devWaits.filter (fun y => y.id != w.id) }
    (∀ stores raise sysc,
      let u := gone.mapEdit stores sysc
      (∀ a, w.acc = .decrement a → exec (.deviceAccessRetry w.id (.resume stores raise sysc)) s = .next (u.devDec w.ctx 0 a))
      ∧ (∀ a, w.acc = .action a → exec (.deviceAccessRetry w.id (.resume stores raise sysc)) s = .next { u with depActs := u.depActs ++ [a] })
      ∧ (∀ k, w.acc = .resume k → exec (.deviceAccessRetry w.id (.resume stores raise sysc)) s = .next { u with conts := u.conts ++ [k] })
      ∧ (∀ r a, w.acc = .node r a → exec (.deviceAccessRetry w.id (.resume stores raise sysc)) s = .next u)
      ∧ (∀ c pkt k u1, w.acc = .gather c pkt → copyOf u none 2 pkt = some k → u.issueCopy c k pkt = some u1 →
          exec (.deviceAccessRetry w.id (.resume stores raise sysc)) s = .next u1))
    ∧ ((∃ a, w.acc = .decrement a) ∨ (∃ a, w.acc = .action a) ∨ (∃ c pkt, w.acc = .gather c pkt) →
      exec (.deviceAccessRetry w.id .forward) s = .next (gone.logPlain w.ctx 0 w.va 0 cXLATE w.code))
    ∧ (∀ k, w.acc = .resume k → exec (.deviceAccessRetry w.id .forward) s
        = .next ((gone.logPlain w.ctx k.launch k.addr 0 cXLATE w.code).endRecord k))
    ∧ (∀ r a x, w.acc = .node r a → (gone.logPlain w.ctx 0 w.va 0 cXLATE w.code).runs.find? (fun y => y.id == r) = some x →
        exec (.deviceAccessRetry w.id .forward) s = .next ((gone.logPlain w.ctx 0 w.va 0 cXLATE w.code).endRun x))

/-- R204, R225, R437 to R439: an edit of a table and a shoot-down are logged when they are issued. A shoot-down completes once no
engine operation has still to access memory by a translation that it replaced: its record is then filled in, and no edit of its range
made before it is left, so that every address there translates by the new entries. A line whose write-back is lost, from the die's
cache or the shed where it stands, is sound again, and holds what DRAM held before; the record names the context that wrote the line
last, and goes to its log and to Turjo's (log 34). Of every P instructions of a context that a core issues one is tagged; once no
thread or group holds a tagged one, its sample is pushed onto the context's queue, or counted as dropped (log 87). -/
def Says.DeviceRecords : Prop :=
  (∀ (lo hi : W64) (ctx : Nat) (pid : W32) (stall : W64) (time done sysc kind : Nat),
    let r := shootRecord lo hi ctx pid stall time done sysc kind
    r.extractLsb' 448 64 = lo ∧ r.extractLsb' 384 64 = hi ∧ r.extractLsb' 352 32 = BitVec.ofNat 32 ctx ∧ r.extractLsb' 320 32 = pid
    ∧ r.extractLsb' 256 64 = stall ∧ r.extractLsb' 192 64 = BitVec.ofNat 64 time ∧ r.extractLsb' 128 64 = BitVec.ofNat 64 done
    ∧ r.extractLsb' 8 8 = BitVec.ofNat 8 sysc ∧ r.extractLsb' 0 8 = BitVec.ofNat 8 kind)
  ∧ (∀ (s : State) (ctx : Nat) (lo hi : W64) (stores : List SysStore) (sysc : Nat), ∃ (u : State) (h : Shoot),
    s.applyInput (.tableEdit ctx lo hi stores sysc) = u
      ∧ u = { stored s stores with shoots := s.shoots ++ [h], shootLog := u.shootLog, fresh := s.fresh + 1 }
      ∧ u.shootLog = s.shootLog ++ [shootRecord lo hi ctx (s.ctx ctx).pid 0 s.now 0 sysc 0]
      ∧ h.ctx = ctx ∧ h.lo = lo ∧ h.hi = hi ∧ h.sysCore = sysc ∧ h.time = s.now ∧ h.logAt = none
      ∧ ∀ w ∈ stores, w.pa % 8 = 0 → ⟨w.pa, s.tableWord w.pa⟩ ∈ h.old)
  ∧ (∀ (s : State) (ctx : Nat) (lo hi : W64) (sysc : Nat), ∃ h : Shoot,
    s.applyInput (.shootDown ctx lo hi sysc) = { s with
        shoots := s.shoots ++ [h], fresh := s.fresh + 1
        shootLog := s.shootLog ++ [shootRecord lo hi ctx (s.ctx ctx).pid 0 s.now 0 sysc 1] }
      ∧ h.ctx = ctx ∧ h.lo = lo ∧ h.hi = hi ∧ h.sysCore = sysc ∧ h.time = s.now ∧ h.logAt = some s.shootLog.length)
  ∧ (∀ (s : State) (h : Shoot) (before after : List Shoot) (k : Nat), s.shoots = before ++ h :: after → h.logAt = some k →
    (∀ x ∈ before, x.id ≠ h.id) →
    ((∃ o ∈ s.ops, s.usesOld h o = true) → exec (.shootdownComplete h.id) s = .next s)
    ∧ ((∀ o ∈ s.ops, s.usesOld h o = false) → ∃ (u : State) (r : BitVec 512), exec (.shootdownComplete h.id) s = .next u
      ∧ u = { s with shoots := u.shoots, fresh := s.fresh + 1, shootLog := s.shootLog.set k r }
      ∧ (let old := s.shootLog.getD k 0
         r.extractLsb' 320 192 = old.extractLsb' 320 192 ∧ r.extractLsb' 192 64 = old.extractLsb' 192 64
         ∧ r.extractLsb' 128 64 = BitVec.ofNat 64 s.now ∧ r.extractLsb' 0 128 = old.extractLsb' 0 128)
      ∧ u.shoots = before.flatMap (fun x => if x.logAt = none ∧ x.ctx = h.ctx then x.minus h.lo h.hi else [x]) ++ after))
  ∧ (∀ (e : Shoot) (lo hi : W64) (v : Nat), (∃ x ∈ e.minus lo hi, x.lo.toNat ≤ v ∧ v < x.hi.toNat)
      ↔ (e.lo.toNat ≤ v ∧ v < e.hi.toNat) ∧ ¬(lo.toNat ≤ v ∧ v < hi.toNat))
  ∧ (∀ (s : State) (c : Nat) (a : W64), a.toNat < 2 ^ 56 →
      (∀ h ∈ s.shoots, h.ctx = c → h.logAt = none → ¬(h.lo.toNat ≤ a.toNat ∧ a.toNat < h.hi.toNat)) →
      s.translate c a = walk s.tableWord 3 (s.ctx c).root a.toNat)
  ∧ (∀ (s : State) (line ctx die : Nat) (shed : Bool),
    let stands := die < 4 ∧ s.shedDie line = if shed then some die else none
    (line ∉ s.poison ∨ (line, ctx) ∉ s.writers ∨ ¬ stands → exec (.lostWriteback line ctx die shed) s = .next s)
    ∧ (line ∈ s.poison → (line, ctx) ∈ s.writers → stands → (s.ctx ctx).faultLog = none → s.memForm = true →
    ∃ (u : State) (r : BitVec 512), exec (.lostWriteback line ctx die shed) s = .next u
      ∧ u.poison = s.poison.filter (fun k => k != line) ∧ u.errLog = s.errLog ++ (if ctx = 0 then [r] else [r, r])
      ∧ r.extractLsb' 448 64 = BitVec.ofNat 64 (128 * line) ∧ r.extractLsb' 416 32 = BitVec.ofNat 32 ctx
      ∧ r.extractLsb' 412 4 = BitVec.ofNat 4 die ∧ r.extractLsb' 408 4 = BitVec.ofNat 4 shed.toNat ∧ r.extractLsb' 320 64 = BitVec.ofNat 64 s.now
      ∧ (∀ b, 128 * line ≤ b → b < 128 * line + 128 → Memory.get u.mem b = Memory.get s.dram b)
      ∧ ∀ b, b < 128 * line ∨ 128 * line + 128 ≤ b → Memory.get u.mem b = Memory.get s.mem b)
    ∧ (line ∉ s.poison → s.memForm = true → die < 4 → ∃ u : State, s.applyInput (.writeBack line die) = u
      ∧ u = { s with dram := u.dram, writers := s.writers.filter (fun p => p.1 != line) }
      ∧ ∀ b, Memory.get u.dram b = if 128 * line ≤ b ∧ b < 128 * line + 128 then Memory.get s.mem b else Memory.get s.dram b)
    ∧ (line ∈ s.poison → die < 4 →
      ((∀ p ∈ s.writers, p.1 ≠ line) → s.applyInput (.writeBack line die) = s)
      ∧ ∀ c, s.writers.find? (fun p => p.1 == line) = some (line, c) → (∀ d, s.shedDie line = some d → d < 4) →
        Host.Outcome.next (s.applyInput (.writeBack line die)) = exec (.lostWriteback line c ((s.shedDie line).getD die) (s.shedDie line).isSome) s))
  ∧ (∀ (x : Sampler) (p seed : Nat) (tag : Tag), x.count < p →
    (x.count1 p seed tag).tags = (if x.count = Config.pickSample x.pick % p then x.tags ++ [tag] else x.tags)
    ∧ (x.count1 p seed tag).count = (x.count + 1) % p ∧ (x.count + 1 < p → (x.count1 p seed tag).pick = x.pick))
  ∧ ∀ (s : State) (d : SampleData) (z : Sampler) (g : Tag),
    (s.ctx d.ctx).samplers.find? (fun y => y.core == d.core) = some z → z.tags[d.tag]? = some g →
    ((∃ q ∈ s.groups, ∃ t ∈ q.threads, t.ost = g.name ∧ (t.holds g.pc = true ∨ q.holdsWord g.pc = true)) ∨ 5 < d.level.toNat →
      exec (.sampleTag d) s = .next s)
    ∧ ((∀ q ∈ s.groups, ∀ t ∈ q.threads, t.ost = g.name → t.holds g.pc = false ∧ q.holdsWord g.pc = false) → d.level.toNat ≤ 5 →
    let x := s.ctx d.ctx
    let r := sampleRecord x.pid g d
    let u := s.updCtx d.ctx (fun c => { c with samplers := c.samplers.map (fun y =>
      if y.core = d.core then { y with tags := y.tags.eraseIdx d.tag } else y) })
    let dropped := u.updCtx d.ctx (fun y => { y with sampleDrops := y.sampleDrops + 1 })
    (∀ q, u.queue d.ctx x.sampleQueue true accRmw.device = .ok q → exec (.sampleTag d) s = .next (match ({ u with actor := d.ctx } : State).pushTo q r with
      | some (v, _) => { v with actor := s.actor }
      | none => dropped))
    ∧ (∀ f, u.queue d.ctx x.sampleQueue true accRmw.device = .error f → exec (.sampleTag d) s = .next dropped)
    ∧ r.extractLsb' 480 32 = x.pid ∧ r.extractLsb' 416 32 = BitVec.ofNat 32 g.launch ∧ r.extractLsb' 352 32 = BitVec.ofNat 32 g.index
    ∧ r.extractLsb' 296 56 = g.pc.setWidth 56 ∧ r.extractLsb' 128 64 = BitVec.ofNat 64 g.time ∧ r.extractLsb' 119 9 = g.opc)

/-- What Turjo and the device do about faults and records: `Says.MapEdits`, `Says.FaultService`, `Says.DeviceAccesses`,
`Says.DeviceRecords`. -/
def Obligations.FaultServiceAndRecords : Prop := Says.MapEdits ∧ Says.FaultService ∧ Says.DeviceAccesses ∧ Says.DeviceRecords

/-! ### The Task Scheduler (R12, R13, R321 to R330, R334 to R337, R346, R350, R357 to R359, R402 to R404) -/

/-- R12, R13, R326 to R330, R335, R346: a launch packet that passes the checks is taken and becomes a launch: C pens for each
virtual yard, a strand over each part of the index range that is not empty, together over every index, a task of its own, and one
ready member for each virtual yard; the root's next turn begins after its queue (R330). A graph-run packet begins a run at its
entry; a copy packet issues its copy. -/
def Says.PacketsTaken : Prop :=
  ∀ (s : State) (ctx : Nat) (queue slot : W64) (q : QView) (p : BitVec 512), s.peek ctx queue = some (q, p, slot) →
    let s1 := s.takePacket ctx queue q
    (s.mayTake ctx queue false = false → exec (.launchPacket ctx queue) s = .next s ∧ exec (.graphRunPacket ctx queue) s = .next s)
    ∧ (queue ∈ (s.ctx ctx).dispatchQueues → s1.lastQueue = some (ctx, queue))
    ∧ (s.mayTake ctx queue false = true → cpF p 7 0 = 1 →
      let n := cpF p 95 64 + 1
      s.launchOk ctx p n = true →
      let np := (cpF p 35 24 + 1) * cpF p 22 20
      let per := (n + np - 1) / np
      ∃ (u : State) (l : Launch) (k : Task) (ps : List Pen) (gs : List Group) (ms : List Member),
        exec (.launchPacket ctx queue) s = .next u
        ∧ u = { s1 with launches := s1.launches ++ [l], tasks := s1.tasks ++ [k], pens := s1.pens ++ ps, groups := s1.groups ++ gs,
                        members := s1.members ++ ms, fresh := u.fresh }
        ∧ l.ctx = ctx ∧ l.n = n ∧ l.entry.toNat = cpF p 191 128 ∧ l.yards = cpF p 35 24 + 1 ∧ l.c = cpF p 22 20
        ∧ l.regs = 16 * (cpF p 19 16 + 1) ∧ l.scr = 128 * cpF p 55 42 ∧ l.accn = cpF p 41 36 ∧ l.gp.toNat = cpF p 319 256
        ∧ l.stk.toNat = cpF p 383 320 ∧ l.z = (if cpF p 127 96 = 0 then 0x100000 else 16 * cpF p 127 96)
        ∧ l.karg.toNat = cpF p 255 192 ∧ l.dep.toNat = cpF p 511 448 ∧ l.prio = cpF p 11 8
        ∧ k.launch = l.id ∧ k.launchOwn = true
        ∧ ps.map Pen.vcore = List.range np
        ∧ (∀ y ∈ ps, y.launch = l.id ∧ y.scsz = l.scr ∧ y.accn = l.accn ∧ y.scratch = [] ∧ y.core = none ∧ y.saved = true)
        ∧ gs.flatMap (fun y => y.threads.map (fun t => (t.lo, t.n)))
            = ((List.range np).filter (fun j => j * per < n)).map (fun j => (j * per, min ((j + 1) * per) n - j * per))
        ∧ (gs.flatMap (fun y => y.threads.map Thread.n)).sum = n
        ∧ (∀ y ∈ gs, y.lanes = false ∧ y.place = .saved ∧ ∀ t ∈ y.threads, t.pc = l.entry ∧ t.hdr = l.entry ∧ t.task = k.id)
        ∧ ms.map Member.kind = (List.range l.yards).map (fun y => MemberKind.team l.id y))
    ∧ (s.mayTake ctx queue false = true → cpF p 7 0 = 3 → cpF p 511 192 = 0 → cpF p 63 12 = 0 → cpF p 127 64 % 128 = 0 →
      (s.runs.filter (fun r => r.ctx == ctx)).length < 16 →
      let a := BitVec.ofNat 64 (cpF p 127 64)
      exec (.graphRunPacket ctx queue) s = .next { s1 with fresh := s1.fresh + 1, runs := s1.runs
        ++ [⟨s1.fresh, ctx, a, BitVec.ofNat 64 (cpF p 191 128), cpF p 11 8, [a], [], [a], [], none⟩] })
    ∧ (∀ k idx, s.mayTake ctx queue true = true → cpF p 7 0 = 2 → cpF p 15 14 ≠ 3 → copyOf s none (cpF p 15 14) p = some k →
      gatherDevice s1 ctx k = .ok idx → s1.engCheck 0 ctx ({ k with idx := idx } : Copy).ranges = .ok () →
      s1.rangeRoom ({ k with idx := idx } : Copy).ranges = true →
      exec (.copyQueuePacket ctx queue) s = .next (s1.register
        { EngOp.blank with id := s1.fresh, kind := .copy { k with idx := idx }, ctx := ctx } ({ k with idx := idx } : Copy).ranges))

/-- R66, R158, R323, R324, R357, R358: a task none of whose threads is left ends, and, but for a continued end, its counter is
decremented; a killed one's staging is cancelled. A launch with nothing left finishes: its pens are removed and its counter is
decremented; while a thread runs in one of its pens, or a QPOP of one that has ended is not complete (R158; log 48), it does not. The declaration of a ready task is staged once it fits, for the
die chosen for the task; one bound for the shed is dropped where the budget is 0. -/
def Says.TasksEnd : Prop :=
  (∀ (s : State) (t : Task), s.tasks.find? (fun y => y.id == t.id) = some t → s.taskOver t.id = true →
    let c := (s.launch t.launch).ctx
    let without := fun (v : State) => ({ v with tasks := v.tasks.filter (fun y => y.id != t.id) } : State).updCtx c
      (fun y => { y with staged := y.staged - (t.staged + t.scrStaged) })
    let u := without s
    (t.killed = false → t.contEnd = false → exec (.taskEnd t.id) s = .next ((u.devDec c t.launch t.tdep).tryFinishAll c))
    ∧ (t.killed = false → t.contEnd = true → exec (.taskEnd t.id) s = .next (u.tryFinishAll c))
    ∧ (t.killed = true → exec (.taskEnd t.id) s = .next (((without (s.cancelStaging t.id)).devDec c t.launch t.tdep).tryFinishAll c)))
  ∧ (∀ (s : State) (x : Launch), s.launches.find? (fun y => y.id == x.id) = some x →
    (∀ t ∈ s.tasks, t.launch ≠ x.id) → x.conts = [] → x.unplaced = [] →
    (∀ o ∈ s.ops, ∀ p, o.pen = some p → (s.pen p).launch ≠ x.id) →
    (∀ g ∈ s.groups, (s.pen g.pen).launch = x.id → ∀ t ∈ g.threads, t.status = .exited) → (∀ q ∈ s.lostPops, (s.pen q.pen).launch ≠ x.id) →
    ∃ u : State, s.tryFinish x.id = u.devDec x.ctx x.id x.dep ∧ u.mem = s.mem
      ∧ u.launches = s.launches.filter (fun y => y.id != x.id) ∧ u.pens = s.pens.filter (fun p => p.launch != x.id))
  ∧ (∀ (s : State) (x : Launch), s.launches.find? (fun y => y.id == x.id) = some x →
    (∃ t ∈ s.tasks, t.launch = x.id) ∨ x.conts ≠ [] ∨ x.unplaced ≠ []
      ∨ (∃ g ∈ s.groups, g.pen ∈ s.pens.map Pen.id ∧ (s.pen g.pen).launch = x.id ∧ ∃ t ∈ g.threads, t.status ≠ .exited)
      ∨ (∃ q ∈ s.lostPops, q.pen ∈ s.pens.map Pen.id ∧ (s.pen q.pen).launch = x.id) →
    s.tryFinish x.id = s)
  ∧ (∀ (s : State) (q : LostPop), q ∈ s.lostPops → q.done = true → (∀ y ∈ s.lostPops, y.op = q.op → y = q) → (∀ o ∈ s.ops, o.id ≠ q.op) →
    (∀ k ∈ s.conts, ∀ y ∈ k.pops, y.1 ≠ q.op) →
    exec (.memoryOpCompletion q.op) s
      = .next (({ s with lostPops := s.lostPops.filter (fun y => y.op != q.op) } : State).tryFinish (s.pen q.pen).launch))
  ∧ ∀ (s : State) (task pen : Nat) (d : Decl),
    let t := s.task task
    let c := (s.launch t.launch).ctx
    t.decls = [d] → t.begun = false → t.jobs = [] → s.taskPens t = [pen] → s.stageFits c (declLen d.word) = true → s.rangeRoom (declRanges d) = true →
    let die := t.home.getD (s.homeDie c [pen])
    (declScr d.word = true → s.engCheck pen c (declRanges d) = .ok () →
      let n := if (s.ctx c).budget = 0 then 0 else declLen d.word
      ∃ u : State, exec (.stagingTransfer task) s = .next u
        ∧ u.tasks = s.tasks.map (fun k => if k.id = task then { k with begun := true, home := some die, jobs := [], scrStaged := k.scrStaged + n } else k)
        ∧ u.ops = (s.register { EngOp.blank with id := s.fresh, kind := .stage d, ctx := c, launch := t.launch, pen := some pen,
                                                 task := some t.id } (declRanges d)).ops
        ∧ u = { s with ops := u.ops, tasks := u.tasks, ctxs := u.ctxs, fresh := u.fresh })
    ∧ (declScr d.word = false → (s.ctx c).budget = 0 → exec (.stagingTransfer task) s = .next { s with
        tasks := s.tasks.map (fun k => if k.id = task then { k with begun := true, home := some die, jobs := [] } else k) })

/-- How work comes and goes: `Says.PacketsTaken`, `Says.TasksEnd`. -/
def Obligations.LaunchesAndTasks : Prop := Says.PacketsTaken ∧ Says.TasksEnd

/-- A group holds a strand slot or a lane row. -/
def seated (g : Group) : Bool := match g.place with | .slot _ | .row _ => true | _ => false

/-- R14, R334, R335, R337: of the ready members of a die, the one of the highest effective priority, and among equals the one ready
longest, is tried first; where it is a strand or lane group evicted before, whose core has the room that it needs, it is placed there,
in a free slot or lane row: the lowest-numbered, which is the model's choice (log 76). -/
def Says.MemberPlaced : Prop :=
  ∀ (s : State) (m : Member) (gid core k : Nat),
    let g := s.group gid
    let need : Room := if g.lanes then [0, 1, 512 * (s.launchOf g.pen).regs, 0, 0] else [1, 0, 0, 0, 0]
    m ∈ s.members → (∀ x ∈ s.members, x ≠ m → x.eff < m.eff ∨ (x.eff = m.eff ∧ m.since < x.since)) → s.enlist = s →
    m.kind = .group gid false → s.reserved m core need = false → (s.pen g.pen).core = some core → (s.pen g.pen).saved = false →
    core < 216 → (s.ctx (s.ctxOf g.pen)).stopped = false → g.threads ≠ [] →
    (if g.lanes then s.freeRow g.pen else (s.freeSlots core).head?) = some k →
    s.lacks core need = [] → (∀ y ∈ s.groups, y.id = gid → ∀ t ∈ y.threads, t.status = .ready) →
    exec (.placeMember (core / 54)) s = .next { s with
      members := s.members.filter (fun x => x.id != m.id), reservations := s.reservations.filter (fun x => x.member != m.id)
      fresh := s.fresh + 1
      groups := s.groups.map (fun y => if y.id = gid then { y with place := if g.lanes then .row k else .slot k, placedAt := s.now } else y) }

/-- R240, R336, R402 to R404: a pen that is saved is saved with its yard team, whole, its scratch, tiles and registers as they
are, no operation lost; where a thread of it is ready to run the team becomes a ready member (R334), and a task that waited for its
first dispatch there is staged again later, the bytes of scratch that it was to fill being open until then (R359). A saved team is restored whole, each pen on the core of its member number of a
yard in service that has room. A saved thread takes the results of its operations as a resident one does, and the image of a
saved pen those of its copies, whose bytes are those read at the start, all written at the completion: the model's choice (log 7). -/
def Says.SaveAndRestore : Prop :=
  ∀ (s : State) (pen : Nat),
    let p := s.pen pen
    let c := (s.launch p.launch).c
    let team := s.teamPens p.launch (p.vcore / c)
    let waiting := s.freshTasks (team.map Pen.id)
    let away := fun (y : Pen) => if y.id ∈ team.map Pen.id then { y with core := none, saved := true } else y
    (p.saved = false → p.core ≠ none → ∃ u : State, exec (.penSave pen) s = .next u.enlist
      ∧ u.pens.map (fun y => { y with scratch := [] }) = s.pens.map (fun y => { away y with scratch := [] })
      ∧ u.groups = s.groups.map (fun y => if y.pen ∈ team.map Pen.id ∧ seated y = true
          then { y with place := .saved, savedAt := s.cycles (s.penDie y.pen) } else y)
      ∧ u.ops.map EngOp.id = s.ops.map EngOp.id
      ∧ (waiting = [] → u = { s with pens := s.pens.map away, groups := u.groups, ops := u.ops })
      ∧ (∀ k ∈ u.tasks, k.id ∈ waiting → k.begun = false ∧ k.staged = 0 ∧ k.scrStaged = 0)
      ∧ ((∀ m ∈ s.members, m.kind ≠ .team p.launch (p.vcore / c)) →
          (∃ g ∈ u.groups, g.pen ∈ team.map Pen.id ∧ g.place = .saved ∧ u.groupReady g = true) →
          ∃ m ∈ u.enlist.members, m.kind = .pens p.launch (p.vcore / c)))
    ∧ (∀ m yard, s.members.find? (fun y => y.kind == .pens p.launch (p.vcore / c)) = some m → yard < 36 →
      s.units.yards.getLsbD yard = true → s.fits m (s.teamNeeds p.launch (p.vcore / c) yard) = true →
      exec (.penRestore pen yard) s = .next (s.placeTeam m p.launch (p.vcore / c) yard false)
      ∧ ((s.pens.map Pen.id).Nodup → (∀ q ∈ team, q.hitch = []) → (∃ k ∈ s.tasks, k.launch = p.launch) → ∀ q ∈ team,
          let u := (s.placeTeam m p.launch (p.vcore / c) yard false).pen q.id
          u = { q with core := some (6 * yard + q.vcore % c), saved := false, placedAt := s.now }))
    ∧ (∀ (g : Group) (t : Thread) (q : Pend), s.group g.id = g → g ∈ s.groups → g.resident s = false → t ∈ g.threads →
      (g.threads.map Thread.lane).Nodup → q ∈ t.pend → (t.pend.map Pend.op).Nodup → q.engine = false → q.queue = none →
      (∀ m, t.status ≠ .waita m) → (∀ o ∈ s.ops, o.id ≠ q.op) → (∀ k ∈ s.conts, ∀ y ∈ k.pops, y.1 ≠ q.op) →
      (∀ y ∈ s.lostPops, y.op ≠ q.op) →
      ∃ u : State, exec (.savedImageCompletion q.op) s = .next u ∧ delivered s u g t q)
    ∧ (∀ (o : EngOp) (k : Copy), o.kind = .copy k → k.kind = 0 → k.ring = none → k.srcScr = true → k.dstScr = true → k.dep = 0 →
      o.pen = some pen → pen ∈ s.pens.map Pen.id → p.bad = [] → p.saved = true → s.ops.find? (fun y => y.id == o.id) = some o →
      o.joint = none → s.memForm = true → o.started = true → o.cancelled = false → o.bad = none → o.tile = none →
      (∃ g ∈ s.groups, g.pen ∈ s.pens.map Pen.id ∧ (s.pen g.pen).launch = o.launch ∧ ∃ t ∈ g.threads, t.status ≠ .exited) →
      ∃ u : State, exec (.savedImageCompletion o.id) s = .next u ∧ copied s u o k pen)

/-- R332, R334: a reservation ends after its time; a member's priority rises by one for each millisecond that it has waited, to 15
at most; the wake of a core's clock changes no value. -/
def Says.SchedulerClocks : Prop :=
  ∀ (s : State) (k : Nat),
    exec (.reservationExpiry k) s = .next { s with reservations := s.reservations.filter (fun r => !decide (r.member = k ∧ r.until' ≤ s.clk)) }
    ∧ exec (.priorityAging k) s = .next { s with members := s.members.map (fun m =>
        if m.id = k ∧ m.since + (m.aged + 1) * 1000000 ≤ s.clk ∧ min 15 (m.prio + m.aged) < 15 then { m with aged := m.aged + 1 } else m) }
    ∧ exec (.coreWake k) s = .next s

/-- Places: `Says.MemberPlaced`, `Says.SaveAndRestore` (log 7), `Says.SchedulerClocks`. The numbers of cores and yards are the model's
choice (log 66); the reservations made at the first failure, and the groups that may be evicted, rest on logs 51 and 52. -/
def Obligations.Placement : Prop := Says.MemberPlaced ∧ Says.SaveAndRestore ∧ Says.SchedulerClocks

/-! ### Contexts, the host port and the registers of BAR0 (R9, R199, R202, R220, R360, R405, R419 to R421, R432, R433, R440) -/

/-- R405, R419 to R421: enabling a function creates its context with what Turjo gives, stopped where a thermal trip lasts; a reset
of it releases all that the context holds, and its completion is reported, the context being stopped where the trip lasts (R435); disabling it ends its threads as kills (R363), releases
the same, reports nothing (log 53) and removes the context; a reset of the physical function clears the mailbox alone. -/
def Says.ContextsComeAndGo : Prop :=
  (∀ (s : State) (c : Nat) (i : CtxInit), s.boot = .running → 1 ≤ c → c ≤ 1024 → s.hasCtx c = false → CtxInit.ok i = true →
    ∃ x : Context, exec (.vfEnable c i) s = .next { s with ctxs := s.ctxs ++ [x] }
      ∧ x.id = c ∧ x.root = i.root ∧ x.privBase = i.privateBase ∧ x.pid = i.pid ∧ x.vw = i.vw ∧ x.faultLog = i.faultLog
      ∧ x.dispatchQueues = i.dispatchQueues ∧ x.copyQueues = i.copyQueues ∧ x.budget = i.budgetMiB ∧ x.samplePeriod = i.samplePeriod
      ∧ x.sampleQueue = i.sampleQueue ∧ x.bintm = 0x14 ∧ x.flov = 0 ∧ x.stopped = s.tripHold ∧ x.thermal = s.tripHold ∧ x.staged = 0
      ∧ x.shed = [0, 0, 0, 0])
  ∧ (∀ (s : State) (c : Nat), s.hasCtx c = true →
    let released := fun (u : State) => (∀ l ∈ u.launches, l.ctx ≠ c) ∧ (∀ k ∈ u.conts, k.ctx ≠ c) ∧ (∀ o ∈ u.ops, o.ctx ≠ c)
      ∧ (∀ p ∈ u.parked, p.ctx ≠ c) ∧ (∀ k ∈ u.cells, k.owner ≠ some c) ∧ (∀ h, some h ∈ u.hists → h.ctx ≠ c)
      ∧ (∀ r ∈ u.runs, r.ctx ≠ c) ∧ (∀ a ∈ u.depActs, a.ctx ≠ c) ∧ (∀ w ∈ u.devWaits, w.ctx ≠ c) ∧ (∀ g ∈ u.gangs, g.ctx ≠ c)
      ∧ (∀ d ∈ u.dies, ∀ b ∈ d.bins, b.ctx ≠ c) ∧ ∀ q ∈ u.lostPops, q.ctx ≠ c
    ∃ u v : State, exec (.vfReset c) s = .next u ∧ released u ∧ u.resetsDone = s.resetsDone ++ [c]
      ∧ exec (.vfDisable c) s = .next v ∧ released v ∧ (∀ x ∈ v.ctxs, x.id ≠ c) ∧ v.resetsDone = s.resetsDone
      ∧ ∀ y ∈ [u, v], y.agenda = s.agenda ∧ y.now = s.now ∧ y.units = s.units ∧ y.cfg = s.cfg ∧ y.boot = s.boot ∧ y.domain = s.domain
        ∧ y.mailbox = s.mailbox ∧ (∀ l ∈ y.poison, l ∈ s.poison)
        ∧ ((s.ctx c).shedLines = [] → (∀ d, (s.ctx c).shed.getD d 0 = 0) → y.poison = s.poison)
      ∧ (u.ctx c).stopped = s.tripHold)
  ∧ ∀ s : State, exec .pfFlr s = .next { s with mailbox := [] }

/-- R202, R211, R220, R223, R419 to R421: once the host port is enabled, a host request reaches the mailbox, which is plain
storage that reads back what was written (log 31), or through the window of its function the global space of the context, checked
as a thread's access, line by line (log 92): a read is answered with the bytes, each line's in its place, and a failed check
leaves a record, and a line is written for the function's context (log 34). A request that expects data of a function that is not enabled is answered with Unsupported Request. An AtomicOp
reads and writes its operand at once, at the mailbox or through a window, and is answered with the old value; a misaligned one
with Unsupported Request (log 92). Before, nothing is served (R427). -/
def Says.HostPort : Prop :=
  ∀ (s : State) (c off size : Nat), 0 < size →
    let va := (s.ctx c).vw.toNat + off
    let at' := fun (a : Nat) => BitVec.ofNat 64 a
    let answered := fun (u : State) (d : Option Nat) => ({ u with hostReplies := u.hostReplies ++ [d] } : State)
    let failed := fun (f : FaultInfo) => s.logPlain c 0 f.va f.aux f.cause f.acc
    (s.hostPort = false → (∀ v, exec (.bar2Access c off size v) s = .next s)
      ∧ ∀ op wide x y, exec (.hostAtomicop c off op wide x y) s = .next s)
    ∧ (s.hostPort = true →
      (off + size ≤ 2 ^ 20 → exec (.bar2Access 0 off size none) s = .next (answered s (some (Memory.load s.mailbox off size)))
        ∧ ∀ v, exec (.bar2Access 0 off size (some v)) s = .next { s with mailbox := Memory.store s.mailbox off size v })
      ∧ (c ≠ 0 → s.hasCtx c = true → off + size ≤ 2 ^ 36 →
        (∀ l : Nat → Loc, (∀ q ∈ pieces 128 va size, s.globalLoc c (at' q.1) q.2 accRead.device = .ok (l q.1)) →
          ∃ d, exec (.bar2Access c off size none) s = .next (answered s (some d))
            ∧ ∀ q ∈ pieces 128 va size, d / 2 ^ (8 * (q.1 - va)) % 2 ^ (8 * q.2) = s.readLoc (l q.1) q.2)
        ∧ (va % 128 + size ≤ 128 →
          (∀ f, s.globalLoc c (at' va) size accRead.device = .error f → exec (.bar2Access c off size none) s = .next (answered (failed f) none))
          ∧ (∀ l v, v < 2 ^ (8 * size) → s.globalLoc c (at' va) size accWrite.device = .ok l →
            exec (.bar2Access c off size (some v)) s = .next (s.actFor c (·.writeLoc l size v)))
          ∧ (∀ f v, s.globalLoc c (at' va) size accWrite.device = .error f → f.cause ≠ cMEMERR →
            exec (.bar2Access c off size (some v)) s = .next (failed f))))
      ∧ (c ≠ 0 → s.hasCtx c = false → exec (.bar2Access c off size none) s = .next (answered s none)
        ∧ ∀ v, exec (.bar2Access c off size (some v)) s = .next s)
      ∧ (∀ wide op (operand cmp : W64), let n := if wide then 8 else 4
        let new := fun (old : Nat) => match op with
          | .fetchAdd => (old + operand.toNat) % 2 ^ (8 * n)
          | .swap => operand.toNat % 2 ^ (8 * n)
          | .cas => if old = cmp.toNat % 2 ^ (8 * n) then operand.toNat % 2 ^ (8 * n) else old
        (off % n ≠ 0 → exec (.hostAtomicop c off op wide operand cmp) s = .next (answered s none))
        ∧ (off % n = 0 → off + n ≤ 2 ^ 20 → let old := Memory.load s.mailbox off n
          exec (.hostAtomicop 0 off op wide operand cmp) s
            = .next (answered { s with mailbox := Memory.store s.mailbox off n (new old) } (some old)))
        ∧ (off % n = 0 → c ≠ 0 → s.hasCtx c = true → off + n ≤ 2 ^ 36 → ∀ l, s.globalLoc c (at' va) n accRmw.device = .ok l →
          let fails := op = .cas ∧ s.readLoc l n ≠ cmp.toNat % 2 ^ (8 * n)
          (fails → exec (.hostAtomicop c off op wide operand cmp) s = .next (answered s (some (s.readLoc l n))))
          ∧ (¬ fails → exec (.hostAtomicop c off op wide operand cmp) s
            = .next (answered (s.actFor c (·.writeLoc l n (new (s.readLoc l n)))) (some (s.readLoc l n)))))))

/-- R9, R420, R427, R432, R433, R440: once the host port is enabled, a write of HEALTH clears THERMTRIP where bit 30 is 1 and
changes nothing else; one of CECNT clears the bits written as 1; one of a DIEFREQ register is a DIEFREQ write of its die; a write
at any other offset changes nothing. A read returns HEALTH, CECNT, the code that Turjo set for a die, or, of a virtual function,
the address of its fault log and $flov. CAP counts the yards in service on each die. -/
def Says.RegisterWrites : Prop :=
  ∀ (s : State) (v : W64) (off c : Nat),
    let read := fun (fn at' n : Nat) => s.applyInput (.bar0Read fn at') = { s with hostReplies := s.hostReplies ++ [some n] }
    (s.hostPort = false → exec (.healthWrite v) s = .next s ∧ exec (.cecntWrite v) s = .next s ∧ exec (.registerWrite off v) s = .next s)
    ∧ (s.hostPort = true →
      exec (.healthWrite v) s = .next (if v.getLsbD 30 then { s with healthTrip := false } else s)
      ∧ exec (.cecntWrite v) s = .next { s with cecnt := s.cecnt &&& ~~~v }
      ∧ exec (.registerWrite 8 v) s = .next (if v.getLsbD 30 then { s with healthTrip := false } else s)
      ∧ exec (.registerWrite 24 v) s = .next { s with cecnt := s.cecnt &&& ~~~v }
      ∧ (∀ d < 4, exec (.registerWrite (0x40 + 8 * d) v) s = exec (.diefreqWrite d v) s)
      ∧ (off ≠ 8 → off ≠ 24 → (∀ d < 4, off ≠ 0x40 + 8 * d) → exec (.registerWrite off v) s = .next s)
      ∧ (s.healthBoot < 16 → read 0 8 (s.healthReplace.toNat * 2 ^ 31 + s.healthTrip.toNat * 2 ^ 30
          + (s.dies.any (fun d => decide (d.code < d.setCode))).toNat * 2 ^ 29 + s.healthBoot * 2 ^ 24 + s.healthExh.toNat))
      ∧ read 0 24 s.cecnt.toNat ∧ (∀ d < 4, (s.die d).setCode < 16 → read 0 (0x40 + 8 * d) (s.die d).setCode)
      ∧ (c ≠ 0 → s.hasCtx c = true → read c 0 ((s.ctx c).faultLog.getD 0).toNat ∧ read c 8 (s.ctx c).flov.toNat))
    ∧ ∀ d < 4, (s.cap.extractLsb' (40 + 4 * d) 4).toNat = ((List.range 9).filter (fun y => s.units.yards.getLsbD (9 * d + y))).length

/-- R199, R360: Turjo grants shed ways of a die while all grants fit; where a context then holds fewer, its lines of that die are
written back and leave the shed, which changes no value where none of them is bad. It allocates an Incumbent Cell that no context holds, with the largest
key. -/
def Says.Grants : Prop :=
  ∀ (s : State) (c d n : Nat), s.hasCtx c = true →
    (d < 4 → ((s.ctxs.filter (fun x => x.id != c)).map (fun x => x.shed.getD d 0)).sum + n ≤ s.shedLimit d →
      ∃ u : State, exec (.shedWayGrant c d n) s = .next u
        ∧ ((s.ctx c).shed.getD d 0 ≤ n ∨ (∀ p ∈ (s.ctx c).shedLines, p.2 ∉ s.poison) → u = { s with ctxs := u.ctxs, dram := u.dram, writers := u.writers })
        ∧ (u.ctx c).shed = (s.ctx c).shed.set d n
        ∧ ((s.ctx c).shed.getD d 0 ≤ n → (u.ctx c).shedLines = (s.ctx c).shedLines ∧ u.dram = s.dram ∧ u.writers = s.writers)
        ∧ (n < (s.ctx c).shed.getD d 0 → (u.ctx c).shedLines = (s.ctx c).shedLines.filter (fun p => p.1 != d)))
    ∧ ((s.cell n).owner = none → n < s.cells.length → ∃ u : State, exec (.incumbentCellAllocate c n) s = .next u
        ∧ u.cell n = ⟨some c, 0x7FFFFFFFFFFFFFFF, 0, 0, 0, 0x7FFFFFFFFFFFFFFF, [], []⟩
        ∧ (∀ k, k ≠ n → u.cell k = s.cell k) ∧ u = { s with cells := u.cells })

/-- The functions of the package: `Says.ContextsComeAndGo`, `Says.HostPort`, `Says.RegisterWrites`, `Says.Grants`. -/
def Obligations.ContextsAndHost : Prop :=
  Says.ContextsComeAndGo ∧ Says.HostPort ∧ Says.RegisterWrites ∧ Says.Grants

/-! ### Gang launches, links and the domain (R226, R406 to R408, R422 to R424) -/

/-- R406, R408: at its start the home package of a gang-launch record marks every member pending, with nothing acknowledged and
GL.RESULT 0; a package that is a member dispatches its part. A pending member's acknowledgement is recorded, and the last one
makes GL.RESULT 1; a record whose launch has failed may be started again (log 56). That the home package alone writes the fields of the record is log 56. Where a member has not acknowledged 50
µs after the start, it has failed and GL.RESULT is 2, with a GLFAIL record. -/
def Says.GangLaunches : Prop :=
  ∀ (s : State) (c pa : Nat) (a : W64), a.toNat % 128 = 0 → s.globalLoc c a 128 accRmw.device = .ok (.phys pa) → s.memForm = true →
    let status := fun (m : List Host.Cell) (p : Nat) => Memory.load m (pa + 88) 16 / 4 ^ p % 4
    (s.hasCtx c = true → (∀ g ∈ s.gangs, ¬(g.ctx = c ∧ g.addr = a ∧ g.failed = false)) →
      let pkgs := Memory.load s.mem (pa + 72) 8
      let pkt := BitVec.ofNat 512 (Memory.load s.mem pa 64)
      (pa / 2 ^ 46 = s.pkg → pkgs.testBit s.pkg = false → ∃ u : State, exec (.gangLaunchStart c a) s = .next u
        ∧ u.gangs = s.gangs ++ [⟨c, a, s.clk, false, 0⟩] ∧ u.launches = s.launches
        ∧ Memory.load u.mem (pa + 64) 4 = 0 ∧ Memory.load u.mem (pa + 80) 8 = 0
        ∧ (∀ p < 64, status u.mem p = if pkgs.testBit p then 1 else 0)
        ∧ ∀ b, b < pa + 64 ∨ pa + 104 ≤ b ∨ (pa + 72 ≤ b ∧ b < pa + 80) → Memory.get u.mem b = Memory.get s.mem b)
      ∧ (pa / 2 ^ 46 ≠ s.pkg → pkgs.testBit s.pkg = true → s.launchOk c pkt (cpF pkt 95 64 + 1) = true →
        ∃ (u : State) (l : Launch), exec (.gangLaunchStart c a) s = .next u ∧ u.launches = s.launches ++ [l] ∧ u.mem = s.mem
          ∧ l.gang = some a ∧ l.ctx = c ∧ l.n = cpF pkt 95 64 + 1 ∧ u.gangs = s.gangs ++ [⟨c, a, s.clk, false, l.id⟩]))
    ∧ (∀ pkg, s.gangPending c a = true → pkg < 64 → status s.mem pkg = 1 →
      ∃ u : State, exec (.gangLaunchAck c a pkg) s = .next u
        ∧ Memory.load u.mem (pa + 80) 8 = Memory.load s.mem (pa + 80) 8 ||| 2 ^ pkg
        ∧ (∀ p < 64, status u.mem p = if p = pkg then 2 else status s.mem p)
        ∧ ((∀ p < 64, p ≠ pkg → status s.mem p = 0 ∨ status s.mem p = 2) → Memory.load u.mem (pa + 64) 4 = 1
          ∧ ∀ g, g ∈ u.gangs ↔ g ∈ s.gangs ∧ ¬(g.ctx = c ∧ g.addr = a ∧ g.failed = false))
        ∧ (¬(∀ p < 64, p ≠ pkg → status s.mem p = 0 ∨ status s.mem p = 2) → Memory.load u.mem (pa + 64) 4 = Memory.load s.mem (pa + 64) 4 ∧ u.gangs = s.gangs))
    ∧ ((∃ g ∈ s.gangs, g.ctx = c ∧ g.addr = a ∧ g.failed = false ∧ g.start + 50000 ≤ s.clk) → (s.ctx c).faultLog = none →
      ∃ (u : State) (r : BitVec 512), exec (.gangLaunchTimeout c a) s = .next u ∧ Memory.load u.mem (pa + 64) 4 = 2
        ∧ (∀ p < 64, status u.mem p = if status s.mem p = 1 then 3 else status s.mem p)
        ∧ u.gangs = s.gangs.map (fun g => if g.ctx = c ∧ g.addr = a then { g with failed := true } else g)
        ∧ u.errLog = s.errLog ++ [r] ∧ r.extractLsb' 0 8 = 0x23#8)

/-- A port of the machine that carries flits leads to package m: it is at the other end, or lies beyond the member of the domain there. -/
def ledTo (u : State) (m : Nat) : Prop :=
  ∃ j q, u.ports[j]? = some q ∧ u.portCarries j = true ∧ (q.peer = some m ∨ (m ∈ q.beyond ∧ ∃ p ∈ u.domain, q.peer = some p))

/-- R226, R422 to R424, R430: a flit's 256 bytes hold its fields, and bear the CRC that a receiver checks. A port that carries
flits takes one whose CRC is good and whose number it expects, and asks for replay of any other by a flit of virtual channel 3
with the number expected (its payload is log 93); a replay unanswered for 1 ms puts the port out of service. A package that
resets, or that no port has reached for 10 ms, leaves; one that left joins again only after its reset. A port reaches the package at
its other end, and those beyond it, while it carries flits; that the events tell of a reset, and of the ports through which a package is reached,
is log 60. Two packages of one number do not join;
another, which some port reaches, is a member once it joins, and a timer that is behind steps forward to its timer, which no timeout
counts; what no port reaches does not join. -/
def Says.LinksAndDomain : Prop :=
  (∀ f : Flit, f.payload.length = 240 → f.bytes.length = 256 ∧ crcGood f.bytes = true ∧ Flit.parse f.bytes = f
    ∧ f.header.extractLsb' 58 6 = f.dst ∧ f.header.extractLsb' 52 6 = f.src ∧ f.header.extractLsb' 49 3 = f.vc
    ∧ f.header.extractLsb' 37 12 = f.seq ∧ f.header.extractLsb' 29 8 = f.len ∧ f.header.extractLsb' 0 29 = 0#29)
  ∧ ∀ (s : State) (k : Nat),
    (∀ (b : List Byte), s.portCarries k = false → exec (.flitReceive k b) s = .next s)
    ∧ (∀ (b : List Byte) (p : Port), s.ports[k]? = some p → s.portCarries k = true → b.length = 256 →
      let good := crcGood b && (Flit.parse b).seq == p.expect
      ∃ q : Port, exec (.flitReceive k b) s = .next { s with ports := s.ports.set k q }
        ∧ q.expect = (if good then p.expect + 1 else p.expect) ∧ q.asked = (if good then none else some (p.asked.getD s.clk))
        ∧ (good = true → q.sent = p.sent) ∧ (p.sent.length ≤ 2048 → q.sent.length ≤ 2048)
        ∧ (good = false → ∃ f, q.sent.getLast? = some f ∧ f.vc = 3 ∧ f.src = BitVec.ofNat 6 s.pkg) ∧ q.inService = p.inService)
    ∧ (∀ e, exec (.replayRequest k e) s = .next s)
    ∧ (∀ p t, s.ports[k]? = some p → p.asked = some t →
      (s.clk < t + 1000000 → exec (.replayTimeout k) s = .next s)
      ∧ (t + 1000000 ≤ s.clk → ∃ u : State, exec (.replayTimeout k) s = .next u ∧ u = { s with ports := u.ports, unreached := u.unreached }
        ∧ u.ports = s.ports.set k { p with inService := false, asked := none }
        ∧ ∀ m, m ∈ u.unreached.map Prod.fst ↔ m ∈ s.domain ∧ ¬ ledTo u m))
    ∧ (let gone := fun (u : State) (left : List Nat) =>
        u = { s with domain := s.domain.filter (fun x => x != k), left := left, unreached := u.unreached }
        ∧ ∀ m, m ∈ u.unreached.map Prod.fst ↔ m ∈ u.domain ∧ ¬ ledTo u m
      let due := ∃ u ∈ s.unreached, u.1 = k ∧ u.2 + 10000000 ≤ s.clk
      (∃ u : State, exec (.packageLeaveDomain ⟨k, true⟩) s = .next u ∧ gone u (s.left.filter (fun x => x != k)))
      ∧ (k ∈ s.domain → due → ∃ u : State, exec (.packageLeaveDomain ⟨k, false⟩) s = .next u ∧ gone u (k :: s.left))
      ∧ (k ∉ s.domain ∨ ¬ due → exec (.packageLeaveDomain ⟨k, false⟩) s = .next s))
    ∧ (∀ t ps vs, k ∈ s.left → exec (.domainJoin ⟨k, ps, vs⟩ t) s = .next s)
    ∧ (∀ t ps vs, s.hostPort = true → k < 64 → k ∉ s.left →
      let leads := fun (j : Nat) => j ∈ ps ∧ s.portCarries j = true
        ∧ ∀ p q, s.ports[j]? = some p → p.peer = some q → q = k ∨ q ∉ s.domain
      let through := fun (j : Nat) => j ∈ vs ∧ s.portCarries j = true ∧ ∃ p q, s.ports[j]? = some p ∧ p.peer = some q ∧ q ≠ k ∧ q ∈ s.domain
      (k ≠ s.pkg → (∀ j, ¬ leads j ∧ ¬ through j) → exec (.domainJoin ⟨k, ps, vs⟩ t) s = .next s)
      ∧ (k ≠ s.pkg → k ∉ s.domain → (∃ j, leads j ∨ through j) → ∃ u : State, exec (.domainJoin ⟨k, ps, vs⟩ t) s = .next u
        ∧ (∀ x, x ∈ u.domain ↔ x = k ∨ x ∈ s.domain) ∧ u.now = max s.now t ∧ u.clk = s.clk
        ∧ (∀ j p, u.ports[j]? = some p → (leads j → p.peer = some k) ∧ (k ∈ p.beyond ↔ through j)) ∧ k ∉ u.unreached.map Prod.fst
        ∧ u = { s with domain := u.domain, now := u.now, stepped := u.stepped, dies := u.dies, ports := u.ports, unreached := u.unreached })
      ∧ (k = s.pkg → ∃ u : State, exec (.domainJoin ⟨k, ps, vs⟩ t) s = .next u ∧ u = { s with ports := u.ports, unreached := u.unreached }
        ∧ ∀ j ∈ ps, ∀ p, u.ports[j]? = some p → p.inService = false))

/-- The package among others: `Says.GangLaunches`, `Says.LinksAndDomain`. -/
def Obligations.GangsAndLinks : Prop := Says.GangLaunches ∧ Says.LinksAndDomain

/-! ### Boot, spares, clocks, power (R418, R424 to R431, R433, R435) -/

/-- R425 to R427: at power-good it enters recovery where no copy of the record is valid, waits while DHCPv6 does not answer, else
checks the image; 10 s after its request DHCPv4 gives the image or recovery follows; recovery tries again after 60 s,
with the record sent where no copy is valid, if that verifies. An image passes whose layout is right, whose key has the hash of the
owner's key, or of the root key, and signature verifies; it is loaded, HEALTH.BOOT is 2; one that fails leads to recovery. The
self-test brings the package up, its dies at reset, and retires units that fail; when Turjo starts HEALTH.BOOT is 3. (Log 9.) -/
def Says.Boots : Prop :=
  ∀ (s : State) (b : BootInput),
    let recovers := fun (u : State) => ({ u with boot := .recovery, healthBoot := 1, bootAt := s.clk } : State)
    let t : State := { s with cfgUse := s.cfgIndex, bootAt := s.clk }
    (s.boot = .reset →
      (s.cfgValid = false → exec (.powerGood b) s = .next (recovers t))
      ∧ (s.cfgValid = true → b.dhcp6 = false → exec (.powerGood b) s = .next { t with boot := .dhcp })
      ∧ (s.cfgValid = true → b.dhcp6 = true → exec (.powerGood b) s = .next (t.tryImage b false)))
    ∧ (s.boot = .dhcp → s.clk < s.bootAt + 10000000000 → exec (.dhcpv6Timeout b) s = .next s)
    ∧ (s.boot = .dhcp → s.bootAt + 10000000000 ≤ s.clk →
        exec (.dhcpv6Timeout b) s = .next (if b.dhcp4 then s.tryImage b false else recovers s))
    ∧ (s.boot = .recovery → s.clk < s.bootAt + 60000000000 → exec (.recoveryRetry b) s = .next s)
    ∧ (s.boot = .recovery → s.bootAt + 60000000000 ≤ s.clk → b.dhcp6 = false → b.dhcp4 = false →
        exec (.recoveryRetry b) s = .next (recovers s))
    ∧ (s.boot = .recovery → s.bootAt + 60000000000 ≤ s.clk → b.dhcp6 = true ∨ b.dhcp4 = true →
      (s.cfgValid = true → exec (.recoveryRetry b) s = .next (s.tryImage b true))
      ∧ (∀ r sig, s.cfgValid = false → b.record = some (r, sig) →
        let u : State := ({ s with cfg := s.cfg.set 0 ⟨r, some sig⟩, cfgUse := 0 } : State).tryImage b true
        exec (.recoveryRetry b) s = .next (if CfgRec.sized r = true ∧ u.boot = .verified then u else recovers s)))
    ∧ (∀ inRecovery, s.tryImage b inRecovery
        = if imageOk (if s.cfgRec.ownv && !inRecovery then s.cfgRec.owner else Config.rootKeyHash) b.image.bytes && b.hardwareOk && s.cfgValid
          then { s with boot := .verified, healthBoot := 2, image := imageBody b.image.bytes } else recovers s)
    ∧ (∀ (hash key body sig : List Byte), key.length = 1952 → sig.length = 3309 → body.length < 2 ^ 64 →
        let signed := leBytes 8 0x50484E534F4F5442 ++ leBytes 8 body.length ++ List.replicate 48 0 ++ key ++ body
        imageOk hash (signed ++ sig) = (Keys.shake256 key 64 == hash && Keys.mlDsa65 key signed sig)
        ∧ imageBody (signed ++ sig) = body)
    ∧ (s.boot = .verified → ∀ us, exec (.selfTest us) s = .next (us.foldl State.retire s.bringUp))
    ∧ (s.boot = .tested → s.applyInput .turjoStart = { s with boot := .running, healthBoot := 3 })
    ∧ let u := s.bringUp
      u.boot = .tested ∧ u.selfTestAt = s.clk ∧ (∀ d ∈ u.dies, d.code = 13 ∧ d.relock = none ∧ d.steps = []) ∧ u.mem = s.mem ∧ u.healthBoot = s.healthBoot
      ∧ u.units.yards = s.cfgRec.yards ∧ u.image = s.image ∧ ∀ p ∈ u.ports, p.trained = true

/-- R424, R428 to R431: a unit that fails its self-test, at boot or 24 hours or more after the last, has an uncorrectable error, or whose
corrected errors of an hour pass its class's threshold, is retired, its counts ended (log 47): the other copy of the record says so,
and once it verifies a spare of its class serves; with none left HEALTH says so; while that does not verify, or the store does not
take the write (log 13), no yard, system core, Copy Engine or way changes. One that fails out of service is no spare. A
copy is 3,997 bytes; of two valid ones that with the higher CFG.SEQ is used. A record written at service puts its units into service,
and clears HEALTH.EXH of each class that it fills (log 94). A loss of power ends all work, and keeps the store but for a copy
being written (log 13, 57). -/
def Says.SparesAndStore : Prop :=
  (∀ (s : State) (us : List PkgUnit) (u : PkgUnit), s.hostPort = true →
    (s.selfTestAt + 86400000000000 ≤ s.clk → exec (.selfTest us) s = .next (us.foldl State.retire { s with selfTestAt := s.clk }))
    ∧ (s.clk < s.selfTestAt + 86400000000000 → exec (.selfTest us) s = .next s)
    ∧ s.applyInput (.unitError u) = s.retire u
    ∧ (s.pastThreshold u = true → exec (.correctedErrorThreshold u) s = .next { s.retire u with
        units := { (s.retire u).units with corrected := s.units.corrected.filter (fun x => x.1 != u) } })
    ∧ (s.pastThreshold u = false → exec (.correctedErrorThreshold u) s = .next s)
    ∧ ∃ v : State, exec (.retrainComplete u) s = .next v ∧ v = { s with units := v.units, unreached := v.unreached }
      ∧ v.units = { s.units with retraining := s.units.retraining.filter (fun x => x != u) })
  ∧ (∀ (s : State) (v : PkgUnit), PkgUnit.built v = true → s.units.serve v = false → v ∉ s.units.retired →
    s.retire v = { s with units := { s.units with retired := v :: s.units.retired } })
  ∧ (∀ (s : State) (k : Nat), s.cert = none → s.cfgUse < s.cfg.length → s.cfg.length = 2 → (1 - s.cfgUse) ∉ s.storeFails → k < 18 →
    s.units.sysc.getLsbD k = true → .sysCore k ∉ s.units.retired →
    let u := s.retire (.sysCore k)
    let spare := fun (j : Nat) => j < 18 ∧ s.units.sysc.getLsbD j = false ∧ .sysCore j ∉ s.units.retired
    u.units.sysc.getLsbD k = false ∧ u.units.retired = .sysCore k :: s.units.retired ∧ u.mem = s.mem
    ∧ ((∃ j, spare j) → u.healthReplace = s.healthReplace
        ∧ ∃ j, spare j ∧ ∀ i < 18, u.units.sysc.getLsbD i = (decide (i = j) || (s.units.sysc.getLsbD i && decide (i ≠ k))))
    ∧ (¬(∃ j, spare j) → u.healthReplace = true ∧ u.healthExh.getLsbD 4 = true
        ∧ ∀ i < 18, u.units.sysc.getLsbD i = (s.units.sysc.getLsbD i && decide (i ≠ k))))
  ∧ (∀ (s : State) (v : PkgUnit), s.certOk = false ∨ s.cfg.length ≤ 1 - s.cfgUse ∨ (1 - s.cfgUse) ∈ s.storeFails → s.units.serve v = true → (∀ g l, v ≠ .dramLane g l) → (∀ p l, v ≠ .linkLane p l) →
    ∃ u : State, s.retire v = u ∧ u = { s with cfg := u.cfg })
  ∧ (∀ (s : State) (r : CfgRec), CfgRec.sized r = false → exec (.configRecordService r) s = .next s)
  ∧ (∀ (s : State) (r : CfgRec), s.cert = none → s.cfgUse < s.cfg.length → s.cfg.length = 2 → (1 - s.cfgUse) ∉ s.storeFails →
    r.dramMap.length = 512 → r.linkMap.length = 48 → r.owner.length = 64 → ∃ u : State, exec (.configRecordService r) s = .next u
    ∧ u.units.yards = r.yards ∧ u.units.sysc = r.sysc ∧ u.units.copy = r.copy ∧ u.units.ways = r.ways
    ∧ u.units.dramMap = r.dramMap ∧ u.units.linkMap = r.linkMap
    ∧ (∀ k < 12, u.healthExh.getLsbD k = (s.healthExh.getLsbD k && !CfgRec.full r k))
    ∧ u.healthReplace = (s.healthReplace && decide (u.healthExh ≠ 0))
    ∧ u.cfg = s.cfg.set (1 - s.cfgUse) ⟨{ r with seq := s.cfgRec.seq + 1 }, none⟩)
  ∧ (∀ (s : State) (x : CfgCopy), s.cfgCopyValid x = ((match s.cert with | none => true | some b => Config.certVerifies b)
      && (match x.sig with | none => true | some b => Keys.mlDsa65 Config.deviceKey (CfgRec.bytes x.rec') b)))
  ∧ (∀ (s : State) (r q : CfgRec), s.cert = none → s.cfg = [⟨r, none⟩, ⟨q, none⟩] → s.cfgIndex = if r.seq.toNat < q.seq.toNat then 1 else 0)
  ∧ (∀ r : CfgRec, r.dramMap.length = 512 → r.linkMap.length = 48 → r.owner.length = 64 → (CfgRec.bytes r).length = 688
    ∧ (CfgCopy.bytes ⟨r, none⟩).length = 3997
    ∧ ∀ sig : List Byte, sig.length = 3309 → (CfgCopy.bytes ⟨r, some sig⟩).length = 3997)
  ∧ ∀ (s : State) (mid : Bool), exec (.powerLoss mid) s = .next { State.reset with
      agenda := s.agenda, fresh := s.fresh + 1, cert := s.cert, storeFails := s.storeFails, cfgUse := s.cfgUse,
      units := { s.units with retraining := [], corrected := [], thresholds := [] },
      healthReplace := s.healthReplace, healthExh := s.healthExh,
      cfg := if mid then s.cfg.modify (1 - s.cfgUse) (fun x => { x with sig := some [] }) else s.cfg }

/-- R418, R433, R435: a frequency write of a code 0 to 13 begins a relock, to that code or, while a thermal trip lasts, to 0.8 GHz, in which
the cycle counter holds, and the die's cores stand still; it ends with the code in force and the step in the log (log 58). At 115 °C every
context stops and every die relocks to 0.8 GHz, until all are below 95 °C and Turjo resumes them; a mean above 2,600 W over 1 ms lowers every die by
one step, one above 2,200 W over 10 ms one of the highest frequency, and above 100 °C the die, where the last such step is 100 µs
old. That a die so lowered is not raised while power and heat are low, and that each die goes back to the code set for it when Turjo
resumes, is the model's choice (log 107). -/
def Says.ClocksAndPower : Prop :=
  (∀ (s : State) (d : Nat) (v : W64), d < 4 → d < s.dies.length → s.hostPort = true →
    let q := v.toNat % 16
    let aim := if s.tripHold then 0 else q
    (14 ≤ q → exec (.diefreqWrite d v) s = .next s)
    ∧ (q < 14 → ∃ u : State, exec (.diefreqWrite d v) s = .next u ∧ u = { s with dies := u.dies }
      ∧ (u.die d).setCode = q ∧ (∀ k, k ≠ d → u.die k = s.die k) ∧ u.cycles d = s.cycles d ∧ (u.die d).steps = (s.die d).steps
      ∧ (u.die d).relock = if (s.die d).relock = none ∧ (s.die d).code = aim then none else some aim))
  ∧ (∀ (s : State) (gid : Nat) (pc : W64) (op : Nat) (q : Nat), (s.die (s.penDie (s.group gid).pen)).relock = some q →
    (∀ o, s.ops.find? (fun y => y.id == op) = some o → o.kind.isMatrix = true ∧ o.joint = none ∧ o.pen = some (s.group gid).pen) →
    ∀ i ∈ [Instr.clauseStart gid, .laneRowGrant gid, .spliceWaitExpiry gid, .convergentWindowExpiry gid pc, .foldWindowExpiry gid pc,
      .engineOpStart op], exec i s = .next s)
  ∧ (∀ (s : State) (d q : Nat), d < s.dies.length → (s.die d).relock = some q →
    ∃ u : State, exec (.relockComplete d) s = .next u ∧ u = { s with dies := u.dies } ∧ (u.die d).code = q ∧ (u.die d).relock = none
      ∧ u.cycles d = s.cycles d
      ∧ ((s.die d).steps.length < 64 → (u.die d).steps = (s.die d).steps
          ++ [⟨(((s.die d).steps.getLast?).map StepRec.num).getD 0 + 1, s.now, (s.die d).cycles, (s.die d).code, q⟩])
      ∧ (u.die d).steps.length ≤ 64)
  ∧ (∀ (s : State) (m10 m1 : Nat) (ts : List Nat), s.dies.length = 4 → ∃ u : State, exec (.powerSample m10 m1 ts) s = .next u
    ∧ u = { s with dies := u.dies, ctxs := u.ctxs, healthTrip := u.healthTrip, tripHold := u.tripHold, loweredAt := u.loweredAt, temps := ts }
    ∧ ((∃ t ∈ ts, 115 ≤ t) → u.healthTrip = true ∧ u.tripHold = true
        ∧ u.ctxs = s.ctxs.map (fun x => { x with stopped := true, thermal := x.thermal || !x.stopped })
        ∧ ∀ d < 4, (u.die d).code = 0 ∨ (u.die d).relock = some 0)
    ∧ ((∀ t ∈ ts, t < 115) → let level := fun (d : Nat) => ((s.die d).relock).getD (s.die d).code
      u.ctxs = s.ctxs ∧ u.healthTrip = s.healthTrip ∧ u.tripHold = s.tripHold
      ∧ (s.tripHold = true ∨ (∃ t, s.loweredAt = some t ∧ s.clk < t + 100000) → u.dies = s.dies ∧ u.loweredAt = s.loweredAt)
      ∧ (s.tripHold = false → (∀ t, s.loweredAt = some t → t + 100000 ≤ s.clk) →
        (2600 < m1 → ∀ d < 4, 0 < level d → (u.die d).relock = some (level d - 1))
        ∧ (∀ d < 4, 100 < ts.getD d 0 → 0 < level d → (u.die d).relock = some (level d - 1))
        ∧ (2200 < m10 → m1 ≤ 2600 → (∀ t ∈ ts, t ≤ 100) → ∃ d < 4, (∀ k < 4, (s.die k).code ≤ (s.die d).code)
          ∧ (0 < level d → (u.die d).relock = some (level d - 1)) ∧ ∀ k, k ≠ d → u.die k = s.die k)
        ∧ (u.dies ≠ s.dies → u.loweredAt = some s.clk)
        ∧ (m10 ≤ 2200 → m1 ≤ 2600 → (∀ t ∈ ts, t ≤ 100) → u.dies = s.dies))))
  ∧ ∀ s : State, s.tripHold = true → s.dies.length = 4 → let u := s.applyInput .thermalResume
    ((∃ t ∈ s.temps, 95 ≤ t) → u = s)
    ∧ ((∀ t ∈ s.temps, t < 95) → u.tripHold = false ∧ (∀ x ∈ u.ctxs, x.thermal = false)
      ∧ ∀ d < 4, (u.die d).relock = if (s.die d).relock = none ∧ (s.die d).code = (s.die d).setCode then none else some (s.die d).setCode)

/-- The package as a whole: `Says.Boots` (log 9), `Says.SparesAndStore` (log 13, 47, 57, 94), `Says.ClocksAndPower` (log 58, 107). -/
def Obligations.BootSparesAndClocks : Prop := Says.Boots ∧ Says.SparesAndStore ∧ Says.ClocksAndPower
end

