-- ==== Sys2Proof/Laws/State.lean ====
section
/-! SUPPORT. One lemma for each field and each plain update of the state: what the update leaves as it is. -/

namespace Sys2Proof.Machine

/-! ### updGroup -/

@[simp] theorem State.updGroup_agenda (s : State) (g : Nat) (f : Group → Group) : (s.updGroup g f).agenda = s.agenda := rfl
@[simp] theorem State.updGroup_fresh (s : State) (g : Nat) (f : Group → Group) : (s.updGroup g f).fresh = s.fresh := rfl
@[simp] theorem State.updGroup_cur (s : State) (g : Nat) (f : Group → Group) : (s.updGroup g f).cur = s.cur := rfl
@[simp] theorem State.updGroup_draw (s : State) (g : Nat) (f : Group → Group) : (s.updGroup g f).draw = s.draw := rfl
@[simp] theorem State.updGroup_rot (s : State) (g : Nat) (f : Group → Group) : (s.updGroup g f).rot = s.rot := rfl
@[simp] theorem State.updGroup_turn (s : State) (g : Nat) (f : Group → Group) : (s.updGroup g f).turn = s.turn := rfl
@[simp] theorem State.updGroup_devTurn (s : State) (g : Nat) (f : Group → Group) : (s.updGroup g f).devTurn = s.devTurn := rfl
@[simp] theorem State.updGroup_timeTurn (s : State) (g : Nat) (f : Group → Group) : (s.updGroup g f).timeTurn = s.timeTurn := rfl
@[simp] theorem State.updGroup_duty (s : State) (g : Nat) (f : Group → Group) : (s.updGroup g f).duty = s.duty := rfl
@[simp] theorem State.updGroup_actor (s : State) (g : Nat) (f : Group → Group) : (s.updGroup g f).actor = s.actor := rfl
@[simp] theorem State.updGroup_now (s : State) (g : Nat) (f : Group → Group) : (s.updGroup g f).now = s.now := rfl
@[simp] theorem State.updGroup_stepped (s : State) (g : Nat) (f : Group → Group) : (s.updGroup g f).stepped = s.stepped := rfl
@[simp] theorem State.updGroup_mem (s : State) (g : Nat) (f : Group → Group) : (s.updGroup g f).mem = s.mem := rfl
@[simp] theorem State.updGroup_dram (s : State) (g : Nat) (f : Group → Group) : (s.updGroup g f).dram = s.dram := rfl
@[simp] theorem State.updGroup_writers (s : State) (g : Nat) (f : Group → Group) : (s.updGroup g f).writers = s.writers := rfl
@[simp] theorem State.updGroup_poison (s : State) (g : Nat) (f : Group → Group) : (s.updGroup g f).poison = s.poison := rfl
@[simp] theorem State.updGroup_pens (s : State) (g : Nat) (f : Group → Group) : (s.updGroup g f).pens = s.pens := rfl
@[simp] theorem State.updGroup_tasks (s : State) (g : Nat) (f : Group → Group) : (s.updGroup g f).tasks = s.tasks := rfl
@[simp] theorem State.updGroup_launches (s : State) (g : Nat) (f : Group → Group) : (s.updGroup g f).launches = s.launches := rfl
@[simp] theorem State.updGroup_ctxs (s : State) (g : Nat) (f : Group → Group) : (s.updGroup g f).ctxs = s.ctxs := rfl
@[simp] theorem State.updGroup_members (s : State) (g : Nat) (f : Group → Group) : (s.updGroup g f).members = s.members := rfl
@[simp] theorem State.updGroup_reservations (s : State) (g : Nat) (f : Group → Group) : (s.updGroup g f).reservations = s.reservations := rfl
@[simp] theorem State.updGroup_conts (s : State) (g : Nat) (f : Group → Group) : (s.updGroup g f).conts = s.conts := rfl
@[simp] theorem State.updGroup_tethers (s : State) (g : Nat) (f : Group → Group) : (s.updGroup g f).tethers = s.tethers := rfl
@[simp] theorem State.updGroup_lostPops (s : State) (g : Nat) (f : Group → Group) : (s.updGroup g f).lostPops = s.lostPops := rfl
@[simp] theorem State.updGroup_ops (s : State) (g : Nat) (f : Group → Group) : (s.updGroup g f).ops = s.ops := rfl
@[simp] theorem State.updGroup_parked (s : State) (g : Nat) (f : Group → Group) : (s.updGroup g f).parked = s.parked := rfl
@[simp] theorem State.updGroup_cells (s : State) (g : Nat) (f : Group → Group) : (s.updGroup g f).cells = s.cells := rfl
@[simp] theorem State.updGroup_hists (s : State) (g : Nat) (f : Group → Group) : (s.updGroup g f).hists = s.hists := rfl
@[simp] theorem State.updGroup_runs (s : State) (g : Nat) (f : Group → Group) : (s.updGroup g f).runs = s.runs := rfl
@[simp] theorem State.updGroup_lastQueue (s : State) (g : Nat) (f : Group → Group) : (s.updGroup g f).lastQueue = s.lastQueue := rfl
@[simp] theorem State.updGroup_depActs (s : State) (g : Nat) (f : Group → Group) : (s.updGroup g f).depActs = s.depActs := rfl
@[simp] theorem State.updGroup_devWaits (s : State) (g : Nat) (f : Group → Group) : (s.updGroup g f).devWaits = s.devWaits := rfl
@[simp] theorem State.updGroup_shoots (s : State) (g : Nat) (f : Group → Group) : (s.updGroup g f).shoots = s.shoots := rfl
@[simp] theorem State.updGroup_gangs (s : State) (g : Nat) (f : Group → Group) : (s.updGroup g f).gangs = s.gangs := rfl
@[simp] theorem State.updGroup_dies (s : State) (g : Nat) (f : Group → Group) : (s.updGroup g f).dies = s.dies := rfl
@[simp] theorem State.updGroup_domain (s : State) (g : Nat) (f : Group → Group) : (s.updGroup g f).domain = s.domain := rfl
@[simp] theorem State.updGroup_left (s : State) (g : Nat) (f : Group → Group) : (s.updGroup g f).left = s.left := rfl
@[simp] theorem State.updGroup_unreached (s : State) (g : Nat) (f : Group → Group) : (s.updGroup g f).unreached = s.unreached := rfl
@[simp] theorem State.updGroup_peerWaits (s : State) (g : Nat) (f : Group → Group) : (s.updGroup g f).peerWaits = s.peerWaits := rfl
@[simp] theorem State.updGroup_ports (s : State) (g : Nat) (f : Group → Group) : (s.updGroup g f).ports = s.ports := rfl
@[simp] theorem State.updGroup_boot (s : State) (g : Nat) (f : Group → Group) : (s.updGroup g f).boot = s.boot := rfl
@[simp] theorem State.updGroup_image (s : State) (g : Nat) (f : Group → Group) : (s.updGroup g f).image = s.image := rfl
@[simp] theorem State.updGroup_cfg (s : State) (g : Nat) (f : Group → Group) : (s.updGroup g f).cfg = s.cfg := rfl
@[simp] theorem State.updGroup_cfgUse (s : State) (g : Nat) (f : Group → Group) : (s.updGroup g f).cfgUse = s.cfgUse := rfl
@[simp] theorem State.updGroup_cert (s : State) (g : Nat) (f : Group → Group) : (s.updGroup g f).cert = s.cert := rfl
@[simp] theorem State.updGroup_storeFails (s : State) (g : Nat) (f : Group → Group) : (s.updGroup g f).storeFails = s.storeFails := rfl
@[simp] theorem State.updGroup_bootAt (s : State) (g : Nat) (f : Group → Group) : (s.updGroup g f).bootAt = s.bootAt := rfl
@[simp] theorem State.updGroup_selfTestAt (s : State) (g : Nat) (f : Group → Group) : (s.updGroup g f).selfTestAt = s.selfTestAt := rfl
@[simp] theorem State.updGroup_units (s : State) (g : Nat) (f : Group → Group) : (s.updGroup g f).units = s.units := rfl
@[simp] theorem State.updGroup_healthReplace (s : State) (g : Nat) (f : Group → Group) : (s.updGroup g f).healthReplace = s.healthReplace := rfl
@[simp] theorem State.updGroup_healthTrip (s : State) (g : Nat) (f : Group → Group) : (s.updGroup g f).healthTrip = s.healthTrip := rfl
@[simp] theorem State.updGroup_healthBoot (s : State) (g : Nat) (f : Group → Group) : (s.updGroup g f).healthBoot = s.healthBoot := rfl
@[simp] theorem State.updGroup_healthExh (s : State) (g : Nat) (f : Group → Group) : (s.updGroup g f).healthExh = s.healthExh := rfl
@[simp] theorem State.updGroup_cecnt (s : State) (g : Nat) (f : Group → Group) : (s.updGroup g f).cecnt = s.cecnt := rfl
@[simp] theorem State.updGroup_temps (s : State) (g : Nat) (f : Group → Group) : (s.updGroup g f).temps = s.temps := rfl
@[simp] theorem State.updGroup_tripHold (s : State) (g : Nat) (f : Group → Group) : (s.updGroup g f).tripHold = s.tripHold := rfl
@[simp] theorem State.updGroup_loweredAt (s : State) (g : Nat) (f : Group → Group) : (s.updGroup g f).loweredAt = s.loweredAt := rfl
@[simp] theorem State.updGroup_errLog (s : State) (g : Nat) (f : Group → Group) : (s.updGroup g f).errLog = s.errLog := rfl
@[simp] theorem State.updGroup_shootLog (s : State) (g : Nat) (f : Group → Group) : (s.updGroup g f).shootLog = s.shootLog := rfl
@[simp] theorem State.updGroup_msix (s : State) (g : Nat) (f : Group → Group) : (s.updGroup g f).msix = s.msix := rfl
@[simp] theorem State.updGroup_msixTable (s : State) (g : Nat) (f : Group → Group) : (s.updGroup g f).msixTable = s.msixTable := rfl
@[simp] theorem State.updGroup_hostReplies (s : State) (g : Nat) (f : Group → Group) : (s.updGroup g f).hostReplies = s.hostReplies := rfl
@[simp] theorem State.updGroup_resetsDone (s : State) (g : Nat) (f : Group → Group) : (s.updGroup g f).resetsDone = s.resetsDone := rfl
@[simp] theorem State.updGroup_syscalls (s : State) (g : Nat) (f : Group → Group) : (s.updGroup g f).syscalls = s.syscalls := rfl
@[simp] theorem State.updGroup_mailbox (s : State) (g : Nat) (f : Group → Group) : (s.updGroup g f).mailbox = s.mailbox := rfl

/-! ### updThread -/

@[simp] theorem State.updThread_agenda (s : State) (g l : Nat) (f : Thread → Thread) : (s.updThread g l f).agenda = s.agenda := rfl
@[simp] theorem State.updThread_fresh (s : State) (g l : Nat) (f : Thread → Thread) : (s.updThread g l f).fresh = s.fresh := rfl
@[simp] theorem State.updThread_cur (s : State) (g l : Nat) (f : Thread → Thread) : (s.updThread g l f).cur = s.cur := rfl
@[simp] theorem State.updThread_draw (s : State) (g l : Nat) (f : Thread → Thread) : (s.updThread g l f).draw = s.draw := rfl
@[simp] theorem State.updThread_rot (s : State) (g l : Nat) (f : Thread → Thread) : (s.updThread g l f).rot = s.rot := rfl
@[simp] theorem State.updThread_turn (s : State) (g l : Nat) (f : Thread → Thread) : (s.updThread g l f).turn = s.turn := rfl
@[simp] theorem State.updThread_devTurn (s : State) (g l : Nat) (f : Thread → Thread) : (s.updThread g l f).devTurn = s.devTurn := rfl
@[simp] theorem State.updThread_timeTurn (s : State) (g l : Nat) (f : Thread → Thread) : (s.updThread g l f).timeTurn = s.timeTurn := rfl
@[simp] theorem State.updThread_duty (s : State) (g l : Nat) (f : Thread → Thread) : (s.updThread g l f).duty = s.duty := rfl
@[simp] theorem State.updThread_actor (s : State) (g l : Nat) (f : Thread → Thread) : (s.updThread g l f).actor = s.actor := rfl
@[simp] theorem State.updThread_now (s : State) (g l : Nat) (f : Thread → Thread) : (s.updThread g l f).now = s.now := rfl
@[simp] theorem State.updThread_stepped (s : State) (g l : Nat) (f : Thread → Thread) : (s.updThread g l f).stepped = s.stepped := rfl
@[simp] theorem State.updThread_mem (s : State) (g l : Nat) (f : Thread → Thread) : (s.updThread g l f).mem = s.mem := rfl
@[simp] theorem State.updThread_dram (s : State) (g l : Nat) (f : Thread → Thread) : (s.updThread g l f).dram = s.dram := rfl
@[simp] theorem State.updThread_writers (s : State) (g l : Nat) (f : Thread → Thread) : (s.updThread g l f).writers = s.writers := rfl
@[simp] theorem State.updThread_poison (s : State) (g l : Nat) (f : Thread → Thread) : (s.updThread g l f).poison = s.poison := rfl
@[simp] theorem State.updThread_pens (s : State) (g l : Nat) (f : Thread → Thread) : (s.updThread g l f).pens = s.pens := rfl
@[simp] theorem State.updThread_tasks (s : State) (g l : Nat) (f : Thread → Thread) : (s.updThread g l f).tasks = s.tasks := rfl
@[simp] theorem State.updThread_launches (s : State) (g l : Nat) (f : Thread → Thread) : (s.updThread g l f).launches = s.launches := rfl
@[simp] theorem State.updThread_ctxs (s : State) (g l : Nat) (f : Thread → Thread) : (s.updThread g l f).ctxs = s.ctxs := rfl
@[simp] theorem State.updThread_members (s : State) (g l : Nat) (f : Thread → Thread) : (s.updThread g l f).members = s.members := rfl
@[simp] theorem State.updThread_reservations (s : State) (g l : Nat) (f : Thread → Thread) : (s.updThread g l f).reservations = s.reservations := rfl
@[simp] theorem State.updThread_conts (s : State) (g l : Nat) (f : Thread → Thread) : (s.updThread g l f).conts = s.conts := rfl
@[simp] theorem State.updThread_tethers (s : State) (g l : Nat) (f : Thread → Thread) : (s.updThread g l f).tethers = s.tethers := rfl
@[simp] theorem State.updThread_lostPops (s : State) (g l : Nat) (f : Thread → Thread) : (s.updThread g l f).lostPops = s.lostPops := rfl
@[simp] theorem State.updThread_ops (s : State) (g l : Nat) (f : Thread → Thread) : (s.updThread g l f).ops = s.ops := rfl
@[simp] theorem State.updThread_parked (s : State) (g l : Nat) (f : Thread → Thread) : (s.updThread g l f).parked = s.parked := rfl
@[simp] theorem State.updThread_cells (s : State) (g l : Nat) (f : Thread → Thread) : (s.updThread g l f).cells = s.cells := rfl
@[simp] theorem State.updThread_hists (s : State) (g l : Nat) (f : Thread → Thread) : (s.updThread g l f).hists = s.hists := rfl
@[simp] theorem State.updThread_runs (s : State) (g l : Nat) (f : Thread → Thread) : (s.updThread g l f).runs = s.runs := rfl
@[simp] theorem State.updThread_lastQueue (s : State) (g l : Nat) (f : Thread → Thread) : (s.updThread g l f).lastQueue = s.lastQueue := rfl
@[simp] theorem State.updThread_depActs (s : State) (g l : Nat) (f : Thread → Thread) : (s.updThread g l f).depActs = s.depActs := rfl
@[simp] theorem State.updThread_devWaits (s : State) (g l : Nat) (f : Thread → Thread) : (s.updThread g l f).devWaits = s.devWaits := rfl
@[simp] theorem State.updThread_shoots (s : State) (g l : Nat) (f : Thread → Thread) : (s.updThread g l f).shoots = s.shoots := rfl
@[simp] theorem State.updThread_gangs (s : State) (g l : Nat) (f : Thread → Thread) : (s.updThread g l f).gangs = s.gangs := rfl
@[simp] theorem State.updThread_dies (s : State) (g l : Nat) (f : Thread → Thread) : (s.updThread g l f).dies = s.dies := rfl
@[simp] theorem State.updThread_domain (s : State) (g l : Nat) (f : Thread → Thread) : (s.updThread g l f).domain = s.domain := rfl
@[simp] theorem State.updThread_left (s : State) (g l : Nat) (f : Thread → Thread) : (s.updThread g l f).left = s.left := rfl
@[simp] theorem State.updThread_unreached (s : State) (g l : Nat) (f : Thread → Thread) : (s.updThread g l f).unreached = s.unreached := rfl
@[simp] theorem State.updThread_peerWaits (s : State) (g l : Nat) (f : Thread → Thread) : (s.updThread g l f).peerWaits = s.peerWaits := rfl
@[simp] theorem State.updThread_ports (s : State) (g l : Nat) (f : Thread → Thread) : (s.updThread g l f).ports = s.ports := rfl
@[simp] theorem State.updThread_boot (s : State) (g l : Nat) (f : Thread → Thread) : (s.updThread g l f).boot = s.boot := rfl
@[simp] theorem State.updThread_image (s : State) (g l : Nat) (f : Thread → Thread) : (s.updThread g l f).image = s.image := rfl
@[simp] theorem State.updThread_cfg (s : State) (g l : Nat) (f : Thread → Thread) : (s.updThread g l f).cfg = s.cfg := rfl
@[simp] theorem State.updThread_cfgUse (s : State) (g l : Nat) (f : Thread → Thread) : (s.updThread g l f).cfgUse = s.cfgUse := rfl
@[simp] theorem State.updThread_cert (s : State) (g l : Nat) (f : Thread → Thread) : (s.updThread g l f).cert = s.cert := rfl
@[simp] theorem State.updThread_storeFails (s : State) (g l : Nat) (f : Thread → Thread) : (s.updThread g l f).storeFails = s.storeFails := rfl
@[simp] theorem State.updThread_bootAt (s : State) (g l : Nat) (f : Thread → Thread) : (s.updThread g l f).bootAt = s.bootAt := rfl
@[simp] theorem State.updThread_selfTestAt (s : State) (g l : Nat) (f : Thread → Thread) : (s.updThread g l f).selfTestAt = s.selfTestAt := rfl
@[simp] theorem State.updThread_units (s : State) (g l : Nat) (f : Thread → Thread) : (s.updThread g l f).units = s.units := rfl
@[simp] theorem State.updThread_healthReplace (s : State) (g l : Nat) (f : Thread → Thread) : (s.updThread g l f).healthReplace = s.healthReplace := rfl
@[simp] theorem State.updThread_healthTrip (s : State) (g l : Nat) (f : Thread → Thread) : (s.updThread g l f).healthTrip = s.healthTrip := rfl
@[simp] theorem State.updThread_healthBoot (s : State) (g l : Nat) (f : Thread → Thread) : (s.updThread g l f).healthBoot = s.healthBoot := rfl
@[simp] theorem State.updThread_healthExh (s : State) (g l : Nat) (f : Thread → Thread) : (s.updThread g l f).healthExh = s.healthExh := rfl
@[simp] theorem State.updThread_cecnt (s : State) (g l : Nat) (f : Thread → Thread) : (s.updThread g l f).cecnt = s.cecnt := rfl
@[simp] theorem State.updThread_temps (s : State) (g l : Nat) (f : Thread → Thread) : (s.updThread g l f).temps = s.temps := rfl
@[simp] theorem State.updThread_tripHold (s : State) (g l : Nat) (f : Thread → Thread) : (s.updThread g l f).tripHold = s.tripHold := rfl
@[simp] theorem State.updThread_loweredAt (s : State) (g l : Nat) (f : Thread → Thread) : (s.updThread g l f).loweredAt = s.loweredAt := rfl
@[simp] theorem State.updThread_errLog (s : State) (g l : Nat) (f : Thread → Thread) : (s.updThread g l f).errLog = s.errLog := rfl
@[simp] theorem State.updThread_shootLog (s : State) (g l : Nat) (f : Thread → Thread) : (s.updThread g l f).shootLog = s.shootLog := rfl
@[simp] theorem State.updThread_msix (s : State) (g l : Nat) (f : Thread → Thread) : (s.updThread g l f).msix = s.msix := rfl
@[simp] theorem State.updThread_msixTable (s : State) (g l : Nat) (f : Thread → Thread) : (s.updThread g l f).msixTable = s.msixTable := rfl
@[simp] theorem State.updThread_hostReplies (s : State) (g l : Nat) (f : Thread → Thread) : (s.updThread g l f).hostReplies = s.hostReplies := rfl
@[simp] theorem State.updThread_resetsDone (s : State) (g l : Nat) (f : Thread → Thread) : (s.updThread g l f).resetsDone = s.resetsDone := rfl
@[simp] theorem State.updThread_syscalls (s : State) (g l : Nat) (f : Thread → Thread) : (s.updThread g l f).syscalls = s.syscalls := rfl
@[simp] theorem State.updThread_mailbox (s : State) (g l : Nat) (f : Thread → Thread) : (s.updThread g l f).mailbox = s.mailbox := rfl

/-! ### mapThreads -/

@[simp] theorem State.mapThreads_agenda (s : State) (f : Group → Thread → Thread) : (s.mapThreads f).agenda = s.agenda := rfl
@[simp] theorem State.mapThreads_fresh (s : State) (f : Group → Thread → Thread) : (s.mapThreads f).fresh = s.fresh := rfl
@[simp] theorem State.mapThreads_cur (s : State) (f : Group → Thread → Thread) : (s.mapThreads f).cur = s.cur := rfl
@[simp] theorem State.mapThreads_draw (s : State) (f : Group → Thread → Thread) : (s.mapThreads f).draw = s.draw := rfl
@[simp] theorem State.mapThreads_rot (s : State) (f : Group → Thread → Thread) : (s.mapThreads f).rot = s.rot := rfl
@[simp] theorem State.mapThreads_turn (s : State) (f : Group → Thread → Thread) : (s.mapThreads f).turn = s.turn := rfl
@[simp] theorem State.mapThreads_devTurn (s : State) (f : Group → Thread → Thread) : (s.mapThreads f).devTurn = s.devTurn := rfl
@[simp] theorem State.mapThreads_timeTurn (s : State) (f : Group → Thread → Thread) : (s.mapThreads f).timeTurn = s.timeTurn := rfl
@[simp] theorem State.mapThreads_duty (s : State) (f : Group → Thread → Thread) : (s.mapThreads f).duty = s.duty := rfl
@[simp] theorem State.mapThreads_actor (s : State) (f : Group → Thread → Thread) : (s.mapThreads f).actor = s.actor := rfl
@[simp] theorem State.mapThreads_now (s : State) (f : Group → Thread → Thread) : (s.mapThreads f).now = s.now := rfl
@[simp] theorem State.mapThreads_stepped (s : State) (f : Group → Thread → Thread) : (s.mapThreads f).stepped = s.stepped := rfl
@[simp] theorem State.mapThreads_mem (s : State) (f : Group → Thread → Thread) : (s.mapThreads f).mem = s.mem := rfl
@[simp] theorem State.mapThreads_dram (s : State) (f : Group → Thread → Thread) : (s.mapThreads f).dram = s.dram := rfl
@[simp] theorem State.mapThreads_writers (s : State) (f : Group → Thread → Thread) : (s.mapThreads f).writers = s.writers := rfl
@[simp] theorem State.mapThreads_poison (s : State) (f : Group → Thread → Thread) : (s.mapThreads f).poison = s.poison := rfl
@[simp] theorem State.mapThreads_pens (s : State) (f : Group → Thread → Thread) : (s.mapThreads f).pens = s.pens := rfl
@[simp] theorem State.mapThreads_tasks (s : State) (f : Group → Thread → Thread) : (s.mapThreads f).tasks = s.tasks := rfl
@[simp] theorem State.mapThreads_launches (s : State) (f : Group → Thread → Thread) : (s.mapThreads f).launches = s.launches := rfl
@[simp] theorem State.mapThreads_ctxs (s : State) (f : Group → Thread → Thread) : (s.mapThreads f).ctxs = s.ctxs := rfl
@[simp] theorem State.mapThreads_members (s : State) (f : Group → Thread → Thread) : (s.mapThreads f).members = s.members := rfl
@[simp] theorem State.mapThreads_reservations (s : State) (f : Group → Thread → Thread) : (s.mapThreads f).reservations = s.reservations := rfl
@[simp] theorem State.mapThreads_conts (s : State) (f : Group → Thread → Thread) : (s.mapThreads f).conts = s.conts := rfl
@[simp] theorem State.mapThreads_tethers (s : State) (f : Group → Thread → Thread) : (s.mapThreads f).tethers = s.tethers := rfl
@[simp] theorem State.mapThreads_lostPops (s : State) (f : Group → Thread → Thread) : (s.mapThreads f).lostPops = s.lostPops := rfl
@[simp] theorem State.mapThreads_ops (s : State) (f : Group → Thread → Thread) : (s.mapThreads f).ops = s.ops := rfl
@[simp] theorem State.mapThreads_parked (s : State) (f : Group → Thread → Thread) : (s.mapThreads f).parked = s.parked := rfl
@[simp] theorem State.mapThreads_cells (s : State) (f : Group → Thread → Thread) : (s.mapThreads f).cells = s.cells := rfl
@[simp] theorem State.mapThreads_hists (s : State) (f : Group → Thread → Thread) : (s.mapThreads f).hists = s.hists := rfl
@[simp] theorem State.mapThreads_runs (s : State) (f : Group → Thread → Thread) : (s.mapThreads f).runs = s.runs := rfl
@[simp] theorem State.mapThreads_lastQueue (s : State) (f : Group → Thread → Thread) : (s.mapThreads f).lastQueue = s.lastQueue := rfl
@[simp] theorem State.mapThreads_depActs (s : State) (f : Group → Thread → Thread) : (s.mapThreads f).depActs = s.depActs := rfl
@[simp] theorem State.mapThreads_devWaits (s : State) (f : Group → Thread → Thread) : (s.mapThreads f).devWaits = s.devWaits := rfl
@[simp] theorem State.mapThreads_shoots (s : State) (f : Group → Thread → Thread) : (s.mapThreads f).shoots = s.shoots := rfl
@[simp] theorem State.mapThreads_gangs (s : State) (f : Group → Thread → Thread) : (s.mapThreads f).gangs = s.gangs := rfl
@[simp] theorem State.mapThreads_dies (s : State) (f : Group → Thread → Thread) : (s.mapThreads f).dies = s.dies := rfl
@[simp] theorem State.mapThreads_domain (s : State) (f : Group → Thread → Thread) : (s.mapThreads f).domain = s.domain := rfl
@[simp] theorem State.mapThreads_left (s : State) (f : Group → Thread → Thread) : (s.mapThreads f).left = s.left := rfl
@[simp] theorem State.mapThreads_unreached (s : State) (f : Group → Thread → Thread) : (s.mapThreads f).unreached = s.unreached := rfl
@[simp] theorem State.mapThreads_peerWaits (s : State) (f : Group → Thread → Thread) : (s.mapThreads f).peerWaits = s.peerWaits := rfl
@[simp] theorem State.mapThreads_ports (s : State) (f : Group → Thread → Thread) : (s.mapThreads f).ports = s.ports := rfl
@[simp] theorem State.mapThreads_boot (s : State) (f : Group → Thread → Thread) : (s.mapThreads f).boot = s.boot := rfl
@[simp] theorem State.mapThreads_image (s : State) (f : Group → Thread → Thread) : (s.mapThreads f).image = s.image := rfl
@[simp] theorem State.mapThreads_cfg (s : State) (f : Group → Thread → Thread) : (s.mapThreads f).cfg = s.cfg := rfl
@[simp] theorem State.mapThreads_cfgUse (s : State) (f : Group → Thread → Thread) : (s.mapThreads f).cfgUse = s.cfgUse := rfl
@[simp] theorem State.mapThreads_cert (s : State) (f : Group → Thread → Thread) : (s.mapThreads f).cert = s.cert := rfl
@[simp] theorem State.mapThreads_storeFails (s : State) (f : Group → Thread → Thread) : (s.mapThreads f).storeFails = s.storeFails := rfl
@[simp] theorem State.mapThreads_bootAt (s : State) (f : Group → Thread → Thread) : (s.mapThreads f).bootAt = s.bootAt := rfl
@[simp] theorem State.mapThreads_selfTestAt (s : State) (f : Group → Thread → Thread) : (s.mapThreads f).selfTestAt = s.selfTestAt := rfl
@[simp] theorem State.mapThreads_units (s : State) (f : Group → Thread → Thread) : (s.mapThreads f).units = s.units := rfl
@[simp] theorem State.mapThreads_healthReplace (s : State) (f : Group → Thread → Thread) : (s.mapThreads f).healthReplace = s.healthReplace := rfl
@[simp] theorem State.mapThreads_healthTrip (s : State) (f : Group → Thread → Thread) : (s.mapThreads f).healthTrip = s.healthTrip := rfl
@[simp] theorem State.mapThreads_healthBoot (s : State) (f : Group → Thread → Thread) : (s.mapThreads f).healthBoot = s.healthBoot := rfl
@[simp] theorem State.mapThreads_healthExh (s : State) (f : Group → Thread → Thread) : (s.mapThreads f).healthExh = s.healthExh := rfl
@[simp] theorem State.mapThreads_cecnt (s : State) (f : Group → Thread → Thread) : (s.mapThreads f).cecnt = s.cecnt := rfl
@[simp] theorem State.mapThreads_temps (s : State) (f : Group → Thread → Thread) : (s.mapThreads f).temps = s.temps := rfl
@[simp] theorem State.mapThreads_tripHold (s : State) (f : Group → Thread → Thread) : (s.mapThreads f).tripHold = s.tripHold := rfl
@[simp] theorem State.mapThreads_loweredAt (s : State) (f : Group → Thread → Thread) : (s.mapThreads f).loweredAt = s.loweredAt := rfl
@[simp] theorem State.mapThreads_errLog (s : State) (f : Group → Thread → Thread) : (s.mapThreads f).errLog = s.errLog := rfl
@[simp] theorem State.mapThreads_shootLog (s : State) (f : Group → Thread → Thread) : (s.mapThreads f).shootLog = s.shootLog := rfl
@[simp] theorem State.mapThreads_msix (s : State) (f : Group → Thread → Thread) : (s.mapThreads f).msix = s.msix := rfl
@[simp] theorem State.mapThreads_msixTable (s : State) (f : Group → Thread → Thread) : (s.mapThreads f).msixTable = s.msixTable := rfl
@[simp] theorem State.mapThreads_hostReplies (s : State) (f : Group → Thread → Thread) : (s.mapThreads f).hostReplies = s.hostReplies := rfl
@[simp] theorem State.mapThreads_resetsDone (s : State) (f : Group → Thread → Thread) : (s.mapThreads f).resetsDone = s.resetsDone := rfl
@[simp] theorem State.mapThreads_syscalls (s : State) (f : Group → Thread → Thread) : (s.mapThreads f).syscalls = s.syscalls := rfl
@[simp] theorem State.mapThreads_mailbox (s : State) (f : Group → Thread → Thread) : (s.mapThreads f).mailbox = s.mailbox := rfl

/-! ### updPen -/

@[simp] theorem State.updPen_agenda (s : State) (p : Nat) (f : Pen → Pen) : (s.updPen p f).agenda = s.agenda := rfl
@[simp] theorem State.updPen_fresh (s : State) (p : Nat) (f : Pen → Pen) : (s.updPen p f).fresh = s.fresh := rfl
@[simp] theorem State.updPen_cur (s : State) (p : Nat) (f : Pen → Pen) : (s.updPen p f).cur = s.cur := rfl
@[simp] theorem State.updPen_draw (s : State) (p : Nat) (f : Pen → Pen) : (s.updPen p f).draw = s.draw := rfl
@[simp] theorem State.updPen_rot (s : State) (p : Nat) (f : Pen → Pen) : (s.updPen p f).rot = s.rot := rfl
@[simp] theorem State.updPen_turn (s : State) (p : Nat) (f : Pen → Pen) : (s.updPen p f).turn = s.turn := rfl
@[simp] theorem State.updPen_devTurn (s : State) (p : Nat) (f : Pen → Pen) : (s.updPen p f).devTurn = s.devTurn := rfl
@[simp] theorem State.updPen_timeTurn (s : State) (p : Nat) (f : Pen → Pen) : (s.updPen p f).timeTurn = s.timeTurn := rfl
@[simp] theorem State.updPen_duty (s : State) (p : Nat) (f : Pen → Pen) : (s.updPen p f).duty = s.duty := rfl
@[simp] theorem State.updPen_actor (s : State) (p : Nat) (f : Pen → Pen) : (s.updPen p f).actor = s.actor := rfl
@[simp] theorem State.updPen_now (s : State) (p : Nat) (f : Pen → Pen) : (s.updPen p f).now = s.now := rfl
@[simp] theorem State.updPen_stepped (s : State) (p : Nat) (f : Pen → Pen) : (s.updPen p f).stepped = s.stepped := rfl
@[simp] theorem State.updPen_mem (s : State) (p : Nat) (f : Pen → Pen) : (s.updPen p f).mem = s.mem := rfl
@[simp] theorem State.updPen_dram (s : State) (p : Nat) (f : Pen → Pen) : (s.updPen p f).dram = s.dram := rfl
@[simp] theorem State.updPen_writers (s : State) (p : Nat) (f : Pen → Pen) : (s.updPen p f).writers = s.writers := rfl
@[simp] theorem State.updPen_poison (s : State) (p : Nat) (f : Pen → Pen) : (s.updPen p f).poison = s.poison := rfl
@[simp] theorem State.updPen_groups (s : State) (p : Nat) (f : Pen → Pen) : (s.updPen p f).groups = s.groups := rfl
@[simp] theorem State.updPen_tasks (s : State) (p : Nat) (f : Pen → Pen) : (s.updPen p f).tasks = s.tasks := rfl
@[simp] theorem State.updPen_launches (s : State) (p : Nat) (f : Pen → Pen) : (s.updPen p f).launches = s.launches := rfl
@[simp] theorem State.updPen_ctxs (s : State) (p : Nat) (f : Pen → Pen) : (s.updPen p f).ctxs = s.ctxs := rfl
@[simp] theorem State.updPen_members (s : State) (p : Nat) (f : Pen → Pen) : (s.updPen p f).members = s.members := rfl
@[simp] theorem State.updPen_reservations (s : State) (p : Nat) (f : Pen → Pen) : (s.updPen p f).reservations = s.reservations := rfl
@[simp] theorem State.updPen_conts (s : State) (p : Nat) (f : Pen → Pen) : (s.updPen p f).conts = s.conts := rfl
@[simp] theorem State.updPen_tethers (s : State) (p : Nat) (f : Pen → Pen) : (s.updPen p f).tethers = s.tethers := rfl
@[simp] theorem State.updPen_lostPops (s : State) (p : Nat) (f : Pen → Pen) : (s.updPen p f).lostPops = s.lostPops := rfl
@[simp] theorem State.updPen_ops (s : State) (p : Nat) (f : Pen → Pen) : (s.updPen p f).ops = s.ops := rfl
@[simp] theorem State.updPen_parked (s : State) (p : Nat) (f : Pen → Pen) : (s.updPen p f).parked = s.parked := rfl
@[simp] theorem State.updPen_cells (s : State) (p : Nat) (f : Pen → Pen) : (s.updPen p f).cells = s.cells := rfl
@[simp] theorem State.updPen_hists (s : State) (p : Nat) (f : Pen → Pen) : (s.updPen p f).hists = s.hists := rfl
@[simp] theorem State.updPen_runs (s : State) (p : Nat) (f : Pen → Pen) : (s.updPen p f).runs = s.runs := rfl
@[simp] theorem State.updPen_lastQueue (s : State) (p : Nat) (f : Pen → Pen) : (s.updPen p f).lastQueue = s.lastQueue := rfl
@[simp] theorem State.updPen_depActs (s : State) (p : Nat) (f : Pen → Pen) : (s.updPen p f).depActs = s.depActs := rfl
@[simp] theorem State.updPen_devWaits (s : State) (p : Nat) (f : Pen → Pen) : (s.updPen p f).devWaits = s.devWaits := rfl
@[simp] theorem State.updPen_shoots (s : State) (p : Nat) (f : Pen → Pen) : (s.updPen p f).shoots = s.shoots := rfl
@[simp] theorem State.updPen_gangs (s : State) (p : Nat) (f : Pen → Pen) : (s.updPen p f).gangs = s.gangs := rfl
@[simp] theorem State.updPen_dies (s : State) (p : Nat) (f : Pen → Pen) : (s.updPen p f).dies = s.dies := rfl
@[simp] theorem State.updPen_domain (s : State) (p : Nat) (f : Pen → Pen) : (s.updPen p f).domain = s.domain := rfl
@[simp] theorem State.updPen_left (s : State) (p : Nat) (f : Pen → Pen) : (s.updPen p f).left = s.left := rfl
@[simp] theorem State.updPen_unreached (s : State) (p : Nat) (f : Pen → Pen) : (s.updPen p f).unreached = s.unreached := rfl
@[simp] theorem State.updPen_peerWaits (s : State) (p : Nat) (f : Pen → Pen) : (s.updPen p f).peerWaits = s.peerWaits := rfl
@[simp] theorem State.updPen_ports (s : State) (p : Nat) (f : Pen → Pen) : (s.updPen p f).ports = s.ports := rfl
@[simp] theorem State.updPen_boot (s : State) (p : Nat) (f : Pen → Pen) : (s.updPen p f).boot = s.boot := rfl
@[simp] theorem State.updPen_image (s : State) (p : Nat) (f : Pen → Pen) : (s.updPen p f).image = s.image := rfl
@[simp] theorem State.updPen_cfg (s : State) (p : Nat) (f : Pen → Pen) : (s.updPen p f).cfg = s.cfg := rfl
@[simp] theorem State.updPen_cfgUse (s : State) (p : Nat) (f : Pen → Pen) : (s.updPen p f).cfgUse = s.cfgUse := rfl
@[simp] theorem State.updPen_cert (s : State) (p : Nat) (f : Pen → Pen) : (s.updPen p f).cert = s.cert := rfl
@[simp] theorem State.updPen_storeFails (s : State) (p : Nat) (f : Pen → Pen) : (s.updPen p f).storeFails = s.storeFails := rfl
@[simp] theorem State.updPen_bootAt (s : State) (p : Nat) (f : Pen → Pen) : (s.updPen p f).bootAt = s.bootAt := rfl
@[simp] theorem State.updPen_selfTestAt (s : State) (p : Nat) (f : Pen → Pen) : (s.updPen p f).selfTestAt = s.selfTestAt := rfl
@[simp] theorem State.updPen_units (s : State) (p : Nat) (f : Pen → Pen) : (s.updPen p f).units = s.units := rfl
@[simp] theorem State.updPen_healthReplace (s : State) (p : Nat) (f : Pen → Pen) : (s.updPen p f).healthReplace = s.healthReplace := rfl
@[simp] theorem State.updPen_healthTrip (s : State) (p : Nat) (f : Pen → Pen) : (s.updPen p f).healthTrip = s.healthTrip := rfl
@[simp] theorem State.updPen_healthBoot (s : State) (p : Nat) (f : Pen → Pen) : (s.updPen p f).healthBoot = s.healthBoot := rfl
@[simp] theorem State.updPen_healthExh (s : State) (p : Nat) (f : Pen → Pen) : (s.updPen p f).healthExh = s.healthExh := rfl
@[simp] theorem State.updPen_cecnt (s : State) (p : Nat) (f : Pen → Pen) : (s.updPen p f).cecnt = s.cecnt := rfl
@[simp] theorem State.updPen_temps (s : State) (p : Nat) (f : Pen → Pen) : (s.updPen p f).temps = s.temps := rfl
@[simp] theorem State.updPen_tripHold (s : State) (p : Nat) (f : Pen → Pen) : (s.updPen p f).tripHold = s.tripHold := rfl
@[simp] theorem State.updPen_loweredAt (s : State) (p : Nat) (f : Pen → Pen) : (s.updPen p f).loweredAt = s.loweredAt := rfl
@[simp] theorem State.updPen_errLog (s : State) (p : Nat) (f : Pen → Pen) : (s.updPen p f).errLog = s.errLog := rfl
@[simp] theorem State.updPen_shootLog (s : State) (p : Nat) (f : Pen → Pen) : (s.updPen p f).shootLog = s.shootLog := rfl
@[simp] theorem State.updPen_msix (s : State) (p : Nat) (f : Pen → Pen) : (s.updPen p f).msix = s.msix := rfl
@[simp] theorem State.updPen_msixTable (s : State) (p : Nat) (f : Pen → Pen) : (s.updPen p f).msixTable = s.msixTable := rfl
@[simp] theorem State.updPen_hostReplies (s : State) (p : Nat) (f : Pen → Pen) : (s.updPen p f).hostReplies = s.hostReplies := rfl
@[simp] theorem State.updPen_resetsDone (s : State) (p : Nat) (f : Pen → Pen) : (s.updPen p f).resetsDone = s.resetsDone := rfl
@[simp] theorem State.updPen_syscalls (s : State) (p : Nat) (f : Pen → Pen) : (s.updPen p f).syscalls = s.syscalls := rfl
@[simp] theorem State.updPen_mailbox (s : State) (p : Nat) (f : Pen → Pen) : (s.updPen p f).mailbox = s.mailbox := rfl

/-! ### updTask -/

@[simp] theorem State.updTask_agenda (s : State) (t : Nat) (f : Task → Task) : (s.updTask t f).agenda = s.agenda := rfl
@[simp] theorem State.updTask_fresh (s : State) (t : Nat) (f : Task → Task) : (s.updTask t f).fresh = s.fresh := rfl
@[simp] theorem State.updTask_cur (s : State) (t : Nat) (f : Task → Task) : (s.updTask t f).cur = s.cur := rfl
@[simp] theorem State.updTask_draw (s : State) (t : Nat) (f : Task → Task) : (s.updTask t f).draw = s.draw := rfl
@[simp] theorem State.updTask_rot (s : State) (t : Nat) (f : Task → Task) : (s.updTask t f).rot = s.rot := rfl
@[simp] theorem State.updTask_turn (s : State) (t : Nat) (f : Task → Task) : (s.updTask t f).turn = s.turn := rfl
@[simp] theorem State.updTask_devTurn (s : State) (t : Nat) (f : Task → Task) : (s.updTask t f).devTurn = s.devTurn := rfl
@[simp] theorem State.updTask_timeTurn (s : State) (t : Nat) (f : Task → Task) : (s.updTask t f).timeTurn = s.timeTurn := rfl
@[simp] theorem State.updTask_duty (s : State) (t : Nat) (f : Task → Task) : (s.updTask t f).duty = s.duty := rfl
@[simp] theorem State.updTask_actor (s : State) (t : Nat) (f : Task → Task) : (s.updTask t f).actor = s.actor := rfl
@[simp] theorem State.updTask_now (s : State) (t : Nat) (f : Task → Task) : (s.updTask t f).now = s.now := rfl
@[simp] theorem State.updTask_stepped (s : State) (t : Nat) (f : Task → Task) : (s.updTask t f).stepped = s.stepped := rfl
@[simp] theorem State.updTask_mem (s : State) (t : Nat) (f : Task → Task) : (s.updTask t f).mem = s.mem := rfl
@[simp] theorem State.updTask_dram (s : State) (t : Nat) (f : Task → Task) : (s.updTask t f).dram = s.dram := rfl
@[simp] theorem State.updTask_writers (s : State) (t : Nat) (f : Task → Task) : (s.updTask t f).writers = s.writers := rfl
@[simp] theorem State.updTask_poison (s : State) (t : Nat) (f : Task → Task) : (s.updTask t f).poison = s.poison := rfl
@[simp] theorem State.updTask_groups (s : State) (t : Nat) (f : Task → Task) : (s.updTask t f).groups = s.groups := rfl
@[simp] theorem State.updTask_pens (s : State) (t : Nat) (f : Task → Task) : (s.updTask t f).pens = s.pens := rfl
@[simp] theorem State.updTask_launches (s : State) (t : Nat) (f : Task → Task) : (s.updTask t f).launches = s.launches := rfl
@[simp] theorem State.updTask_ctxs (s : State) (t : Nat) (f : Task → Task) : (s.updTask t f).ctxs = s.ctxs := rfl
@[simp] theorem State.updTask_members (s : State) (t : Nat) (f : Task → Task) : (s.updTask t f).members = s.members := rfl
@[simp] theorem State.updTask_reservations (s : State) (t : Nat) (f : Task → Task) : (s.updTask t f).reservations = s.reservations := rfl
@[simp] theorem State.updTask_conts (s : State) (t : Nat) (f : Task → Task) : (s.updTask t f).conts = s.conts := rfl
@[simp] theorem State.updTask_tethers (s : State) (t : Nat) (f : Task → Task) : (s.updTask t f).tethers = s.tethers := rfl
@[simp] theorem State.updTask_lostPops (s : State) (t : Nat) (f : Task → Task) : (s.updTask t f).lostPops = s.lostPops := rfl
@[simp] theorem State.updTask_ops (s : State) (t : Nat) (f : Task → Task) : (s.updTask t f).ops = s.ops := rfl
@[simp] theorem State.updTask_parked (s : State) (t : Nat) (f : Task → Task) : (s.updTask t f).parked = s.parked := rfl
@[simp] theorem State.updTask_cells (s : State) (t : Nat) (f : Task → Task) : (s.updTask t f).cells = s.cells := rfl
@[simp] theorem State.updTask_hists (s : State) (t : Nat) (f : Task → Task) : (s.updTask t f).hists = s.hists := rfl
@[simp] theorem State.updTask_runs (s : State) (t : Nat) (f : Task → Task) : (s.updTask t f).runs = s.runs := rfl
@[simp] theorem State.updTask_lastQueue (s : State) (t : Nat) (f : Task → Task) : (s.updTask t f).lastQueue = s.lastQueue := rfl
@[simp] theorem State.updTask_depActs (s : State) (t : Nat) (f : Task → Task) : (s.updTask t f).depActs = s.depActs := rfl
@[simp] theorem State.updTask_devWaits (s : State) (t : Nat) (f : Task → Task) : (s.updTask t f).devWaits = s.devWaits := rfl
@[simp] theorem State.updTask_shoots (s : State) (t : Nat) (f : Task → Task) : (s.updTask t f).shoots = s.shoots := rfl
@[simp] theorem State.updTask_gangs (s : State) (t : Nat) (f : Task → Task) : (s.updTask t f).gangs = s.gangs := rfl
@[simp] theorem State.updTask_dies (s : State) (t : Nat) (f : Task → Task) : (s.updTask t f).dies = s.dies := rfl
@[simp] theorem State.updTask_domain (s : State) (t : Nat) (f : Task → Task) : (s.updTask t f).domain = s.domain := rfl
@[simp] theorem State.updTask_left (s : State) (t : Nat) (f : Task → Task) : (s.updTask t f).left = s.left := rfl
@[simp] theorem State.updTask_unreached (s : State) (t : Nat) (f : Task → Task) : (s.updTask t f).unreached = s.unreached := rfl
@[simp] theorem State.updTask_peerWaits (s : State) (t : Nat) (f : Task → Task) : (s.updTask t f).peerWaits = s.peerWaits := rfl
@[simp] theorem State.updTask_ports (s : State) (t : Nat) (f : Task → Task) : (s.updTask t f).ports = s.ports := rfl
@[simp] theorem State.updTask_boot (s : State) (t : Nat) (f : Task → Task) : (s.updTask t f).boot = s.boot := rfl
@[simp] theorem State.updTask_image (s : State) (t : Nat) (f : Task → Task) : (s.updTask t f).image = s.image := rfl
@[simp] theorem State.updTask_cfg (s : State) (t : Nat) (f : Task → Task) : (s.updTask t f).cfg = s.cfg := rfl
@[simp] theorem State.updTask_cfgUse (s : State) (t : Nat) (f : Task → Task) : (s.updTask t f).cfgUse = s.cfgUse := rfl
@[simp] theorem State.updTask_cert (s : State) (t : Nat) (f : Task → Task) : (s.updTask t f).cert = s.cert := rfl
@[simp] theorem State.updTask_storeFails (s : State) (t : Nat) (f : Task → Task) : (s.updTask t f).storeFails = s.storeFails := rfl
@[simp] theorem State.updTask_bootAt (s : State) (t : Nat) (f : Task → Task) : (s.updTask t f).bootAt = s.bootAt := rfl
@[simp] theorem State.updTask_selfTestAt (s : State) (t : Nat) (f : Task → Task) : (s.updTask t f).selfTestAt = s.selfTestAt := rfl
@[simp] theorem State.updTask_units (s : State) (t : Nat) (f : Task → Task) : (s.updTask t f).units = s.units := rfl
@[simp] theorem State.updTask_healthReplace (s : State) (t : Nat) (f : Task → Task) : (s.updTask t f).healthReplace = s.healthReplace := rfl
@[simp] theorem State.updTask_healthTrip (s : State) (t : Nat) (f : Task → Task) : (s.updTask t f).healthTrip = s.healthTrip := rfl
@[simp] theorem State.updTask_healthBoot (s : State) (t : Nat) (f : Task → Task) : (s.updTask t f).healthBoot = s.healthBoot := rfl
@[simp] theorem State.updTask_healthExh (s : State) (t : Nat) (f : Task → Task) : (s.updTask t f).healthExh = s.healthExh := rfl
@[simp] theorem State.updTask_cecnt (s : State) (t : Nat) (f : Task → Task) : (s.updTask t f).cecnt = s.cecnt := rfl
@[simp] theorem State.updTask_temps (s : State) (t : Nat) (f : Task → Task) : (s.updTask t f).temps = s.temps := rfl
@[simp] theorem State.updTask_tripHold (s : State) (t : Nat) (f : Task → Task) : (s.updTask t f).tripHold = s.tripHold := rfl
@[simp] theorem State.updTask_loweredAt (s : State) (t : Nat) (f : Task → Task) : (s.updTask t f).loweredAt = s.loweredAt := rfl
@[simp] theorem State.updTask_errLog (s : State) (t : Nat) (f : Task → Task) : (s.updTask t f).errLog = s.errLog := rfl
@[simp] theorem State.updTask_shootLog (s : State) (t : Nat) (f : Task → Task) : (s.updTask t f).shootLog = s.shootLog := rfl
@[simp] theorem State.updTask_msix (s : State) (t : Nat) (f : Task → Task) : (s.updTask t f).msix = s.msix := rfl
@[simp] theorem State.updTask_msixTable (s : State) (t : Nat) (f : Task → Task) : (s.updTask t f).msixTable = s.msixTable := rfl
@[simp] theorem State.updTask_hostReplies (s : State) (t : Nat) (f : Task → Task) : (s.updTask t f).hostReplies = s.hostReplies := rfl
@[simp] theorem State.updTask_resetsDone (s : State) (t : Nat) (f : Task → Task) : (s.updTask t f).resetsDone = s.resetsDone := rfl
@[simp] theorem State.updTask_syscalls (s : State) (t : Nat) (f : Task → Task) : (s.updTask t f).syscalls = s.syscalls := rfl
@[simp] theorem State.updTask_mailbox (s : State) (t : Nat) (f : Task → Task) : (s.updTask t f).mailbox = s.mailbox := rfl

/-! ### updLaunch -/

@[simp] theorem State.updLaunch_agenda (s : State) (l : Nat) (f : Launch → Launch) : (s.updLaunch l f).agenda = s.agenda := rfl
@[simp] theorem State.updLaunch_fresh (s : State) (l : Nat) (f : Launch → Launch) : (s.updLaunch l f).fresh = s.fresh := rfl
@[simp] theorem State.updLaunch_cur (s : State) (l : Nat) (f : Launch → Launch) : (s.updLaunch l f).cur = s.cur := rfl
@[simp] theorem State.updLaunch_draw (s : State) (l : Nat) (f : Launch → Launch) : (s.updLaunch l f).draw = s.draw := rfl
@[simp] theorem State.updLaunch_rot (s : State) (l : Nat) (f : Launch → Launch) : (s.updLaunch l f).rot = s.rot := rfl
@[simp] theorem State.updLaunch_turn (s : State) (l : Nat) (f : Launch → Launch) : (s.updLaunch l f).turn = s.turn := rfl
@[simp] theorem State.updLaunch_devTurn (s : State) (l : Nat) (f : Launch → Launch) : (s.updLaunch l f).devTurn = s.devTurn := rfl
@[simp] theorem State.updLaunch_timeTurn (s : State) (l : Nat) (f : Launch → Launch) : (s.updLaunch l f).timeTurn = s.timeTurn := rfl
@[simp] theorem State.updLaunch_duty (s : State) (l : Nat) (f : Launch → Launch) : (s.updLaunch l f).duty = s.duty := rfl
@[simp] theorem State.updLaunch_actor (s : State) (l : Nat) (f : Launch → Launch) : (s.updLaunch l f).actor = s.actor := rfl
@[simp] theorem State.updLaunch_now (s : State) (l : Nat) (f : Launch → Launch) : (s.updLaunch l f).now = s.now := rfl
@[simp] theorem State.updLaunch_stepped (s : State) (l : Nat) (f : Launch → Launch) : (s.updLaunch l f).stepped = s.stepped := rfl
@[simp] theorem State.updLaunch_mem (s : State) (l : Nat) (f : Launch → Launch) : (s.updLaunch l f).mem = s.mem := rfl
@[simp] theorem State.updLaunch_dram (s : State) (l : Nat) (f : Launch → Launch) : (s.updLaunch l f).dram = s.dram := rfl
@[simp] theorem State.updLaunch_writers (s : State) (l : Nat) (f : Launch → Launch) : (s.updLaunch l f).writers = s.writers := rfl
@[simp] theorem State.updLaunch_poison (s : State) (l : Nat) (f : Launch → Launch) : (s.updLaunch l f).poison = s.poison := rfl
@[simp] theorem State.updLaunch_groups (s : State) (l : Nat) (f : Launch → Launch) : (s.updLaunch l f).groups = s.groups := rfl
@[simp] theorem State.updLaunch_pens (s : State) (l : Nat) (f : Launch → Launch) : (s.updLaunch l f).pens = s.pens := rfl
@[simp] theorem State.updLaunch_tasks (s : State) (l : Nat) (f : Launch → Launch) : (s.updLaunch l f).tasks = s.tasks := rfl
@[simp] theorem State.updLaunch_ctxs (s : State) (l : Nat) (f : Launch → Launch) : (s.updLaunch l f).ctxs = s.ctxs := rfl
@[simp] theorem State.updLaunch_members (s : State) (l : Nat) (f : Launch → Launch) : (s.updLaunch l f).members = s.members := rfl
@[simp] theorem State.updLaunch_reservations (s : State) (l : Nat) (f : Launch → Launch) : (s.updLaunch l f).reservations = s.reservations := rfl
@[simp] theorem State.updLaunch_conts (s : State) (l : Nat) (f : Launch → Launch) : (s.updLaunch l f).conts = s.conts := rfl
@[simp] theorem State.updLaunch_tethers (s : State) (l : Nat) (f : Launch → Launch) : (s.updLaunch l f).tethers = s.tethers := rfl
@[simp] theorem State.updLaunch_lostPops (s : State) (l : Nat) (f : Launch → Launch) : (s.updLaunch l f).lostPops = s.lostPops := rfl
@[simp] theorem State.updLaunch_ops (s : State) (l : Nat) (f : Launch → Launch) : (s.updLaunch l f).ops = s.ops := rfl
@[simp] theorem State.updLaunch_parked (s : State) (l : Nat) (f : Launch → Launch) : (s.updLaunch l f).parked = s.parked := rfl
@[simp] theorem State.updLaunch_cells (s : State) (l : Nat) (f : Launch → Launch) : (s.updLaunch l f).cells = s.cells := rfl
@[simp] theorem State.updLaunch_hists (s : State) (l : Nat) (f : Launch → Launch) : (s.updLaunch l f).hists = s.hists := rfl
@[simp] theorem State.updLaunch_runs (s : State) (l : Nat) (f : Launch → Launch) : (s.updLaunch l f).runs = s.runs := rfl
@[simp] theorem State.updLaunch_lastQueue (s : State) (l : Nat) (f : Launch → Launch) : (s.updLaunch l f).lastQueue = s.lastQueue := rfl
@[simp] theorem State.updLaunch_depActs (s : State) (l : Nat) (f : Launch → Launch) : (s.updLaunch l f).depActs = s.depActs := rfl
@[simp] theorem State.updLaunch_devWaits (s : State) (l : Nat) (f : Launch → Launch) : (s.updLaunch l f).devWaits = s.devWaits := rfl
@[simp] theorem State.updLaunch_shoots (s : State) (l : Nat) (f : Launch → Launch) : (s.updLaunch l f).shoots = s.shoots := rfl
@[simp] theorem State.updLaunch_gangs (s : State) (l : Nat) (f : Launch → Launch) : (s.updLaunch l f).gangs = s.gangs := rfl
@[simp] theorem State.updLaunch_dies (s : State) (l : Nat) (f : Launch → Launch) : (s.updLaunch l f).dies = s.dies := rfl
@[simp] theorem State.updLaunch_domain (s : State) (l : Nat) (f : Launch → Launch) : (s.updLaunch l f).domain = s.domain := rfl
@[simp] theorem State.updLaunch_left (s : State) (l : Nat) (f : Launch → Launch) : (s.updLaunch l f).left = s.left := rfl
@[simp] theorem State.updLaunch_unreached (s : State) (l : Nat) (f : Launch → Launch) : (s.updLaunch l f).unreached = s.unreached := rfl
@[simp] theorem State.updLaunch_peerWaits (s : State) (l : Nat) (f : Launch → Launch) : (s.updLaunch l f).peerWaits = s.peerWaits := rfl
@[simp] theorem State.updLaunch_ports (s : State) (l : Nat) (f : Launch → Launch) : (s.updLaunch l f).ports = s.ports := rfl
@[simp] theorem State.updLaunch_boot (s : State) (l : Nat) (f : Launch → Launch) : (s.updLaunch l f).boot = s.boot := rfl
@[simp] theorem State.updLaunch_image (s : State) (l : Nat) (f : Launch → Launch) : (s.updLaunch l f).image = s.image := rfl
@[simp] theorem State.updLaunch_cfg (s : State) (l : Nat) (f : Launch → Launch) : (s.updLaunch l f).cfg = s.cfg := rfl
@[simp] theorem State.updLaunch_cfgUse (s : State) (l : Nat) (f : Launch → Launch) : (s.updLaunch l f).cfgUse = s.cfgUse := rfl
@[simp] theorem State.updLaunch_cert (s : State) (l : Nat) (f : Launch → Launch) : (s.updLaunch l f).cert = s.cert := rfl
@[simp] theorem State.updLaunch_storeFails (s : State) (l : Nat) (f : Launch → Launch) : (s.updLaunch l f).storeFails = s.storeFails := rfl
@[simp] theorem State.updLaunch_bootAt (s : State) (l : Nat) (f : Launch → Launch) : (s.updLaunch l f).bootAt = s.bootAt := rfl
@[simp] theorem State.updLaunch_selfTestAt (s : State) (l : Nat) (f : Launch → Launch) : (s.updLaunch l f).selfTestAt = s.selfTestAt := rfl
@[simp] theorem State.updLaunch_units (s : State) (l : Nat) (f : Launch → Launch) : (s.updLaunch l f).units = s.units := rfl
@[simp] theorem State.updLaunch_healthReplace (s : State) (l : Nat) (f : Launch → Launch) : (s.updLaunch l f).healthReplace = s.healthReplace := rfl
@[simp] theorem State.updLaunch_healthTrip (s : State) (l : Nat) (f : Launch → Launch) : (s.updLaunch l f).healthTrip = s.healthTrip := rfl
@[simp] theorem State.updLaunch_healthBoot (s : State) (l : Nat) (f : Launch → Launch) : (s.updLaunch l f).healthBoot = s.healthBoot := rfl
@[simp] theorem State.updLaunch_healthExh (s : State) (l : Nat) (f : Launch → Launch) : (s.updLaunch l f).healthExh = s.healthExh := rfl
@[simp] theorem State.updLaunch_cecnt (s : State) (l : Nat) (f : Launch → Launch) : (s.updLaunch l f).cecnt = s.cecnt := rfl
@[simp] theorem State.updLaunch_temps (s : State) (l : Nat) (f : Launch → Launch) : (s.updLaunch l f).temps = s.temps := rfl
@[simp] theorem State.updLaunch_tripHold (s : State) (l : Nat) (f : Launch → Launch) : (s.updLaunch l f).tripHold = s.tripHold := rfl
@[simp] theorem State.updLaunch_loweredAt (s : State) (l : Nat) (f : Launch → Launch) : (s.updLaunch l f).loweredAt = s.loweredAt := rfl
@[simp] theorem State.updLaunch_errLog (s : State) (l : Nat) (f : Launch → Launch) : (s.updLaunch l f).errLog = s.errLog := rfl
@[simp] theorem State.updLaunch_shootLog (s : State) (l : Nat) (f : Launch → Launch) : (s.updLaunch l f).shootLog = s.shootLog := rfl
@[simp] theorem State.updLaunch_msix (s : State) (l : Nat) (f : Launch → Launch) : (s.updLaunch l f).msix = s.msix := rfl
@[simp] theorem State.updLaunch_msixTable (s : State) (l : Nat) (f : Launch → Launch) : (s.updLaunch l f).msixTable = s.msixTable := rfl
@[simp] theorem State.updLaunch_hostReplies (s : State) (l : Nat) (f : Launch → Launch) : (s.updLaunch l f).hostReplies = s.hostReplies := rfl
@[simp] theorem State.updLaunch_resetsDone (s : State) (l : Nat) (f : Launch → Launch) : (s.updLaunch l f).resetsDone = s.resetsDone := rfl
@[simp] theorem State.updLaunch_syscalls (s : State) (l : Nat) (f : Launch → Launch) : (s.updLaunch l f).syscalls = s.syscalls := rfl
@[simp] theorem State.updLaunch_mailbox (s : State) (l : Nat) (f : Launch → Launch) : (s.updLaunch l f).mailbox = s.mailbox := rfl

/-! ### updCtx -/

@[simp] theorem State.updCtx_agenda (s : State) (c : Nat) (f : Context → Context) : (s.updCtx c f).agenda = s.agenda := rfl
@[simp] theorem State.updCtx_fresh (s : State) (c : Nat) (f : Context → Context) : (s.updCtx c f).fresh = s.fresh := rfl
@[simp] theorem State.updCtx_cur (s : State) (c : Nat) (f : Context → Context) : (s.updCtx c f).cur = s.cur := rfl
@[simp] theorem State.updCtx_draw (s : State) (c : Nat) (f : Context → Context) : (s.updCtx c f).draw = s.draw := rfl
@[simp] theorem State.updCtx_rot (s : State) (c : Nat) (f : Context → Context) : (s.updCtx c f).rot = s.rot := rfl
@[simp] theorem State.updCtx_turn (s : State) (c : Nat) (f : Context → Context) : (s.updCtx c f).turn = s.turn := rfl
@[simp] theorem State.updCtx_devTurn (s : State) (c : Nat) (f : Context → Context) : (s.updCtx c f).devTurn = s.devTurn := rfl
@[simp] theorem State.updCtx_timeTurn (s : State) (c : Nat) (f : Context → Context) : (s.updCtx c f).timeTurn = s.timeTurn := rfl
@[simp] theorem State.updCtx_duty (s : State) (c : Nat) (f : Context → Context) : (s.updCtx c f).duty = s.duty := rfl
@[simp] theorem State.updCtx_actor (s : State) (c : Nat) (f : Context → Context) : (s.updCtx c f).actor = s.actor := rfl
@[simp] theorem State.updCtx_now (s : State) (c : Nat) (f : Context → Context) : (s.updCtx c f).now = s.now := rfl
@[simp] theorem State.updCtx_stepped (s : State) (c : Nat) (f : Context → Context) : (s.updCtx c f).stepped = s.stepped := rfl
@[simp] theorem State.updCtx_mem (s : State) (c : Nat) (f : Context → Context) : (s.updCtx c f).mem = s.mem := rfl
@[simp] theorem State.updCtx_dram (s : State) (c : Nat) (f : Context → Context) : (s.updCtx c f).dram = s.dram := rfl
@[simp] theorem State.updCtx_writers (s : State) (c : Nat) (f : Context → Context) : (s.updCtx c f).writers = s.writers := rfl
@[simp] theorem State.updCtx_poison (s : State) (c : Nat) (f : Context → Context) : (s.updCtx c f).poison = s.poison := rfl
@[simp] theorem State.updCtx_groups (s : State) (c : Nat) (f : Context → Context) : (s.updCtx c f).groups = s.groups := rfl
@[simp] theorem State.updCtx_pens (s : State) (c : Nat) (f : Context → Context) : (s.updCtx c f).pens = s.pens := rfl
@[simp] theorem State.updCtx_tasks (s : State) (c : Nat) (f : Context → Context) : (s.updCtx c f).tasks = s.tasks := rfl
@[simp] theorem State.updCtx_launches (s : State) (c : Nat) (f : Context → Context) : (s.updCtx c f).launches = s.launches := rfl
@[simp] theorem State.updCtx_members (s : State) (c : Nat) (f : Context → Context) : (s.updCtx c f).members = s.members := rfl
@[simp] theorem State.updCtx_reservations (s : State) (c : Nat) (f : Context → Context) : (s.updCtx c f).reservations = s.reservations := rfl
@[simp] theorem State.updCtx_conts (s : State) (c : Nat) (f : Context → Context) : (s.updCtx c f).conts = s.conts := rfl
@[simp] theorem State.updCtx_tethers (s : State) (c : Nat) (f : Context → Context) : (s.updCtx c f).tethers = s.tethers := rfl
@[simp] theorem State.updCtx_lostPops (s : State) (c : Nat) (f : Context → Context) : (s.updCtx c f).lostPops = s.lostPops := rfl
@[simp] theorem State.updCtx_ops (s : State) (c : Nat) (f : Context → Context) : (s.updCtx c f).ops = s.ops := rfl
@[simp] theorem State.updCtx_parked (s : State) (c : Nat) (f : Context → Context) : (s.updCtx c f).parked = s.parked := rfl
@[simp] theorem State.updCtx_cells (s : State) (c : Nat) (f : Context → Context) : (s.updCtx c f).cells = s.cells := rfl
@[simp] theorem State.updCtx_hists (s : State) (c : Nat) (f : Context → Context) : (s.updCtx c f).hists = s.hists := rfl
@[simp] theorem State.updCtx_runs (s : State) (c : Nat) (f : Context → Context) : (s.updCtx c f).runs = s.runs := rfl
@[simp] theorem State.updCtx_lastQueue (s : State) (c : Nat) (f : Context → Context) : (s.updCtx c f).lastQueue = s.lastQueue := rfl
@[simp] theorem State.updCtx_depActs (s : State) (c : Nat) (f : Context → Context) : (s.updCtx c f).depActs = s.depActs := rfl
@[simp] theorem State.updCtx_devWaits (s : State) (c : Nat) (f : Context → Context) : (s.updCtx c f).devWaits = s.devWaits := rfl
@[simp] theorem State.updCtx_shoots (s : State) (c : Nat) (f : Context → Context) : (s.updCtx c f).shoots = s.shoots := rfl
@[simp] theorem State.updCtx_gangs (s : State) (c : Nat) (f : Context → Context) : (s.updCtx c f).gangs = s.gangs := rfl
@[simp] theorem State.updCtx_dies (s : State) (c : Nat) (f : Context → Context) : (s.updCtx c f).dies = s.dies := rfl
@[simp] theorem State.updCtx_domain (s : State) (c : Nat) (f : Context → Context) : (s.updCtx c f).domain = s.domain := rfl
@[simp] theorem State.updCtx_left (s : State) (c : Nat) (f : Context → Context) : (s.updCtx c f).left = s.left := rfl
@[simp] theorem State.updCtx_unreached (s : State) (c : Nat) (f : Context → Context) : (s.updCtx c f).unreached = s.unreached := rfl
@[simp] theorem State.updCtx_peerWaits (s : State) (c : Nat) (f : Context → Context) : (s.updCtx c f).peerWaits = s.peerWaits := rfl
@[simp] theorem State.updCtx_ports (s : State) (c : Nat) (f : Context → Context) : (s.updCtx c f).ports = s.ports := rfl
@[simp] theorem State.updCtx_boot (s : State) (c : Nat) (f : Context → Context) : (s.updCtx c f).boot = s.boot := rfl
@[simp] theorem State.updCtx_image (s : State) (c : Nat) (f : Context → Context) : (s.updCtx c f).image = s.image := rfl
@[simp] theorem State.updCtx_cfg (s : State) (c : Nat) (f : Context → Context) : (s.updCtx c f).cfg = s.cfg := rfl
@[simp] theorem State.updCtx_cfgUse (s : State) (c : Nat) (f : Context → Context) : (s.updCtx c f).cfgUse = s.cfgUse := rfl
@[simp] theorem State.updCtx_cert (s : State) (c : Nat) (f : Context → Context) : (s.updCtx c f).cert = s.cert := rfl
@[simp] theorem State.updCtx_storeFails (s : State) (c : Nat) (f : Context → Context) : (s.updCtx c f).storeFails = s.storeFails := rfl
@[simp] theorem State.updCtx_bootAt (s : State) (c : Nat) (f : Context → Context) : (s.updCtx c f).bootAt = s.bootAt := rfl
@[simp] theorem State.updCtx_selfTestAt (s : State) (c : Nat) (f : Context → Context) : (s.updCtx c f).selfTestAt = s.selfTestAt := rfl
@[simp] theorem State.updCtx_units (s : State) (c : Nat) (f : Context → Context) : (s.updCtx c f).units = s.units := rfl
@[simp] theorem State.updCtx_healthReplace (s : State) (c : Nat) (f : Context → Context) : (s.updCtx c f).healthReplace = s.healthReplace := rfl
@[simp] theorem State.updCtx_healthTrip (s : State) (c : Nat) (f : Context → Context) : (s.updCtx c f).healthTrip = s.healthTrip := rfl
@[simp] theorem State.updCtx_healthBoot (s : State) (c : Nat) (f : Context → Context) : (s.updCtx c f).healthBoot = s.healthBoot := rfl
@[simp] theorem State.updCtx_healthExh (s : State) (c : Nat) (f : Context → Context) : (s.updCtx c f).healthExh = s.healthExh := rfl
@[simp] theorem State.updCtx_cecnt (s : State) (c : Nat) (f : Context → Context) : (s.updCtx c f).cecnt = s.cecnt := rfl
@[simp] theorem State.updCtx_temps (s : State) (c : Nat) (f : Context → Context) : (s.updCtx c f).temps = s.temps := rfl
@[simp] theorem State.updCtx_tripHold (s : State) (c : Nat) (f : Context → Context) : (s.updCtx c f).tripHold = s.tripHold := rfl
@[simp] theorem State.updCtx_loweredAt (s : State) (c : Nat) (f : Context → Context) : (s.updCtx c f).loweredAt = s.loweredAt := rfl
@[simp] theorem State.updCtx_errLog (s : State) (c : Nat) (f : Context → Context) : (s.updCtx c f).errLog = s.errLog := rfl
@[simp] theorem State.updCtx_shootLog (s : State) (c : Nat) (f : Context → Context) : (s.updCtx c f).shootLog = s.shootLog := rfl
@[simp] theorem State.updCtx_msix (s : State) (c : Nat) (f : Context → Context) : (s.updCtx c f).msix = s.msix := rfl
@[simp] theorem State.updCtx_msixTable (s : State) (c : Nat) (f : Context → Context) : (s.updCtx c f).msixTable = s.msixTable := rfl
@[simp] theorem State.updCtx_hostReplies (s : State) (c : Nat) (f : Context → Context) : (s.updCtx c f).hostReplies = s.hostReplies := rfl
@[simp] theorem State.updCtx_resetsDone (s : State) (c : Nat) (f : Context → Context) : (s.updCtx c f).resetsDone = s.resetsDone := rfl
@[simp] theorem State.updCtx_syscalls (s : State) (c : Nat) (f : Context → Context) : (s.updCtx c f).syscalls = s.syscalls := rfl
@[simp] theorem State.updCtx_mailbox (s : State) (c : Nat) (f : Context → Context) : (s.updCtx c f).mailbox = s.mailbox := rfl

/-! ### updDie -/

@[simp] theorem State.updDie_agenda (s : State) (d : Nat) (f : Die → Die) : (s.updDie d f).agenda = s.agenda := rfl
@[simp] theorem State.updDie_fresh (s : State) (d : Nat) (f : Die → Die) : (s.updDie d f).fresh = s.fresh := rfl
@[simp] theorem State.updDie_cur (s : State) (d : Nat) (f : Die → Die) : (s.updDie d f).cur = s.cur := rfl
@[simp] theorem State.updDie_draw (s : State) (d : Nat) (f : Die → Die) : (s.updDie d f).draw = s.draw := rfl
@[simp] theorem State.updDie_rot (s : State) (d : Nat) (f : Die → Die) : (s.updDie d f).rot = s.rot := rfl
@[simp] theorem State.updDie_turn (s : State) (d : Nat) (f : Die → Die) : (s.updDie d f).turn = s.turn := rfl
@[simp] theorem State.updDie_devTurn (s : State) (d : Nat) (f : Die → Die) : (s.updDie d f).devTurn = s.devTurn := rfl
@[simp] theorem State.updDie_timeTurn (s : State) (d : Nat) (f : Die → Die) : (s.updDie d f).timeTurn = s.timeTurn := rfl
@[simp] theorem State.updDie_duty (s : State) (d : Nat) (f : Die → Die) : (s.updDie d f).duty = s.duty := rfl
@[simp] theorem State.updDie_actor (s : State) (d : Nat) (f : Die → Die) : (s.updDie d f).actor = s.actor := rfl
@[simp] theorem State.updDie_now (s : State) (d : Nat) (f : Die → Die) : (s.updDie d f).now = s.now := rfl
@[simp] theorem State.updDie_stepped (s : State) (d : Nat) (f : Die → Die) : (s.updDie d f).stepped = s.stepped := rfl
@[simp] theorem State.updDie_mem (s : State) (d : Nat) (f : Die → Die) : (s.updDie d f).mem = s.mem := rfl
@[simp] theorem State.updDie_dram (s : State) (d : Nat) (f : Die → Die) : (s.updDie d f).dram = s.dram := rfl
@[simp] theorem State.updDie_writers (s : State) (d : Nat) (f : Die → Die) : (s.updDie d f).writers = s.writers := rfl
@[simp] theorem State.updDie_poison (s : State) (d : Nat) (f : Die → Die) : (s.updDie d f).poison = s.poison := rfl
@[simp] theorem State.updDie_groups (s : State) (d : Nat) (f : Die → Die) : (s.updDie d f).groups = s.groups := rfl
@[simp] theorem State.updDie_pens (s : State) (d : Nat) (f : Die → Die) : (s.updDie d f).pens = s.pens := rfl
@[simp] theorem State.updDie_tasks (s : State) (d : Nat) (f : Die → Die) : (s.updDie d f).tasks = s.tasks := rfl
@[simp] theorem State.updDie_launches (s : State) (d : Nat) (f : Die → Die) : (s.updDie d f).launches = s.launches := rfl
@[simp] theorem State.updDie_ctxs (s : State) (d : Nat) (f : Die → Die) : (s.updDie d f).ctxs = s.ctxs := rfl
@[simp] theorem State.updDie_members (s : State) (d : Nat) (f : Die → Die) : (s.updDie d f).members = s.members := rfl
@[simp] theorem State.updDie_reservations (s : State) (d : Nat) (f : Die → Die) : (s.updDie d f).reservations = s.reservations := rfl
@[simp] theorem State.updDie_conts (s : State) (d : Nat) (f : Die → Die) : (s.updDie d f).conts = s.conts := rfl
@[simp] theorem State.updDie_tethers (s : State) (d : Nat) (f : Die → Die) : (s.updDie d f).tethers = s.tethers := rfl
@[simp] theorem State.updDie_lostPops (s : State) (d : Nat) (f : Die → Die) : (s.updDie d f).lostPops = s.lostPops := rfl
@[simp] theorem State.updDie_ops (s : State) (d : Nat) (f : Die → Die) : (s.updDie d f).ops = s.ops := rfl
@[simp] theorem State.updDie_parked (s : State) (d : Nat) (f : Die → Die) : (s.updDie d f).parked = s.parked := rfl
@[simp] theorem State.updDie_cells (s : State) (d : Nat) (f : Die → Die) : (s.updDie d f).cells = s.cells := rfl
@[simp] theorem State.updDie_hists (s : State) (d : Nat) (f : Die → Die) : (s.updDie d f).hists = s.hists := rfl
@[simp] theorem State.updDie_runs (s : State) (d : Nat) (f : Die → Die) : (s.updDie d f).runs = s.runs := rfl
@[simp] theorem State.updDie_lastQueue (s : State) (d : Nat) (f : Die → Die) : (s.updDie d f).lastQueue = s.lastQueue := rfl
@[simp] theorem State.updDie_depActs (s : State) (d : Nat) (f : Die → Die) : (s.updDie d f).depActs = s.depActs := rfl
@[simp] theorem State.updDie_devWaits (s : State) (d : Nat) (f : Die → Die) : (s.updDie d f).devWaits = s.devWaits := rfl
@[simp] theorem State.updDie_shoots (s : State) (d : Nat) (f : Die → Die) : (s.updDie d f).shoots = s.shoots := rfl
@[simp] theorem State.updDie_gangs (s : State) (d : Nat) (f : Die → Die) : (s.updDie d f).gangs = s.gangs := rfl
@[simp] theorem State.updDie_domain (s : State) (d : Nat) (f : Die → Die) : (s.updDie d f).domain = s.domain := rfl
@[simp] theorem State.updDie_left (s : State) (d : Nat) (f : Die → Die) : (s.updDie d f).left = s.left := rfl
@[simp] theorem State.updDie_unreached (s : State) (d : Nat) (f : Die → Die) : (s.updDie d f).unreached = s.unreached := rfl
@[simp] theorem State.updDie_peerWaits (s : State) (d : Nat) (f : Die → Die) : (s.updDie d f).peerWaits = s.peerWaits := rfl
@[simp] theorem State.updDie_ports (s : State) (d : Nat) (f : Die → Die) : (s.updDie d f).ports = s.ports := rfl
@[simp] theorem State.updDie_boot (s : State) (d : Nat) (f : Die → Die) : (s.updDie d f).boot = s.boot := rfl
@[simp] theorem State.updDie_image (s : State) (d : Nat) (f : Die → Die) : (s.updDie d f).image = s.image := rfl
@[simp] theorem State.updDie_cfg (s : State) (d : Nat) (f : Die → Die) : (s.updDie d f).cfg = s.cfg := rfl
@[simp] theorem State.updDie_cfgUse (s : State) (d : Nat) (f : Die → Die) : (s.updDie d f).cfgUse = s.cfgUse := rfl
@[simp] theorem State.updDie_cert (s : State) (d : Nat) (f : Die → Die) : (s.updDie d f).cert = s.cert := rfl
@[simp] theorem State.updDie_storeFails (s : State) (d : Nat) (f : Die → Die) : (s.updDie d f).storeFails = s.storeFails := rfl
@[simp] theorem State.updDie_bootAt (s : State) (d : Nat) (f : Die → Die) : (s.updDie d f).bootAt = s.bootAt := rfl
@[simp] theorem State.updDie_selfTestAt (s : State) (d : Nat) (f : Die → Die) : (s.updDie d f).selfTestAt = s.selfTestAt := rfl
@[simp] theorem State.updDie_units (s : State) (d : Nat) (f : Die → Die) : (s.updDie d f).units = s.units := rfl
@[simp] theorem State.updDie_healthReplace (s : State) (d : Nat) (f : Die → Die) : (s.updDie d f).healthReplace = s.healthReplace := rfl
@[simp] theorem State.updDie_healthTrip (s : State) (d : Nat) (f : Die → Die) : (s.updDie d f).healthTrip = s.healthTrip := rfl
@[simp] theorem State.updDie_healthBoot (s : State) (d : Nat) (f : Die → Die) : (s.updDie d f).healthBoot = s.healthBoot := rfl
@[simp] theorem State.updDie_healthExh (s : State) (d : Nat) (f : Die → Die) : (s.updDie d f).healthExh = s.healthExh := rfl
@[simp] theorem State.updDie_cecnt (s : State) (d : Nat) (f : Die → Die) : (s.updDie d f).cecnt = s.cecnt := rfl
@[simp] theorem State.updDie_temps (s : State) (d : Nat) (f : Die → Die) : (s.updDie d f).temps = s.temps := rfl
@[simp] theorem State.updDie_tripHold (s : State) (d : Nat) (f : Die → Die) : (s.updDie d f).tripHold = s.tripHold := rfl
@[simp] theorem State.updDie_loweredAt (s : State) (d : Nat) (f : Die → Die) : (s.updDie d f).loweredAt = s.loweredAt := rfl
@[simp] theorem State.updDie_errLog (s : State) (d : Nat) (f : Die → Die) : (s.updDie d f).errLog = s.errLog := rfl
@[simp] theorem State.updDie_shootLog (s : State) (d : Nat) (f : Die → Die) : (s.updDie d f).shootLog = s.shootLog := rfl
@[simp] theorem State.updDie_msix (s : State) (d : Nat) (f : Die → Die) : (s.updDie d f).msix = s.msix := rfl
@[simp] theorem State.updDie_msixTable (s : State) (d : Nat) (f : Die → Die) : (s.updDie d f).msixTable = s.msixTable := rfl
@[simp] theorem State.updDie_hostReplies (s : State) (d : Nat) (f : Die → Die) : (s.updDie d f).hostReplies = s.hostReplies := rfl
@[simp] theorem State.updDie_resetsDone (s : State) (d : Nat) (f : Die → Die) : (s.updDie d f).resetsDone = s.resetsDone := rfl
@[simp] theorem State.updDie_syscalls (s : State) (d : Nat) (f : Die → Die) : (s.updDie d f).syscalls = s.syscalls := rfl
@[simp] theorem State.updDie_mailbox (s : State) (d : Nat) (f : Die → Die) : (s.updDie d f).mailbox = s.mailbox := rfl

/-! ### updCell -/

@[simp] theorem State.updCell_agenda (s : State) (c : Nat) (f : Cell → Cell) : (s.updCell c f).agenda = s.agenda := rfl
@[simp] theorem State.updCell_fresh (s : State) (c : Nat) (f : Cell → Cell) : (s.updCell c f).fresh = s.fresh := rfl
@[simp] theorem State.updCell_cur (s : State) (c : Nat) (f : Cell → Cell) : (s.updCell c f).cur = s.cur := rfl
@[simp] theorem State.updCell_draw (s : State) (c : Nat) (f : Cell → Cell) : (s.updCell c f).draw = s.draw := rfl
@[simp] theorem State.updCell_rot (s : State) (c : Nat) (f : Cell → Cell) : (s.updCell c f).rot = s.rot := rfl
@[simp] theorem State.updCell_turn (s : State) (c : Nat) (f : Cell → Cell) : (s.updCell c f).turn = s.turn := rfl
@[simp] theorem State.updCell_devTurn (s : State) (c : Nat) (f : Cell → Cell) : (s.updCell c f).devTurn = s.devTurn := rfl
@[simp] theorem State.updCell_timeTurn (s : State) (c : Nat) (f : Cell → Cell) : (s.updCell c f).timeTurn = s.timeTurn := rfl
@[simp] theorem State.updCell_duty (s : State) (c : Nat) (f : Cell → Cell) : (s.updCell c f).duty = s.duty := rfl
@[simp] theorem State.updCell_actor (s : State) (c : Nat) (f : Cell → Cell) : (s.updCell c f).actor = s.actor := rfl
@[simp] theorem State.updCell_now (s : State) (c : Nat) (f : Cell → Cell) : (s.updCell c f).now = s.now := rfl
@[simp] theorem State.updCell_stepped (s : State) (c : Nat) (f : Cell → Cell) : (s.updCell c f).stepped = s.stepped := rfl
@[simp] theorem State.updCell_mem (s : State) (c : Nat) (f : Cell → Cell) : (s.updCell c f).mem = s.mem := rfl
@[simp] theorem State.updCell_dram (s : State) (c : Nat) (f : Cell → Cell) : (s.updCell c f).dram = s.dram := rfl
@[simp] theorem State.updCell_writers (s : State) (c : Nat) (f : Cell → Cell) : (s.updCell c f).writers = s.writers := rfl
@[simp] theorem State.updCell_poison (s : State) (c : Nat) (f : Cell → Cell) : (s.updCell c f).poison = s.poison := rfl
@[simp] theorem State.updCell_groups (s : State) (c : Nat) (f : Cell → Cell) : (s.updCell c f).groups = s.groups := rfl
@[simp] theorem State.updCell_pens (s : State) (c : Nat) (f : Cell → Cell) : (s.updCell c f).pens = s.pens := rfl
@[simp] theorem State.updCell_tasks (s : State) (c : Nat) (f : Cell → Cell) : (s.updCell c f).tasks = s.tasks := rfl
@[simp] theorem State.updCell_launches (s : State) (c : Nat) (f : Cell → Cell) : (s.updCell c f).launches = s.launches := rfl
@[simp] theorem State.updCell_ctxs (s : State) (c : Nat) (f : Cell → Cell) : (s.updCell c f).ctxs = s.ctxs := rfl
@[simp] theorem State.updCell_members (s : State) (c : Nat) (f : Cell → Cell) : (s.updCell c f).members = s.members := rfl
@[simp] theorem State.updCell_reservations (s : State) (c : Nat) (f : Cell → Cell) : (s.updCell c f).reservations = s.reservations := rfl
@[simp] theorem State.updCell_conts (s : State) (c : Nat) (f : Cell → Cell) : (s.updCell c f).conts = s.conts := rfl
@[simp] theorem State.updCell_tethers (s : State) (c : Nat) (f : Cell → Cell) : (s.updCell c f).tethers = s.tethers := rfl
@[simp] theorem State.updCell_lostPops (s : State) (c : Nat) (f : Cell → Cell) : (s.updCell c f).lostPops = s.lostPops := rfl
@[simp] theorem State.updCell_ops (s : State) (c : Nat) (f : Cell → Cell) : (s.updCell c f).ops = s.ops := rfl
@[simp] theorem State.updCell_parked (s : State) (c : Nat) (f : Cell → Cell) : (s.updCell c f).parked = s.parked := rfl
@[simp] theorem State.updCell_hists (s : State) (c : Nat) (f : Cell → Cell) : (s.updCell c f).hists = s.hists := rfl
@[simp] theorem State.updCell_runs (s : State) (c : Nat) (f : Cell → Cell) : (s.updCell c f).runs = s.runs := rfl
@[simp] theorem State.updCell_lastQueue (s : State) (c : Nat) (f : Cell → Cell) : (s.updCell c f).lastQueue = s.lastQueue := rfl
@[simp] theorem State.updCell_depActs (s : State) (c : Nat) (f : Cell → Cell) : (s.updCell c f).depActs = s.depActs := rfl
@[simp] theorem State.updCell_devWaits (s : State) (c : Nat) (f : Cell → Cell) : (s.updCell c f).devWaits = s.devWaits := rfl
@[simp] theorem State.updCell_shoots (s : State) (c : Nat) (f : Cell → Cell) : (s.updCell c f).shoots = s.shoots := rfl
@[simp] theorem State.updCell_gangs (s : State) (c : Nat) (f : Cell → Cell) : (s.updCell c f).gangs = s.gangs := rfl
@[simp] theorem State.updCell_dies (s : State) (c : Nat) (f : Cell → Cell) : (s.updCell c f).dies = s.dies := rfl
@[simp] theorem State.updCell_domain (s : State) (c : Nat) (f : Cell → Cell) : (s.updCell c f).domain = s.domain := rfl
@[simp] theorem State.updCell_left (s : State) (c : Nat) (f : Cell → Cell) : (s.updCell c f).left = s.left := rfl
@[simp] theorem State.updCell_unreached (s : State) (c : Nat) (f : Cell → Cell) : (s.updCell c f).unreached = s.unreached := rfl
@[simp] theorem State.updCell_peerWaits (s : State) (c : Nat) (f : Cell → Cell) : (s.updCell c f).peerWaits = s.peerWaits := rfl
@[simp] theorem State.updCell_ports (s : State) (c : Nat) (f : Cell → Cell) : (s.updCell c f).ports = s.ports := rfl
@[simp] theorem State.updCell_boot (s : State) (c : Nat) (f : Cell → Cell) : (s.updCell c f).boot = s.boot := rfl
@[simp] theorem State.updCell_image (s : State) (c : Nat) (f : Cell → Cell) : (s.updCell c f).image = s.image := rfl
@[simp] theorem State.updCell_cfg (s : State) (c : Nat) (f : Cell → Cell) : (s.updCell c f).cfg = s.cfg := rfl
@[simp] theorem State.updCell_cfgUse (s : State) (c : Nat) (f : Cell → Cell) : (s.updCell c f).cfgUse = s.cfgUse := rfl
@[simp] theorem State.updCell_cert (s : State) (c : Nat) (f : Cell → Cell) : (s.updCell c f).cert = s.cert := rfl
@[simp] theorem State.updCell_storeFails (s : State) (c : Nat) (f : Cell → Cell) : (s.updCell c f).storeFails = s.storeFails := rfl
@[simp] theorem State.updCell_bootAt (s : State) (c : Nat) (f : Cell → Cell) : (s.updCell c f).bootAt = s.bootAt := rfl
@[simp] theorem State.updCell_selfTestAt (s : State) (c : Nat) (f : Cell → Cell) : (s.updCell c f).selfTestAt = s.selfTestAt := rfl
@[simp] theorem State.updCell_units (s : State) (c : Nat) (f : Cell → Cell) : (s.updCell c f).units = s.units := rfl
@[simp] theorem State.updCell_healthReplace (s : State) (c : Nat) (f : Cell → Cell) : (s.updCell c f).healthReplace = s.healthReplace := rfl
@[simp] theorem State.updCell_healthTrip (s : State) (c : Nat) (f : Cell → Cell) : (s.updCell c f).healthTrip = s.healthTrip := rfl
@[simp] theorem State.updCell_healthBoot (s : State) (c : Nat) (f : Cell → Cell) : (s.updCell c f).healthBoot = s.healthBoot := rfl
@[simp] theorem State.updCell_healthExh (s : State) (c : Nat) (f : Cell → Cell) : (s.updCell c f).healthExh = s.healthExh := rfl
@[simp] theorem State.updCell_cecnt (s : State) (c : Nat) (f : Cell → Cell) : (s.updCell c f).cecnt = s.cecnt := rfl
@[simp] theorem State.updCell_temps (s : State) (c : Nat) (f : Cell → Cell) : (s.updCell c f).temps = s.temps := rfl
@[simp] theorem State.updCell_tripHold (s : State) (c : Nat) (f : Cell → Cell) : (s.updCell c f).tripHold = s.tripHold := rfl
@[simp] theorem State.updCell_loweredAt (s : State) (c : Nat) (f : Cell → Cell) : (s.updCell c f).loweredAt = s.loweredAt := rfl
@[simp] theorem State.updCell_errLog (s : State) (c : Nat) (f : Cell → Cell) : (s.updCell c f).errLog = s.errLog := rfl
@[simp] theorem State.updCell_shootLog (s : State) (c : Nat) (f : Cell → Cell) : (s.updCell c f).shootLog = s.shootLog := rfl
@[simp] theorem State.updCell_msix (s : State) (c : Nat) (f : Cell → Cell) : (s.updCell c f).msix = s.msix := rfl
@[simp] theorem State.updCell_msixTable (s : State) (c : Nat) (f : Cell → Cell) : (s.updCell c f).msixTable = s.msixTable := rfl
@[simp] theorem State.updCell_hostReplies (s : State) (c : Nat) (f : Cell → Cell) : (s.updCell c f).hostReplies = s.hostReplies := rfl
@[simp] theorem State.updCell_resetsDone (s : State) (c : Nat) (f : Cell → Cell) : (s.updCell c f).resetsDone = s.resetsDone := rfl
@[simp] theorem State.updCell_syscalls (s : State) (c : Nat) (f : Cell → Cell) : (s.updCell c f).syscalls = s.syscalls := rfl
@[simp] theorem State.updCell_mailbox (s : State) (c : Nat) (f : Cell → Cell) : (s.updCell c f).mailbox = s.mailbox := rfl

/-! ### updOp -/

@[simp] theorem State.updOp_agenda (s : State) (o : Nat) (f : EngOp → EngOp) : (s.updOp o f).agenda = s.agenda := rfl
@[simp] theorem State.updOp_fresh (s : State) (o : Nat) (f : EngOp → EngOp) : (s.updOp o f).fresh = s.fresh := rfl
@[simp] theorem State.updOp_cur (s : State) (o : Nat) (f : EngOp → EngOp) : (s.updOp o f).cur = s.cur := rfl
@[simp] theorem State.updOp_draw (s : State) (o : Nat) (f : EngOp → EngOp) : (s.updOp o f).draw = s.draw := rfl
@[simp] theorem State.updOp_rot (s : State) (o : Nat) (f : EngOp → EngOp) : (s.updOp o f).rot = s.rot := rfl
@[simp] theorem State.updOp_turn (s : State) (o : Nat) (f : EngOp → EngOp) : (s.updOp o f).turn = s.turn := rfl
@[simp] theorem State.updOp_devTurn (s : State) (o : Nat) (f : EngOp → EngOp) : (s.updOp o f).devTurn = s.devTurn := rfl
@[simp] theorem State.updOp_timeTurn (s : State) (o : Nat) (f : EngOp → EngOp) : (s.updOp o f).timeTurn = s.timeTurn := rfl
@[simp] theorem State.updOp_duty (s : State) (o : Nat) (f : EngOp → EngOp) : (s.updOp o f).duty = s.duty := rfl
@[simp] theorem State.updOp_actor (s : State) (o : Nat) (f : EngOp → EngOp) : (s.updOp o f).actor = s.actor := rfl
@[simp] theorem State.updOp_now (s : State) (o : Nat) (f : EngOp → EngOp) : (s.updOp o f).now = s.now := rfl
@[simp] theorem State.updOp_stepped (s : State) (o : Nat) (f : EngOp → EngOp) : (s.updOp o f).stepped = s.stepped := rfl
@[simp] theorem State.updOp_mem (s : State) (o : Nat) (f : EngOp → EngOp) : (s.updOp o f).mem = s.mem := rfl
@[simp] theorem State.updOp_dram (s : State) (o : Nat) (f : EngOp → EngOp) : (s.updOp o f).dram = s.dram := rfl
@[simp] theorem State.updOp_writers (s : State) (o : Nat) (f : EngOp → EngOp) : (s.updOp o f).writers = s.writers := rfl
@[simp] theorem State.updOp_poison (s : State) (o : Nat) (f : EngOp → EngOp) : (s.updOp o f).poison = s.poison := rfl
@[simp] theorem State.updOp_groups (s : State) (o : Nat) (f : EngOp → EngOp) : (s.updOp o f).groups = s.groups := rfl
@[simp] theorem State.updOp_pens (s : State) (o : Nat) (f : EngOp → EngOp) : (s.updOp o f).pens = s.pens := rfl
@[simp] theorem State.updOp_tasks (s : State) (o : Nat) (f : EngOp → EngOp) : (s.updOp o f).tasks = s.tasks := rfl
@[simp] theorem State.updOp_launches (s : State) (o : Nat) (f : EngOp → EngOp) : (s.updOp o f).launches = s.launches := rfl
@[simp] theorem State.updOp_ctxs (s : State) (o : Nat) (f : EngOp → EngOp) : (s.updOp o f).ctxs = s.ctxs := rfl
@[simp] theorem State.updOp_members (s : State) (o : Nat) (f : EngOp → EngOp) : (s.updOp o f).members = s.members := rfl
@[simp] theorem State.updOp_reservations (s : State) (o : Nat) (f : EngOp → EngOp) : (s.updOp o f).reservations = s.reservations := rfl
@[simp] theorem State.updOp_conts (s : State) (o : Nat) (f : EngOp → EngOp) : (s.updOp o f).conts = s.conts := rfl
@[simp] theorem State.updOp_tethers (s : State) (o : Nat) (f : EngOp → EngOp) : (s.updOp o f).tethers = s.tethers := rfl
@[simp] theorem State.updOp_lostPops (s : State) (o : Nat) (f : EngOp → EngOp) : (s.updOp o f).lostPops = s.lostPops := rfl
@[simp] theorem State.updOp_parked (s : State) (o : Nat) (f : EngOp → EngOp) : (s.updOp o f).parked = s.parked := rfl
@[simp] theorem State.updOp_cells (s : State) (o : Nat) (f : EngOp → EngOp) : (s.updOp o f).cells = s.cells := rfl
@[simp] theorem State.updOp_hists (s : State) (o : Nat) (f : EngOp → EngOp) : (s.updOp o f).hists = s.hists := rfl
@[simp] theorem State.updOp_runs (s : State) (o : Nat) (f : EngOp → EngOp) : (s.updOp o f).runs = s.runs := rfl
@[simp] theorem State.updOp_lastQueue (s : State) (o : Nat) (f : EngOp → EngOp) : (s.updOp o f).lastQueue = s.lastQueue := rfl
@[simp] theorem State.updOp_depActs (s : State) (o : Nat) (f : EngOp → EngOp) : (s.updOp o f).depActs = s.depActs := rfl
@[simp] theorem State.updOp_devWaits (s : State) (o : Nat) (f : EngOp → EngOp) : (s.updOp o f).devWaits = s.devWaits := rfl
@[simp] theorem State.updOp_shoots (s : State) (o : Nat) (f : EngOp → EngOp) : (s.updOp o f).shoots = s.shoots := rfl
@[simp] theorem State.updOp_gangs (s : State) (o : Nat) (f : EngOp → EngOp) : (s.updOp o f).gangs = s.gangs := rfl
@[simp] theorem State.updOp_dies (s : State) (o : Nat) (f : EngOp → EngOp) : (s.updOp o f).dies = s.dies := rfl
@[simp] theorem State.updOp_domain (s : State) (o : Nat) (f : EngOp → EngOp) : (s.updOp o f).domain = s.domain := rfl
@[simp] theorem State.updOp_left (s : State) (o : Nat) (f : EngOp → EngOp) : (s.updOp o f).left = s.left := rfl
@[simp] theorem State.updOp_unreached (s : State) (o : Nat) (f : EngOp → EngOp) : (s.updOp o f).unreached = s.unreached := rfl
@[simp] theorem State.updOp_peerWaits (s : State) (o : Nat) (f : EngOp → EngOp) : (s.updOp o f).peerWaits = s.peerWaits := rfl
@[simp] theorem State.updOp_ports (s : State) (o : Nat) (f : EngOp → EngOp) : (s.updOp o f).ports = s.ports := rfl
@[simp] theorem State.updOp_boot (s : State) (o : Nat) (f : EngOp → EngOp) : (s.updOp o f).boot = s.boot := rfl
@[simp] theorem State.updOp_image (s : State) (o : Nat) (f : EngOp → EngOp) : (s.updOp o f).image = s.image := rfl
@[simp] theorem State.updOp_cfg (s : State) (o : Nat) (f : EngOp → EngOp) : (s.updOp o f).cfg = s.cfg := rfl
@[simp] theorem State.updOp_cfgUse (s : State) (o : Nat) (f : EngOp → EngOp) : (s.updOp o f).cfgUse = s.cfgUse := rfl
@[simp] theorem State.updOp_cert (s : State) (o : Nat) (f : EngOp → EngOp) : (s.updOp o f).cert = s.cert := rfl
@[simp] theorem State.updOp_storeFails (s : State) (o : Nat) (f : EngOp → EngOp) : (s.updOp o f).storeFails = s.storeFails := rfl
@[simp] theorem State.updOp_bootAt (s : State) (o : Nat) (f : EngOp → EngOp) : (s.updOp o f).bootAt = s.bootAt := rfl
@[simp] theorem State.updOp_selfTestAt (s : State) (o : Nat) (f : EngOp → EngOp) : (s.updOp o f).selfTestAt = s.selfTestAt := rfl
@[simp] theorem State.updOp_units (s : State) (o : Nat) (f : EngOp → EngOp) : (s.updOp o f).units = s.units := rfl
@[simp] theorem State.updOp_healthReplace (s : State) (o : Nat) (f : EngOp → EngOp) : (s.updOp o f).healthReplace = s.healthReplace := rfl
@[simp] theorem State.updOp_healthTrip (s : State) (o : Nat) (f : EngOp → EngOp) : (s.updOp o f).healthTrip = s.healthTrip := rfl
@[simp] theorem State.updOp_healthBoot (s : State) (o : Nat) (f : EngOp → EngOp) : (s.updOp o f).healthBoot = s.healthBoot := rfl
@[simp] theorem State.updOp_healthExh (s : State) (o : Nat) (f : EngOp → EngOp) : (s.updOp o f).healthExh = s.healthExh := rfl
@[simp] theorem State.updOp_cecnt (s : State) (o : Nat) (f : EngOp → EngOp) : (s.updOp o f).cecnt = s.cecnt := rfl
@[simp] theorem State.updOp_temps (s : State) (o : Nat) (f : EngOp → EngOp) : (s.updOp o f).temps = s.temps := rfl
@[simp] theorem State.updOp_tripHold (s : State) (o : Nat) (f : EngOp → EngOp) : (s.updOp o f).tripHold = s.tripHold := rfl
@[simp] theorem State.updOp_loweredAt (s : State) (o : Nat) (f : EngOp → EngOp) : (s.updOp o f).loweredAt = s.loweredAt := rfl
@[simp] theorem State.updOp_errLog (s : State) (o : Nat) (f : EngOp → EngOp) : (s.updOp o f).errLog = s.errLog := rfl
@[simp] theorem State.updOp_shootLog (s : State) (o : Nat) (f : EngOp → EngOp) : (s.updOp o f).shootLog = s.shootLog := rfl
@[simp] theorem State.updOp_msix (s : State) (o : Nat) (f : EngOp → EngOp) : (s.updOp o f).msix = s.msix := rfl
@[simp] theorem State.updOp_msixTable (s : State) (o : Nat) (f : EngOp → EngOp) : (s.updOp o f).msixTable = s.msixTable := rfl
@[simp] theorem State.updOp_hostReplies (s : State) (o : Nat) (f : EngOp → EngOp) : (s.updOp o f).hostReplies = s.hostReplies := rfl
@[simp] theorem State.updOp_resetsDone (s : State) (o : Nat) (f : EngOp → EngOp) : (s.updOp o f).resetsDone = s.resetsDone := rfl
@[simp] theorem State.updOp_syscalls (s : State) (o : Nat) (f : EngOp → EngOp) : (s.updOp o f).syscalls = s.syscalls := rfl
@[simp] theorem State.updOp_mailbox (s : State) (o : Nat) (f : EngOp → EngOp) : (s.updOp o f).mailbox = s.mailbox := rfl

/-! ### bump -/

@[simp] theorem State.bump_agenda (s : State) (k : Nat) : (s.bump k).agenda = s.agenda := rfl
@[simp] theorem State.bump_cur (s : State) (k : Nat) : (s.bump k).cur = s.cur := rfl
@[simp] theorem State.bump_draw (s : State) (k : Nat) : (s.bump k).draw = s.draw := rfl
@[simp] theorem State.bump_rot (s : State) (k : Nat) : (s.bump k).rot = s.rot := rfl
@[simp] theorem State.bump_turn (s : State) (k : Nat) : (s.bump k).turn = s.turn := rfl
@[simp] theorem State.bump_devTurn (s : State) (k : Nat) : (s.bump k).devTurn = s.devTurn := rfl
@[simp] theorem State.bump_timeTurn (s : State) (k : Nat) : (s.bump k).timeTurn = s.timeTurn := rfl
@[simp] theorem State.bump_duty (s : State) (k : Nat) : (s.bump k).duty = s.duty := rfl
@[simp] theorem State.bump_actor (s : State) (k : Nat) : (s.bump k).actor = s.actor := rfl
@[simp] theorem State.bump_now (s : State) (k : Nat) : (s.bump k).now = s.now := rfl
@[simp] theorem State.bump_stepped (s : State) (k : Nat) : (s.bump k).stepped = s.stepped := rfl
@[simp] theorem State.bump_mem (s : State) (k : Nat) : (s.bump k).mem = s.mem := rfl
@[simp] theorem State.bump_dram (s : State) (k : Nat) : (s.bump k).dram = s.dram := rfl
@[simp] theorem State.bump_writers (s : State) (k : Nat) : (s.bump k).writers = s.writers := rfl
@[simp] theorem State.bump_poison (s : State) (k : Nat) : (s.bump k).poison = s.poison := rfl
@[simp] theorem State.bump_groups (s : State) (k : Nat) : (s.bump k).groups = s.groups := rfl
@[simp] theorem State.bump_pens (s : State) (k : Nat) : (s.bump k).pens = s.pens := rfl
@[simp] theorem State.bump_tasks (s : State) (k : Nat) : (s.bump k).tasks = s.tasks := rfl
@[simp] theorem State.bump_launches (s : State) (k : Nat) : (s.bump k).launches = s.launches := rfl
@[simp] theorem State.bump_ctxs (s : State) (k : Nat) : (s.bump k).ctxs = s.ctxs := rfl
@[simp] theorem State.bump_members (s : State) (k : Nat) : (s.bump k).members = s.members := rfl
@[simp] theorem State.bump_reservations (s : State) (k : Nat) : (s.bump k).reservations = s.reservations := rfl
@[simp] theorem State.bump_conts (s : State) (k : Nat) : (s.bump k).conts = s.conts := rfl
@[simp] theorem State.bump_tethers (s : State) (k : Nat) : (s.bump k).tethers = s.tethers := rfl
@[simp] theorem State.bump_lostPops (s : State) (k : Nat) : (s.bump k).lostPops = s.lostPops := rfl
@[simp] theorem State.bump_ops (s : State) (k : Nat) : (s.bump k).ops = s.ops := rfl
@[simp] theorem State.bump_parked (s : State) (k : Nat) : (s.bump k).parked = s.parked := rfl
@[simp] theorem State.bump_cells (s : State) (k : Nat) : (s.bump k).cells = s.cells := rfl
@[simp] theorem State.bump_hists (s : State) (k : Nat) : (s.bump k).hists = s.hists := rfl
@[simp] theorem State.bump_runs (s : State) (k : Nat) : (s.bump k).runs = s.runs := rfl
@[simp] theorem State.bump_lastQueue (s : State) (k : Nat) : (s.bump k).lastQueue = s.lastQueue := rfl
@[simp] theorem State.bump_depActs (s : State) (k : Nat) : (s.bump k).depActs = s.depActs := rfl
@[simp] theorem State.bump_devWaits (s : State) (k : Nat) : (s.bump k).devWaits = s.devWaits := rfl
@[simp] theorem State.bump_shoots (s : State) (k : Nat) : (s.bump k).shoots = s.shoots := rfl
@[simp] theorem State.bump_gangs (s : State) (k : Nat) : (s.bump k).gangs = s.gangs := rfl
@[simp] theorem State.bump_dies (s : State) (k : Nat) : (s.bump k).dies = s.dies := rfl
@[simp] theorem State.bump_domain (s : State) (k : Nat) : (s.bump k).domain = s.domain := rfl
@[simp] theorem State.bump_left (s : State) (k : Nat) : (s.bump k).left = s.left := rfl
@[simp] theorem State.bump_unreached (s : State) (k : Nat) : (s.bump k).unreached = s.unreached := rfl
@[simp] theorem State.bump_peerWaits (s : State) (k : Nat) : (s.bump k).peerWaits = s.peerWaits := rfl
@[simp] theorem State.bump_ports (s : State) (k : Nat) : (s.bump k).ports = s.ports := rfl
@[simp] theorem State.bump_boot (s : State) (k : Nat) : (s.bump k).boot = s.boot := rfl
@[simp] theorem State.bump_image (s : State) (k : Nat) : (s.bump k).image = s.image := rfl
@[simp] theorem State.bump_cfg (s : State) (k : Nat) : (s.bump k).cfg = s.cfg := rfl
@[simp] theorem State.bump_cfgUse (s : State) (k : Nat) : (s.bump k).cfgUse = s.cfgUse := rfl
@[simp] theorem State.bump_cert (s : State) (k : Nat) : (s.bump k).cert = s.cert := rfl
@[simp] theorem State.bump_storeFails (s : State) (k : Nat) : (s.bump k).storeFails = s.storeFails := rfl
@[simp] theorem State.bump_bootAt (s : State) (k : Nat) : (s.bump k).bootAt = s.bootAt := rfl
@[simp] theorem State.bump_selfTestAt (s : State) (k : Nat) : (s.bump k).selfTestAt = s.selfTestAt := rfl
@[simp] theorem State.bump_units (s : State) (k : Nat) : (s.bump k).units = s.units := rfl
@[simp] theorem State.bump_healthReplace (s : State) (k : Nat) : (s.bump k).healthReplace = s.healthReplace := rfl
@[simp] theorem State.bump_healthTrip (s : State) (k : Nat) : (s.bump k).healthTrip = s.healthTrip := rfl
@[simp] theorem State.bump_healthBoot (s : State) (k : Nat) : (s.bump k).healthBoot = s.healthBoot := rfl
@[simp] theorem State.bump_healthExh (s : State) (k : Nat) : (s.bump k).healthExh = s.healthExh := rfl
@[simp] theorem State.bump_cecnt (s : State) (k : Nat) : (s.bump k).cecnt = s.cecnt := rfl
@[simp] theorem State.bump_temps (s : State) (k : Nat) : (s.bump k).temps = s.temps := rfl
@[simp] theorem State.bump_tripHold (s : State) (k : Nat) : (s.bump k).tripHold = s.tripHold := rfl
@[simp] theorem State.bump_loweredAt (s : State) (k : Nat) : (s.bump k).loweredAt = s.loweredAt := rfl
@[simp] theorem State.bump_errLog (s : State) (k : Nat) : (s.bump k).errLog = s.errLog := rfl
@[simp] theorem State.bump_shootLog (s : State) (k : Nat) : (s.bump k).shootLog = s.shootLog := rfl
@[simp] theorem State.bump_msix (s : State) (k : Nat) : (s.bump k).msix = s.msix := rfl
@[simp] theorem State.bump_msixTable (s : State) (k : Nat) : (s.bump k).msixTable = s.msixTable := rfl
@[simp] theorem State.bump_hostReplies (s : State) (k : Nat) : (s.bump k).hostReplies = s.hostReplies := rfl
@[simp] theorem State.bump_resetsDone (s : State) (k : Nat) : (s.bump k).resetsDone = s.resetsDone := rfl
@[simp] theorem State.bump_syscalls (s : State) (k : Nat) : (s.bump k).syscalls = s.syscalls := rfl
@[simp] theorem State.bump_mailbox (s : State) (k : Nat) : (s.bump k).mailbox = s.mailbox := rfl

/-! ### setRing -/

@[simp] theorem State.setRing_agenda (s : State) (p n : Nat) (r : Ring) : (s.setRing p n r).agenda = s.agenda := rfl
@[simp] theorem State.setRing_fresh (s : State) (p n : Nat) (r : Ring) : (s.setRing p n r).fresh = s.fresh := rfl
@[simp] theorem State.setRing_cur (s : State) (p n : Nat) (r : Ring) : (s.setRing p n r).cur = s.cur := rfl
@[simp] theorem State.setRing_draw (s : State) (p n : Nat) (r : Ring) : (s.setRing p n r).draw = s.draw := rfl
@[simp] theorem State.setRing_rot (s : State) (p n : Nat) (r : Ring) : (s.setRing p n r).rot = s.rot := rfl
@[simp] theorem State.setRing_turn (s : State) (p n : Nat) (r : Ring) : (s.setRing p n r).turn = s.turn := rfl
@[simp] theorem State.setRing_devTurn (s : State) (p n : Nat) (r : Ring) : (s.setRing p n r).devTurn = s.devTurn := rfl
@[simp] theorem State.setRing_timeTurn (s : State) (p n : Nat) (r : Ring) : (s.setRing p n r).timeTurn = s.timeTurn := rfl
@[simp] theorem State.setRing_duty (s : State) (p n : Nat) (r : Ring) : (s.setRing p n r).duty = s.duty := rfl
@[simp] theorem State.setRing_actor (s : State) (p n : Nat) (r : Ring) : (s.setRing p n r).actor = s.actor := rfl
@[simp] theorem State.setRing_now (s : State) (p n : Nat) (r : Ring) : (s.setRing p n r).now = s.now := rfl
@[simp] theorem State.setRing_stepped (s : State) (p n : Nat) (r : Ring) : (s.setRing p n r).stepped = s.stepped := rfl
@[simp] theorem State.setRing_mem (s : State) (p n : Nat) (r : Ring) : (s.setRing p n r).mem = s.mem := rfl
@[simp] theorem State.setRing_dram (s : State) (p n : Nat) (r : Ring) : (s.setRing p n r).dram = s.dram := rfl
@[simp] theorem State.setRing_writers (s : State) (p n : Nat) (r : Ring) : (s.setRing p n r).writers = s.writers := rfl
@[simp] theorem State.setRing_poison (s : State) (p n : Nat) (r : Ring) : (s.setRing p n r).poison = s.poison := rfl
@[simp] theorem State.setRing_groups (s : State) (p n : Nat) (r : Ring) : (s.setRing p n r).groups = s.groups := rfl
@[simp] theorem State.setRing_tasks (s : State) (p n : Nat) (r : Ring) : (s.setRing p n r).tasks = s.tasks := rfl
@[simp] theorem State.setRing_launches (s : State) (p n : Nat) (r : Ring) : (s.setRing p n r).launches = s.launches := rfl
@[simp] theorem State.setRing_ctxs (s : State) (p n : Nat) (r : Ring) : (s.setRing p n r).ctxs = s.ctxs := rfl
@[simp] theorem State.setRing_members (s : State) (p n : Nat) (r : Ring) : (s.setRing p n r).members = s.members := rfl
@[simp] theorem State.setRing_reservations (s : State) (p n : Nat) (r : Ring) : (s.setRing p n r).reservations = s.reservations := rfl
@[simp] theorem State.setRing_conts (s : State) (p n : Nat) (r : Ring) : (s.setRing p n r).conts = s.conts := rfl
@[simp] theorem State.setRing_tethers (s : State) (p n : Nat) (r : Ring) : (s.setRing p n r).tethers = s.tethers := rfl
@[simp] theorem State.setRing_lostPops (s : State) (p n : Nat) (r : Ring) : (s.setRing p n r).lostPops = s.lostPops := rfl
@[simp] theorem State.setRing_ops (s : State) (p n : Nat) (r : Ring) : (s.setRing p n r).ops = s.ops := rfl
@[simp] theorem State.setRing_parked (s : State) (p n : Nat) (r : Ring) : (s.setRing p n r).parked = s.parked := rfl
@[simp] theorem State.setRing_cells (s : State) (p n : Nat) (r : Ring) : (s.setRing p n r).cells = s.cells := rfl
@[simp] theorem State.setRing_hists (s : State) (p n : Nat) (r : Ring) : (s.setRing p n r).hists = s.hists := rfl
@[simp] theorem State.setRing_runs (s : State) (p n : Nat) (r : Ring) : (s.setRing p n r).runs = s.runs := rfl
@[simp] theorem State.setRing_lastQueue (s : State) (p n : Nat) (r : Ring) : (s.setRing p n r).lastQueue = s.lastQueue := rfl
@[simp] theorem State.setRing_depActs (s : State) (p n : Nat) (r : Ring) : (s.setRing p n r).depActs = s.depActs := rfl
@[simp] theorem State.setRing_devWaits (s : State) (p n : Nat) (r : Ring) : (s.setRing p n r).devWaits = s.devWaits := rfl
@[simp] theorem State.setRing_shoots (s : State) (p n : Nat) (r : Ring) : (s.setRing p n r).shoots = s.shoots := rfl
@[simp] theorem State.setRing_gangs (s : State) (p n : Nat) (r : Ring) : (s.setRing p n r).gangs = s.gangs := rfl
@[simp] theorem State.setRing_dies (s : State) (p n : Nat) (r : Ring) : (s.setRing p n r).dies = s.dies := rfl
@[simp] theorem State.setRing_domain (s : State) (p n : Nat) (r : Ring) : (s.setRing p n r).domain = s.domain := rfl
@[simp] theorem State.setRing_left (s : State) (p n : Nat) (r : Ring) : (s.setRing p n r).left = s.left := rfl
@[simp] theorem State.setRing_unreached (s : State) (p n : Nat) (r : Ring) : (s.setRing p n r).unreached = s.unreached := rfl
@[simp] theorem State.setRing_peerWaits (s : State) (p n : Nat) (r : Ring) : (s.setRing p n r).peerWaits = s.peerWaits := rfl
@[simp] theorem State.setRing_ports (s : State) (p n : Nat) (r : Ring) : (s.setRing p n r).ports = s.ports := rfl
@[simp] theorem State.setRing_boot (s : State) (p n : Nat) (r : Ring) : (s.setRing p n r).boot = s.boot := rfl
@[simp] theorem State.setRing_image (s : State) (p n : Nat) (r : Ring) : (s.setRing p n r).image = s.image := rfl
@[simp] theorem State.setRing_cfg (s : State) (p n : Nat) (r : Ring) : (s.setRing p n r).cfg = s.cfg := rfl
@[simp] theorem State.setRing_cfgUse (s : State) (p n : Nat) (r : Ring) : (s.setRing p n r).cfgUse = s.cfgUse := rfl
@[simp] theorem State.setRing_cert (s : State) (p n : Nat) (r : Ring) : (s.setRing p n r).cert = s.cert := rfl
@[simp] theorem State.setRing_storeFails (s : State) (p n : Nat) (r : Ring) : (s.setRing p n r).storeFails = s.storeFails := rfl
@[simp] theorem State.setRing_bootAt (s : State) (p n : Nat) (r : Ring) : (s.setRing p n r).bootAt = s.bootAt := rfl
@[simp] theorem State.setRing_selfTestAt (s : State) (p n : Nat) (r : Ring) : (s.setRing p n r).selfTestAt = s.selfTestAt := rfl
@[simp] theorem State.setRing_units (s : State) (p n : Nat) (r : Ring) : (s.setRing p n r).units = s.units := rfl
@[simp] theorem State.setRing_healthReplace (s : State) (p n : Nat) (r : Ring) : (s.setRing p n r).healthReplace = s.healthReplace := rfl
@[simp] theorem State.setRing_healthTrip (s : State) (p n : Nat) (r : Ring) : (s.setRing p n r).healthTrip = s.healthTrip := rfl
@[simp] theorem State.setRing_healthBoot (s : State) (p n : Nat) (r : Ring) : (s.setRing p n r).healthBoot = s.healthBoot := rfl
@[simp] theorem State.setRing_healthExh (s : State) (p n : Nat) (r : Ring) : (s.setRing p n r).healthExh = s.healthExh := rfl
@[simp] theorem State.setRing_cecnt (s : State) (p n : Nat) (r : Ring) : (s.setRing p n r).cecnt = s.cecnt := rfl
@[simp] theorem State.setRing_temps (s : State) (p n : Nat) (r : Ring) : (s.setRing p n r).temps = s.temps := rfl
@[simp] theorem State.setRing_tripHold (s : State) (p n : Nat) (r : Ring) : (s.setRing p n r).tripHold = s.tripHold := rfl
@[simp] theorem State.setRing_loweredAt (s : State) (p n : Nat) (r : Ring) : (s.setRing p n r).loweredAt = s.loweredAt := rfl
@[simp] theorem State.setRing_errLog (s : State) (p n : Nat) (r : Ring) : (s.setRing p n r).errLog = s.errLog := rfl
@[simp] theorem State.setRing_shootLog (s : State) (p n : Nat) (r : Ring) : (s.setRing p n r).shootLog = s.shootLog := rfl
@[simp] theorem State.setRing_msix (s : State) (p n : Nat) (r : Ring) : (s.setRing p n r).msix = s.msix := rfl
@[simp] theorem State.setRing_msixTable (s : State) (p n : Nat) (r : Ring) : (s.setRing p n r).msixTable = s.msixTable := rfl
@[simp] theorem State.setRing_hostReplies (s : State) (p n : Nat) (r : Ring) : (s.setRing p n r).hostReplies = s.hostReplies := rfl
@[simp] theorem State.setRing_resetsDone (s : State) (p n : Nat) (r : Ring) : (s.setRing p n r).resetsDone = s.resetsDone := rfl
@[simp] theorem State.setRing_syscalls (s : State) (p n : Nat) (r : Ring) : (s.setRing p n r).syscalls = s.syscalls := rfl
@[simp] theorem State.setRing_mailbox (s : State) (p n : Nat) (r : Ring) : (s.setRing p n r).mailbox = s.mailbox := rfl

/-! ### stopCtx -/

@[simp] theorem State.stopCtx_agenda (s : State) (c : Nat) : (s.stopCtx c).agenda = s.agenda := rfl
@[simp] theorem State.stopCtx_fresh (s : State) (c : Nat) : (s.stopCtx c).fresh = s.fresh := rfl
@[simp] theorem State.stopCtx_cur (s : State) (c : Nat) : (s.stopCtx c).cur = s.cur := rfl
@[simp] theorem State.stopCtx_draw (s : State) (c : Nat) : (s.stopCtx c).draw = s.draw := rfl
@[simp] theorem State.stopCtx_rot (s : State) (c : Nat) : (s.stopCtx c).rot = s.rot := rfl
@[simp] theorem State.stopCtx_turn (s : State) (c : Nat) : (s.stopCtx c).turn = s.turn := rfl
@[simp] theorem State.stopCtx_devTurn (s : State) (c : Nat) : (s.stopCtx c).devTurn = s.devTurn := rfl
@[simp] theorem State.stopCtx_timeTurn (s : State) (c : Nat) : (s.stopCtx c).timeTurn = s.timeTurn := rfl
@[simp] theorem State.stopCtx_duty (s : State) (c : Nat) : (s.stopCtx c).duty = s.duty := rfl
@[simp] theorem State.stopCtx_actor (s : State) (c : Nat) : (s.stopCtx c).actor = s.actor := rfl
@[simp] theorem State.stopCtx_now (s : State) (c : Nat) : (s.stopCtx c).now = s.now := rfl
@[simp] theorem State.stopCtx_stepped (s : State) (c : Nat) : (s.stopCtx c).stepped = s.stepped := rfl
@[simp] theorem State.stopCtx_mem (s : State) (c : Nat) : (s.stopCtx c).mem = s.mem := rfl
@[simp] theorem State.stopCtx_dram (s : State) (c : Nat) : (s.stopCtx c).dram = s.dram := rfl
@[simp] theorem State.stopCtx_writers (s : State) (c : Nat) : (s.stopCtx c).writers = s.writers := rfl
@[simp] theorem State.stopCtx_poison (s : State) (c : Nat) : (s.stopCtx c).poison = s.poison := rfl
@[simp] theorem State.stopCtx_groups (s : State) (c : Nat) : (s.stopCtx c).groups = s.groups := rfl
@[simp] theorem State.stopCtx_pens (s : State) (c : Nat) : (s.stopCtx c).pens = s.pens := rfl
@[simp] theorem State.stopCtx_tasks (s : State) (c : Nat) : (s.stopCtx c).tasks = s.tasks := rfl
@[simp] theorem State.stopCtx_launches (s : State) (c : Nat) : (s.stopCtx c).launches = s.launches := rfl
@[simp] theorem State.stopCtx_members (s : State) (c : Nat) : (s.stopCtx c).members = s.members := rfl
@[simp] theorem State.stopCtx_reservations (s : State) (c : Nat) : (s.stopCtx c).reservations = s.reservations := rfl
@[simp] theorem State.stopCtx_conts (s : State) (c : Nat) : (s.stopCtx c).conts = s.conts := rfl
@[simp] theorem State.stopCtx_tethers (s : State) (c : Nat) : (s.stopCtx c).tethers = s.tethers := rfl
@[simp] theorem State.stopCtx_lostPops (s : State) (c : Nat) : (s.stopCtx c).lostPops = s.lostPops := rfl
@[simp] theorem State.stopCtx_ops (s : State) (c : Nat) : (s.stopCtx c).ops = s.ops := rfl
@[simp] theorem State.stopCtx_parked (s : State) (c : Nat) : (s.stopCtx c).parked = s.parked := rfl
@[simp] theorem State.stopCtx_cells (s : State) (c : Nat) : (s.stopCtx c).cells = s.cells := rfl
@[simp] theorem State.stopCtx_hists (s : State) (c : Nat) : (s.stopCtx c).hists = s.hists := rfl
@[simp] theorem State.stopCtx_runs (s : State) (c : Nat) : (s.stopCtx c).runs = s.runs := rfl
@[simp] theorem State.stopCtx_lastQueue (s : State) (c : Nat) : (s.stopCtx c).lastQueue = s.lastQueue := rfl
@[simp] theorem State.stopCtx_depActs (s : State) (c : Nat) : (s.stopCtx c).depActs = s.depActs := rfl
@[simp] theorem State.stopCtx_devWaits (s : State) (c : Nat) : (s.stopCtx c).devWaits = s.devWaits := rfl
@[simp] theorem State.stopCtx_shoots (s : State) (c : Nat) : (s.stopCtx c).shoots = s.shoots := rfl
@[simp] theorem State.stopCtx_gangs (s : State) (c : Nat) : (s.stopCtx c).gangs = s.gangs := rfl
@[simp] theorem State.stopCtx_dies (s : State) (c : Nat) : (s.stopCtx c).dies = s.dies := rfl
@[simp] theorem State.stopCtx_domain (s : State) (c : Nat) : (s.stopCtx c).domain = s.domain := rfl
@[simp] theorem State.stopCtx_left (s : State) (c : Nat) : (s.stopCtx c).left = s.left := rfl
@[simp] theorem State.stopCtx_unreached (s : State) (c : Nat) : (s.stopCtx c).unreached = s.unreached := rfl
@[simp] theorem State.stopCtx_peerWaits (s : State) (c : Nat) : (s.stopCtx c).peerWaits = s.peerWaits := rfl
@[simp] theorem State.stopCtx_ports (s : State) (c : Nat) : (s.stopCtx c).ports = s.ports := rfl
@[simp] theorem State.stopCtx_boot (s : State) (c : Nat) : (s.stopCtx c).boot = s.boot := rfl
@[simp] theorem State.stopCtx_image (s : State) (c : Nat) : (s.stopCtx c).image = s.image := rfl
@[simp] theorem State.stopCtx_cfg (s : State) (c : Nat) : (s.stopCtx c).cfg = s.cfg := rfl
@[simp] theorem State.stopCtx_cfgUse (s : State) (c : Nat) : (s.stopCtx c).cfgUse = s.cfgUse := rfl
@[simp] theorem State.stopCtx_cert (s : State) (c : Nat) : (s.stopCtx c).cert = s.cert := rfl
@[simp] theorem State.stopCtx_storeFails (s : State) (c : Nat) : (s.stopCtx c).storeFails = s.storeFails := rfl
@[simp] theorem State.stopCtx_bootAt (s : State) (c : Nat) : (s.stopCtx c).bootAt = s.bootAt := rfl
@[simp] theorem State.stopCtx_selfTestAt (s : State) (c : Nat) : (s.stopCtx c).selfTestAt = s.selfTestAt := rfl
@[simp] theorem State.stopCtx_units (s : State) (c : Nat) : (s.stopCtx c).units = s.units := rfl
@[simp] theorem State.stopCtx_healthReplace (s : State) (c : Nat) : (s.stopCtx c).healthReplace = s.healthReplace := rfl
@[simp] theorem State.stopCtx_healthTrip (s : State) (c : Nat) : (s.stopCtx c).healthTrip = s.healthTrip := rfl
@[simp] theorem State.stopCtx_healthBoot (s : State) (c : Nat) : (s.stopCtx c).healthBoot = s.healthBoot := rfl
@[simp] theorem State.stopCtx_healthExh (s : State) (c : Nat) : (s.stopCtx c).healthExh = s.healthExh := rfl
@[simp] theorem State.stopCtx_cecnt (s : State) (c : Nat) : (s.stopCtx c).cecnt = s.cecnt := rfl
@[simp] theorem State.stopCtx_temps (s : State) (c : Nat) : (s.stopCtx c).temps = s.temps := rfl
@[simp] theorem State.stopCtx_tripHold (s : State) (c : Nat) : (s.stopCtx c).tripHold = s.tripHold := rfl
@[simp] theorem State.stopCtx_loweredAt (s : State) (c : Nat) : (s.stopCtx c).loweredAt = s.loweredAt := rfl
@[simp] theorem State.stopCtx_errLog (s : State) (c : Nat) : (s.stopCtx c).errLog = s.errLog := rfl
@[simp] theorem State.stopCtx_shootLog (s : State) (c : Nat) : (s.stopCtx c).shootLog = s.shootLog := rfl
@[simp] theorem State.stopCtx_msix (s : State) (c : Nat) : (s.stopCtx c).msix = s.msix := rfl
@[simp] theorem State.stopCtx_msixTable (s : State) (c : Nat) : (s.stopCtx c).msixTable = s.msixTable := rfl
@[simp] theorem State.stopCtx_hostReplies (s : State) (c : Nat) : (s.stopCtx c).hostReplies = s.hostReplies := rfl
@[simp] theorem State.stopCtx_resetsDone (s : State) (c : Nat) : (s.stopCtx c).resetsDone = s.resetsDone := rfl
@[simp] theorem State.stopCtx_syscalls (s : State) (c : Nat) : (s.stopCtx c).syscalls = s.syscalls := rfl
@[simp] theorem State.stopCtx_mailbox (s : State) (c : Nat) : (s.stopCtx c).mailbox = s.mailbox := rfl

/-! ### addMember -/

@[simp] theorem State.addMember_agenda (s : State) (k : MemberKind) (p : Nat) : (s.addMember k p).agenda = s.agenda := rfl
@[simp] theorem State.addMember_cur (s : State) (k : MemberKind) (p : Nat) : (s.addMember k p).cur = s.cur := rfl
@[simp] theorem State.addMember_draw (s : State) (k : MemberKind) (p : Nat) : (s.addMember k p).draw = s.draw := rfl
@[simp] theorem State.addMember_rot (s : State) (k : MemberKind) (p : Nat) : (s.addMember k p).rot = s.rot := rfl
@[simp] theorem State.addMember_turn (s : State) (k : MemberKind) (p : Nat) : (s.addMember k p).turn = s.turn := rfl
@[simp] theorem State.addMember_devTurn (s : State) (k : MemberKind) (p : Nat) : (s.addMember k p).devTurn = s.devTurn := rfl
@[simp] theorem State.addMember_timeTurn (s : State) (k : MemberKind) (p : Nat) : (s.addMember k p).timeTurn = s.timeTurn := rfl
@[simp] theorem State.addMember_duty (s : State) (k : MemberKind) (p : Nat) : (s.addMember k p).duty = s.duty := rfl
@[simp] theorem State.addMember_actor (s : State) (k : MemberKind) (p : Nat) : (s.addMember k p).actor = s.actor := rfl
@[simp] theorem State.addMember_now (s : State) (k : MemberKind) (p : Nat) : (s.addMember k p).now = s.now := rfl
@[simp] theorem State.addMember_stepped (s : State) (k : MemberKind) (p : Nat) : (s.addMember k p).stepped = s.stepped := rfl
@[simp] theorem State.addMember_mem (s : State) (k : MemberKind) (p : Nat) : (s.addMember k p).mem = s.mem := rfl
@[simp] theorem State.addMember_dram (s : State) (k : MemberKind) (p : Nat) : (s.addMember k p).dram = s.dram := rfl
@[simp] theorem State.addMember_writers (s : State) (k : MemberKind) (p : Nat) : (s.addMember k p).writers = s.writers := rfl
@[simp] theorem State.addMember_poison (s : State) (k : MemberKind) (p : Nat) : (s.addMember k p).poison = s.poison := rfl
@[simp] theorem State.addMember_groups (s : State) (k : MemberKind) (p : Nat) : (s.addMember k p).groups = s.groups := rfl
@[simp] theorem State.addMember_pens (s : State) (k : MemberKind) (p : Nat) : (s.addMember k p).pens = s.pens := rfl
@[simp] theorem State.addMember_tasks (s : State) (k : MemberKind) (p : Nat) : (s.addMember k p).tasks = s.tasks := rfl
@[simp] theorem State.addMember_launches (s : State) (k : MemberKind) (p : Nat) : (s.addMember k p).launches = s.launches := rfl
@[simp] theorem State.addMember_ctxs (s : State) (k : MemberKind) (p : Nat) : (s.addMember k p).ctxs = s.ctxs := rfl
@[simp] theorem State.addMember_reservations (s : State) (k : MemberKind) (p : Nat) : (s.addMember k p).reservations = s.reservations := rfl
@[simp] theorem State.addMember_conts (s : State) (k : MemberKind) (p : Nat) : (s.addMember k p).conts = s.conts := rfl
@[simp] theorem State.addMember_tethers (s : State) (k : MemberKind) (p : Nat) : (s.addMember k p).tethers = s.tethers := rfl
@[simp] theorem State.addMember_lostPops (s : State) (k : MemberKind) (p : Nat) : (s.addMember k p).lostPops = s.lostPops := rfl
@[simp] theorem State.addMember_ops (s : State) (k : MemberKind) (p : Nat) : (s.addMember k p).ops = s.ops := rfl
@[simp] theorem State.addMember_parked (s : State) (k : MemberKind) (p : Nat) : (s.addMember k p).parked = s.parked := rfl
@[simp] theorem State.addMember_cells (s : State) (k : MemberKind) (p : Nat) : (s.addMember k p).cells = s.cells := rfl
@[simp] theorem State.addMember_hists (s : State) (k : MemberKind) (p : Nat) : (s.addMember k p).hists = s.hists := rfl
@[simp] theorem State.addMember_runs (s : State) (k : MemberKind) (p : Nat) : (s.addMember k p).runs = s.runs := rfl
@[simp] theorem State.addMember_lastQueue (s : State) (k : MemberKind) (p : Nat) : (s.addMember k p).lastQueue = s.lastQueue := rfl
@[simp] theorem State.addMember_depActs (s : State) (k : MemberKind) (p : Nat) : (s.addMember k p).depActs = s.depActs := rfl
@[simp] theorem State.addMember_devWaits (s : State) (k : MemberKind) (p : Nat) : (s.addMember k p).devWaits = s.devWaits := rfl
@[simp] theorem State.addMember_shoots (s : State) (k : MemberKind) (p : Nat) : (s.addMember k p).shoots = s.shoots := rfl
@[simp] theorem State.addMember_gangs (s : State) (k : MemberKind) (p : Nat) : (s.addMember k p).gangs = s.gangs := rfl
@[simp] theorem State.addMember_dies (s : State) (k : MemberKind) (p : Nat) : (s.addMember k p).dies = s.dies := rfl
@[simp] theorem State.addMember_domain (s : State) (k : MemberKind) (p : Nat) : (s.addMember k p).domain = s.domain := rfl
@[simp] theorem State.addMember_left (s : State) (k : MemberKind) (p : Nat) : (s.addMember k p).left = s.left := rfl
@[simp] theorem State.addMember_unreached (s : State) (k : MemberKind) (p : Nat) : (s.addMember k p).unreached = s.unreached := rfl
@[simp] theorem State.addMember_peerWaits (s : State) (k : MemberKind) (p : Nat) : (s.addMember k p).peerWaits = s.peerWaits := rfl
@[simp] theorem State.addMember_ports (s : State) (k : MemberKind) (p : Nat) : (s.addMember k p).ports = s.ports := rfl
@[simp] theorem State.addMember_boot (s : State) (k : MemberKind) (p : Nat) : (s.addMember k p).boot = s.boot := rfl
@[simp] theorem State.addMember_image (s : State) (k : MemberKind) (p : Nat) : (s.addMember k p).image = s.image := rfl
@[simp] theorem State.addMember_cfg (s : State) (k : MemberKind) (p : Nat) : (s.addMember k p).cfg = s.cfg := rfl
@[simp] theorem State.addMember_cfgUse (s : State) (k : MemberKind) (p : Nat) : (s.addMember k p).cfgUse = s.cfgUse := rfl
@[simp] theorem State.addMember_cert (s : State) (k : MemberKind) (p : Nat) : (s.addMember k p).cert = s.cert := rfl
@[simp] theorem State.addMember_storeFails (s : State) (k : MemberKind) (p : Nat) : (s.addMember k p).storeFails = s.storeFails := rfl
@[simp] theorem State.addMember_bootAt (s : State) (k : MemberKind) (p : Nat) : (s.addMember k p).bootAt = s.bootAt := rfl
@[simp] theorem State.addMember_selfTestAt (s : State) (k : MemberKind) (p : Nat) : (s.addMember k p).selfTestAt = s.selfTestAt := rfl
@[simp] theorem State.addMember_units (s : State) (k : MemberKind) (p : Nat) : (s.addMember k p).units = s.units := rfl
@[simp] theorem State.addMember_healthReplace (s : State) (k : MemberKind) (p : Nat) : (s.addMember k p).healthReplace = s.healthReplace := rfl
@[simp] theorem State.addMember_healthTrip (s : State) (k : MemberKind) (p : Nat) : (s.addMember k p).healthTrip = s.healthTrip := rfl
@[simp] theorem State.addMember_healthBoot (s : State) (k : MemberKind) (p : Nat) : (s.addMember k p).healthBoot = s.healthBoot := rfl
@[simp] theorem State.addMember_healthExh (s : State) (k : MemberKind) (p : Nat) : (s.addMember k p).healthExh = s.healthExh := rfl
@[simp] theorem State.addMember_cecnt (s : State) (k : MemberKind) (p : Nat) : (s.addMember k p).cecnt = s.cecnt := rfl
@[simp] theorem State.addMember_temps (s : State) (k : MemberKind) (p : Nat) : (s.addMember k p).temps = s.temps := rfl
@[simp] theorem State.addMember_tripHold (s : State) (k : MemberKind) (p : Nat) : (s.addMember k p).tripHold = s.tripHold := rfl
@[simp] theorem State.addMember_loweredAt (s : State) (k : MemberKind) (p : Nat) : (s.addMember k p).loweredAt = s.loweredAt := rfl
@[simp] theorem State.addMember_errLog (s : State) (k : MemberKind) (p : Nat) : (s.addMember k p).errLog = s.errLog := rfl
@[simp] theorem State.addMember_shootLog (s : State) (k : MemberKind) (p : Nat) : (s.addMember k p).shootLog = s.shootLog := rfl
@[simp] theorem State.addMember_msix (s : State) (k : MemberKind) (p : Nat) : (s.addMember k p).msix = s.msix := rfl
@[simp] theorem State.addMember_msixTable (s : State) (k : MemberKind) (p : Nat) : (s.addMember k p).msixTable = s.msixTable := rfl
@[simp] theorem State.addMember_hostReplies (s : State) (k : MemberKind) (p : Nat) : (s.addMember k p).hostReplies = s.hostReplies := rfl
@[simp] theorem State.addMember_resetsDone (s : State) (k : MemberKind) (p : Nat) : (s.addMember k p).resetsDone = s.resetsDone := rfl
@[simp] theorem State.addMember_syscalls (s : State) (k : MemberKind) (p : Nat) : (s.addMember k p).syscalls = s.syscalls := rfl
@[simp] theorem State.addMember_mailbox (s : State) (k : MemberKind) (p : Nat) : (s.addMember k p).mailbox = s.mailbox := rfl

/-! ### advance -/

@[simp] theorem State.advance_agenda (s : State) (e : Env) (go : List Nat) : (s.advance e go).agenda = s.agenda := rfl
@[simp] theorem State.advance_fresh (s : State) (e : Env) (go : List Nat) : (s.advance e go).fresh = s.fresh := rfl
@[simp] theorem State.advance_cur (s : State) (e : Env) (go : List Nat) : (s.advance e go).cur = s.cur := rfl
@[simp] theorem State.advance_draw (s : State) (e : Env) (go : List Nat) : (s.advance e go).draw = s.draw := rfl
@[simp] theorem State.advance_rot (s : State) (e : Env) (go : List Nat) : (s.advance e go).rot = s.rot := rfl
@[simp] theorem State.advance_turn (s : State) (e : Env) (go : List Nat) : (s.advance e go).turn = s.turn := rfl
@[simp] theorem State.advance_devTurn (s : State) (e : Env) (go : List Nat) : (s.advance e go).devTurn = s.devTurn := rfl
@[simp] theorem State.advance_timeTurn (s : State) (e : Env) (go : List Nat) : (s.advance e go).timeTurn = s.timeTurn := rfl
@[simp] theorem State.advance_duty (s : State) (e : Env) (go : List Nat) : (s.advance e go).duty = s.duty := rfl
@[simp] theorem State.advance_actor (s : State) (e : Env) (go : List Nat) : (s.advance e go).actor = s.actor := rfl
@[simp] theorem State.advance_now (s : State) (e : Env) (go : List Nat) : (s.advance e go).now = s.now := rfl
@[simp] theorem State.advance_stepped (s : State) (e : Env) (go : List Nat) : (s.advance e go).stepped = s.stepped := rfl
@[simp] theorem State.advance_mem (s : State) (e : Env) (go : List Nat) : (s.advance e go).mem = s.mem := rfl
@[simp] theorem State.advance_dram (s : State) (e : Env) (go : List Nat) : (s.advance e go).dram = s.dram := rfl
@[simp] theorem State.advance_writers (s : State) (e : Env) (go : List Nat) : (s.advance e go).writers = s.writers := rfl
@[simp] theorem State.advance_poison (s : State) (e : Env) (go : List Nat) : (s.advance e go).poison = s.poison := rfl
@[simp] theorem State.advance_pens (s : State) (e : Env) (go : List Nat) : (s.advance e go).pens = s.pens := rfl
@[simp] theorem State.advance_tasks (s : State) (e : Env) (go : List Nat) : (s.advance e go).tasks = s.tasks := rfl
@[simp] theorem State.advance_launches (s : State) (e : Env) (go : List Nat) : (s.advance e go).launches = s.launches := rfl
@[simp] theorem State.advance_ctxs (s : State) (e : Env) (go : List Nat) : (s.advance e go).ctxs = s.ctxs := rfl
@[simp] theorem State.advance_members (s : State) (e : Env) (go : List Nat) : (s.advance e go).members = s.members := rfl
@[simp] theorem State.advance_reservations (s : State) (e : Env) (go : List Nat) : (s.advance e go).reservations = s.reservations := rfl
@[simp] theorem State.advance_conts (s : State) (e : Env) (go : List Nat) : (s.advance e go).conts = s.conts := rfl
@[simp] theorem State.advance_tethers (s : State) (e : Env) (go : List Nat) : (s.advance e go).tethers = s.tethers := rfl
@[simp] theorem State.advance_lostPops (s : State) (e : Env) (go : List Nat) : (s.advance e go).lostPops = s.lostPops := rfl
@[simp] theorem State.advance_ops (s : State) (e : Env) (go : List Nat) : (s.advance e go).ops = s.ops := rfl
@[simp] theorem State.advance_parked (s : State) (e : Env) (go : List Nat) : (s.advance e go).parked = s.parked := rfl
@[simp] theorem State.advance_cells (s : State) (e : Env) (go : List Nat) : (s.advance e go).cells = s.cells := rfl
@[simp] theorem State.advance_hists (s : State) (e : Env) (go : List Nat) : (s.advance e go).hists = s.hists := rfl
@[simp] theorem State.advance_runs (s : State) (e : Env) (go : List Nat) : (s.advance e go).runs = s.runs := rfl
@[simp] theorem State.advance_lastQueue (s : State) (e : Env) (go : List Nat) : (s.advance e go).lastQueue = s.lastQueue := rfl
@[simp] theorem State.advance_depActs (s : State) (e : Env) (go : List Nat) : (s.advance e go).depActs = s.depActs := rfl
@[simp] theorem State.advance_devWaits (s : State) (e : Env) (go : List Nat) : (s.advance e go).devWaits = s.devWaits := rfl
@[simp] theorem State.advance_shoots (s : State) (e : Env) (go : List Nat) : (s.advance e go).shoots = s.shoots := rfl
@[simp] theorem State.advance_gangs (s : State) (e : Env) (go : List Nat) : (s.advance e go).gangs = s.gangs := rfl
@[simp] theorem State.advance_dies (s : State) (e : Env) (go : List Nat) : (s.advance e go).dies = s.dies := rfl
@[simp] theorem State.advance_domain (s : State) (e : Env) (go : List Nat) : (s.advance e go).domain = s.domain := rfl
@[simp] theorem State.advance_left (s : State) (e : Env) (go : List Nat) : (s.advance e go).left = s.left := rfl
@[simp] theorem State.advance_unreached (s : State) (e : Env) (go : List Nat) : (s.advance e go).unreached = s.unreached := rfl
@[simp] theorem State.advance_peerWaits (s : State) (e : Env) (go : List Nat) : (s.advance e go).peerWaits = s.peerWaits := rfl
@[simp] theorem State.advance_ports (s : State) (e : Env) (go : List Nat) : (s.advance e go).ports = s.ports := rfl
@[simp] theorem State.advance_boot (s : State) (e : Env) (go : List Nat) : (s.advance e go).boot = s.boot := rfl
@[simp] theorem State.advance_image (s : State) (e : Env) (go : List Nat) : (s.advance e go).image = s.image := rfl
@[simp] theorem State.advance_cfg (s : State) (e : Env) (go : List Nat) : (s.advance e go).cfg = s.cfg := rfl
@[simp] theorem State.advance_cfgUse (s : State) (e : Env) (go : List Nat) : (s.advance e go).cfgUse = s.cfgUse := rfl
@[simp] theorem State.advance_cert (s : State) (e : Env) (go : List Nat) : (s.advance e go).cert = s.cert := rfl
@[simp] theorem State.advance_storeFails (s : State) (e : Env) (go : List Nat) : (s.advance e go).storeFails = s.storeFails := rfl
@[simp] theorem State.advance_bootAt (s : State) (e : Env) (go : List Nat) : (s.advance e go).bootAt = s.bootAt := rfl
@[simp] theorem State.advance_selfTestAt (s : State) (e : Env) (go : List Nat) : (s.advance e go).selfTestAt = s.selfTestAt := rfl
@[simp] theorem State.advance_units (s : State) (e : Env) (go : List Nat) : (s.advance e go).units = s.units := rfl
@[simp] theorem State.advance_healthReplace (s : State) (e : Env) (go : List Nat) : (s.advance e go).healthReplace = s.healthReplace := rfl
@[simp] theorem State.advance_healthTrip (s : State) (e : Env) (go : List Nat) : (s.advance e go).healthTrip = s.healthTrip := rfl
@[simp] theorem State.advance_healthBoot (s : State) (e : Env) (go : List Nat) : (s.advance e go).healthBoot = s.healthBoot := rfl
@[simp] theorem State.advance_healthExh (s : State) (e : Env) (go : List Nat) : (s.advance e go).healthExh = s.healthExh := rfl
@[simp] theorem State.advance_cecnt (s : State) (e : Env) (go : List Nat) : (s.advance e go).cecnt = s.cecnt := rfl
@[simp] theorem State.advance_temps (s : State) (e : Env) (go : List Nat) : (s.advance e go).temps = s.temps := rfl
@[simp] theorem State.advance_tripHold (s : State) (e : Env) (go : List Nat) : (s.advance e go).tripHold = s.tripHold := rfl
@[simp] theorem State.advance_loweredAt (s : State) (e : Env) (go : List Nat) : (s.advance e go).loweredAt = s.loweredAt := rfl
@[simp] theorem State.advance_errLog (s : State) (e : Env) (go : List Nat) : (s.advance e go).errLog = s.errLog := rfl
@[simp] theorem State.advance_shootLog (s : State) (e : Env) (go : List Nat) : (s.advance e go).shootLog = s.shootLog := rfl
@[simp] theorem State.advance_msix (s : State) (e : Env) (go : List Nat) : (s.advance e go).msix = s.msix := rfl
@[simp] theorem State.advance_msixTable (s : State) (e : Env) (go : List Nat) : (s.advance e go).msixTable = s.msixTable := rfl
@[simp] theorem State.advance_hostReplies (s : State) (e : Env) (go : List Nat) : (s.advance e go).hostReplies = s.hostReplies := rfl
@[simp] theorem State.advance_resetsDone (s : State) (e : Env) (go : List Nat) : (s.advance e go).resetsDone = s.resetsDone := rfl
@[simp] theorem State.advance_syscalls (s : State) (e : Env) (go : List Nat) : (s.advance e go).syscalls = s.syscalls := rfl
@[simp] theorem State.advance_mailbox (s : State) (e : Env) (go : List Nat) : (s.advance e go).mailbox = s.mailbox := rfl

/-! ### tick -/

@[simp] theorem State.tick_agenda (s : State) : (s.tick).agenda = s.agenda := rfl
@[simp] theorem State.tick_rot (s : State) : (s.tick).rot = s.rot := rfl
@[simp] theorem State.tick_turn (s : State) : (s.tick).turn = s.turn := rfl
@[simp] theorem State.tick_devTurn (s : State) : (s.tick).devTurn = s.devTurn := rfl
@[simp] theorem State.tick_timeTurn (s : State) : (s.tick).timeTurn = s.timeTurn := rfl
@[simp] theorem State.tick_duty (s : State) : (s.tick).duty = s.duty + 1 := rfl
@[simp] theorem State.tick_actor (s : State) : (s.tick).actor = s.actor := rfl
@[simp] theorem State.tick_stepped (s : State) : (s.tick).stepped = s.stepped := rfl
@[simp] theorem State.tick_mem (s : State) : (s.tick).mem = s.mem := rfl
@[simp] theorem State.tick_dram (s : State) : (s.tick).dram = s.dram := rfl
@[simp] theorem State.tick_writers (s : State) : (s.tick).writers = s.writers := rfl
@[simp] theorem State.tick_poison (s : State) : (s.tick).poison = s.poison := rfl
@[simp] theorem State.tick_groups (s : State) : (s.tick).groups = s.groups := rfl
@[simp] theorem State.tick_pens (s : State) : (s.tick).pens = s.pens := rfl
@[simp] theorem State.tick_tasks (s : State) : (s.tick).tasks = s.tasks := rfl
@[simp] theorem State.tick_launches (s : State) : (s.tick).launches = s.launches := rfl
@[simp] theorem State.tick_ctxs (s : State) : (s.tick).ctxs = s.ctxs := rfl
@[simp] theorem State.tick_members (s : State) : (s.tick).members = s.members := rfl
@[simp] theorem State.tick_reservations (s : State) : (s.tick).reservations = s.reservations := rfl
@[simp] theorem State.tick_conts (s : State) : (s.tick).conts = s.conts := rfl
@[simp] theorem State.tick_tethers (s : State) : (s.tick).tethers = s.tethers := rfl
@[simp] theorem State.tick_lostPops (s : State) : (s.tick).lostPops = s.lostPops := rfl
@[simp] theorem State.tick_ops (s : State) : (s.tick).ops = s.ops := rfl
@[simp] theorem State.tick_parked (s : State) : (s.tick).parked = s.parked := rfl
@[simp] theorem State.tick_cells (s : State) : (s.tick).cells = s.cells := rfl
@[simp] theorem State.tick_hists (s : State) : (s.tick).hists = s.hists := rfl
@[simp] theorem State.tick_runs (s : State) : (s.tick).runs = s.runs := rfl
@[simp] theorem State.tick_lastQueue (s : State) : (s.tick).lastQueue = s.lastQueue := rfl
@[simp] theorem State.tick_depActs (s : State) : (s.tick).depActs = s.depActs := rfl
@[simp] theorem State.tick_devWaits (s : State) : (s.tick).devWaits = s.devWaits := rfl
@[simp] theorem State.tick_shoots (s : State) : (s.tick).shoots = s.shoots := rfl
@[simp] theorem State.tick_gangs (s : State) : (s.tick).gangs = s.gangs := rfl
@[simp] theorem State.tick_dies (s : State) : (s.tick).dies = s.dies := rfl
@[simp] theorem State.tick_domain (s : State) : (s.tick).domain = s.domain := rfl
@[simp] theorem State.tick_left (s : State) : (s.tick).left = s.left := rfl
@[simp] theorem State.tick_unreached (s : State) : (s.tick).unreached = s.unreached := rfl
@[simp] theorem State.tick_peerWaits (s : State) : (s.tick).peerWaits = s.peerWaits := rfl
@[simp] theorem State.tick_ports (s : State) : (s.tick).ports = s.ports := rfl
@[simp] theorem State.tick_boot (s : State) : (s.tick).boot = s.boot := rfl
@[simp] theorem State.tick_image (s : State) : (s.tick).image = s.image := rfl
@[simp] theorem State.tick_cfg (s : State) : (s.tick).cfg = s.cfg := rfl
@[simp] theorem State.tick_cfgUse (s : State) : (s.tick).cfgUse = s.cfgUse := rfl
@[simp] theorem State.tick_cert (s : State) : (s.tick).cert = s.cert := rfl
@[simp] theorem State.tick_storeFails (s : State) : (s.tick).storeFails = s.storeFails := rfl
@[simp] theorem State.tick_bootAt (s : State) : (s.tick).bootAt = s.bootAt := rfl
@[simp] theorem State.tick_selfTestAt (s : State) : (s.tick).selfTestAt = s.selfTestAt := rfl
@[simp] theorem State.tick_units (s : State) : (s.tick).units = s.units := rfl
@[simp] theorem State.tick_healthReplace (s : State) : (s.tick).healthReplace = s.healthReplace := rfl
@[simp] theorem State.tick_healthTrip (s : State) : (s.tick).healthTrip = s.healthTrip := rfl
@[simp] theorem State.tick_healthBoot (s : State) : (s.tick).healthBoot = s.healthBoot := rfl
@[simp] theorem State.tick_healthExh (s : State) : (s.tick).healthExh = s.healthExh := rfl
@[simp] theorem State.tick_cecnt (s : State) : (s.tick).cecnt = s.cecnt := rfl
@[simp] theorem State.tick_temps (s : State) : (s.tick).temps = s.temps := rfl
@[simp] theorem State.tick_tripHold (s : State) : (s.tick).tripHold = s.tripHold := rfl
@[simp] theorem State.tick_loweredAt (s : State) : (s.tick).loweredAt = s.loweredAt := rfl
@[simp] theorem State.tick_errLog (s : State) : (s.tick).errLog = s.errLog := rfl
@[simp] theorem State.tick_shootLog (s : State) : (s.tick).shootLog = s.shootLog := rfl
@[simp] theorem State.tick_msix (s : State) : (s.tick).msix = s.msix := rfl
@[simp] theorem State.tick_msixTable (s : State) : (s.tick).msixTable = s.msixTable := rfl
@[simp] theorem State.tick_hostReplies (s : State) : (s.tick).hostReplies = s.hostReplies := rfl
@[simp] theorem State.tick_resetsDone (s : State) : (s.tick).resetsDone = s.resetsDone := rfl
@[simp] theorem State.tick_syscalls (s : State) : (s.tick).syscalls = s.syscalls := rfl
@[simp] theorem State.tick_mailbox (s : State) : (s.tick).mailbox = s.mailbox := rfl

end Sys2Proof.Machine
end

