-- ==== Sys2Proof/Laws/Drive.lean ====
section
/-! SUPPORT. What `settle`, `drive`, the shapes over it and a few shared operations do, said once. -/

namespace Sys2Proof.Machine

/-! ### Settling changes groups and draws identifiers, and nothing else -/

/-- Two states that differ in groups and the counter at most. -/
def SameBut (s t : State) : Prop := t = { s with groups := t.groups, fresh := t.fresh }

theorem SameBut.refl (s : State) : SameBut s s := rfl
theorem SameBut.trans {a b c : State} (h : SameBut a b) (k : SameBut b c) : SameBut a c := by
  unfold SameBut at *; rw [k, h]
theorem SameBut.updGroup (s : State) (g : Nat) (f : Group → Group) : SameBut s (s.updGroup g f) := rfl
theorem SameBut.updThread (s : State) (g l : Nat) (f : Thread → Thread) : SameBut s (s.updThread g l f) := rfl
theorem SameBut.bump (s : State) (k : Nat) : SameBut s (s.bump k) := rfl

theorem settleSplice_same (s : State) (g : Nat) (live : List Nat) : SameBut s (s.settleSplice g live) := by
  unfold State.settleSplice
  dsimp only
  repeat' first | rfl | split

theorem SameBut.foldl {α : Type} {f : State → α → State} (h : ∀ x a, SameBut x (f x a)) (l : List α) (s : State) :
    SameBut s (l.foldl f s) := by
  induction l generalizing s with
  | nil => rfl
  | cons a l ih => exact (h s a).trans (ih _)

theorem settleOnce_same (s : State) (p : Nat) : SameBut s (s.settleOnce p) := by
  refine SameBut.foldl (fun x g => ?_) _ s
  repeat' first | rfl | exact settleSplice_same _ _ _ | split
/-- Past its wait a thread is where it goes on, and what it holds is as it was (R39, R64). -/
theorem Thread.goOn_pc (t : Thread) : t.goOn.pc = t.hdr + 16 := by unfold Thread.goOn; dsimp only; split <;> rfl
theorem Thread.goOn_same (t : Thread) : t.goOn = { t with status := t.goOn.status, pc := t.goOn.pc, hdr := t.goOn.hdr, kept := t.goOn.kept } := by
  unfold Thread.goOn; dsimp only; split <;> rfl
@[simp] theorem Thread.goOn_lane (t : Thread) : t.goOn.lane = t.lane := by rw [t.goOn_same]
@[simp] theorem Thread.goOn_regs (t : Thread) : t.goOn.regs = t.regs := by rw [t.goOn_same]
/-- Waits that are over change threads alone (R39, R42). -/
theorem passLate_same (s : State) (p : Nat) : s.passLate p = { s with groups := (s.passLate p).groups } := rfl
/-- A sound line that is written back changes what DRAM holds, and is dirty no longer (R225). -/
theorem State.writeBack_sound {s : State} {line : Nat} (die : Nat) (h : line ∉ s.poison) :
    s.writeBack line die = { s with dram := Memory.store s.dram (128 * line) 128 (Memory.load s.mem (128 * line) 128)
                                    writers := s.writers.filter (fun p => p.1 != line) } := by
  unfold State.writeBack; rw [if_neg (by simpa using h)]
/-- A bad line that nothing has written is not written back (R225). -/
theorem State.writeBack_clean {s : State} {line : Nat} (die : Nat) (h : line ∈ s.poison) (hw : ∀ p ∈ s.writers, p.1 ≠ line) :
    s.writeBack line die = s := by
  unfold State.writeBack; rw [if_pos (by simpa using h), List.find?_eq_none.mpr (by simpa using hw)]
theorem settlePen_same (s : State) (p : Nat) : SameBut s (s.settlePen p) :=
  SameBut.trans (b := s.passLate p) rfl (SameBut.foldl (fun x _ => settleOnce_same x p) _ _)

theorem settle_same (s : State) (p : Nat) : SameBut s (s.settle p) := settlePen_same _ p

@[simp] theorem State.settle_agenda (s : State) (p : Nat) : (s.settle p).agenda = s.agenda := by rw [settle_same s p]
@[simp] theorem State.settle_cur (s : State) (p : Nat) : (s.settle p).cur = s.cur := by rw [settle_same s p]
@[simp] theorem State.settle_draw (s : State) (p : Nat) : (s.settle p).draw = s.draw := by rw [settle_same s p]
@[simp] theorem State.settle_rot (s : State) (p : Nat) : (s.settle p).rot = s.rot := by rw [settle_same s p]
@[simp] theorem State.settle_turn (s : State) (p : Nat) : (s.settle p).turn = s.turn := by rw [settle_same s p]
@[simp] theorem State.settle_now (s : State) (p : Nat) : (s.settle p).now = s.now := by rw [settle_same s p]
@[simp] theorem State.settle_loweredAt (s : State) (p : Nat) : (s.settle p).loweredAt = s.loweredAt := by rw [settle_same s p]
@[simp] theorem State.settle_selfTestAt (s : State) (p : Nat) : (s.settle p).selfTestAt = s.selfTestAt := by rw [settle_same s p]
@[simp] theorem State.settle_storeFails (s : State) (p : Nat) : (s.settle p).storeFails = s.storeFails := by rw [settle_same s p]
@[simp] theorem State.settle_lostPops (s : State) (p : Nat) : (s.settle p).lostPops = s.lostPops := by rw [settle_same s p]
@[simp] theorem State.settle_writers (s : State) (p : Nat) : (s.settle p).writers = s.writers := by rw [settle_same s p]
@[simp] theorem State.settle_actor (s : State) (p : Nat) : (s.settle p).actor = s.actor := by rw [settle_same s p]
@[simp] theorem State.settle_timeTurn (s : State) (p : Nat) : (s.settle p).timeTurn = s.timeTurn := by rw [settle_same s p]
@[simp] theorem State.settle_duty (s : State) (p : Nat) : (s.settle p).duty = s.duty := by rw [settle_same s p]
@[simp] theorem State.settle_devTurn (s : State) (p : Nat) : (s.settle p).devTurn = s.devTurn := by rw [settle_same s p]
@[simp] theorem State.settle_stepped (s : State) (p : Nat) : (s.settle p).stepped = s.stepped := by rw [settle_same s p]
@[simp] theorem State.settle_mem (s : State) (p : Nat) : (s.settle p).mem = s.mem := by rw [settle_same s p]
@[simp] theorem State.settle_dram (s : State) (p : Nat) : (s.settle p).dram = s.dram := by rw [settle_same s p]
@[simp] theorem State.settle_poison (s : State) (p : Nat) : (s.settle p).poison = s.poison := by rw [settle_same s p]
@[simp] theorem State.settle_pens (s : State) (p : Nat) : (s.settle p).pens = s.pens := by rw [settle_same s p]
@[simp] theorem State.settle_tasks (s : State) (p : Nat) : (s.settle p).tasks = s.tasks := by rw [settle_same s p]
@[simp] theorem State.settle_launches (s : State) (p : Nat) : (s.settle p).launches = s.launches := by rw [settle_same s p]
@[simp] theorem State.settle_ctxs (s : State) (p : Nat) : (s.settle p).ctxs = s.ctxs := by rw [settle_same s p]
@[simp] theorem State.settle_members (s : State) (p : Nat) : (s.settle p).members = s.members := by rw [settle_same s p]
@[simp] theorem State.settle_reservations (s : State) (p : Nat) : (s.settle p).reservations = s.reservations := by rw [settle_same s p]
@[simp] theorem State.settle_conts (s : State) (p : Nat) : (s.settle p).conts = s.conts := by rw [settle_same s p]
@[simp] theorem State.settle_tethers (s : State) (p : Nat) : (s.settle p).tethers = s.tethers := by rw [settle_same s p]
@[simp] theorem State.settle_ops (s : State) (p : Nat) : (s.settle p).ops = s.ops := by rw [settle_same s p]
@[simp] theorem State.settle_parked (s : State) (p : Nat) : (s.settle p).parked = s.parked := by rw [settle_same s p]
@[simp] theorem State.settle_cells (s : State) (p : Nat) : (s.settle p).cells = s.cells := by rw [settle_same s p]
@[simp] theorem State.settle_hists (s : State) (p : Nat) : (s.settle p).hists = s.hists := by rw [settle_same s p]
@[simp] theorem State.settle_runs (s : State) (p : Nat) : (s.settle p).runs = s.runs := by rw [settle_same s p]
@[simp] theorem State.settle_lastQueue (s : State) (p : Nat) : (s.settle p).lastQueue = s.lastQueue := by rw [settle_same s p]
@[simp] theorem State.settle_depActs (s : State) (p : Nat) : (s.settle p).depActs = s.depActs := by rw [settle_same s p]
@[simp] theorem State.settle_devWaits (s : State) (p : Nat) : (s.settle p).devWaits = s.devWaits := by rw [settle_same s p]
@[simp] theorem State.settle_shoots (s : State) (p : Nat) : (s.settle p).shoots = s.shoots := by rw [settle_same s p]
@[simp] theorem State.settle_gangs (s : State) (p : Nat) : (s.settle p).gangs = s.gangs := by rw [settle_same s p]
@[simp] theorem State.settle_dies (s : State) (p : Nat) : (s.settle p).dies = s.dies := by rw [settle_same s p]
@[simp] theorem State.settle_domain (s : State) (p : Nat) : (s.settle p).domain = s.domain := by rw [settle_same s p]
@[simp] theorem State.settle_left (s : State) (p : Nat) : (s.settle p).left = s.left := by rw [settle_same s p]
@[simp] theorem State.settle_unreached (s : State) (p : Nat) : (s.settle p).unreached = s.unreached := by rw [settle_same s p]
@[simp] theorem State.settle_peerWaits (s : State) (p : Nat) : (s.settle p).peerWaits = s.peerWaits := by rw [settle_same s p]
@[simp] theorem State.settle_ports (s : State) (p : Nat) : (s.settle p).ports = s.ports := by rw [settle_same s p]
@[simp] theorem State.settle_boot (s : State) (p : Nat) : (s.settle p).boot = s.boot := by rw [settle_same s p]
@[simp] theorem State.settle_image (s : State) (p : Nat) : (s.settle p).image = s.image := by rw [settle_same s p]
@[simp] theorem State.settle_cfg (s : State) (p : Nat) : (s.settle p).cfg = s.cfg := by rw [settle_same s p]
@[simp] theorem State.settle_cfgUse (s : State) (p : Nat) : (s.settle p).cfgUse = s.cfgUse := by rw [settle_same s p]
@[simp] theorem State.settle_cert (s : State) (p : Nat) : (s.settle p).cert = s.cert := by rw [settle_same s p]
@[simp] theorem State.settle_bootAt (s : State) (p : Nat) : (s.settle p).bootAt = s.bootAt := by rw [settle_same s p]
@[simp] theorem State.settle_units (s : State) (p : Nat) : (s.settle p).units = s.units := by rw [settle_same s p]
@[simp] theorem State.settle_healthReplace (s : State) (p : Nat) : (s.settle p).healthReplace = s.healthReplace := by rw [settle_same s p]
@[simp] theorem State.settle_healthTrip (s : State) (p : Nat) : (s.settle p).healthTrip = s.healthTrip := by rw [settle_same s p]
@[simp] theorem State.settle_healthBoot (s : State) (p : Nat) : (s.settle p).healthBoot = s.healthBoot := by rw [settle_same s p]
@[simp] theorem State.settle_healthExh (s : State) (p : Nat) : (s.settle p).healthExh = s.healthExh := by rw [settle_same s p]
@[simp] theorem State.settle_cecnt (s : State) (p : Nat) : (s.settle p).cecnt = s.cecnt := by rw [settle_same s p]
@[simp] theorem State.settle_temps (s : State) (p : Nat) : (s.settle p).temps = s.temps := by rw [settle_same s p]
@[simp] theorem State.settle_tripHold (s : State) (p : Nat) : (s.settle p).tripHold = s.tripHold := by rw [settle_same s p]
@[simp] theorem State.settle_errLog (s : State) (p : Nat) : (s.settle p).errLog = s.errLog := by rw [settle_same s p]
@[simp] theorem State.settle_shootLog (s : State) (p : Nat) : (s.settle p).shootLog = s.shootLog := by rw [settle_same s p]
@[simp] theorem State.settle_msix (s : State) (p : Nat) : (s.settle p).msix = s.msix := by rw [settle_same s p]
@[simp] theorem State.settle_msixTable (s : State) (p : Nat) : (s.settle p).msixTable = s.msixTable := by rw [settle_same s p]
@[simp] theorem State.settle_hostReplies (s : State) (p : Nat) : (s.settle p).hostReplies = s.hostReplies := by rw [settle_same s p]
@[simp] theorem State.settle_resetsDone (s : State) (p : Nat) : (s.settle p).resetsDone = s.resetsDone := by rw [settle_same s p]
@[simp] theorem State.settle_syscalls (s : State) (p : Nat) : (s.settle p).syscalls = s.syscalls := by rw [settle_same s p]
@[simp] theorem State.settle_mailbox (s : State) (p : Nat) : (s.settle p).mailbox = s.mailbox := by rw [settle_same s p]

/-! ### What `drive` does where one thread issues -/

theorem group_updThread (s : State) (g l : Nat) (f : Thread → Thread) (h : (s.group g).run.isSome) :
    (s.updThread g l f).group g = (s.group g).mapLanes [l] f := by
  unfold State.updThread State.updGroup State.group at *
  generalize s.groups = gs at *
  induction gs with
  | nil => simp [Group.blank] at h
  | cons x gs ih =>
    simp only [List.map_cons, List.find?_cons] at *
    by_cases hx : x.id == g
    · simp [hx, Group.mapLanes]
    · simp only [hx, Bool.false_eq_true, if_false] at *
      exact ih h

theorem guarded_false (m : Meaning) : m.guarded false = m := rfl

theorem sortBy_single (l : Nat) : sortBy id [l] = [l] := rfl

section
variable {s : State} {g : Group} {r : Run} {t : Thread} {i : Instr} {m : Meaning} {bad : Env → Bool}

theorem drive_eq (h : Issues s g r t) (hr : i.regsOk (s.launchOf g.pen).regs = true) (hb : bad (envOf g r) = false) :
    drive i bad m s = .next ((if g.lanes then s.driveLanes (envOf g r) m else s.driveStrand (envOf g r) m t).settle g.pen) := by
  unfold drive
  simp only [h.cur, h.grp, h.run, hb, hr, Bool.not_true, Bool.or_self, guarded_false]
  cases hl : g.lanes with
  | true => rfl
  | false => simp only [h.strand hl, Bool.false_eq_true, if_false]

/-- A strand whose guard is true acts once. -/
theorem driveStrand_once (hg : t.guardRuns m.gd = some [(0, t.n, true)])
    (he : m.each = none) (hlay : m.lay s (envOf g r) t = false) :
    s.driveStrand (envOf g r) m t = s.actOnce (envOf g r) m := by
  unfold State.driveStrand
  simp [hg, he, hlay]

theorem lane_true (hg : t.laneGuard m.gd = some true) (he : m.each = none) (e : Env) : m.lane s e t = m.act s e t := by
  unfold Meaning.lane
  simp [hg, he]

theorem lane_each (f : State → Env → Thread → Nat → Except Stop Res) (hg : t.laneGuard m.gd = some true) (he : m.each = some f)
    (e : Env) : m.lane s e t = f s e t 0 := by
  unfold Meaning.lane
  simp [hg, he]

/-- The lane loop over one lane whose thread acts. -/
theorem laneLoop_one {e : Env} {res : Res} {l : Nat} (ht : (s.group e.gid).thread l = some t) (ha : m.lane s e t = .ok res) :
    laneLoop m e [l] s [] = ((res.commit e).1, (if (res.commit e).2 then [l] else []), none) := by
  simp [laneLoop, ht, ha]

theorem driveLanes_asc {res : Res} (h : Issues s g r t) (hl : g.lanes = true) (hasc : m.asc = true)
    (ha : m.lane s (envOf g r) t = .ok res) :
    s.driveLanes (envOf g r) m
      = (res.commit (envOf g r)).1.advance (envOf g r) (if (res.commit (envOf g r)).2 then [t.lane] else []) := by
  obtain ⟨hsel, hfrom, hth, _⟩ := h.lane hl
  have hgid : (envOf g r).gid = g.id := rfl
  unfold State.driveLanes
  simp only [hgid, h.grp, h.run, hsel, hfrom, hasc, if_true]
  rw [show ([t.lane].filter (fun l => decide (0 ≤ l))) = [t.lane] by simp,
    show ([t.lane].filter (fun l => decide (l < 0))) = [] by simp]
  rw [laneLoop_one (by rw [hgid, h.grp]; exact hth) ha]
  cases (res.commit (envOf g r)).2 <;> rfl

theorem driveLanes_any {res : Res} (h : Issues s g r t) (hl : g.lanes = true) (hasc : m.asc = false)
    (h0 : ∃ r0, m.lane s (envOf g r) t = .ok r0) (ha : m.lane s.bump (envOf g r) t = .ok res) :
    s.driveLanes (envOf g r) m
      = (res.commit (envOf g r)).1.advance (envOf g r) (if (res.commit (envOf g r)).2 then [t.lane] else []) := by
  obtain ⟨hsel, hfrom, hth, _⟩ := h.lane hl
  obtain ⟨r0, h0⟩ := h0
  have hgid : (envOf g r).gid = g.id := rfl
  have hgb : s.bump.group g.id = g := h.grp
  have hfs : firstStop m s (envOf g r) [t.lane] = none := by
    simp [firstStop, hgid, h.grp, hth, h0]
  unfold State.driveLanes
  simp only [hgid, h.grp, h.run, hsel, hfrom, hasc]
  rw [show ([t.lane].filter (fun l => decide (0 ≤ l))) = [t.lane] by simp,
    show ([t.lane].filter (fun l => decide (l < 0))) = [] by simp, hfs]
  rw [if_neg (by decide)]
  rw [show sortBy (fun l => Config.freeKey s.fresh l) [t.lane] = [t.lane] from rfl]
  dsimp only
  rw [laneLoop_one (by rw [hgid, hgb]; exact hth) ha]
  cases (res.commit (envOf g r)).2 <;> rfl

/-- The shape of every instruction that acts once for a thread: the state its result leads to. -/
theorem drive_act {res : Res} (h : Performs s g r t i m.gd) (hb : bad (envOf g r) = false) (he : m.each = none)
    (hlay : g.lanes = false → m.lay s (envOf g r) t = false) (hasc : m.asc = true)
    (ha : m.act s (envOf g r) t = .ok res) :
    drive i bad m s = .next (((res.commit (envOf g r)).1.advance (envOf g r)
      (if (res.commit (envOf g r)).2 then [t.lane] else [])).settle g.pen) := by
  have hgid : (envOf g r).gid = g.id := rfl
  rw [drive_eq h.toIssues h.regs hb]
  have hg := h.guard
  unfold GuardTrue at hg
  cases hl : g.lanes with
  | true =>
    rw [hl, if_pos rfl] at hg
    rw [if_pos rfl, driveLanes_asc h.toIssues hl hasc (by rw [lane_true hg he]; exact ha)]
  | false =>
    rw [hl, if_neg (by decide)] at hg
    rw [if_neg (by decide), driveStrand_once hg he (hlay hl)]
    unfold State.actOnce
    rw [hgid, h.grp, h.strand hl]
    simp only [ha]

/-- The same for an instruction whose lane accesses are unordered. -/
theorem drive_actAny {res : Res} (h : Performs s g r t i m.gd) (hb : bad (envOf g r) = false) (he : m.each = none)
    (hlay : g.lanes = false → m.lay s (envOf g r) t = false) (hasc : m.asc = false)
    (h0 : ∃ r0, m.act s (envOf g r) t = .ok r0) (ha : m.act (s.drawn g) (envOf g r) t = .ok res) :
    drive i bad m s = .next (((res.commit (envOf g r)).1.advance (envOf g r)
      (if (res.commit (envOf g r)).2 then [t.lane] else [])).settle g.pen) := by
  have hgid : (envOf g r).gid = g.id := rfl
  rw [drive_eq h.toIssues h.regs hb]
  have hg := h.guard
  unfold GuardTrue at hg
  cases hl : g.lanes with
  | true =>
    rw [hl, if_pos rfl] at hg
    simp only [State.drawn, hl, if_true] at ha
    rw [if_pos rfl, driveLanes_any h.toIssues hl hasc (by rw [lane_true hg he]; exact h0) (by rw [lane_true hg he]; exact ha)]
  | false =>
    rw [hl, if_neg (by decide)] at hg
    simp only [State.drawn, hl] at ha
    rw [if_neg (by decide), driveStrand_once hg he (hlay hl)]
    unfold State.actOnce
    rw [hgid, h.grp, h.strand hl]
    rw [if_neg (by decide)] at ha
    simp only [ha]

/-- It goes on behind the instruction. -/
theorem commit_next {s1 : State} {t1 : Thread} (hl : t1.lane = t.lane) :
    ((({ s := s1, t := t1, flow := .next } : Res).commit (envOf g r)).1.advance (envOf g r)
      (if (({ s := s1, t := t1, flow := .next } : Res).commit (envOf g r)).2 then [t.lane] else [])).settle g.pen
      = s1.perform g r t1 := by
  unfold State.perform Res.commit
  rw [hl]
  rfl
/-- It leaves the clause. -/
theorem commit_leave {s1 : State} {t1 : Thread} :
    ((({ s := s1, t := t1, flow := .leave } : Res).commit (envOf g r)).1.advance (envOf g r)
      (if (({ s := s1, t := t1, flow := .leave } : Res).commit (envOf g r)).2 then [t.lane] else [])).settle g.pen
      = s1.performLeave g r t1 := rfl
/-- It jumps. -/
theorem commit_jump {s1 : State} {t1 : Thread} {a : W64} :
    ((({ s := s1, t := t1, flow := .jump a } : Res).commit (envOf g r)).1.advance (envOf g r)
      (if (({ s := s1, t := t1, flow := .jump a } : Res).commit (envOf g r)).2 then [t.lane] else [])).settle g.pen
      = s1.performLeave g r (t1.goTo a) := rfl

theorem drive_next {s1 : State} {t1 : Thread} (h : Performs s g r t i m.gd) (hb : bad (envOf g r) = false) (he : m.each = none)
    (hlay : g.lanes = false → m.lay s (envOf g r) t = false) (hasc : m.asc = true)
    (ha : m.act s (envOf g r) t = .ok { s := s1, t := t1 }) (ht : t1.lane = t.lane) :
    drive i bad m s = .next (s1.perform g r t1) := by
  rw [drive_act h hb he hlay hasc ha, commit_next ht]

theorem drive_nextAny {s1 : State} {t1 : Thread} (h : Performs s g r t i m.gd) (hb : bad (envOf g r) = false) (he : m.each = none)
    (hlay : g.lanes = false → m.lay s (envOf g r) t = false) (hasc : m.asc = false)
    (h0 : ∃ r0, m.act s (envOf g r) t = .ok r0) (ha : m.act (s.drawn g) (envOf g r) t = .ok { s := s1, t := t1 })
    (ht : t1.lane = t.lane) :
    drive i bad m s = .next (s1.perform g r t1) := by
  rw [drive_actAny h hb he hlay hasc h0 ha, commit_next ht]

theorem drive_leave {s1 : State} {t1 : Thread} (h : Performs s g r t i m.gd) (hb : bad (envOf g r) = false) (he : m.each = none)
    (hlay : g.lanes = false → m.lay s (envOf g r) t = false) (hasc : m.asc = true)
    (ha : m.act s (envOf g r) t = .ok { s := s1, t := t1, flow := .leave }) :
    drive i bad m s = .next (s1.performLeave g r t1) := by
  rw [drive_act h hb he hlay hasc ha, commit_leave]

theorem drive_jump {s1 : State} {t1 : Thread} {a : W64} (h : Performs s g r t i m.gd) (hb : bad (envOf g r) = false)
    (he : m.each = none) (hlay : g.lanes = false → m.lay s (envOf g r) t = false) (hasc : m.asc = true)
    (ha : m.act s (envOf g r) t = .ok { s := s1, t := t1, flow := .jump a }) :
    drive i bad m s = .next (s1.performLeave g r (t1.goTo a)) := by
  rw [drive_act h hb he hlay hasc ha, commit_jump]

/-- A register instruction whose result has the form f. -/
theorem regOp_next {q : RegI} {f : Form} (h : Performs s g r t i q.gd) (hf : q.form (envOf g r) t = some f) :
    regOp i q s = .next (s.perform g r ((t.result q.d f).orFpx (q.op (valsAt (q.forms (envOf g r) t) 0)).2)) := by
  have hlane : ∀ (d : Opd) (f : Form), (t.result d f).lane = t.lane := by
    intro d f; unfold Thread.result Thread.write; split <;> rfl
  unfold regOp
  exact drive_next (m := q.meaning) h rfl rfl (fun _ => by simp [RegI.meaning, hf]) rfl
    (by simp only [RegI.meaning, hf]) (hlane _ _)

/-- A register instruction on sources in U form, in a strand or a lane thread. -/
theorem regOp_gives {q : RegI} (vs : List W64) (h : Performs s g r t i q.gd) (hf : q.forms (envOf g r) t = vs.map Form.u)
    (hr : ∀ n f f64 f32, (q.rule (vs.map Form.u)).form n f f64 f32 = some (.u (f 0))) :
    regOp i q s = s.gives g r t q.d (q.op vs).1 (q.op vs).2 := by
  have hv : ∀ k, valsAt (vs.map Form.u) k = vs := by intro k; simp [valsAt, Function.comp_def, Form.val]
  rw [regOp_next h (f := .u (q.op vs).1)]
  · rw [hf, hv]; rfl
  · unfold RegI.form
    dsimp only
    rw [hf]
    split
    · rw [hr]; simp [hv]
    · simp [hv]

end

theorem any_isA_u (vs : List W64) : (vs.map Form.u).any Form.isA = false := by
  induction vs with
  | nil => rfl
  | cons a l ih => simp [Form.isA]
theorem eClass_u (vs : List W64) (n : Nat) (f f64 f32 : Nat → W64) :
    (eClass (vs.map Form.u)).form n f f64 f32 = some (.u (f 0)) := by
  unfold eClass; rw [any_isA_u]; rfl
theorem uOrAff_u (vs : List W64) (n : Nat) (f f64 f32 : Nat → W64) :
    (uOrAff (vs.map Form.u)).form n f f64 f32 = some (.u (f 0)) := by
  unfold uOrAff; rw [any_isA_u]; rfl
theorem arithRule_u (w : IntW) (x : FmtA) (b : List Form → Bool) (vs : List W64) (n : Nat) (f f64 f32 : Nat → W64) :
    (arithRule w x b (vs.map Form.u)).form n f f64 f32 = some (.u (f 0)) := by
  unfold arithRule; rw [any_isA_u]; rfl
@[simp] theorem orFpx_zero (t : Thread) : t.orFpx 0 = t := by simp [Thread.orFpx]

/-- A lane thread whose guard is true has one true run. -/
theorem guardRuns_lane {t : Thread} {gd : Guard} (h : t.laneGuard gd = some true) (hn : t.n = 1) :
    t.guardRuns gd = some [(0, t.n, true)] := by
  unfold Thread.laneGuard at h
  unfold Thread.guardRuns
  cases gd with
  | always => simp
  | _ =>
    all_goals
      dsimp only at h ⊢
      cases hp : t.preds with
      | nil => rw [hp] at h; simp at h
      | cons p ps =>
        rw [hp] at h
        simp only [Option.some.injEq, beq_iff_eq] at h
        dsimp only
        unfold Ivl.has at h
        unfold Ivl.inter
        rw [hn]
        have hc : p.lo ≤ t.lo ∧ t.lo < p.lo + p.len ∨ ¬ (p.lo ≤ t.lo ∧ t.lo < p.lo + p.len) := by omega
        rcases hc with hc | hc
        · have h1 : max p.lo t.lo = t.lo := by omega
          have h2 : min (p.lo + p.len) (t.lo + 1) = t.lo + 1 := by omega
          simp [hc] at h <;> simp [h1, h2, h]
        · have h2 : ¬ max p.lo t.lo < min (p.lo + p.len) (t.lo + 1) := by omega
          simp [hc] at h <;> simp [h2, h]

/-- A compare on sources in U form whose guard is true: the whole range or none is true. -/
theorem cmpOp_makes {s : State} {g : Group} {r : Run} {t : Thread} {i : Instr} {c : CmpI} (vs : List W64) (h : Performs s g r t i c.gd) (hf : c.forms (envOf g r) t = vs.map Form.u)
    (hd : t.preds.length < 16) :
    cmpOp i c s = s.makes g r (({ t with preds := t.entry (c.test vs).1 :: t.preds } : Thread).orFpx (c.test vs).2) := by
  have hv : ∀ k, valsAt (vs.map Form.u) k = vs := by intro k; simp [valsAt, Function.comp_def, Form.val]
  have hr : t.guardRuns c.gd = some [(0, t.n, true)] := by
    have hg := h.guard
    unfold GuardTrue at hg
    cases hl : g.lanes with
    | true =>
      rw [hl, if_pos rfl] at hg
      exact guardRuns_lane hg (h.toIssues.lane hl).2.2.2
    | false => rw [hl, if_neg (by decide)] at hg; exact hg
  have hA : (vs.map Form.u).any Form.isA = false := by
    clear hf hv; induction vs with
    | nil => rfl
    | cons a l ih => simp [Form.isA]
  have hruns : c.runs (envOf g r) t [(0, t.n, true)] = [(0, t.n, (c.test vs).1)] := by
    unfold CmpI.runs
    rw [hf, hA, hv]
    cases (c.test vs).1 <;> rfl
  have hone : oneIvl t [(0, t.n, (c.test vs).1)] = some (t.entry (c.test vs).1) := by
    cases (c.test vs).1 <;> rfl
  have hdrive : drive i (fun _ => false) c.meaning s
      = s.makes g r (({ t with preds := t.entry (c.test vs).1 :: t.preds } : Thread).orFpx (c.test vs).2) := by
    refine drive_next (m := c.meaning) h rfl rfl (fun _ => ?_) rfl ?_ rfl
    · simp only [CmpI.meaning, hf, hA, Bool.and_false]
    · simp only [CmpI.meaning, hr, hruns, hone]
      rw [if_neg (by omega)]
      simp [CmpI.flags, hf, hv]
  unfold cmpOp pushRuns
  simp only [h.toIssues.cur, h.toIssues.grp, h.toIssues.run]
  cases hl : g.lanes with
  | true => exact hdrive
  | false =>
    simp only [h.toIssues.strand hl, hr, hruns, hone]
    simp [hdrive]
/-- An instruction that acts for each index, on a thread of one index. -/
theorem drive_each {s s1 : State} {g : Group} {r : Run} {t t1 : Thread} {i : Instr} {m : Meaning} {bad : Env → Bool}
    {f : State → Env → Thread → Nat → Except Stop Res} (h : Performs s g r t i m.gd) (hb : bad (envOf g r) = false)
    (he : m.each = some f) (hlay : g.lanes = false → m.lay s (envOf g r) t = false) (hasc : m.asc = false) (hn : t.n = 1)
    (h0 : ∃ r0, f s (envOf g r) t 0 = .ok r0) (ha : f s.bump (envOf g r) t 0 = .ok { s := s1, t := t1 })
    (ht : t1.lane = t.lane) : drive i bad m s = .next (s1.perform g r t1) := by
  have hgid : (envOf g r).gid = g.id := rfl
  obtain ⟨r0, h0⟩ := h0
  rw [drive_eq h.toIssues h.regs hb]
  have hg := h.guard
  unfold GuardTrue at hg
  cases hl : g.lanes with
  | true =>
    rw [hl, if_pos rfl] at hg
    rw [if_pos rfl, driveLanes_any h.toIssues hl hasc ⟨r0, by rw [lane_each f hg he]; exact h0⟩
      (by rw [lane_each f hg he]; exact ha), commit_next ht]
  | false =>
    rw [hl, if_neg (by decide)] at hg
    rw [if_neg (by decide)]
    unfold State.driveStrand
    have hks : ((List.range t.n).filter (runTrue [(0, t.n, true)])) = [0] := by rw [hn]; rfl
    simp only [hg, List.any_cons, List.any_nil, Bool.or_false, Bool.not_true, Bool.false_and, Bool.false_eq_true, if_false,
      hlay hl, he]
    unfold State.actEach
    simp only [hks, List.find?_cons, List.find?_nil, h0]
    rw [show sortBy (fun k => Config.freeKey s.fresh k) [0] = [0] from rfl]
    unfold eachLoop
    rw [ha]
    unfold eachLoop State.perform
    dsimp only
    rw [hgid, ht]

/-! ### Turjo's stores, tether lists, waiters for lane rows, windows that are over -/

/-- A store by Turjo is made whole, or not at all (R223). -/
theorem State.sysWrite_cases (s : State) (w : SysStore) :
    (s.sound w.pa 8 = true ∧ s.sysWrite w = s.writeLoc (.phys w.pa) 8 w.value.toNat) ∨ (s.sound w.pa 8 = false ∧ s.sysWrite w = s) := by
  unfold State.sysWrite
  cases h : s.sound w.pa 8
  · exact .inr ⟨rfl, by simp⟩
  · exact .inl ⟨rfl, by simp⟩

/-- Turjo's stores change memory and the lines' last writers, and nothing else. -/
theorem State.sysStores_same (l : List SysStore) (s : State) :
    s.sysStores l = { s with mem := (s.sysStores l).mem, writers := (s.sysStores l).writers } := by
  induction l generalizing s with
  | nil => rfl
  | cons w l ih =>
    have h : s.sysStores (w :: l) = (s.sysWrite w).sysStores l := rfl
    rw [h, ih]
    rcases s.sysWrite_cases w with ⟨-, hw⟩ | ⟨-, hw⟩
    · rw [hw]; rfl
    · rw [hw]

/-- A change of a tether list changes that list and the header in memory, and nothing else. -/
theorem State.setTether_same (s : State) (t : Tether) :
    s.setTether t = { s with tethers := (s.setTether t).tethers, mem := (s.setTether t).mem, writers := (s.setTether t).writers } := by
  unfold State.setTether
  dsimp only
  generalize State.sound _ _ _ = b
  cases b <;> rfl

/-- The waiters for a lane row of a core are its placed groups that wait for one. -/
theorem State.mem_rowWaiters {s : State} {core gid k : Nat} : (gid, k) ∈ s.rowWaiters core
    ↔ ∃ g ∈ s.coreGroups core, g.resident s = true ∧ g.stall = some (.row k) ∧ g.id = gid := by
  unfold State.rowWaiters
  simp only [List.mem_filterMap, List.mem_filter]
  constructor
  · rintro ⟨g, ⟨hg, hr⟩, h⟩
    split at h
    · rename_i j hj
      obtain ⟨rfl, rfl⟩ := Prod.mk.injEq .. ▸ Option.some.inj h
      exact ⟨g, hg, hr, hj, rfl⟩
    · cases h
  · rintro ⟨g, hg, hr, hj, rfl⟩
    exact ⟨g, ⟨hg, hr⟩, by rw [hj]⟩

/-- An ACCZ does not begin before an operation registered earlier on its tile is complete (R311). -/
theorem State.canStart_accz {s : State} {o q : EngOp} (hk : o.kind = .accz) (ht : o.tile ≠ none) (hq : q ∈ s.before o)
    (hp : q.pen = o.pen) (hqt : q.tile = o.tile) : s.canStart o = false := by
  unfold State.canStart
  rw [Bool.and_eq_false_iff]
  refine .inr (List.all_eq_false.mpr ⟨q, hq, ?_⟩)
  obtain ⟨t, ht⟩ := Option.ne_none_iff_exists'.mp ht
  simp [hk, hp, hqt, ht, OpKind.waitsFor]

end Sys2Proof.Machine
end

