-- ==== Sys2Proof/Laws/Memory.lean ====
section
/-! SUPPORT. Memory in its canonical form (R8): reads after writes, and that every write keeps the form. -/

namespace Sys2Proof.Machine

theorem Memory.wfFrom_mono {m : List Host.Cell} {lo lo' : Nat} (h : lo' ≤ lo) (hm : Memory.wfFrom lo m = true) :
    Memory.wfFrom lo' m = true := by
  cases m with
  | nil => rfl
  | cons c m =>
    simp only [Memory.wfFrom, Bool.and_eq_true, decide_eq_true_eq] at hm ⊢
    exact ⟨⟨by omega, hm.1.2⟩, hm.2⟩

/-- An address below every entry is not listed. -/
theorem Memory.get_below {m : List Host.Cell} {lo x : Nat} (hm : Memory.wfFrom lo m = true) (h : x < lo) :
    Memory.get m x = 0 := by
  cases m with
  | nil => rfl
  | cons c m =>
    simp only [Memory.wfFrom, Bool.and_eq_true, decide_eq_true_eq] at hm
    simp only [Memory.get]
    rw [if_pos (by omega)]

theorem Memory.set_wfFrom {m : List Host.Cell} {lo x : Nat} {v : Byte} (hm : Memory.wfFrom lo m = true) (h : lo ≤ x) :
    Memory.wfFrom lo (Memory.set m x v) = true := by
  induction m generalizing lo with
  | nil =>
    simp only [Memory.set]
    split <;> simp_all [Memory.wfFrom]
  | cons c m ih =>
    obtain ⟨a, b⟩ := c
    simp only [Memory.wfFrom, Bool.and_eq_true, decide_eq_true_eq] at hm
    obtain ⟨⟨ha, hb⟩, hr⟩ := hm
    simp only [Memory.set]
    split
    · split
      · simp only [Memory.wfFrom, Bool.and_eq_true, decide_eq_true_eq]; exact ⟨⟨ha, hb⟩, hr⟩
      · simp_all [Memory.wfFrom]
    · split
      · split
        · exact Memory.wfFrom_mono (by omega) hr
        · simp_all [Memory.wfFrom]
      · simp only [Memory.wfFrom, Bool.and_eq_true, decide_eq_true_eq]
        exact ⟨⟨ha, hb⟩, ih hr (by omega)⟩

/-- Writing a byte keeps the canonical form. -/
theorem Memory.set_wf {m : List Host.Cell} (hm : Memory.wf m = true) (x : Nat) (v : Byte) :
    Memory.wf (Memory.set m x v) = true := Memory.set_wfFrom hm (Nat.zero_le x)

/-- Writing n bytes keeps the canonical form. -/
theorem Memory.store_wf {m : List Host.Cell} (hm : Memory.wf m = true) (a n v : Nat) :
    Memory.wf (Memory.store m a n v) = true := by
  induction n generalizing m a v with
  | zero => exact hm
  | succ n ih => exact ih (Memory.set_wf hm a _) _ _

theorem Memory.get_set_from {m : List Host.Cell} {lo : Nat} (hm : Memory.wfFrom lo m = true) (x y : Nat) (v : Byte) :
    Memory.get (Memory.set m x v) y = if y = x then v else Memory.get m y := by
  induction m generalizing lo with
  | nil =>
    simp only [Memory.set]
    split
    · rename_i hv; subst hv; simp [Memory.get]
    · simp only [Memory.get]; split
      · rw [if_neg (by omega)]
      · split <;> simp_all
  | cons c m ih =>
    obtain ⟨a, b⟩ := c
    simp only [Memory.wfFrom, Bool.and_eq_true, decide_eq_true_eq] at hm
    obtain ⟨⟨ha, hb⟩, hr⟩ := hm
    simp only [Memory.set]
    split
    · rename_i hx
      split
      · rename_i hv
        split
        · rename_i hy; subst hy hv; simp [Memory.get, hx]
        · rfl
      · simp only [Memory.get]
        split
        · rw [if_neg (by omega), if_pos (by omega)]
        · by_cases hy : y = x
          · simp [hy]
          · simp [hy]
    · split
      · rename_i hx; subst hx
        split
        · rename_i hv; subst hv
          by_cases hy : y = x
          · subst hy; rw [if_pos rfl]; exact Memory.get_below hr (by omega)
          · rw [if_neg hy]; simp only [Memory.get]; split
            · exact Memory.get_below hr (by omega)
            · rfl
        · simp only [Memory.get]; split
          · rw [if_neg (by omega)]
          · split <;> simp_all
      · simp only [Memory.get]; split
        · rw [if_neg (by omega)]
        · split
          · rw [if_neg (by omega)]
          · exact ih hr

/-- Reading a byte after writing one. -/
theorem Memory.get_set {m : List Host.Cell} (hm : Memory.wf m = true) (x y : Nat) (v : Byte) :
    Memory.get (Memory.set m x v) y = if y = x then v else Memory.get m y := Memory.get_set_from hm x y v

/-- A store changes no byte outside the n from a on. -/
theorem Memory.get_store_outside {m : List Host.Cell} (hm : Memory.wf m = true) (a n v x : Nat) (h : x < a ∨ a + n ≤ x) :
    Memory.get (Memory.store m a n v) x = Memory.get m x := by
  induction n generalizing m a v with
  | zero => rfl
  | succ n ih =>
    simp only [Memory.store]
    rw [ih (Memory.set_wf hm a _) _ _ (by omega), Memory.get_set hm, if_neg (by omega)]

/-- Byte k of a stored value, little-endian (R8). -/
theorem Memory.get_store_inside {m : List Host.Cell} (hm : Memory.wf m = true) (a n v k : Nat) (h : k < n) :
    Memory.get (Memory.store m a n v) (a + k) = BitVec.ofNat 8 (v / 256 ^ k) := by
  induction n generalizing m a v k with
  | zero => omega
  | succ n ih =>
    simp only [Memory.store]
    cases k with
    | zero => rw [Memory.get_store_outside (Memory.set_wf hm a _) _ _ _ _ (by omega), Memory.get_set hm]; simp
    | succ k =>
      have := ih (Memory.set_wf hm a (BitVec.ofNat 8 v)) (a + 1) (v / 256) k (by omega)
      rw [show a + (k + 1) = a + 1 + k by omega, this, Nat.div_div_eq_div_mul, Nat.pow_succ, Nat.mul_comm]

/-- A load reads only its own bytes. -/
theorem Memory.load_congr {m m' : List Host.Cell} (a n : Nat) (h : ∀ k < n, Memory.get m (a + k) = Memory.get m' (a + k)) :
    Memory.load m a n = Memory.load m' a n := by
  induction n generalizing a with
  | zero => rfl
  | succ n ih =>
    simp only [Memory.load]
    have h0 := h 0 (by omega)
    simp only [Nat.add_zero] at h0
    rw [h0, ih (a + 1) (fun k hk => by have := h (k + 1) (by omega); rwa [show a + (k + 1) = a + 1 + k by omega] at this)]

/-- A load after a store to the same place gives the value stored. -/
theorem Memory.load_store {m : List Host.Cell} (hm : Memory.wf m = true) (a n v : Nat) :
    Memory.load (Memory.store m a n v) a n = v % 256 ^ n := by
  induction n generalizing m a v with
  | zero => simp [Memory.load, Nat.mod_one]
  | succ n ih =>
    simp only [Memory.load, Memory.store]
    rw [ih (Memory.set_wf hm a _), Memory.get_store_outside (Memory.set_wf hm a _) _ _ _ _ (by omega), Memory.get_set hm]
    simp only [if_true, BitVec.toNat_ofNat]
    rw [show (256 : Nat) ^ (n + 1) = 256 * 256 ^ n by rw [Nat.pow_succ, Nat.mul_comm], Nat.mod_mul]

/-- A load that the store does not touch. -/
theorem Memory.load_store_apart {m : List Host.Cell} (hm : Memory.wf m = true) (a n v b k : Nat) (h : b + k ≤ a ∨ a + n ≤ b) :
    Memory.load (Memory.store m a n v) b k = Memory.load m b k :=
  Memory.load_congr b k (fun j hj => Memory.get_store_outside hm a n v _ (by omega))

theorem Memory.load_lt (m : List Host.Cell) (a n : Nat) : Memory.load m a n < 256 ^ n := by
  induction n generalizing a with
  | zero => simp [Memory.load]
  | succ n ih =>
    have := ih (a + 1)
    have hb := (Memory.get m a).isLt
    simp only [Memory.load, Nat.pow_succ]
    omega

end Sys2Proof.Machine
end

