-- ==== Sys2Proof/Machine/Image.lean ====
section
/-! DEFINITION. Device object files as the tools and the run-time that loads an image treat them (R91 to R97): the fill of
an alignment gap, identification, kernel information, relocations, and the register counts of a link. The device reads none
of it; what the run-time stores comes to the machine as stores. -/

namespace Sys2Proof.Machine

/-! ### Alignment in a code section (R91) -/

/-- The NOP words of each clause that fills a gap of m words, m at least 2. -/
def gapClauses : (fuel m : Nat) → List Nat
  | 0, _ => []
  | f + 1, m => if 19 ≤ m then 16 :: gapClauses f (m - 17) else if m = 18 then [8, 8] else if 2 ≤ m then [m - 1] else []
/-- Bytes of the gap before a multiple of n: one of 8 bytes is widened by n. -/
def gapBytes (a n : Nat) : Nat := let g := (n - a % n) % n; if g = 8 then 8 + n else g
/-- The header of such a clause: class int, nothing waited for, set or named. -/
def gapHeader (nops : Nat) : Header := { ecl := 0, cnt := BitVec.ofNat 4 (nops - 1), wait := 0, seta := 15, setb := 15, yld := false, lit := 0 }

/-! ### Identification and kernel information (R92, R93) -/

/-- An object that flivld and the run-time accept: class, data, machine, and flags that name Dzinum-3 or Dzinum-2. -/
def objectOk (eiClass eiData machine flags : Nat) : Bool :=
  eiClass == 2 && eiData == 1 && machine == 0x0D23 && (flags == 3 || flags == 2)
/-- SHF_DZ2 marks a code section of Dzinum-2. -/
def sectionDz2 (shFlags : Nat) : Bool := shFlags.testBit 20
/-- A kernel-information record; N and the grid are 0 without .launch. -/
def kinfoRecord (gridC gridY n regs sym : Nat) : BitVec 256 :=
  (0 : BitVec 64) ++ BitVec.ofNat 32 gridC ++ BitVec.ofNat 32 gridY ++ BitVec.ofNat 64 n ++ (0 : BitVec 16) ++ BitVec.ofNat 16 regs
    ++ BitVec.ofNat 32 sym

/-! ### Relocations (R94 to R96) -/

inductive Reloc where
  | none | abs64 | abs32 | lo32 | hi32 | imm32s | lit32 | br26 | spl16
  deriving DecidableEq, Repr

/-- Types 9 to 255 are reserved. -/
def relocOf (t : Nat) : Option Reloc :=
  match t with
  | 0 => some .none | 1 => some .abs64 | 2 => some .abs32 | 3 => some .lo32 | 4 => some .hi32 | 5 => some .imm32s
  | 6 => some .lit32 | 7 => some .br26 | 8 => some .spl16 | _ => Option.none
/-- It acts on an instruction word, the k-th after its clause header. -/
def Reloc.inWord : Reloc → Bool | .lo32 | .hi32 | .imm32s | .br26 | .spl16 => true | _ => false
/-- The type part of r_info: the relocation and k, 0 where it names no instruction word. -/
def relocInfo (w : W32) : Option (Reloc × Nat) :=
  match relocOf (bits w 7 0).toNat with
  | Option.none => Option.none
  | some r =>
    if bits w 31 12 != 0 || (!r.inWord && bits w 11 8 != 0) then Option.none
    else some (r, if r.inWord then (bits w 11 8).toNat + 1 else 0)

/-- The value computed from the symbol, the addend and the place. -/
def Reloc.value (r : Reloc) (s a p : Int) : Int := match r with | .br26 | .spl16 => s + a - p | _ => s + a
/-- The condition under which it fits. -/
def Reloc.fits (r : Reloc) (v : Int) : Bool :=
  match r with
  | .abs32 | .lit32 => decide (0 ≤ v ∧ v < 2 ^ 32)
  | .imm32s => decide (-(2 ^ 31) ≤ v ∧ v < 2 ^ 31)
  | .br26 => decide (v % 8 = 0 ∧ -(2 ^ 25) ≤ v / 8 ∧ v / 8 < 2 ^ 25)
  | .spl16 => decide (v % 8 = 0 ∧ 1 ≤ v / 8 ∧ v / 8 ≤ 65535)
  | _ => true
/-- The word that it acts on has the field. -/
def Reloc.hasField (r : Reloc) (w : W64) : Bool :=
  match r with
  | .lo32 | .hi32 | .imm32s => (match rowOf (opcOf w).toNat with | some (.I _) => true | _ => false)
  | .br26 | .spl16 => (match rowOf (opcOf w).toNat with | some (.B _) => true | _ => false)
  | .lit32 => (decodeHeader w).isSome
  | _ => true
/-- n bits of a word from bit lo on become v, modulo 2^n. -/
def putField (w : W64) (lo n : Nat) (v : Int) : W64 :=
  BitVec.ofNat 64 (w.toNat - w.toNat / 2 ^ lo % 2 ^ n * 2 ^ lo + (v % 2 ^ n).toNat * 2 ^ lo)
/-- The word with its field written; none when the image is rejected. -/
def Reloc.place (r : Reloc) (v : Int) (w : W64) : Option W64 :=
  if !r.fits v || !r.hasField w then Option.none else
  some (match r with
    | .none => w
    | .abs64 => putField w 0 64 v
    | .abs32 | .lit32 => putField w 0 32 v
    | .lo32 | .imm32s => putField w 1 32 v
    | .hi32 => putField w 1 32 (v / 2 ^ 32)
    | .br26 => putField w 17 26 (v / 8)
    | .spl16 => putField w 1 16 (v / 8))
/-- One relocation at r_offset, on the bytes of an image. -/
def relocate (m : List Host.Cell) (r : Reloc) (k : Nat) (s a : Int) (p : Nat) : Option (List Host.Cell) :=
  let at' := p + 8 * k
  let n := match r with | .abs32 => 4 | _ => 8
  (r.place (r.value s a p) (BitVec.ofNat 64 (Memory.load m at' n))).map (fun w => Memory.store m at' n w.toNat)

/-! ### The register counts of a link (R97) -/

/-- A kernel or function: its name, its declared count, and those that it calls directly. -/
abbrev Linked := List (Nat × Nat × List Nat)
/-- What a chain of direct calls reaches from a set of names, within `fuel` calls. -/
def reaches (l : Linked) : (fuel : Nat) → List Nat → List Nat
  | 0, xs => xs
  | f + 1, xs => reaches l f (xs ++ (l.filter (fun q => xs.contains q.1)).flatMap (fun q => q.2.2)).dedup
/-- A kernel calls no function whose count exceeds its own. -/
def linkOk (l : Linked) (kernel count : Nat) : Bool :=
  (l.filter (fun q => (reaches l l.length [kernel]).contains q.1)).all (fun q => decide (q.2.1 ≤ count))

end Sys2Proof.Machine
end

