-- ==== Sys2Proof/Tests/Slice0.lean ====
section
/-! SUPPORT. The model's own tests: words written out from the encoding tables, ill-formed terms that the checks refuse,
for each statement a state and operands that meet its hypotheses, and results worked by hand from the manual. -/

open Sys2Proof Sys2Proof.Machine

namespace Sys2Proof.Tests

set_option Elab.async false

/-! ### Machines for tests -/

/-- The group that issues, the clause it is in, and the one thread it issues for. -/
def grp (s : State) : Group := s.group (s.cur.getD 0)
def run (s : State) : Run := (grp s).run.getD (fetchRun 0)
def thr (s : State) : Thread :=
  if (grp s).lanes then ((grp s).thread ((run s).sel.headD 0)).getD (fetchThread 1) else (grp s).threads.headD (fetchThread 1)

/-- What `Performs` asks, as a test. -/
def ready (s : State) (i : Instr) (gd : Guard) : Bool :=
  decide (s.cur = some (grp s).id) && decide ((grp s).run = some (run s)) && i.regsOk (s.launchOf (grp s).pen).regs
  && if (grp s).lanes then
      decide ((run s).sel = [(thr s).lane]) && decide ((run s).from' = 0) && decide ((grp s).thread (thr s).lane = some (thr s))
        && decide ((thr s).n = 1) && decide ((thr s).laneGuard gd = some true)
    else decide ((grp s).threads = [thr s]) && decide ((thr s).guardRuns gd = some [(0, (thr s).n, true)])

theorem ready_issues {s : State} {i : Instr} {gd : Guard} (h : ready s i gd = true) : Issues s (grp s) (run s) (thr s) := by
  unfold ready at h
  simp only [Bool.and_eq_true, decide_eq_true_eq] at h
  obtain ⟨⟨⟨h1, h2⟩, -⟩, h4⟩ := h
  have hg : s.group (grp s).id = grp s := by
    conv_rhs => rw [grp, h1]
    rfl
  refine ⟨h1, hg, h2, fun hl => ?_, fun hl => ?_⟩
  · simp only [hl, Bool.false_eq_true, if_false, Bool.and_eq_true, decide_eq_true_eq] at h4; exact h4.1
  · simp only [hl, if_true, Bool.and_eq_true, decide_eq_true_eq] at h4; exact ⟨h4.1.1.1.1, h4.1.1.1.2, h4.1.1.2, h4.1.2⟩

theorem ready_performs {s : State} {i : Instr} {gd : Guard} (h : ready s i gd = true) : Performs s (grp s) (run s) (thr s) i gd := by
  refine { ready_issues h with regs := ?_, guard := ?_ }
  · unfold ready at h; simp only [Bool.and_eq_true] at h; exact h.1.2
  · unfold ready at h; simp only [Bool.and_eq_true] at h
    unfold GuardTrue
    split
    · rename_i hl; simp only [hl, if_true, Bool.and_eq_true, decide_eq_true_eq] at h; exact h.2.2
    · rename_i hl; simp only [hl, Bool.false_eq_true, if_false, Bool.and_eq_true, decide_eq_true_eq] at h; exact h.2.2

/-- The thread performs every instruction of a list under a guard. -/
theorem all_perform {s : State} {l : List Instr} {gd : Guard} (h : (l.all fun i => ready s i gd) = true) :
    ∀ i ∈ l, Performs s (grp s) (run s) (thr s) i gd := fun i hi => ready_performs (List.all_eq_true.mp h i hi)

theorem some_of_isSome {α : Type} {o : Option α} (h : o.isSome = true) : ∃ x, o = some x := Option.isSome_iff_exists.mp h
theorem some_pair {α β : Type} {o : Option (α × β)} (h : o.isSome = true) : ∃ a b, o = some (a, b) := by
  obtain ⟨⟨a, b⟩, hx⟩ := some_of_isSome h; exact ⟨a, b, hx⟩
def isOk {ε α : Type} : Except ε α → Bool | .ok _ => true | .error _ => false
theorem ok_of_isOk {ε α : Type} {x : Except ε α} (h : isOk x = true) : ∃ a, x = .ok a := by
  cases x with | ok a => exact ⟨a, rfl⟩ | error e => simp [isOk] at h
theorem error_of_not {ε α : Type} {x : Except ε α} (h : isOk x = false) : ∃ e, x = .error e := by
  cases x with | error e => exact ⟨e, rfl⟩ | ok a => simp [isOk] at h

/-- Eight ring slots of 64 bytes in scratch; the pen of the tests, with 8 KiB of scratch and four tiles. -/
def testRing (st : Slot) : Ring := { cfg := 0x0000000806000000, head := 0, tail := 0, slots := List.replicate 8 st }
def testPen : Pen :=
  { fetchPen with scsz := 0x8000, accn := 4, rings := [testRing .free, testRing .filled, testRing .claimed, testRing .taken] ++ List.replicate 4 Ring.blank }
/-- A strand of n indices from 0, with the registers given, at the only word of its clause. -/
def strand (cells : List (Nat × Form)) (n : Nat := 1) : State :=
  { State.reset.placeWord 0 with
    cur := some 1, pens := [testPen]
    groups := [{ fetchGroup 1 0 with threads := [{ fetchThread 1 with n := n, regs := { fill := 1, cells := cells } }] }] }
/-- A lane group of k lanes, all selected, with the registers given for each lane. -/
def laneGroup (k : Nat) (cells : Nat → List (Nat × Form)) : State :=
  { State.reset.placeWord 0 with
    cur := some 1, pens := [testPen]
    groups := [{ fetchGroup 1 0 with lanes := true, place := .row 0, run := some { fetchRun 0 with sel := List.range k }
                                     threads := (List.range k).map (fun j => { fetchThread 1 with lo := j, lane := j, regs := { fill := 1, cells := cells j } }) }] }
/-- The strand or lane thread with its record changed. -/
def alter (s : State) (f : Thread → Thread) : State := { s with groups := s.groups.map (fun g => { g with threads := g.threads.map f }) }
/-- D after one instruction, and the thread's flags and predicate stack. -/
def after (i : Instr) (s : State) : Option Thread :=
  match exec i s with
  | .next u => (u.group 1).threads.head?
  | _ => none
def reg (i : Instr) (s : State) (k : Nat) : Option Form := (after i s).map (fun t => t.regs.get k)
def fpx (i : Instr) (s : State) : Option Fpx := (after i s).map Thread.fpx

/-- Operand g k, and the fields of formats A, I, M, Q, E, G, S and B with g1, g2, g3, g4 as D (or V), A (or BASE), B (or IDX), C. -/
def g' (k : Nat) : Opd := ⟨.g, BitVec.ofNat 8 k⟩
def xA : FmtA := ⟨.always, g' 1, g' 2, g' 3, g' 4, .none, .none, .none, .none, 0⟩
def xI (imm : W32 := 0) : FmtI := ⟨.always, g' 1, g' 2, imm⟩
def xM (sp : Space := .global) (off : BitVec 20 := 0) : FmtM := ⟨.always, g' 1, g' 2, off, sp, .normal⟩
def xQ (wm : BitVec 2 := 0) (flg : BitVec 4 := 15) : FmtQ := ⟨.always, g' 1, g' 2, g' 3, flg, wm⟩
def xE (acc : BitVec 5 := 0) : FmtE := ⟨.always, g' 2, g' 4, g' 6, acc, 0, 0, false, 0, false, false, false, 15⟩
def xG : FmtG := ⟨.always, g' 1, g' 2, g' 3, 0, 0⟩
def xS (n : BitVec 12 := 0) : FmtS := ⟨.always, g' 1, g' 2, n⟩
def xB (tgt : BitVec 26 := 0) : FmtB := ⟨.always, g' 2, tgt, 0⟩

def words_block0 : List (Nat × Instr) :=
  [(0x0080080401800C20, (.iadd .i64 ⟨.always, ⟨.g, 1⟩, ⟨.g, 2⟩, ⟨.g, 3⟩, ⟨.g, 0⟩, .neg, .abs, .none, .sat, 0⟩)),
   (0x0128220B01800600, (.isub .i32 ⟨.top, ⟨.o, 4⟩, ⟨.o, 5⟩, ⟨.h, 3⟩, ⟨.g, 0⟩, .none, .negAbs, .none, .none, 0⟩)),
   (0x02803E0004800000, (.imul .i64 ⟨.always, ⟨.g, 7⟩, ⟨.special, 0⟩, ⟨.g, 9⟩, ⟨.g, 0⟩, .none, .none, .none, .none, 0⟩)),
   (0x0380080401800000, (.imulh .n ⟨.always, ⟨.g, 1⟩, ⟨.g, 2⟩, ⟨.g, 3⟩, ⟨.g, 0⟩, .none, .none, .none, .none, 0⟩)),
   (0x04000804018080A0, (.imad .i32 ⟨.always, ⟨.g, 1⟩, ⟨.g, 2⟩, ⟨.g, 3⟩, ⟨.g, 4⟩, .none, .none, .neg, .sat, 0⟩)),
   (0x0500080401800820, (.idiv .s ⟨.always, ⟨.g, 1⟩, ⟨.g, 2⟩, ⟨.g, 3⟩, ⟨.g, 0⟩, .neg, .none, .none, .sat, 0⟩)),
   (0x06C0080401800000, (.irem .n ⟨.inverse, ⟨.g, 1⟩, ⟨.g, 2⟩, ⟨.g, 3⟩, ⟨.g, 0⟩, .none, .none, .none, .none, 0⟩)),
   (0x0700080401800200, (.imin .s ⟨.always, ⟨.g, 1⟩, ⟨.g, 2⟩, ⟨.g, 3⟩, ⟨.g, 0⟩, .none, .neg, .none, .none, 0⟩)),
   (0x0887F9FC7E800000, (.imax .n ⟨.always, ⟨.g, 255⟩, ⟨.g, 254⟩, ⟨.g, 253⟩, ⟨.g, 0⟩, .none, .none, .none, .none, 0⟩)),
   (0x0900080400001820, (.iabs ⟨.always, ⟨.g, 1⟩, ⟨.g, 2⟩, ⟨.g, 0⟩, ⟨.g, 0⟩, .negAbs, .none, .none, .sat, 0⟩)),
   (0x0980080582000000, (.and ⟨.always, ⟨.g, 1⟩, ⟨.g, 2⟩, ⟨.special, 4⟩, ⟨.g, 0⟩, .none, .none, .none, .none, 0⟩)),
   (0x0A000E0601800000, (.or ⟨.always, ⟨.g, 1⟩, ⟨.special, 3⟩, ⟨.g, 3⟩, ⟨.g, 0⟩, .none, .none, .none, .none, 0⟩)),
   (0x0A98140100800000, (.xor ⟨.always, ⟨.special, 2⟩, ⟨.h, 0⟩, ⟨.h, 1⟩, ⟨.g, 0⟩, .none, .none, .none, .none, 0⟩)),
   (0x0B00080400000000, (.not ⟨.always, ⟨.g, 1⟩, ⟨.g, 2⟩, ⟨.g, 0⟩, ⟨.g, 0⟩, .none, .none, .none, .none, 0⟩))]
theorem test_words_block0 : (words_block0.all (fun p => decide (decodeWord (BitVec.ofNat 64 p.1) = .ok p.2))) = true := by decide +kernel

def words_block0b : List (Nat × Instr) :=
  [(0x0B80080401800000, (.shl ⟨.always, ⟨.g, 1⟩, ⟨.g, 2⟩, ⟨.g, 3⟩, ⟨.g, 0⟩, .none, .none, .none, .none, 0⟩)),
   (0x0C00080401800000, (.shr .s ⟨.always, ⟨.g, 1⟩, ⟨.g, 2⟩, ⟨.g, 3⟩, ⟨.g, 0⟩, .none, .none, .none, .none, 0⟩)),
   (0x0D00080401800000, (.rot ⟨.always, ⟨.g, 1⟩, ⟨.g, 2⟩, ⟨.g, 3⟩, ⟨.g, 0⟩, .none, .none, .none, .none, 0⟩)),
   (0x0E00080401800000, (.bfx .n ⟨.always, ⟨.g, 1⟩, ⟨.g, 2⟩, ⟨.g, 3⟩, ⟨.g, 0⟩, .none, .none, .none, .none, 0⟩)),
   (0x0E80080401808000, (.bfi ⟨.always, ⟨.g, 1⟩, ⟨.g, 2⟩, ⟨.g, 3⟩, ⟨.g, 4⟩, .none, .none, .none, .none, 0⟩)),
   (0x0F00080400000000, (.popc ⟨.always, ⟨.g, 1⟩, ⟨.g, 2⟩, ⟨.g, 0⟩, ⟨.g, 0⟩, .none, .none, .none, .none, 0⟩)),
   (0x0F80080400000000, (.clz ⟨.always, ⟨.g, 1⟩, ⟨.g, 2⟩, ⟨.g, 0⟩, ⟨.g, 0⟩, .none, .none, .none, .none, 0⟩)),
   (0x1000080400000000, (.ctz ⟨.always, ⟨.g, 1⟩, ⟨.g, 2⟩, ⟨.g, 0⟩, ⟨.g, 0⟩, .none, .none, .none, .none, 0⟩)),
   (0x1080080401808D80, (.iclamp .s ⟨.always, ⟨.g, 1⟩, ⟨.g, 2⟩, ⟨.g, 3⟩, ⟨.g, 4⟩, .neg, .abs, .negAbs, .none, 0⟩)),
   (0x1180080401808000, (.sel ⟨.always, ⟨.g, 1⟩, ⟨.g, 2⟩, ⟨.g, 3⟩, ⟨.g, 4⟩, .none, .none, .none, .none, 0⟩)),
   (0x12000E0200000000, (.mov ⟨.always, ⟨.g, 1⟩, ⟨.special, 1⟩, ⟨.g, 0⟩, ⟨.g, 0⟩, .none, .none, .none, .none, 0⟩)),
   (0x12802801FFFFFFFE, (.movi ⟨.always, ⟨.g, 5⟩, ⟨.g, 0⟩, 0xFFFFFFFF⟩)),
   (0x1300280D00000002, (.movhi ⟨.always, ⟨.g, 5⟩, ⟨.g, 6⟩, 0x80000001⟩)),
   (0x1380080401808A00, (.lea ⟨.always, ⟨.g, 1⟩, ⟨.g, 2⟩, ⟨.g, 3⟩, ⟨.g, 4⟩, .neg, .neg, .none, .none, 0⟩)),
   (0x1400280C0000000E, (.addi ⟨.always, ⟨.g, 5⟩, ⟨.g, 6⟩, 0x7⟩)),
   (0x1480100602000800, (.imulw .s ⟨.always, ⟨.g, 2⟩, ⟨.g, 3⟩, ⟨.g, 4⟩, ⟨.g, 0⟩, .neg, .none, .none, .none, 0⟩)),
   (0x1580080400000000, (.bswap ⟨.always, ⟨.g, 1⟩, ⟨.g, 2⟩, ⟨.g, 0⟩, ⟨.g, 0⟩, .none, .none, .none, .none, 0⟩)),
   (0x1600080400000000, (.brev ⟨.always, ⟨.g, 1⟩, ⟨.g, 2⟩, ⟨.g, 0⟩, ⟨.g, 0⟩, .none, .none, .none, .none, 0⟩))]
theorem test_words_block0b : (words_block0b.all (fun p => decide (decodeWord (BitVec.ofNat 64 p.1) = .ok p.2))) = true := by decide +kernel

def words_block1 : List (Nat × Instr) :=
  [(0x2480000401800000, (.cmp .gen ⟨.always, ⟨.g, 0⟩, ⟨.g, 2⟩, ⟨.g, 3⟩, ⟨.g, 0⟩, .none, .none, .none, .none, 0⟩)),
   (0x2100000401800C00, (.cmp .lts ⟨.always, ⟨.g, 0⟩, ⟨.g, 2⟩, ⟨.g, 3⟩, ⟨.g, 0⟩, .neg, .abs, .none, .none, 0⟩)),
   (0x2500000000000000, (.pand ⟨.always, ⟨.g, 0⟩, ⟨.g, 0⟩, ⟨.g, 0⟩, ⟨.g, 0⟩, .none, .none, .none, .none, 0⟩)),
   (0x2580000000000000, (.por ⟨.always, ⟨.g, 0⟩, ⟨.g, 0⟩, ⟨.g, 0⟩, ⟨.g, 0⟩, .none, .none, .none, .none, 0⟩)),
   (0x2600000000000000, (.pnot ⟨.always, ⟨.g, 0⟩, ⟨.g, 0⟩, ⟨.g, 0⟩, ⟨.g, 0⟩, .none, .none, .none, .none, 0⟩)),
   (0x2680000000000000, (.ppop ⟨.always, ⟨.g, 0⟩, ⟨.g, 0⟩, ⟨.g, 0⟩, ⟨.g, 0⟩, .none, .none, .none, .none, 0⟩)),
   (0x2700000401800000, (.ptest ⟨.always, ⟨.g, 0⟩, ⟨.g, 2⟩, ⟨.g, 3⟩, ⟨.g, 0⟩, .none, .none, .none, .none, 0⟩)),
   (0x27A007FFFFFFFFFE, (.bra ⟨.top, ⟨.g, 0⟩, 0x3FFFFFF, 65535⟩)),
   (0x2840480000000006, (.brx ⟨.inverse, ⟨.g, 9⟩, 0x0, 3⟩)),
   (0x288003FFFFFE0000, (.call ⟨.always, ⟨.g, 0⟩, 0x1FFFFFF, 0⟩)),
   (0x2900480000000000, (.callx ⟨.always, ⟨.g, 9⟩, 0x0, 0⟩)),
   (0x2987F00000000000, (.ret ⟨.always, ⟨.g, 254⟩, 0x0, 0⟩)),
   (0x2A00780700020002, (.splice ⟨.always, ⟨.g, 15⟩, ⟨.g, 3⟩, 0x80010001⟩)),
   (0x2AA0000000000000, (.exit ⟨.top, ⟨.g, 0⟩, ⟨.g, 0⟩, ⟨.g, 0⟩, ⟨.g, 0⟩, .none, .none, .none, .none, 0⟩)),
   (0x2B001FFFFFFC0002, (.loop ⟨.always, ⟨.g, 3⟩, 0x3FFFFFE, 1⟩))]
theorem test_words_block1 : (words_block1.all (fun p => decide (decodeWord (BitVec.ofNat 64 p.1) = .ok p.2))) = true := by decide +kernel

def words_block1b : List (Nat × Instr) :=
  [(0x2B80000000000000, (.nop ⟨.always, ⟨.g, 0⟩, ⟨.g, 0⟩, ⟨.g, 0⟩, ⟨.g, 0⟩, .none, .none, .none, .none, 0⟩)),
   (0x2C00080A00000000, (.movix ⟨.always, ⟨.g, 1⟩, ⟨.g, 5⟩, ⟨.g, 0⟩, ⟨.g, 0⟩, .none, .none, .none, .none, 0⟩)),
   (0x2C80080000000000, (.range ⟨.always, ⟨.g, 1⟩, ⟨.g, 0⟩, ⟨.g, 0⟩, ⟨.g, 0⟩, .none, .none, .none, .none, 0⟩)),
   (0x2D000E0A00000000, (.formq ⟨.always, ⟨.g, 1⟩, ⟨.special, 5⟩, ⟨.g, 0⟩, ⟨.g, 0⟩, .none, .none, .none, .none, 0⟩)),
   (0x2D80000000000000, (.laydn ⟨.always, ⟨.g, 0⟩, ⟨.g, 0⟩, ⟨.g, 0⟩, ⟨.g, 0⟩, .none, .none, .none, .none, 0⟩)),
   (0x2E00000000000000, (.yield ⟨.always, ⟨.g, 0⟩, ⟨.g, 0⟩, ⟨.g, 0⟩, ⟨.g, 0⟩, .none, .none, .none, .none, 0⟩)),
   (0x2E80000000000000, (.kpoint ⟨.always, ⟨.g, 0⟩, ⟨.g, 0⟩, ⟨.g, 0⟩, ⟨.g, 0⟩, .none, .none, .none, .none, 0⟩))]
theorem test_words_block1b : (words_block1b.all (fun p => decide (decodeWord (BitVec.ofNat 64 p.1) = .ok p.2))) = true := by decide +kernel

def words_block2 : List (Nat × Instr) :=
  [(0x4180200DFFFF1600, (.ld .s16 ⟨.always, ⟨.g, 4⟩, ⟨.g, 6⟩, 0xFFFF8, .priv, .shed⟩)),
   (0x43A8700CFFFE0200, (.ld .b128 ⟨.top, ⟨.o, 14⟩, ⟨.g, 6⟩, 0x7FFF0, .global, .stream⟩)),
   (0x4500200C00010C00, (.st .b32 ⟨.always, ⟨.g, 4⟩, ⟨.g, 6⟩, 0x8, .scratch, .keep⟩)),
   (0x4700200C00020000, (.lds .b64 ⟨.always, ⟨.g, 4⟩, ⟨.g, 6⟩, 0x10, .global, .normal⟩)),
   (0x4800200C00008000, (.sts .b32 ⟨.always, ⟨.g, 4⟩, ⟨.g, 6⟩, 0x4, .global, .normal⟩)),
   (0x4980000C00101600, (.pref ⟨.always, ⟨.g, 0⟩, ⟨.g, 6⟩, 0x80, .priv, .shed⟩)),
   (0x4A00080400020000, (.rngwait ⟨.always, ⟨.g, 1⟩, ⟨.g, 2⟩, ⟨.g, 0⟩, 0, 1⟩)),
   (0x4A80000401800000, (.rngfree ⟨.always, ⟨.g, 0⟩, ⟨.g, 2⟩, ⟨.g, 3⟩, 0, 0⟩)),
   (0x4B00000401800000, (.rngfill ⟨.always, ⟨.g, 0⟩, ⟨.g, 2⟩, ⟨.g, 3⟩, 0, 0⟩)),
   (0x4B80080400000000, (.rngclaim ⟨.always, ⟨.g, 1⟩, ⟨.g, 2⟩, ⟨.g, 0⟩, 0, 0⟩)),
   (0x4C00080401800000, (.rngcfgConfigure ⟨.always, ⟨.g, 1⟩, ⟨.g, 2⟩, ⟨.g, 3⟩, 0, 0⟩)),
   (0x4C00080401820000, (.rngcfgQuery ⟨.always, ⟨.g, 1⟩, ⟨.g, 2⟩, ⟨.g, 3⟩, 0, 1⟩)),
   (0x4C80200C00100200, (.cpsIn ⟨.always, ⟨.g, 4⟩, ⟨.g, 6⟩, 0x80, .global, .stream⟩)),
   (0x4D00200DFFF01000, (.cpsOut ⟨.always, ⟨.g, 4⟩, ⟨.g, 6⟩, 0xFFF80, .priv, .normal⟩))]
theorem test_words_block2 : (words_block2.all (fun p => decide (decodeWord (BitVec.ofNat 64 p.1) = .ok p.2))) = true := by decide +kernel

def words_block3 : List (Nat × Instr) :=
  [(0x6480080481F80000, (.atom .xchg ⟨.always, ⟨.g, 1⟩, ⟨.g, 2⟩, ⟨.o, 3⟩, 15, 0⟩)),
   (0x66001008035C0000, (.cas .i128 ⟨.always, ⟨.g, 2⟩, ⟨.g, 4⟩, ⟨.g, 6⟩, 11, 2⟩)),
   (0x67800805829A0000, (.atomf .bf16x2 ⟨.always, ⟨.g, 1⟩, ⟨.g, 2⟩, ⟨.special, 5⟩, 3, 1⟩)),
   (0x6800080401A80000, (.waita ⟨.always, ⟨.g, 1⟩, ⟨.g, 2⟩, ⟨.g, 3⟩, 5, 0⟩)),
   (0x6880080401820000, (.wake ⟨.always, ⟨.g, 1⟩, ⟨.g, 2⟩, ⟨.g, 3⟩, 0, 1⟩)),
   (0x6980080400000000, (.barArriveWait .yard ⟨.always, ⟨.g, 1⟩, ⟨.g, 2⟩, ⟨.g, 0⟩, 0, 0⟩)),
   (0x6900080401820000, (.barWait .pen ⟨.always, ⟨.g, 1⟩, ⟨.g, 2⟩, ⟨.g, 3⟩, 0, 1⟩)),
   (0x6A80080400000000, (.bararv .yard ⟨.always, ⟨.g, 1⟩, ⟨.g, 2⟩, ⟨.g, 0⟩, 0, 0⟩)),
   (0x6B80080401CC0000, (.gather .b64 ⟨.always, ⟨.g, 1⟩, ⟨.g, 2⟩, ⟨.g, 3⟩, 4, 3⟩)),
   (0x6C20080401940000, (.scatter .b32 ⟨.top, ⟨.g, 1⟩, ⟨.g, 2⟩, ⟨.g, 3⟩, 1, 1⟩)),
   (0x6E18280401880000, (.scata .addf32 ⟨.always, ⟨.special, 5⟩, ⟨.g, 2⟩, ⟨.g, 3⟩, 0, 2⟩)),
   (0x6E80000401808000, (.rmapset ⟨.always, ⟨.g, 0⟩, ⟨.g, 2⟩, ⟨.g, 3⟩, ⟨.g, 4⟩, .none, .none, .none, .none, 0⟩)),
   (0x6F00080000020000, (.engfence ⟨.always, ⟨.g, 1⟩, ⟨.g, 0⟩, ⟨.g, 0⟩, 0, 1⟩))]
theorem test_words_block3 : (words_block3.all (fun p => decide (decodeWord (BitVec.ofNat 64 p.1) = .ok p.2))) = true := by decide +kernel

def words_block4 : List (Nat × Instr) :=
  [(0x8100080582800C7C, (.fadd .f16x4 ⟨.always, ⟨.g, 1⟩, ⟨.g, 2⟩, ⟨.special, 5⟩, ⟨.g, 0⟩, .neg, .abs, .none, .c11, 7⟩)),
   (0x8200080401800040, (.fsub .f64 ⟨.always, ⟨.g, 1⟩, ⟨.g, 2⟩, ⟨.g, 3⟩, ⟨.g, 0⟩, .none, .none, .none, .c01, 0⟩)),
   (0x8580080401800010, (.fmul .bf16x4 ⟨.always, ⟨.g, 1⟩, ⟨.g, 2⟩, ⟨.g, 3⟩, ⟨.g, 0⟩, .none, .none, .none, .none, 4⟩)),
   (0x8680080401808084, (.fma .f32 ⟨.always, ⟨.g, 1⟩, ⟨.g, 2⟩, ⟨.g, 3⟩, ⟨.g, 4⟩, .none, .none, .neg, .none, 1⟩)),
   (0x8880080401800000, (.fdiv .f32 ⟨.always, ⟨.g, 1⟩, ⟨.g, 2⟩, ⟨.g, 3⟩, ⟨.g, 0⟩, .none, .none, .none, .none, 0⟩)),
   (0x8900080400001000, (.fsqrt .f64 ⟨.always, ⟨.g, 1⟩, ⟨.g, 2⟩, ⟨.g, 0⟩, ⟨.g, 0⟩, .abs, .none, .none, .none, 0⟩)),
   (0x8A00080400000000, (.frcp ⟨.always, ⟨.g, 1⟩, ⟨.g, 2⟩, ⟨.g, 0⟩, ⟨.g, 0⟩, .none, .none, .none, .none, 0⟩)),
   (0x8A80080400000000, (.frsq ⟨.always, ⟨.g, 1⟩, ⟨.g, 2⟩, ⟨.g, 0⟩, ⟨.g, 0⟩, .none, .none, .none, .none, 0⟩)),
   (0x8B00080400000000, (.fexp2 ⟨.always, ⟨.g, 1⟩, ⟨.g, 2⟩, ⟨.g, 0⟩, ⟨.g, 0⟩, .none, .none, .none, .none, 0⟩)),
   (0x8B80080400000000, (.flog2 ⟨.always, ⟨.g, 1⟩, ⟨.g, 2⟩, ⟨.g, 0⟩, ⟨.g, 0⟩, .none, .none, .none, .none, 0⟩)),
   (0x8C00080401800000, (.fmin .f64 ⟨.always, ⟨.g, 1⟩, ⟨.g, 2⟩, ⟨.g, 3⟩, ⟨.g, 0⟩, .none, .none, .none, .none, 0⟩)),
   (0x8D80080401800020, (.fmax .f32 ⟨.always, ⟨.g, 1⟩, ⟨.g, 2⟩, ⟨.g, 3⟩, ⟨.g, 0⟩, .none, .none, .none, .sat, 0⟩)),
   (0x9280000401800000, (.fcmp .un .f32 ⟨.always, ⟨.g, 0⟩, ⟨.g, 2⟩, ⟨.g, 3⟩, ⟨.g, 0⟩, .none, .none, .none, .none, 0⟩)),
   (0x9A80080400000008, (.cvt .f64n64 ⟨.always, ⟨.g, 1⟩, ⟨.g, 2⟩, ⟨.g, 0⟩, ⟨.g, 0⟩, .none, .none, .none, .none, 2⟩)),
   (0x9900080400000820, (.cvt .s64f64 ⟨.always, ⟨.g, 1⟩, ⟨.g, 2⟩, ⟨.g, 0⟩, ⟨.g, 0⟩, .neg, .none, .none, .sat, 0⟩)),
   (0x9E00080400000800, (.frnd .ru .f64 ⟨.always, ⟨.g, 1⟩, ⟨.g, 2⟩, ⟨.g, 0⟩, ⟨.g, 0⟩, .neg, .none, .none, .none, 0⟩))]
theorem test_words_block4 : (words_block4.all (fun p => decide (decodeWord (BitVec.ofNat 64 p.1) = .ok p.2))) = true := by decide +kernel

def words_block5 : List (Nat × Instr) :=
  [(0xA300080400000000, (.red .fmax32 ⟨.always, ⟨.g, 1⟩, ⟨.g, 2⟩, ⟨.g, 0⟩, ⟨.g, 0⟩, .none, .none, .none, .none, 0⟩)),
   (0xA5000E0A00000000, (.scan .fadd32 ⟨.always, ⟨.g, 1⟩, ⟨.special, 5⟩, ⟨.g, 0⟩, ⟨.g, 0⟩, .none, .none, .none, .none, 0⟩)),
   (0xA680080401800000, (.shfl .down ⟨.always, ⟨.g, 1⟩, ⟨.g, 2⟩, ⟨.g, 3⟩, ⟨.g, 0⟩, .none, .none, .none, .none, 0⟩)),
   (0xA880080400000000, (.vote .count ⟨.always, ⟨.g, 1⟩, ⟨.g, 2⟩, ⟨.g, 0⟩, ⟨.g, 0⟩, .none, .none, .none, .none, 0⟩)),
   (0xA900080000000000, (.elect ⟨.always, ⟨.g, 1⟩, ⟨.g, 0⟩, ⟨.g, 0⟩, ⟨.g, 0⟩, .none, .none, .none, .none, 0⟩)),
   (0xAB00080401808000, (.bspack .e2m1 ⟨.always, ⟨.g, 1⟩, ⟨.g, 2⟩, ⟨.g, 3⟩, ⟨.g, 4⟩, .none, .none, .none, .none, 0⟩)),
   (0xAC00080401800000, (.bsunpk .i4 ⟨.always, ⟨.g, 1⟩, ⟨.g, 2⟩, ⟨.g, 3⟩, ⟨.g, 0⟩, .none, .none, .none, .none, 0⟩)),
   (0xAD80080401800000, (.lmul ⟨.always, ⟨.g, 1⟩, ⟨.g, 2⟩, ⟨.g, 3⟩, ⟨.g, 0⟩, .none, .none, .none, .none, 0⟩)),
   (0xAE00080401808020, (.lacc ⟨.always, ⟨.g, 1⟩, ⟨.g, 2⟩, ⟨.g, 3⟩, ⟨.g, 4⟩, .none, .none, .none, .sat, 0⟩)),
   (0xAF00080400000000, (.bplane .p8 ⟨.always, ⟨.g, 1⟩, ⟨.g, 2⟩, ⟨.g, 0⟩, ⟨.g, 0⟩, .none, .none, .none, .none, 0⟩)),
   (0xB000080401808000, (.qdot .n ⟨.always, ⟨.g, 1⟩, ⟨.g, 2⟩, ⟨.g, 3⟩, ⟨.g, 4⟩, .none, .none, .none, .none, 0⟩))]
theorem test_words_block5 : (words_block5.all (fun p => decide (decodeWord (BitVec.ofNat 64 p.1) = .ok p.2))) = true := by decide +kernel

def words_block6 : List (Nat × Instr) :=
  [(0xC0801008037FBD94, (.mmap .sn ⟨.always, ⟨.g, 2⟩, ⟨.g, 4⟩, ⟨.g, 6⟩, 31, 7, 3, true, 2, true, true, false, 5⟩)),
   (0xC38010080304077C, (.mmaf .e5m2 ⟨.always, ⟨.g, 2⟩, ⟨.g, 4⟩, ⟨.g, 6⟩, 1, 0, 0, false, 3, true, false, true, 15⟩)),
   (0xC480100803080004, (.mmal ⟨.always, ⟨.g, 2⟩, ⟨.g, 4⟩, ⟨.g, 6⟩, 2, 0, 0, false, 0, false, false, false, 1⟩)),
   (0xC5001008030CAAC8, (.mmasp .plane ⟨.always, ⟨.g, 2⟩, ⟨.g, 4⟩, ⟨.g, 6⟩, 3, 1, 2, true, 1, false, true, true, 2⟩)),
   (0xC680000000240000, (.mwait ⟨.always, ⟨.g, 0⟩, ⟨.g, 0⟩, ⟨.g, 0⟩, 9, 0, 0, false, 0, false, false, false, 0⟩)),
   (0xC7000000000C0000, (.accz ⟨.always, ⟨.g, 0⟩, ⟨.g, 0⟩, ⟨.g, 0⟩, 3, 0, 0, false, 0, false, false, false, 0⟩)),
   (0xC780080000780010, (.accld ⟨.always, ⟨.g, 1⟩, ⟨.g, 0⟩, ⟨.g, 0⟩, 30, 0, 0, false, 0, false, false, false, 4⟩)),
   (0xC80808000014003C, (.accst ⟨.always, ⟨.o, 1⟩, ⟨.g, 0⟩, ⟨.g, 0⟩, 5, 0, 0, false, 0, false, false, false, 15⟩)),
   (0xCA80080000180000, (.drain .i8 ⟨.always, ⟨.g, 1⟩, ⟨.g, 0⟩, ⟨.g, 0⟩, 6, 0, 0, false, 0, false, false, false, 0⟩))]
theorem test_words_block6 : (words_block6.all (fun p => decide (decodeWord (BitVec.ofNat 64 p.1) = .ok p.2))) = true := by decide +kernel

def words_block6b : List (Nat × Instr) :=
  [(0xCB00000201000000, (.gangset ⟨.always, ⟨.g, 0⟩, ⟨.g, 1⟩, ⟨.g, 2⟩, 0, 0, 0, false, 0, false, false, false, 0⟩)),
   (0xCB80000000000000, (.hitch ⟨.always, ⟨.g, 0⟩, ⟨.g, 0⟩, ⟨.g, 0⟩, 0, 0, 0, false, 0, false, false, false, 0⟩)),
   (0xCC0008000100000C, (.rpred ⟨.always, ⟨.g, 1⟩, ⟨.g, 0⟩, ⟨.g, 2⟩, 0, 0, 0, false, 0, false, false, false, 3⟩)),
   (0xCC8008060103800C, (.rcheck ⟨.always, ⟨.g, 1⟩, ⟨.g, 3⟩, ⟨.g, 2⟩, 0, 7, 0, false, 0, false, false, false, 3⟩)),
   (0xCD0008060001000C, (.rgath ⟨.always, ⟨.g, 1⟩, ⟨.g, 3⟩, ⟨.g, 0⟩, 0, 2, 0, false, 0, false, false, false, 3⟩)),
   (0xCD800000011C0000, (.mprog ⟨.always, ⟨.g, 0⟩, ⟨.g, 0⟩, ⟨.g, 2⟩, 7, 0, 0, false, 0, false, false, false, 0⟩)),
   (0xCE00000000200000, (.mcancel ⟨.always, ⟨.g, 0⟩, ⟨.g, 0⟩, ⟨.g, 0⟩, 8, 0, 0, false, 0, false, false, false, 0⟩))]
theorem test_words_block6b : (words_block6b.all (fun p => decide (decodeWord (BitVec.ofNat 64 p.1) = .ok p.2))) = true := by decide +kernel

def words_block7 : List (Nat × Instr) :=
  [(0xE000080404020000, (.qpush ⟨.always, ⟨.g, 1⟩, ⟨.g, 2⟩, ⟨.g, 8⟩, 0, 1⟩)),
   (0xE080800400380000, (.qpop ⟨.always, ⟨.g, 16⟩, ⟨.g, 2⟩, ⟨.g, 0⟩, 7, 0⟩)),
   (0xE100080400080000, (.copyD1 ⟨.always, ⟨.g, 1⟩, ⟨.g, 2⟩, ⟨.g, 0⟩, 1, 0⟩)),
   (0xE180080400100000, (.copyD2 ⟨.always, ⟨.g, 1⟩, ⟨.g, 2⟩, ⟨.g, 0⟩, 2, 0⟩)),
   (0xE200080400180000, (.copyGather ⟨.always, ⟨.g, 1⟩, ⟨.g, 2⟩, ⟨.g, 0⟩, 3, 0⟩)),
   (0xE280080401800000, (.spawnRange ⟨.always, ⟨.g, 1⟩, ⟨.g, 2⟩, ⟨.g, 3⟩, 0, 0⟩)),
   (0xE280080401820000, (.spawnSingle ⟨.always, ⟨.g, 1⟩, ⟨.g, 2⟩, ⟨.g, 3⟩, 0, 1⟩)),
   (0xE3000804001FFFFE, (.cont ⟨.always, ⟨.g, 1⟩, ⟨.g, 2⟩, 0xFFFFF⟩)),
   (0xE380080401800000, (.depset ⟨.always, ⟨.g, 1⟩, ⟨.g, 2⟩, ⟨.g, 3⟩, 0, 0⟩)),
   (0xE400080401800000, (.depdec ⟨.always, ⟨.g, 1⟩, ⟨.g, 2⟩, ⟨.g, 3⟩, 0, 0⟩)),
   (0xE480000401800000, (.graphrun ⟨.always, ⟨.g, 0⟩, ⟨.g, 2⟩, ⟨.g, 3⟩, 0, 0⟩)),
   (0xE500000401840000, (.condw ⟨.always, ⟨.g, 0⟩, ⟨.g, 2⟩, ⟨.g, 3⟩, 0, 2⟩)),
   (0xE580000401800000, (.histadd ⟨.always, ⟨.g, 0⟩, ⟨.g, 2⟩, ⟨.g, 3⟩, 0, 0⟩)),
   (0xE600080401800000, (.histlatchLatch ⟨.always, ⟨.g, 1⟩, ⟨.g, 2⟩, ⟨.g, 3⟩, 0, 0⟩)),
   (0xE600080401820000, (.histlatchConfigure ⟨.always, ⟨.g, 1⟩, ⟨.g, 2⟩, ⟨.g, 3⟩, 0, 1⟩)),
   (0xE680000401860000, (.wsdecl ⟨.always, ⟨.g, 0⟩, ⟨.g, 2⟩, ⟨.g, 3⟩, 0, 3⟩))]
theorem test_words_block7 : (words_block7.all (fun p => decide (decodeWord (BitVec.ofNat 64 p.1) = .ok p.2))) = true := by decide +kernel

def words_block7b : List (Nat × Instr) :=
  [(0xE700080401800000, (.incupd ⟨.always, ⟨.g, 1⟩, ⟨.g, 2⟩, ⟨.g, 3⟩, 0, 0⟩)),
   (0xE780100800300000, (.incrdKey ⟨.always, ⟨.g, 2⟩, ⟨.g, 4⟩, ⟨.g, 0⟩, 6, 0⟩)),
   (0xE780100800320000, (.incrdCounters ⟨.always, ⟨.g, 2⟩, ⟨.g, 4⟩, ⟨.g, 0⟩, 6, 1⟩)),
   (0xE800000401800000, (.tbsetNextTask ⟨.always, ⟨.g, 0⟩, ⟨.g, 2⟩, ⟨.g, 3⟩, 0, 0⟩)),
   (0xE800000401820000, (.tbsetOwnTask ⟨.always, ⟨.g, 0⟩, ⟨.g, 2⟩, ⟨.g, 3⟩, 0, 1⟩)),
   (0xE800000001840000, (.tbsetNextCounter ⟨.always, ⟨.g, 0⟩, ⟨.g, 0⟩, ⟨.g, 3⟩, 0, 2⟩)),
   (0xED80080401F80000, (.stage ⟨.always, ⟨.g, 1⟩, ⟨.g, 2⟩, ⟨.g, 3⟩, 15, 0⟩)),
   (0xEE00080000000000, (.pflag ⟨.always, ⟨.g, 1⟩, ⟨.g, 0⟩, ⟨.g, 0⟩, 0, 0⟩)),
   (0xEE80000401800000, (.govsetQueue ⟨.always, ⟨.g, 0⟩, ⟨.g, 2⟩, ⟨.g, 3⟩, 0, 0⟩)),
   (0xEE80000401820000, (.govsetThresholds ⟨.always, ⟨.g, 0⟩, ⟨.g, 2⟩, ⟨.g, 3⟩, 0, 1⟩)),
   (0xEE80000401840000, (.govsetControl ⟨.always, ⟨.g, 0⟩, ⟨.g, 2⟩, ⟨.g, 3⟩, 0, 2⟩)),
   (0xEF00000400000000, (.killtParked ⟨.always, ⟨.g, 0⟩, ⟨.g, 2⟩, ⟨.g, 0⟩, 0, 0⟩)),
   (0xEF00000400020000, (.killtSelf ⟨.always, ⟨.g, 0⟩, ⟨.g, 2⟩, ⟨.g, 0⟩, 0, 1⟩))]
theorem test_words_block7b : (words_block7b.all (fun p => decide (decodeWord (BitVec.ofNat 64 p.1) = .ok p.2))) = true := by decide +kernel

def words_block7c : List (Nat × Instr) :=
  [(0xE880080000000000, (.cycrd .cyc ⟨.always, ⟨.g, 1⟩, ⟨.g, 0⟩, 0x0⟩)),
   (0xE980100600000000, (.cycrd .step ⟨.always, ⟨.g, 2⟩, ⟨.g, 3⟩, 0x0⟩)),
   (0xEA0000002468ACF0, (.trap ⟨.always, ⟨.g, 0⟩, ⟨.g, 0⟩, 0x12345678⟩)),
   (0xEA80080400000012, (.assert ⟨.always, ⟨.g, 1⟩, ⟨.g, 2⟩, 0x9⟩)),
   (0xEB00081000001578, (.syscall ⟨.always, ⟨.g, 1⟩, ⟨.g, 8⟩, 0xABC⟩)),
   (0xEB80000000000002, (.brk ⟨.always, ⟨.g, 0⟩, ⟨.g, 0⟩, 0x1⟩)),
   (0xEC00100002200000, (.rdsr ⟨.always, ⟨.g, 2⟩, ⟨.g, 0⟩, 0x11⟩)),
   (0xEC80000600C00000, (.wrsr ⟨.always, ⟨.g, 0⟩, ⟨.g, 3⟩, 0x6⟩)),
   (0xED00060400000000, (.eretHandler ⟨.always, ⟨.g, 0⟩, ⟨.special, 2⟩, ⟨.g, 0⟩, ⟨.g, 0⟩, .none, .none, .none, .none, 0⟩)),
   (0xED00000600000000, (.eretResume ⟨.always, ⟨.g, 0⟩, ⟨.g, 3⟩, ⟨.g, 0⟩, ⟨.g, 0⟩, .none, .none, .none, .none, 0⟩))]
theorem test_words_block7c : (words_block7c.all (fun p => decide (decodeWord (BitVec.ofNat 64 p.1) = .ok p.2))) = true := by decide +kernel

/-- Dzinum-2 words (R98, R99): the layout of Dzinum-3, FLG 0xF in format Q; a word of o3, of LIT, an SPL16, an FLG of 0, and MMA. -/
theorem test_words_dz2 :
    decodeDz2 0x0080080401800000 = .ok (.iadd .i64 ⟨.always, ⟨.g, 1⟩, ⟨.g, 2⟩, ⟨.g, 3⟩, ⟨.g, 0⟩, .none, .none, .none, .none, 0⟩)
    ∧ decodeDz2 0x27A0000000040000 = .ok (.bra ⟨.top, ⟨.g, 0⟩, 2, 0⟩)
    ∧ decodeDz2 0x6880080401FA0000 = .ok (.wake ⟨.always, ⟨.g, 1⟩, ⟨.g, 2⟩, ⟨.g, 3⟩, 0, 1⟩)
    ∧ decodeDz2 0xEC00100002200000 = .ok (.rdsr ⟨.always, ⟨.g, 2⟩, ⟨.g, 0⟩, 0x11⟩)
    ∧ decodeDz2 0x6880080401820000 = .illfmt ∧ decodeDz2 0x0080080481800000 = .illfmt ∧ decodeDz2 0x27A0000000040002 = .illfmt
    ∧ decodeDz2 0xC7000000000C0000 = .illop := by decide +kernel

/-! ### Well-formedness: each check refuses an ill-formed term (R71 to R78, R133) -/

/-- Operand fields, modifiers and clamps: an unused field that is not 0; a source index out of its file; one half as an integer; a
history entry, or LIT, as a destination; an odd pair; a block not at a multiple of 8; a modifier, clamp or SC that the entry does not
list; a guard where GD must be 00. -/
theorem test_ill_formed_operands : ([Instr.not { xA with b := ⟨.g, 0⟩, c := ⟨.g, 1⟩ }, .mov { xA with a := ⟨.o, 16⟩, b := g' 0, c := g' 0 },
    .mov { xA with a := ⟨.h, 4⟩, b := g' 0, c := g' 0 }, .mov { xA with a := ⟨.special, 5⟩, b := g' 0, c := g' 0 },
    .mov { xA with d := ⟨.h, 0⟩, b := g' 0, c := g' 0 }, .mov { xA with d := ⟨.special, 0⟩, b := g' 0, c := g' 0 },
    .imulw .s { xA with d := g' 3, c := g' 0 }, .qpush { xQ with b := g' 4 }, .ld .b64 { xM with v := ⟨.special, 2⟩ },
    .and { xA with c := g' 0, ma := .neg }, .imin .n { xA with c := g' 0, ma := .neg }, .iadd .i64 { xA with c := g' 0, cl := .c01 },
    .and { xA with c := g' 0, cl := .sat }, .fmin .f64 { xA with c := g' 0, sc := 1 }, .elect { xA with gd := .top, a := g' 0, b := g' 0, c := g' 0 }]
    : List Instr).all (fun i => !i.wf) = true := by decide +kernel

/-- Formats: a space, a hint, scratch or a target where the entry has none; a remap slot, a WM, FLG or SRN that is reserved; a field of
format E that is not used; an entry's own rule. -/
theorem test_ill_formed_formats : ([Instr.lds .b32 (xM .scratch), .lds .b32 { xM with hint := .keep }, .pref { xM with v := g' 0, space := .scratch },
    .brx (xB 1), .gather .b64 { xG with rmp := 5 }, .atom .add64 { xQ with wm := 3 }, .rngclaim { xQ with b := g' 0, flg := 0, wm := 2 },
    .atom .add64 { xQ with flg := 12 }, .wake { xQ with flg := 1 }, .rdsr { xS 0x0F with a := g' 0 }, .cycrd .cyc { xS 1 with a := g' 0 },
    .accz { xE with d := g' 0, a := g' 0, b := g' 0, flg := 1 }, .accz { xE with d := g' 0, a := g' 0, b := g' 0, flg := 0, spa := true },
    .accz { xE with d := g' 0, a := g' 0, b := g' 0, flg := 0, zc := true }, .mwait { xE with d := g' 0, a := g' 0, b := g' 0, flg := 0, pa := 1 },
    .mmasp .plane xE, .rcheck { xE with d := g' 1, pa := 0 }, .cont (xI 0x100000), .splice { xI with d := g' 16 }, .movix { xA with a := g' 6, b := g' 0, c := g' 0 },
    .barWait .pen { xQ with gd := .top, wm := 1, flg := 0 }, .eretHandler { xA with d := g' 0, b := g' 0, c := g' 0 }] : List Instr).all (fun i => !i.wf) = true := by decide +kernel

/-- A word refused by name: GD 11, a reserved SPACE, a bit that is 0 in every word, an unused field, an ill-formed instruction (ILLFMT);
an opcode that the grid does not assign (ILLOP). -/
theorem test_words_refused : ([0x00E0080401800000, 0x4300200C00011800, 0x0080080401800001, 0x0B00080401800000, 0x0B00080400004000] : List W64).all
      (fun w => decide (decodeWord w = .illfmt)) = true
    ∧ ([0x1680000000000000, 0x2F00000000000000, 0xFFFFFFFFFFFFFFFF] : List W64).all (fun w => decide (decodeWord w = .illop)) = true := by decide +kernel

/-- A launch of 16 registers refuses g16, and admits g15 and g252 (R72); SPLICE's live registers count (R155). -/
theorem test_registers_declared : Instr.regsOk 16 (.mov { xA with a := g' 16, b := g' 0, c := g' 0 }) = false
    ∧ Instr.regsOk 16 (.mov { xA with a := g' 15, d := g' 252, b := g' 0, c := g' 0 }) = true
    ∧ Instr.regsOk 16 (.splice { xI 1 with d := g' 0, a := g' 1 }) = false := by decide +kernel

/-! ### Witnesses: a state and operands that meet the hypotheses of each statement -/

theorem witness_DecodeOfEncode : ∃ (i : Instr) (w : W64), i.wf = true ∧ encode i = some w :=
  ⟨.iadd .i64 { xA with c := g' 0 }, 0x0080080401800000, by decide +kernel⟩
theorem witness_EncodeOfDecode : ∃ (w : W64) (i : Instr), decodeWord w = .ok i :=
  ⟨0x0080080401800000, .iadd .i64 { xA with c := g' 0 }, by decide +kernel⟩
theorem witness_ClauseHeaders : ∃ h, decodeHeader 0xC000000000000000 = some h := some_of_isSome (by decide +kernel)

/-- A machine that issues a word, by way of the schedule. -/
def placed : State := State.reset.placeWord 0x0080080401800000
theorem witness_StepRunsDecoded : ∃ r, placed.agenda = [] ∧ placed.schedule = .issue 1 ∧ (placed.group 1).run = some r ∧ r.dz2 = false
    ∧ decodeWord (r.words.getD r.pos 0) = .ok (.iadd .i64 { xA with c := g' 0 })
    ∧ eclAdmits r.head.ecl (opcOf (r.words.getD r.pos 0)).toNat = true :=
  ⟨fetchRun 0x0080080401800000, by decide +kernel⟩
def relocking : State := { State.reset with dies := State.reset.dies.set 0 { Die.reset with relock := some 5 } }
theorem witness_Turns : ({ State.reset with agenda := [(1, .corrected 0 1 none)] } : State).agenda = (1, .corrected 0 1 none) :: []
    ∧ relocking.agenda = [] ∧ relocking.schedule = .device (.relockComplete 0)
    ∧ 8 ≤ ({ relocking with duty := 8 } : State).duty ∧ ({ relocking with duty := 8 } : State).deviceEvent = some (.relockComplete 0)
    ∧ State.reset.agenda = [] ∧ State.reset.schedule = .idle := by decide +kernel
theorem witness_StepKeepsMemoryForm : State.reset.memForm = true ∧ ∃ t, step State.reset = .next t := by
  refine ⟨by decide +kernel, State.reset.tick, ?_⟩
  have h : State.reset.schedule = .idle := by decide +kernel
  have ha : State.reset.agenda = [] := rfl
  unfold step
  rw [ha, h]
theorem witness_FrameOfPerforming : ((strand []).groups.map Group.id).Nodup := by decide +kernel

/-! Block 0 -/

/-- A strand of one index with g2 = 5, g3 = −7, g4 = 9. -/
def s3 : State := strand [(2, .u 5), (3, .u 0xFFFFFFFFFFFFFFF9), (4, .u 9)]
theorem witness_IntegerArithmetic : (thr s3).reads3 (grp s3) (run s3) .int xA 5 0xFFFFFFFFFFFFFFF9 9
    ∧ ∀ i ∈ [Instr.iadd .i32 xA, .isub .i64 xA, .imul .i32 xA, .imad .i64 xA, .iabs xA], Performs s3 (grp s3) (run s3) (thr s3) i .always :=
  ⟨by unfold Thread.reads3 Thread.reads2; decide +kernel, all_perform (by decide +kernel)⟩
/-- In a lane group of one lane. -/
def l3 : State := laneGroup 1 (fun _ => [(2, .u 5), (3, .u 0xFFFFFFFFFFFFFFF9), (4, .u 9)])
theorem witness_IntegerArithmetic_in_a_lane : (thr l3).reads3 (grp l3) (run l3) .int xA 5 0xFFFFFFFFFFFFFFF9 9
    ∧ ∀ i ∈ [Instr.iadd .i32 xA, .isub .i64 xA, .imul .i32 xA, .imad .i64 xA, .iabs xA], Performs l3 (grp l3) (run l3) (thr l3) i .always :=
  ⟨by unfold Thread.reads3 Thread.reads2; decide +kernel, all_perform (by decide +kernel)⟩
/-- A strand of four indices with g2 = 10, 11, 12, 13 and g3 = 2, 1, 0, −1. -/
def s4 : State := strand [(2, .a 10 1), (3, .a 2 0xFFFFFFFFFFFFFFFF), (4, .u 3)] 4
/-- The second source is g4, which is uniform. -/
def xP : FmtA := { xA with b := g' 4 }
theorem witness_AffineResults : (grp s4).lanes = false ∧ xA.cl = .none ∧ (∀ m ∈ [xA.ma, xA.mb, xA.mc], Mod.isAbs m = false) ∧ (thr s4).n = 4
    ∧ (thr s4).reads (grp s4) (run s4) .int xP.b = .u 3 ∧ (thr s4).reads (grp s4) (run s4) .int xA.c = .u 3
    ∧ (∀ i ∈ [Instr.addi xI, .mov xA, .not xA, .lea xA, .iadd .i64 xA, .isub .i64 xA, .iadd .i32 xA, .shl xP, .imul .i32 xP, .imul .i64 xP, .imad .i64 xP],
        Performs s4 (grp s4) (run s4) (thr s4) i .always)
    ∧ (∀ p ∈ affineOps .i32 xP ++ (affineOps .i32 xA).take 2, ∀ k < 4,
        affineAt 32 (thr s4) (grp s4) (run s4) xP p.2.1 k = affineAt 64 (thr s4) (grp s4) (run s4) xP p.2.1 k)
    ∧ ¬((((thr s4).reads (grp s4) (run s4) .int xP.a).isA = true) ∧ (((thr s4).reads (grp s4) (run s4) .int xP.b).isA = true)) := by
  and_intros <;> first | decide +kernel | exact all_perform (by decide +kernel)
/-- The divisor is −7, and 0 in g5. -/
theorem witness_ProductsAndDivision : (thr s3).reads2 (grp s3) (run s3) .int xA 5 0xFFFFFFFFFFFFFFF9 ∧ Reads .s xA.mb 0xFFFFFFFFFFFFFFF9 ≠ 0
    ∧ (thr s3).reads2 (grp s3) (run s3) .int { xA with b := ⟨.special, 2⟩ } 5 0 ∧ Reads .n xA.mb 0 = 0
    ∧ ∀ i ∈ [Instr.imulh .s xA, .idiv .s xA, .irem .n xA, .imulw .n xA, .idiv .n { xA with b := ⟨.special, 2⟩ }, .irem .s { xA with b := ⟨.special, 2⟩ }],
        Performs s3 (grp s3) (run s3) (thr s3) i .always := by
  and_intros <;> first | decide +kernel | exact all_perform (by decide +kernel)
theorem witness_SelectMoveAddress : (thr s3).reads3 (grp s3) (run s3) .int xA 5 0xFFFFFFFFFFFFFFF9 9 ∧ (thr s3).reads (grp s3) (run s3) .int xI.a = .u 5
    ∧ ∀ i ∈ [Instr.imin .s xA, .imax .n xA, .iclamp .s xA, .sel xA, .mov xA, .movi xI, .movhi xI, .addi xI, .lea xA],
        Performs s3 (grp s3) (run s3) (thr s3) i .always :=
  ⟨by unfold Thread.reads3 Thread.reads2; decide +kernel, by decide +kernel, all_perform (by decide +kernel)⟩
theorem witness_LogicShiftsFields : (thr s3).reads3 (grp s3) (run s3) .int xA 5 0xFFFFFFFFFFFFFFF9 9
    ∧ ∀ i ∈ [Instr.and xA, .or xA, .xor xA, .not xA, .shl xA, .shr .n xA, .shr .s xA, .rot xA, .bfx .n xA, .bfx .s xA, .bfi xA],
        Performs s3 (grp s3) (run s3) (thr s3) i .always :=
  ⟨by unfold Thread.reads3 Thread.reads2; decide +kernel, all_perform (by decide +kernel)⟩
theorem witness_BitCountsReversals : (thr s3).reads (grp s3) (run s3) .int xA.a = .u 5
    ∧ (thr (strand [])).reads (grp (strand [])) (run (strand [])) .int ⟨.special, 2⟩ = .u 0
    ∧ ∀ i ∈ [Instr.popc xA, .clz xA, .ctz xA, .bswap xA, .brev xA], Performs s3 (grp s3) (run s3) (thr s3) i .always :=
  ⟨by decide +kernel, by decide +kernel, all_perform (by decide +kernel)⟩

/-! Block 1 -/

/-- g2 = 10 to 13 against g4 = 12: below it at the first two indices; equal at one; above 9 at all; above 20 at none. -/
def s5 : State := strand [(2, .a 10 1), (3, .u 12), (4, .u 20), (5, .u 9), (6, .u 8)] 4
theorem witness_ComparesPush : (thr s5).preds.length < 16
    ∧ (∀ i ∈ [Instr.cmp .lts xA, .cmp .eq xA, .ptest { xA with b := g' 6 }, .cmp .gen { xA with b := g' 4 }], Performs s5 (grp s5) (run s5) (thr s5) i .always)
    ∧ OneRun (thr s5) (fun k => cmpTruth .lts xA (((thr s5).reads (grp s5) (run s5) .int xA.a).val k) (((thr s5).reads (grp s5) (run s5) .int xA.b).val k)) 0 2
    ∧ OneRun (thr s5) (fun k => cmpTruth .gtn { xA with b := g' 5 } (((thr s5).reads (grp s5) (run s5) .int xA.a).val k) (((thr s5).reads (grp s5) (run s5) .int (g' 5)).val k)) 0 4
    ∧ OneRun (thr s5) (fun k => cmpTruth .gtn { xA with b := g' 4 } (((thr s5).reads (grp s5) (run s5) .int xA.a).val k) (((thr s5).reads (grp s5) (run s5) .int (g' 4)).val k)) 0 0
    ∧ OneRun (thr s5) (fun k => ((thr s5).reads (grp s5) (run s5) .int xA.a).val k &&& ((thr s5).reads (grp s5) (run s5) .int (g' 6)).val k ≠ 0) 0 4 := by
  refine ⟨by decide +kernel, all_perform (by decide +kernel), ?_, ?_, ?_, ?_⟩ <;> unfold OneRun <;> (try dsimp only [cmpTruth]) <;> decide +kernel
/-- Two entries: true on 0 to 2, and on 1 to 3. -/
def s6 : State := alter s5 (fun t => { t with preds := [⟨0, 3⟩, ⟨1, 3⟩] })
theorem witness_StackOperations : (thr s6).preds = ⟨0, 3⟩ :: ⟨1, 3⟩ :: []
    ∧ (∀ i ∈ [Instr.pand xA, .por xA, .pnot xA, .ppop xA], Performs s6 (grp s6) (run s6) (thr s6) i .always)
    ∧ OneRun (thr s6) (fun k => (⟨0, 3⟩ : Ivl).has ((thr s6).lo + k) = true ∧ (⟨1, 3⟩ : Ivl).has ((thr s6).lo + k) = true) 1 2
    ∧ OneRun (thr s6) (fun k => (⟨0, 3⟩ : Ivl).has ((thr s6).lo + k) = true ∨ (⟨1, 3⟩ : Ivl).has ((thr s6).lo + k) = true) 0 4
    ∧ OneRun (thr s6) (fun k => ¬ (⟨0, 3⟩ : Ivl).has ((thr s6).lo + k) = true) 3 1 := by
  refine ⟨by decide +kernel, all_perform (by decide +kernel), ?_, ?_, ?_⟩ <;> unfold OneRun <;> decide +kernel
/-- The clause of the tests begins at 0x1000: a branch to itself, and to the address in g2. -/
def s7 : State := strand [(2, .u 0x1000), (3, .u 1)]
theorem witness_Branches : s7.checkTarget (s7.ctxOf (grp s7).pen) (branchOrigin (run s7) + 8 * (xB 0).tgt.signExtend 64) = .ok ()
    ∧ (thr s7).reads (grp s7) (run s7) .int (xB 0).a = .u 0x1000 ∧ s7.checkTarget (s7.ctxOf (grp s7).pen) 0x1000 = .ok ()
    ∧ (thr s7).reads (grp s7) (run s7) .int (g' 3) = .u 1
    ∧ ∀ i ∈ [Instr.bra xB, .call xB, .brx xB, .ret xB, .callx xB, .loop xB, .loop { xB with a := g' 3 }], Performs s7 (grp s7) (run s7) (thr s7) i .always := by
  refine ⟨by decide +kernel, by decide +kernel, by decide +kernel, by decide +kernel, all_perform (by decide +kernel)⟩
/-- g2 is no multiple of 8, and the distance leads past the mapped pages. -/
def s8 : State := strand [(2, .u 0x1001)]
def xFar : FmtB := xB 0x1000000
theorem witness_BranchToBadTarget : (grp s8).lanes = false ∧ (thr s8).reads (grp s8) (run s8) .int xFar.a = .u 0x1001 ∧ (thr s8).ih = false
    ∧ (∀ p ∈ (thr s8).pend, p.queue = none)
    ∧ (∀ b ∈ branchForms (run s8) xFar 0x1001, Performs s8 (grp s8) (run s8) (thr s8) b.1 .always)
    ∧ ∀ b ∈ branchForms (run s8) xFar 0x1001, ∃ f, s8.checkTarget (s8.ctxOf (grp s8).pen) b.2 = .error f := by
  refine ⟨by decide +kernel, by decide +kernel, by decide +kernel, by decide +kernel, fun b hb => ready_performs ?_, fun b hb => error_of_not ?_⟩
  · have h : ((branchForms (run s8) xFar 0x1001).all fun b => ready s8 b.1 .always) = true := by decide +kernel
    exact List.all_eq_true.mp h b hb
  · have h : ((branchForms (run s8) xFar 0x1001).all fun b => !isOk (s8.checkTarget (s8.ctxOf (grp s8).pen) b.2)) = true := by decide +kernel
    simpa using List.all_eq_true.mp h b hb
/-- No splice record; a record that names the clause; a lane thread; one whose fold at the clause has failed. -/
def l5 : State := { l3 with groups := l3.groups.map (fun g => { g with failFolds := [(0x1000, [])] }) }
def s9 : State := alter s3 (fun t => { t with splices := [⟨7, 0x1000⟩] })
theorem witness_Splice : (∀ s ∈ [s3, s9, l3, l5], Performs s (grp s) (run s) (thr s) (.splice xI) .always ∧ (run s).pos = 0)
    ∧ ((grp s3).lanes = false ∧ ∀ q ∈ (thr s3).splices.head?, q.addr ≠ (run s3).hdr)
    ∧ ((grp s9).lanes = false ∧ ∃ q ∈ (thr s9).splices.head?, q.addr = (run s9).hdr)
    ∧ ((grp l3).lanes = true ∧ (grp l3).foldFailed (run l3).hdr = false)
    ∧ ((grp l5).lanes = true ∧ (grp l5).foldFailed (run l5).hdr = true) := by
  refine ⟨?_, by decide +kernel, ⟨by decide +kernel, ⟨7, 0x1000⟩, by decide +kernel, by decide +kernel⟩, by decide +kernel, by decide +kernel⟩
  intro s hs
  simp only [List.mem_cons, List.not_mem_nil, or_false] at hs
  rcases hs with rfl | rfl | rfl | rfl <;> exact ⟨ready_performs (by decide +kernel), by decide +kernel⟩
/-- The task's bound is 5 of Incumbent Cell 3, whose key is 5. -/
def s10 : State :=
  { s3 with tasks := s3.tasks.map (fun k => { k with cell := ⟨true, 3, 5⟩ }), cells := s3.cells.set 3 { Cell.reset with key := 5, base := 5, owner := some 1 } }
theorem witness_ExitNopYield : (∀ i ∈ [Instr.exit xA, .nop xA, .kpoint xA, .yield xA], Performs s3 (grp s3) (run s3) (thr s3) i .always)
    ∧ (∀ i ∈ [Instr.kpoint xA, .yield xA], Performs s10 (grp s10) (run s10) (thr s10) i .always)
    ∧ Performs l3 (grp l3) (run l3) (thr l3) (.laydn xA) .always ∧ (grp l3).lanes = true ∧ (run s3).pos + 1 = (run s3).words.length
    ∧ (s10.task (thr s10).task).cell.v = true
    ∧ ((s10.cell (s10.task (thr s10).task).cell.cell.toNat).localKey s10.now (.core ((s10.pen (grp s10).pen).core.getD 0))).toInt ≤ (s10.task (thr s10).task).cell.bound.toInt
    ∧ (s3.task (thr s3).task).cell.v = false ∧ s3.enlist.members = [] := by
  and_intros <;> first | decide +kernel | exact ready_performs (by decide +kernel) | exact all_perform (by decide +kernel)
/-- C is g2; and g2 minus g3 passes 2^31 − 1 at the last index. -/
def xC : FmtA := { xA with c := g' 2 }
def s4' : State := strand [(2, .a 0x7FFFFFFC 1), (3, .a 0 0xFFFFFFFFFFFFFFFF), (4, .u 3)] 4
theorem witness_LayDownFirst : ∀ s ∈ [s4, s4'], ∃ s1 gid, s.layDown (grp s).id = some (s1, gid) ∧ (grp s).lanes = false ∧ (thr s).n ≤ 64
    ∧ s.rowQueue (grp s).id ((s.pen (grp s).pen).core.getD 0) = false ∧ ((thr s).reads (grp s) (run s) .int xA.a).isA = true ∧ (run s).pos = 0
    ∧ ((thr s).reads (grp s) (run s) .int xA.b).isA = true ∧ ((thr s).reads (grp s) (run s) .int xC.c).isA = true
    ∧ (∀ i ∈ [Instr.laydn xA, .popc xA, .fadd .f32 xA, .lmul xA, .imul .i64 xA, .imad .i32 xA, .shl xA, .lea xC, .isub .i32 xA, .red .fadd64 xA, .red .imin xA, .scan .iadd64 xA,
        .iabs xA, .cvt .f64s64 xA, .frnd .rn .f32 xA, .imulw .s xA, .movhi xI, .ld .b64 xM, .lds .b32 xM],
        Performs s (grp s) (run s) (thr s) i .always)
    ∧ Instr.popc xA ∈ eInstrs xA ∧ xI.a = xA.a ∧ xM.base = xA.a := by
  intro s hs
  simp only [List.mem_cons, List.not_mem_nil, or_false] at hs
  rcases hs with rfl | rfl
  · obtain ⟨s1, gid, h⟩ := some_pair (o := s4.layDown (grp s4).id) (by decide +kernel)
    refine ⟨s1, gid, h, ?_⟩
    and_intros <;> first | decide +kernel | exact all_perform (by decide +kernel)
  · obtain ⟨s1, gid, h⟩ := some_pair (o := s4'.layDown (grp s4').id) (by decide +kernel)
    refine ⟨s1, gid, h, ?_⟩
    and_intros <;> first | decide +kernel | exact all_perform (by decide +kernel)
theorem witness_LayDownFirst_at_32_bits :
    ∃ k < (thr s4').n, affineAt 32 (thr s4') (grp s4') (run s4') xA (fun a b _ => a - b) k ≠ affineAt 64 (thr s4') (grp s4') (run s4') xA (fun a b _ => a - b) k :=
  ⟨3, by decide +kernel, by decide +kernel⟩
theorem witness_AtomicsLayDown : ∃ s1 gid, s4.layDown (grp s4).id = some (s1, gid) ∧ (grp s4).lanes = false ∧ (thr s4).n ≤ 64
    ∧ s4.rowQueue (grp s4).id ((s4.pen (grp s4).pen).core.getD 0) = false
    ∧ ∀ i ∈ [Instr.atom .add64 xQ, .cas .i64 xQ, .atomf .f32 xQ], Performs s4 (grp s4) (run s4) (thr s4) i .always := by
  obtain ⟨s1, gid, h⟩ := some_pair (o := s4.layDown (grp s4).id) (by decide +kernel)
  exact ⟨s1, gid, h, by decide +kernel, by decide +kernel, by decide +kernel, all_perform (by decide +kernel)⟩
/-- Two lanes. -/
def l4 : State := laneGroup 2 (fun k => [(2, .u (BitVec.ofNat 64 k)), (3, .u 1)])
theorem witness_LanesActEach : l4.cur = some (grp l4).id ∧ l4.group (grp l4).id = grp l4 ∧ (grp l4).run = some (run l4) ∧ (grp l4).lanes = true
    ∧ (run l4).from' = 0 ∧ (run l4).sel.Nodup ∧ (run l4).sel.Pairwise (· ≤ ·)
    ∧ (∀ i ∈ [Instr.and xA, .or xA, .xor xA], i.regsOk (l4.launchOf (grp l4).pen).regs = true)
    ∧ ∀ l ∈ (run l4).sel, ∃ t, (grp l4).thread l = some t ∧ t.laneGuard xA.gd = some true
        ∧ t.reads (grp l4) (run l4) .int xA.a = .u (BitVec.ofNat 64 l) ∧ t.reads (grp l4) (run l4) .int xA.b = .u 1 := by
  have hl : ∀ l ∈ (run l4).sel, ∃ t, (grp l4).thread l = some t ∧ t.laneGuard xA.gd = some true
      ∧ t.reads (grp l4) (run l4) .int xA.a = .u (BitVec.ofNat 64 l) ∧ t.reads (grp l4) (run l4) .int xA.b = .u 1 := by
    intro l hl
    have : (run l4).sel = [0, 1] := by decide +kernel
    simp only [this, List.mem_cons, List.not_mem_nil, or_false] at hl
    rcases hl with rfl | rfl
    · exact ⟨(grp l4).threads.getD 0 (fetchThread 1), by decide +kernel⟩
    · exact ⟨(grp l4).threads.getD 1 (fetchThread 1), by decide +kernel⟩
  and_intros <;> first | exact hl | decide +kernel
/-- The top entry is true for no index. -/
def s11 : State := alter s4 (fun t => { t with preds := [⟨0, 0⟩] })
def l6 : State := alter l3 (fun t => { t with preds := [⟨0, 0⟩] })
theorem witness_FalseGuard : (grp s11).lanes = false ∧ Issues s11 (grp s11) (run s11) (thr s11) ∧ (thr s11).n ≠ 0
    ∧ (thr s11).guardRuns .top = some [(0, (thr s11).n, false)]
    ∧ (grp l6).lanes = true ∧ Issues l6 (grp l6) (run l6) (thr l6) ∧ (thr l6).n ≠ 0 ∧ (thr l6).laneGuard .top = some false
    ∧ (∀ i ∈ resultInstrs { xA with gd := .top } ++ storeInstrs { xM with gd := .top }, i.regsOk (s11.launchOf (grp s11).pen).regs = true)
    ∧ ∀ i ∈ resultInstrs { xA with gd := .top } ++ storeInstrs { xM with gd := .top }, i.regsOk (l6.launchOf (grp l6).pen).regs = true := by
  and_intros <;> first | exact ready_issues (i := .nop xA) (gd := .always) (by decide +kernel) | decide +kernel

/-! Block 2 -/

/-- Eight bytes stored at a physical address. -/
def store8 (s : State) (pa v : Nat) : State := { s with mem := Memory.store s.mem pa 8 v }
/-- g2 (the base) = 0x40000, g3 = 0x40040, g1 = 0x5060, g4 = 128; DRAM holds eight bytes there. -/
def m3 : State := store8 (strand [(1, .u 0x5060), (2, .u 0x40000), (3, .u 0x40040), (4, .u 128)]) 0x40000 0x8899AABBCCDDEEFF
/-- The same in a lane group. -/
def ml : State := store8 (laneGroup 1 (fun _ => [(1, .u 0x5060), (2, .u 0x40000), (3, .u 0x40040)])) 0x40000 0x8899AABBCCDDEEFF
/-- g2 = 64, an offset in the scratch of member 0. -/
def r3 : State := strand [(1, .u 0x5060), (2, .u 64)]
theorem witness_Loads : (thr m3).reads (grp m3) (run m3) .int (xM).base = .u 0x40000
    ∧ (∀ i ∈ [Instr.ld .b64 xM, .ld .s8 xM, .ld .b128 xM], Performs m3 (grp m3) (run m3) (thr m3) i .always)
    ∧ Reaches m3 (grp m3) (run m3) (thr m3) .global 0x40000 8 accRead none (.phys 0x40000)
    ∧ Performs ml (grp ml) (run ml) (thr ml) (.ld .b64 xM) .always ∧ (thr ml).reads (grp ml) (run ml) .int (xM).base = .u 0x40000
    ∧ Reaches ml (grp ml) (run ml) (thr ml) .global 0x40000 8 accRead none (.phys 0x40000)
    ∧ (thr r3).reads (grp r3) (run r3) .int (xM .scratch).base = .u 64
    ∧ (∀ i ∈ [Instr.lds .b32 (xM .scratch), .lds .b128 (xM .scratch)], Performs r3 (grp r3) (run r3) (thr r3) i .always)
    ∧ r3.teamLoc (grp r3).pen 64 4 accRead = .ok (.scr 1 64) ∧ (r3.drawn (grp r3)).teamLoc (grp r3).pen 64 4 accRead = .ok (.scr 1 64)
    ∧ r3.teamLoc (grp r3).pen 64 16 accRead = .ok (.scr 1 64) ∧ (r3.drawn (grp r3)).teamLoc (grp r3).pen 64 16 accRead = .ok (.scr 1 64) := by
  and_intros <;> first | decide +kernel | exact ready_performs (by decide +kernel) | exact all_perform (by decide +kernel) | exact ⟨.phys 0x40000, by decide +kernel⟩
/-- An operation of the thread in flight: it owes g9 the value 7, and names flag 3. -/
def pend7 : Pend := ⟨70, 3, [(9, .u 7)], 0, false, none, 0x1008, none⟩
def m4 : State := alter m3 (fun t => { t with pend := [pend7], flags := 8 })
theorem witness_MemoryCompletion : m4.group (grp m4).id = grp m4 ∧ grp m4 ∈ m4.groups ∧ thr m4 ∈ (grp m4).threads ∧ ((grp m4).threads.map Thread.lane).Nodup
    ∧ pend7 ∈ (thr m4).pend ∧ ((thr m4).pend.map Pend.op).Nodup ∧ pend7.engine = false ∧ pend7.queue = none ∧ (thr m4).status = .ready
    ∧ m4.ops = [] ∧ m4.conts = [] ∧ m4.lostPops = [] ∧ pend7.flag < 12 := by decide +kernel
/-- Another operation in flight names the same flag. -/
def m5 : State := alter m3 (fun t => { t with pend := [pend7, { pend7 with op := 71 }], flags := 8 })
theorem witness_MemoryCompletion_shared : grp m5 ∈ m5.groups ∧ thr m5 ∈ (grp m5).threads ∧ ((thr m5).pend.map Pend.op).Nodup
    ∧ ∃ q ∈ (thr m5).pend, q.op ≠ pend7.op ∧ q.flag = pend7.flag := by decide +kernel
theorem witness_StoresOfOne : m3.memForm = true ∧ (thr m3).n = 1 ∧ Performs m3 (grp m3) (run m3) (thr m3) (.st .b64 xM) .always
    ∧ stLoc .b64 xM m3 (envOf (grp m3) (run m3)) (thr m3) 0 = .ok (.phys 0x40000) ∧ stLoc .b64 xM m3.bump (envOf (grp m3) (run m3)) (thr m3) 0 = .ok (.phys 0x40000)
    ∧ r3.memForm = true ∧ (∀ i ∈ [Instr.st .b16 (xM .scratch), .sts .b64 (xM .scratch)], Performs r3 (grp r3) (run r3) (thr r3) i .always)
    ∧ stLoc .b16 (xM .scratch) r3 (envOf (grp r3) (run r3)) (thr r3) 0 = .ok (.scr 1 64) ∧ stLoc .b16 (xM .scratch) r3.bump (envOf (grp r3) (run r3)) (thr r3) 0 = .ok (.scr 1 64)
    ∧ stsLoc .b64 (xM .scratch) r3 (envOf (grp r3) (run r3)) (thr r3) 0 = .ok (.scr 1 64) ∧ stsLoc .b64 (xM .scratch) r3.bump (envOf (grp r3) (run r3)) (thr r3) 0 = .ok (.scr 1 64) := by
  and_intros <;> first | decide +kernel | exact ready_performs (by decide +kernel) | exact all_perform (by decide +kernel)
/-- Four indices store at 64, 72, 80 and 88 of the scratch. -/
def r4 : State := strand [(1, .a 5 1), (2, .a 64 8)] 4
theorem witness_BlockStore : r4.memForm = true ∧ (grp r4).lanes = false ∧ Performs r4 (grp r4) (run r4) (thr r4) (.st .b64 (xM .scratch)) .always
    ∧ (∀ k < (thr r4).n, stLoc .b64 (xM .scratch) r4 (envOf (grp r4) (run r4)) (thr r4) k = .ok (.scr (grp r4).pen (64 + 8 * k)))
    ∧ ∀ k < (thr r4).n, ∀ j < (thr r4).n, j ≠ k → 64 + 8 * j + StV.size .b64 ≤ 64 + 8 * k ∨ 64 + 8 * k + StV.size .b64 ≤ 64 + 8 * j := by
  and_intros <;> first | decide +kernel | exact ready_performs (by decide +kernel)
/-- Misaligned by one; at the first byte beyond the scratch; at the first address of more than 56, and of more than 40 bits. -/
theorem witness_AccessChecks : (0x40001 : W64).toNat % 8 ≠ 0 ∧ (0x8000 : W64).toNat % 8 = 0 ∧ (r3.pen 1).scsz < (0x8000 : W64).toNat + 8
    ∧ (0x100000000000000 : W64).toNat % 8 = 0 ∧ 2 ^ 56 ≤ (0x100000000000000 : W64).toNat ∧ 2 ^ 40 ≤ (0x10000000000 : W64).toNat ∧ (0x10000000000 : W64).toNat % 8 = 0 := by
  decide +kernel
def mShed : State := { m3 with ctxs := [{ fetchCtx with shed := [1, 0, 0, 0] }] }
theorem witness_Prefetch : (thr mShed).n = 1 ∧ (∀ h ∈ [Hint.shed, .normal], Performs mShed (grp mShed) (run mShed) (thr mShed) (.pref { xM with v := ⟨.g, 0⟩, hint := h }) .always)
    ∧ mShed.shoots = [] ∧ mShed.ctxOf (grp mShed).pen ∈ mShed.ctxs.map Context.id
    ∧ 0 < (mShed.ctx (mShed.ctxOf (grp mShed).pen)).shed.getD (mShed.penDie (grp mShed).pen) 0
    ∧ mShed.globalLoc (mShed.ctxOf (grp mShed).pen) (((thr mShed).reads (grp mShed) (run mShed) .int (xM).base).val 0 + (xM).off.signExtend 64) 1 accRead.device = .ok (.phys 0x40000) := by
  refine ⟨by decide +kernel, ?_, by decide +kernel, by decide +kernel, by decide +kernel, by decide +kernel⟩
  intro h hh
  simp only [List.mem_cons, List.not_mem_nil, or_false] at hh
  rcases hh with rfl | rfl <;> exact ready_performs (by decide +kernel)
/-- V names the scratch line, at 128. -/
def xL : FmtM := { xM with v := g' 4 }
theorem witness_LineCopies : m3.memForm = true ∧ (thr m3).n = 1 ∧ (thr m3).cps = none
    ∧ (∀ i ∈ [Instr.cpsOut xL, .cpsIn xL], Performs m3 (grp m3) (run m3) (thr m3) i .always)
    ∧ (∀ out ∈ [true, false], ∀ j < 16, cpsAt true out xL m3 (envOf (grp m3) (run m3)) (thr m3) 0 j = .ok (.phys (0x40000 + 8 * j)))
    ∧ ∀ out ∈ [true, false], ∀ j < 16, cpsAt false (!out) xL m3 (envOf (grp m3) (run m3)) (thr m3) 0 j = .ok (.scr (grp m3).pen (128 + 8 * j)) := by
  and_intros <;> first | decide +kernel | exact all_perform (by decide +kernel)

/-! Rings -/

/-- Ring 0, 1, 2 and 3 in g2, g3, g4 and g5; g6 = a configuration of four slots of 128 bytes at 512; g7 = the offset of slot 1. -/
def q3 : State := strand [(2, .u 0), (3, .u 1), (4, .u 2), (5, .u 3), (6, .u 0x0000000407000200), (7, .u 64)]
def ringCfg : FmtQ := { xQ with b := g' 6 }
theorem witness_RingSetUp : (testRing .filled).slots.length ≤ 4096 ∧ (testRing .filled).head < 4096 ∧ (testRing .filled).tail < 4096
    ∧ (thr q3).reads (grp q3) (run q3) .int ringCfg.a = .u 0 ∧ (thr q3).reads (grp q3) (run q3) .int ringCfg.b = .u 0x0000000407000200
    ∧ (∀ i ∈ [Instr.rngcfgQuery { ringCfg with wm := 1 }, .rngcfgConfigure ringCfg], Performs q3 (grp q3) (run q3) (thr q3) i .always)
    ∧ bits (0x0000000407000200 : W64) 63 45 = 0 ∧ bits (0x0000000407000200 : W64) 31 28 = 0 ∧ bits (0x0000000407000200 : W64) 23 21 = 0
    ∧ (bits (0x0000000407000200 : W64) 27 24).toNat = 7 ∧ (bits (0x0000000407000200 : W64) 44 32).toNat = 4 ∧ (bits (0x0000000407000200 : W64) 20 0).toNat = 512
    ∧ 512 + 4 * 2 ^ 7 ≤ (q3.pen (grp q3).pen).scsz ∧ q3.ringHeld (grp q3).pen 0 = false := by
  and_intros <;> first | decide +kernel | exact all_perform (by decide +kernel)
/-- The strand waits at ring 1, in a state whose ring 1 is FILLED; and at ring 0, which is FREE. -/
def q4 (k : Nat) (c : Bool) : State := alter q3 (fun t => { t with status := .ring k c (g' 1) })
theorem witness_RingClaimsAndTakes : (thr q3).reads (grp q3) (run q3) .int (g' 2) = .u 0 ∧ (thr q3).reads (grp q3) (run q3) .int (g' 3) = .u 1
    ∧ (run q3).pos = 0 ∧ (bits (q3.ring (grp q3).pen 0).cfg 44 32).toNat ≠ 0
    ∧ (∀ a ∈ [g' 2, g' 3], ∀ w ∈ [0, 1], ∀ i ∈ [Instr.rngclaim { xQ w with a := a }, .rngwait { xQ w with a := a }], Performs q3 (grp q3) (run q3) (thr q3) i .always)
    ∧ (q3.ring (grp q3).pen 0).slots.getD (q3.ring (grp q3).pen 0).tail .claimed = .free ∧ (q3.ring (grp q3).pen 1).slots.getD (q3.ring (grp q3).pen 1).head .free = .filled
    ∧ (∀ p ∈ [(0, true), (1, false)], ((q4 p.1 p.2).group 1).pen = (grp q3).pen ∧ ((q4 p.1 p.2).group 1).thread 0 = some (thr (q4 p.1 p.2))
        ∧ (thr (q4 p.1 p.2)).status = .ring p.1 p.2 (g' 1) ∧ ((q4 p.1 p.2).group 1).resident (q4 p.1 p.2) = true) := by
  have h : ∀ a ∈ [g' 2, g' 3], ∀ w ∈ [0, 1], ∀ i ∈ [Instr.rngclaim { xQ w with a := a }, .rngwait { xQ w with a := a }],
      Performs q3 (grp q3) (run q3) (thr q3) i .always := by
    intro a ha w hw
    simp only [List.mem_cons, List.not_mem_nil, or_false] at ha hw
    rcases ha with rfl | rfl <;> rcases hw with rfl | rfl <;> exact all_perform (by decide +kernel)
  and_intros <;> first | exact h | decide +kernel
/-- Ring 2 claimed by an engine operation. -/
def q5 : State := { q3 with pens := q3.pens.map (fun p => { p with rings := p.rings.set 2 (testRing (.engine 8)) }) }
theorem witness_RingMarks : (thr q3).reads (grp q3) (run q3) .int (g' 4) = .u 2 ∧ (thr q3).reads (grp q3) (run q3) .int (g' 5) = .u 3
    ∧ (thr q3).reads (grp q3) (run q3) .int (g' 7) = .u 64 ∧ (bits (q3.ring (grp q3).pen 2).cfg 20 0).toNat + 1 * 2 ^ (bits (q3.ring (grp q3).pen 2).cfg 27 24).toNat = 64
    ∧ 1 < (bits (q3.ring (grp q3).pen 2).cfg 44 32).toNat
    ∧ (∀ i ∈ [Instr.rngfill { xQ with a := g' 4, b := g' 7 }, .rngfree { xQ with a := g' 5, b := g' 7 }], Performs q3 (grp q3) (run q3) (thr q3) i .always)
    ∧ (q3.ring (grp q3).pen 2).slots.getD 1 .free = .claimed ∧ (q3.ring (grp q3).pen 3).slots.getD 1 .free = .taken
    ∧ (q5.ring (grp q5).pen 2).slots.getD 1 .free = .engine 8 ∧ Performs q5 (grp q5) (run q5) (thr q5) (.rngfill { xQ with a := g' 4, b := g' 7 }) .always := by
  and_intros <;> first | decide +kernel | exact all_perform (by decide +kernel) | exact ready_performs (by decide +kernel)

/-! Block 3 -/

theorem witness_MemoryWrites : m3.memForm = true ∧ (∀ p ∈ [1], p ∈ m3.pens.map Pen.id) := by decide +kernel
/-- A lane with g2 = 0x40000, g3 = 5, where DRAM holds 0x3F800000. -/
def a1 (m : Nat := 0x3F800000) (cells : List (Nat × Form) := [(1, .u 0), (2, .u 0x40000), (3, .u 5)]) : State := store8 (laneGroup 1 (fun _ => cells)) 0x40000 m
theorem witness_Atomics : (thr a1).reads (grp a1) (run a1) .int xQ.a = .u 0x40000 ∧ (a1.threadLaunch (thr a1)).gang = none ∧ (grp a1).lanes = true
    ∧ (∀ i ∈ [Instr.atom .add64 xQ, .cas .i64 xQ, .cas .i128 { xQ with d := g' 6, b := g' 8 }, .atomf .f32 xQ], Performs a1 (grp a1) (run a1) (thr a1) i .always)
    ∧ Reaches a1 (grp a1) (run a1) (thr a1) .global 0x40000 8 accRmw (some 0) (.phys 0x40000)
    ∧ Reaches a1 (grp a1) (run a1) (thr a1) .global 0x40000 4 accRmw (some 0) (.phys 0x40000)
    ∧ Reaches a1 (grp a1) (run a1) (thr a1) .global 0x40000 16 accRmw (some 0) (.phys 0x40000)
    ∧ (thr a1).reads (grp a1) (run a1) .int xQ.b = .u 5 ∧ (thr a1).reads (grp a1) (run a1) .f32 xQ.b = .u 5 :=
  by and_intros <;> first | decide +kernel | exact all_perform (by decide +kernel) | exact ⟨.phys 0x40000, by decide +kernel⟩
/-- A strand with g2 = 0x40000, where DRAM holds 5, and g3 = 5; g4 = 6. -/
def k3 : State := store8 (strand [(2, .u 0x40000), (3, .u 5), (4, .u 6), (5, .u 0x40010)]) 0x40000 5
/-- It waits at 0x40000, with a timeout of one microsecond that has passed; an operation owes g1. -/
def mon : Monitor := ⟨.phys 0x40000, 0x40000, .global, 5, 70, 0, 70⟩
def pendW : Pend := ⟨70, 3, [(1, .u 0)], 0, false, none, 0x1008, none⟩
def k4 : State := { alter k3 (fun t => { t with status := .waita mon, wto := 1, pend := [pendW], flags := 8 }) with now := 1000 }
theorem witness_WaitAndWake : (thr k3).reads (grp k3) (run k3) .int xQ.a = .u 0x40000 ∧ (k3.threadLaunch (thr k3)).gang = none
    ∧ (run k3).pos + 1 = (run k3).words.length ∧ (thr k3).reads (grp k3) (run k3) .int xQ.b = .u 5 ∧ (thr k3).reads (grp k3) (run k3) .int (g' 4) = .u 6
    ∧ (∀ i ∈ [Instr.waita xQ, .waita { xQ with b := g' 4 }, .wake xQ], Performs k3 (grp k3) (run k3) (thr k3) i .always)
    ∧ k3.threadAccess (envOf (grp k3) (run k3)) (thr k3) .global 0x40000 8 accWaita = .ok (.phys 0x40000)
    ∧ wakeLoc k3 (envOf (grp k3) (run k3)) (thr k3) xQ = .ok (.phys 0x40000) ∧ k3.readLoc (.phys 0x40000) 8 = 5
    ∧ (k4.group 1).thread 0 = some (thr k4) ∧ (thr k4).status = .waita mon ∧ (k4.group 1).resident k4 = true
    ∧ (thr k4).wto ≠ 0 ∧ mon.start + 1000 * (thr k4).wto.toNat ≤ k4.clk ∧ (thr k4).pend.find? (·.op == mon.op) = some pendW
    ∧ (thr k4).pend = [pendW] ∧ pendW.mixed = none ∧ (thr k4).regs.late = [] := by
  and_intros <;> first | decide +kernel | exact all_perform (by decide +kernel)
/-- A barrier record at 64 in the scratch: PHASE 7, EXPECT 2, ARRIVED 1 or 0; in the scope of the pen. -/
def b3 (arrived : Nat) : State :=
  { strand [(2, .u 64), (3, .u 7), (4, .u 6)] with pens := [{ testPen with scratch := Memory.store [] 64 16 (BarRec.code ⟨7, 2, arrived⟩) }] }
/-- It waits for the phase to differ from p. -/
def b4 (p : W32) : State := alter (b3 0) (fun t => { t with status := .bar (.scr 1 64) 64 p (g' 1) 0x1008 0x1000 })
theorem witness_Barriers : ∀ n ∈ [0, 1], (thr (b3 n)).reads (grp (b3 n)) (run (b3 n)) .int xQ.a = .u 64
    ∧ barRec ((b3 n).readLoc (.scr 1 64) 16) = some ⟨7, 2, n⟩ ∧ (b3 n).memForm = true
    ∧ issuers (b3 n) (envOf (grp (b3 n)) (run (b3 n))) (thr (b3 n)) = [thr (b3 n)]
    ∧ barLoc .pen (b3 n) (envOf (grp (b3 n)) (run (b3 n))) 64 accRmw = .ok (.scr 1 64)
    ∧ barLoc .pen (b3 n) (envOf (grp (b3 n)) (run (b3 n))) 64 accRead = .ok (.scr 1 64)
    ∧ n + (thr (b3 n)).n < 2 ^ 40 ∧ (run (b3 n)).pos + 1 = (run (b3 n)).words.length
    ∧ (thr (b3 n)).reads (grp (b3 n)) (run (b3 n)) .int xQ.b = .u 7 ∧ (thr (b3 n)).reads (grp (b3 n)) (run (b3 n)) .int (g' 4) = .u 6
    ∧ ([Instr.bararv .pen xQ, .barArriveWait .pen xQ, .barWait .pen (xQ 1), .barWait .pen { xQ 1 with b := g' 4 }].all
        fun i => ready (b3 n) i .always) = true := by
  intro n hn
  simp only [List.mem_cons, List.not_mem_nil, or_false] at hn
  rcases hn with rfl | rfl <;> (and_intros <;> decide +kernel)
theorem witness_Barriers_wait : ∀ n ∈ [6, 7], ((b4 (BitVec.ofNat 32 n)).group 1).thread 0 = some (thr (b4 (BitVec.ofNat 32 n)))
    ∧ (thr (b4 (BitVec.ofNat 32 n))).status = .bar (.scr 1 64) 64 (BitVec.ofNat 32 n) (g' 1) 0x1008 0x1000
    ∧ ((b4 (BitVec.ofNat 32 n)).group 1).resident (b4 (BitVec.ofNat 32 n)) = true ∧ (b4 (BitVec.ofNat 32 n)).barRead (.scr 1 64) 64 = .ok ⟨7, 2, 0⟩ := by
  intro n hn
  simp only [List.mem_cons, List.not_mem_nil, or_false] at hn
  rcases hn with rfl | rfl <;> and_intros <;> decide +kernel
/-- Base 0x40000 in g2, index 2 (of 8 bytes) in g3, the value 5 in g1. -/
def gs : State := strand [(1, .u 5), (2, .u 0x40000), (3, .u 2)]
def xG8 : FmtG := { xG with scl := 2 }
theorem witness_GatherScatter : (thr gs).reads (grp gs) (run gs) .int xG8.base = .u 0x40000 ∧ (thr gs).reads (grp gs) (run gs) .int xG8.idx = .u 2
    ∧ (∀ i ∈ [Instr.gather .b64 xG8, .scatter .b64 xG8, .scata .add64 xG8, .scata .addf32 xG8], Performs gs (grp gs) (run gs) (thr gs) i .always)
    ∧ (∀ p ∈ [(8, accRead), (8, accWrite), (8, accRmw), (4, accRmw)], elemLoc gs (envOf (grp gs) (run gs)) (thr gs) xG8 p.1 p.2 0 = .ok (.phys 0x40010)
        ∧ elemLoc gs.bump (envOf (grp gs) (run gs)) (thr gs) xG8 p.1 p.2 0 = .ok (.phys 0x40010))
    ∧ (thr gs).n = 1 ∧ (thr gs).pend = [] ∧ (thr gs).reads (grp gs) (run gs) .int xG8.v = .u 5 ∧ (thr gs).reads (grp gs) (run gs) .f32 xG8.v = .u 5 := by
  and_intros <;> first | decide +kernel | exact all_perform (by decide +kernel)
/-- g2 = slot 1; g3 and g4 = a configuration of kind 1 with parameter 10. -/
def rm : State := strand [(2, .u 1), (3, .u 1), (4, .u 10)]
/-- A pen whose slots are: modulo 10; the high 4 bits of a product; a table of 4 entries of 8 bytes at 256; disabled. -/
def rm4 : State := { rm with pens := [{ testPen with remaps := [⟨1, 10⟩, ⟨0x402, 0x9E3779B97F4A7C15⟩, ⟨0x4010003, 256⟩, ⟨0, 0⟩] }] }
theorem witness_RemapSlots : (thr rm).reads (grp rm) (run rm) .int xA.a = .u 1 ∧ (thr rm).reads (grp rm) (run rm) .int xA.b = .u 1
    ∧ (thr rm).reads (grp rm) (run rm) .int xA.c = .u 10 ∧ remapBad 1 1 10 (rm.pen (grp rm).pen).scsz = none ∧ Performs rm (grp rm) (run rm) (thr rm) (.rmapset xA) .always
    ∧ (rm4.pen 1).remaps[0]? = some ⟨1, 10⟩ ∧ (1 : W64).toNat % 4 = 1
    ∧ (rm4.pen 1).remaps[1]? = some ⟨0x402, 0x9E3779B97F4A7C15⟩ ∧ (0x402 : W64).toNat % 4 = 2
    ∧ (rm4.pen 1).remaps[2]? = some ⟨0x4010003, 256⟩ ∧ (0x4010003 : W64).toNat % 4 = 3 ∧ (3 : W64).toNat < (bits (0x4010003 : W64) 44 24).toNat
    ∧ rm4.locked (.scr 1 ((256 : W64).toNat + 3 * 8)) 8 false = false ∧ (rm4.pen 1).sound ((256 : W64).toNat + 3 * 8) 8 = true ∧ (bits (0x4010003 : W64) 44 24).toNat ≤ (4 : W64).toNat
    ∧ (rm4.pen 1).remaps[3]? = some ⟨0, 0⟩ ∧ (0 : W64).toNat % 4 = 0 := by
  and_intros <;> first | decide +kernel | exact ready_performs (by decide +kernel)
/-- No operation outstanding; one that the thread issued; one of the pen. -/
theorem witness_EngineFence : (∀ w ∈ [0, 1], Performs s3 (grp s3) (run s3) (thr s3) (.engfence (xQ w)) .always) ∧ (run s3).pos + 1 = (run s3).words.length
    ∧ (thr s3).engOps = [] ∧ s3.penOps (grp s3).pen = [] ∧ (thr (alter s3 (fun t => { t with engOps := [9] }))).engOps ≠ [] := by
  refine ⟨?_, by decide +kernel, by decide +kernel, by decide +kernel, by decide +kernel⟩
  intro w hw
  simp only [List.mem_cons, List.not_mem_nil, or_false] at hw
  rcases hw with rfl | rfl <;> exact ready_performs (by decide +kernel)
/-- The wait has timed out, which is the next event; two events of a kind, each first in its turn. -/
theorem witness_Turns_event : ({ k4 with duty := 0 } : State).agenda = [] ∧ ({ k4 with duty := 0 } : State).schedule = .event (.waitaTimeout 1 0)
    ∧ relocking.firstEnabled [.relockComplete 0, .relockComplete 1] ≠ none ∧ relocking.firstEnabled [.relockComplete 1, .relockComplete 0] ≠ none
    ∧ 0 / 1 % 4 = 0 ∧ 3 / 1 % 4 = 3 ∧ 0 % 1 = 0 := by decide +kernel

/-! Block 4 -/

/-- The largest binary32 value is finite; 1·2^200 overflows; 3·2^−1 does not. -/
theorem witness_RoundsToNearestEven : F32.decode F32.maxCode = .fin false 0xFFFFFF 104
    ∧ alignTo false 3 (-1) (min (-1) 104) ≤ alignTo false 0xFFFFFF 104 (min (-1) 104)
    ∧ (F32.round false 1 200).2.getLsbD 2 = true ∧ (F32.round false 3 (-1)).2.getLsbD 2 = false := by decide +kernel
/-- g2, g3, g4 = 1.5, 2.0 and 0.25 in binary32; g5, g6 and g7 the same in binary64. -/
def f3 : State := strand [(2, .u 0x3FC00000), (3, .u 0x40000000), (4, .u 0x3E800000), (5, .u 0x3FF8000000000000), (6, .u 0x4000000000000000), (7, .u 0x3FD0000000000000)]
theorem witness_FloatArithmetic : (∀ ty ∈ [FTy.f64, .f32, .f16x4, .bf16x4], (thr f3).reads3 (grp f3) (run f3) (FTy.sty ty) xA 0x3FC00000 0x40000000 0x3E800000
      ∧ ∀ i ∈ [Instr.fadd ty xA, .fsub ty xA, .fmul ty xA, .fma ty xA], Performs f3 (grp f3) (run f3) (thr f3) i .always)
    ∧ (∀ ty ∈ [FP.f64, .f32], (thr f3).reads2 (grp f3) (run f3) (FP.sty ty) xA 0x3FC00000 0x40000000
      ∧ ∀ i ∈ [Instr.fdiv ty xA, .fsqrt ty xA], Performs f3 (grp f3) (run f3) (thr f3) i .always)
    ∧ ∀ i ∈ [Instr.frcp xA, .frsq xA, .fexp2 xA, .flog2 xA], Performs f3 (grp f3) (run f3) (thr f3) i .always := by
  refine ⟨?_, ?_, all_perform (by decide +kernel)⟩ <;> intro ty hty <;> simp only [List.mem_cons, List.not_mem_nil, or_false] at hty
  · rcases hty with rfl | rfl | rfl | rfl <;> exact ⟨by unfold Thread.reads3 Thread.reads2; decide +kernel, all_perform (by decide +kernel)⟩
  · rcases hty with rfl | rfl <;> exact ⟨by unfold Thread.reads2; decide +kernel, all_perform (by decide +kernel)⟩
theorem witness_FloatChoices : (∀ ty ∈ [FP.f64, .f32], (thr f3).reads2 (grp f3) (run f3) (FP.sty ty) xA 0x3FC00000 0x40000000
      ∧ ∀ i ∈ [Instr.fmin ty xA, .fmax ty xA, .fcmp .eq ty xA, .fcmp .un ty xA, .fcmp .lt ty xA, .frnd .rn ty xA, .frnd .ru ty xA],
          Performs f3 (grp f3) (run f3) (thr f3) i .always) ∧ (thr f3).preds.length < 16
    ∧ F32.decode (codeOf .f32 .none 0x3FC00000) = .fin false 0xC00000 (-23) ∧ F32.decode (codeOf .f32 .none 0x7F800000) = .inf false
    ∧ F32.decode (codeOf .f32 .none 0x7FA00000) = .nan true := by
  refine ⟨?_, by decide +kernel, by decide +kernel, by decide +kernel, by decide +kernel⟩
  intro ty hty
  simp only [List.mem_cons, List.not_mem_nil, or_false] at hty
  rcases hty with rfl | rfl <;> exact ⟨by unfold Thread.reads2; decide +kernel, all_perform (by decide +kernel)⟩
theorem witness_Conversions : ∀ v ∈ [CvtV.f64f32, .f32f64, .bf16f32, .f16f32, .f32f16, .f32bf16, .e4m3f32, .e5m2f32, .e2m1f32, .lns6f32, .f32lns6, .f64s64, .s64f64,
        .f32s32, .s32f32, .f64n64], (thr f3).reads (grp f3) (run f3) (CvtV.sty v) xA.a = .u 0x3FC00000 ∧ Performs f3 (grp f3) (run f3) (thr f3) (.cvt v xA) .always := by
  intro v hv
  simp only [List.mem_cons, List.not_mem_nil, or_false] at hv
  rcases hv with rfl | rfl | rfl | rfl | rfl | rfl | rfl | rfl | rfl | rfl | rfl | rfl | rfl | rfl | rfl | rfl <;>
    exact ⟨by decide +kernel, ready_performs (by decide +kernel)⟩
theorem witness_conversions_of_finite_values : (∀ p ∈ [(F32, (0x3FC00000 : W64)), (F64, 0x3FF8000000000000), (F16, 0x3E00), (BF16, 0x3FC0)],
      ∃ m e, p.1.decode (p.1.modify .none (p.2.toNat % 2 ^ p.1.width)) = .fin false m e) := by
  intro p hp
  simp only [List.mem_cons, List.not_mem_nil, or_false] at hp
  rcases hp with rfl | rfl | rfl | rfl
  · exact ⟨0xC00000, -23, by decide +kernel⟩
  · exact ⟨0x18000000000000, -52, by decide +kernel⟩
  · exact ⟨0x600, -10, by decide +kernel⟩
  · exact ⟨0xC0, -7, by decide +kernel⟩

/-! Block 5 -/

theorem witness_PackingAndDots : (thr f3).reads3 (grp f3) (run f3) .int xA 0x3FC00000 0x40000000 0x3E800000 ∧ (thr f3).reads (grp f3) (run f3) .f32 xA.a = .u 0x3FC00000
    ∧ ∀ i ∈ [Instr.bspack .i8 xA, .bspack .e2m1 xA, .bsunpk .i4 xA, .bsunpk .e4m3 xA, .lmul xA, .lacc xA, .qdot .s xA, .qdot .n xA, .bplane .p4 xA, .bplane .p8 xA],
        Performs f3 (grp f3) (run f3) (thr f3) i .always :=
  ⟨by unfold Thread.reads3 Thread.reads2; decide +kernel, by decide +kernel, all_perform (by decide +kernel)⟩
theorem witness_StrandReductions : (grp s4).lanes = false ∧ (run s4).pos = 0 ∧ (thr s4).reads (grp s4) (run s4) .int (g' 4) = .u 3
    ∧ ∀ x ∈ [xA, { xA with a := g' 4 }], ∀ i ∈ [Instr.red .iadd64 x, .red .imin x, .red .and x, .scan .iadd64 x, .shfl .xor x, .vote .count x, .vote .any x, .elect x],
        Performs s4 (grp s4) (run s4) (thr s4) i .always := by
  refine ⟨by decide +kernel, by decide +kernel, by decide +kernel, ?_⟩
  intro x hx
  simp only [List.mem_cons, List.not_mem_nil, or_false] at hx
  rcases hx with rfl | rfl <;> exact all_perform (by decide +kernel)
/-- What `Convenes` asks, as a test. -/
def convened (s : State) (i : Instr) : Bool :=
  decide (s.cur = some (grp s).id) && decide (s.group (grp s).id = grp s) && decide ((grp s).run = some (run s)) && (grp s).lanes
    && decide ((run s).pos = 0 ∧ (run s).from' = 0) && i.regsOk (s.launchOf (grp s).pen).regs
    && decide ((run s).sel = ((grp s).threads.filter (fun t => (run s).sel.contains t.lane)).map Thread.lane)
    && decide ((run s).sel.Pairwise (· < ·)) && (run s).sel.all (fun l => decide (l < 64)) && decide (((grp s).threads.map Thread.lane).Nodup)
theorem all_convene {s : State} {l : List Instr} (h : (l.all fun i => convened s i) = true) : ∀ i ∈ l, Convenes s (grp s) (run s) i := by
  intro i hi
  have h1 := List.all_eq_true.mp h i hi
  unfold convened at h1
  simp only [Bool.and_eq_true, decide_eq_true_eq, List.all_eq_true] at h1
  obtain ⟨⟨⟨⟨⟨⟨⟨⟨⟨a, b⟩, c⟩, d⟩, e⟩, f⟩, g⟩, h⟩, j⟩, k⟩ := h1
  exact ⟨a, b, c, d, e, f, g, h, j, k⟩
/-- Lanes 0, 1 and 63: the boundary of the prefix that is RED. -/
def l63 : State :=
  let s := laneGroup 1 (fun _ => [])
  { s with groups := s.groups.map (fun g => { g with
      run := g.run.map (fun r => { r with sel := [0, 1, 63] })
      threads := [0, 1, 63].map (fun j => { fetchThread 1 with lo := j, lane := j, regs := { fill := 1, cells := [(2, .u (BitVec.ofNat 64 (10 * j))), (3, .u 1)] } }) }) }
theorem witness_LaneReductions : (run l63).sel ≠ []
    ∧ ∀ i ∈ [Instr.red .iadd64 xA, .red .fadd32 xA, .scan .iadd64 xA, .scan .fadd32 xA, .shfl .idx xA, .shfl .up xA, .vote .all xA, .elect xA],
        Convenes l63 (grp l63) (run l63) i := ⟨by decide +kernel, all_convene (by decide +kernel)⟩
theorem witness_LayDownFirst_of_reductions : (run s4).pos = 0
    ∧ ∀ i ∈ [Instr.red .fadd64 xA, .red .fmax32 xA, .scan .fadd32 xA, .red .imin xA, .scan .iadd64 xA], Performs s4 (grp s4) (run s4) (thr s4) i .always :=
  ⟨by decide +kernel, all_perform (by decide +kernel)⟩

/-! Block 6 -/

/-- What `Elects` asks of a strand, as a test; and `Issuable`. -/
def elects (s : State) (i : Instr) : Bool :=
  decide (s.cur = some (grp s).id) && decide (s.group (grp s).id = grp s) && decide ((grp s).run = some (run s))
    && i.regsOk (s.launchOf (grp s).pen).regs && !(grp s).lanes && decide ((grp s).threads = [thr s])
theorem all_elect {s : State} {l : List Instr} (h : (l.all fun i => elects s i) = true) : ∀ i ∈ l, Elects s (grp s) (run s) i (thr s) [thr s] := by
  intro i hi
  have h1 := List.all_eq_true.mp h i hi
  unfold elects at h1
  simp only [Bool.and_eq_true, decide_eq_true_eq, Bool.not_eq_true'] at h1
  obtain ⟨⟨⟨⟨⟨a, b⟩, c⟩, d⟩, e⟩, f⟩ := h1
  refine ⟨a, b, c, d, ?_, rfl⟩
  rw [e, f]; rfl
def issuable (s : State) (rs : List OpRange) : Bool :=
  decide (s.engCheck (grp s).pen (s.ctxOf (grp s).pen) rs = .ok ())
    && decide ((s.ops.filter (fun o => o.pen == some (grp s).pen && o.kind.isMatrix)).length < 16) && s.rangeRoom rs
theorem all_issuable {s : State} {l : List (List OpRange)} (h : (l.all fun rs => issuable s rs) = true) : ∀ rs ∈ l, Issuable s (grp s) rs := by
  intro rs hrs
  have h1 := List.all_eq_true.mp h rs hrs
  unfold issuable at h1
  simp only [Bool.and_eq_true, decide_eq_true_eq] at h1
  exact ⟨h1.1.1, h1.1.2, h1.2⟩
/-- A strand whose context has its private region elsewhere. -/
def away (s : State) : State := { s with ctxs := [{ fetchCtx with privBase := 0x100000000000 }] }
/-- g2 = a scratch address word, offset 128; g4 = a global one, 0x40000. g8 and g9: a descriptor, K 1, A at 0, B at 4096. g5 = a gang
mask, members 0 and 1 of a team of two. -/
def e3 : State :=
  { away (strand [(2, .u 0x8000000000000080), (4, .u 0x40000), (5, .u 3), (8, .u 0x200000000), (9, .u 0)]) with
    launches := [{ fetchLaunch with c := 2 }] }
def xE8 : FmtE := { xE with d := g' 8 }
theorem witness_TileOperations : (0 : BitVec 5).toNat < (e3.pen (grp e3).pen).accn
    ∧ (thr e3).reads (grp e3) (run e3) .int (g' 2) = .u 0x8000000000000080 ∧ (0x8000000000000080 : W64).toNat = 2 ^ 63 + (128 : W64).toNat ∧ (128 : W64).toNat % 128 = 0
    ∧ (thr e3).reads (grp e3) (run e3) .int (g' 4) = .u 0x40000 ∧ (0x40000 : W64).toNat % 128 = 0 ∧ (0x40000 : W64).getLsbD 63 = false
    ∧ (∀ i ∈ [Instr.accz xE, .accld xE, .accst xE, .drain .bf16 xE, .accld { xE with d := g' 4 }], Elects e3 (grp e3) (run e3) i (thr e3) [thr e3])
    ∧ ∀ rs ∈ [[], [⟨true, 128, 16384, false⟩], [⟨true, 128, 16384, true⟩], [⟨true, 128, 4096 * DrainV.size .bf16, true⟩], [⟨false, 0x40000, 16384, false⟩]],
        Issuable e3 (grp e3) rs := by
  and_intros <;> first | decide +kernel | exact all_issuable (by decide +kernel) | exact all_elect (by decide +kernel)
theorem witness_MmaIssue : ∃ d, mdesc (((thr e3).reads (grp e3) (run e3) .int xE8.d).val 0) (((thr e3).regs.get (Opd.key xE8.d + 1)).val 0) false false false = some d
    ∧ mdesc (((thr e3).reads (grp e3) (run e3) .int xE8.d).val 0) (((thr e3).regs.get (Opd.key xE8.d + 1)).val 0) false false true = some d
    ∧ d.k ≤ 32 * (4 - xE8.bsel.toNat) ∧ (∀ a ∈ [d.aoff, d.boff, d.abmp, d.bbmp], a % 8 = 0) ∧ mmaspPath .plane xE8 d.fmt = some (.plane 1 1 false false)
    ∧ (∀ i ∈ [Instr.mmap .ss xE8, .mmaf .e4m3 xE8, .mmal xE8, .mmasp .plane xE8], Elects e3 (grp e3) (run e3) i (thr e3) [thr e3])
    ∧ ∀ rs ∈ [mmaRanges d (.plane 1 1 true true) xE8, mmaRanges d (.float .e4m3) xE8, mmaRanges d .lns xE8, mmaRanges d (.plane 1 1 false false) xE8], Issuable e3 (grp e3) rs :=
  ⟨⟨0, 0, 0, 1, 4096, 0⟩, by and_intros <;> first | decide +kernel | exact all_elect (by decide +kernel) | exact all_issuable (by decide +kernel)⟩
/-- An operation on tile 0 of the pen. -/
def op5 : EngOp := { EngOp.blank with id := 5, kind := .accld true 128, pen := some 1, tile := some 0, launch := fetchPen.launch }
def e4 : State := { e3 with ops := [op5] }
theorem witness_TileWaitsAndControl : (∀ s ∈ [e3, e4], ∀ i ∈ [Instr.mwait xE, .mprog xE, .mcancel xE, .gangset { xE with a := g' 5 }], Elects s (grp s) (run s) i (thr s) [thr s])
    ∧ (0 : BitVec 5).toNat < (e4.pen (grp e4).pen).accn ∧ (run e4).pos + 1 = (run e4).words.length
    ∧ e4.ops.filter (fun o => o.pen == some (grp e4).pen && o.tile == some xE.acc.toNat) ≠ [] ∧ e3.ops = []
    ∧ ((thr e3).reads (grp e3) (run e3) .int (g' 5)).val 0 = 3 ∧ (e3.pen (grp e3).pen).hitch = []
    ∧ e3.gangOk (e3.pen (grp e3).pen) (bits (3 : W64) 5 0) = true
    ∧ (∀ y ∈ e4.pens, ∀ h ∈ y.hitch, ∀ o ∈ e4.ops, h.op ≠ some o.id) := by
  refine ⟨?_, ?_⟩
  · intro s hs
    simp only [List.mem_cons, List.not_mem_nil, or_false] at hs
    rcases hs with rfl | rfl <;> exact all_elect (by decide +kernel)
  · decide +kernel
/-- The pen's mask names it; it waits, and its event has timed out. -/
def hw : HitchWait := ⟨1, [0], none, 0x1008, 0x1000, 0⟩
def e5 : State := { e3 with pens := [{ testPen with gangMask := 3, hitch := [hw] }], now := 1000000 }
theorem witness_Hitches : (∀ i ∈ [Instr.hitch xE], Elects e5 (grp e5) (run e5) i (thr e5) [thr e5]) ∧ (run e5).pos + 1 = (run e5).words.length
    ∧ (e5.pen (grp e5).pen).gangMask ≠ 0 ∧ (e5.pen 1).hitch = hw :: (e5.pen 1).hitch.tail ∧ hw ∉ (e5.pen 1).hitch.tail ∧ 1 ∈ e5.pens.map Pen.id
    ∧ (e5.pen 1).saved = false ∧ (e5.pen 1).hitch.find? (fun y => decide (y.since + 1000000 ≤ e5.clk)) = some hw := by
  and_intros <;> first | decide +kernel | exact all_elect (by decide +kernel)
/-- One plane each, K 1, every scale 1. -/
def mma1 : Mma :=
  { path := .plane 1 1 true true, k := 1, aoff := 0, boff := 0, abmp := 0, bbmp := 0, spa := false, spb := false, compressed := false, zc := false, bsel := 0
    scaleA := List.replicate 64 0x007F007F007F007F, scaleB := List.replicate 64 0x007F007F007F007F, sig := [], steps := 0, slicesA := [5], slicesB := [3], bitsA := [], bitsB := [], badA := [], badB := [], badMap := [] }
/-- The team of a launch of two cores: both pens wait under MASK 3, each at a HITCH, or each with an MMA operation on tile 0. -/
def gang (op : Nat → Option Nat) : State :=
  let pen := fun (k : Nat) => { testPen with id := 1 + k, vcore := k, gangMask := 3, hitch := [{ hw with gid := 1 + k, op := op k }] }
  { e3 with launches := e3.launches.map (fun l => { l with c := 2 }), pens := [pen 0, pen 1]
            ops := [0, 1].map (fun k => { op5 with id := 5 + k, kind := .mma mma1, pen := some (1 + k), atHitch := true }) }
theorem witness_Hitches_pass : ∀ s ∈ [gang (fun _ => none), gang (fun k => some (5 + k))], (s.pens.map Pen.id).Nodup
    ∧ s.pen 1 ∈ s.team (s.pen 1) ∧ (s.pen 1).hitch ≠ [] ∧ (s.pen 1).saved = false ∧ (hitchers s 1 (s.pen 1)).length = (gangBits (s.pen 1).gangMask).length
    ∧ (∀ q ∈ s.pens, q ∈ hitchers s 1 (s.pen 1)) ∧ (∀ q ∈ hitchers s 1 (s.pen 1), q.gangMask = (s.pen 1).gangMask ∧ (∀ h ∈ q.hitch.head?, h ∉ q.hitch.tail)
      ∧ (s.hitchOp q).isSome = (s.hitchOp (s.pen 1)).isSome ∧ (∀ o ∈ s.ops, o.spa = false ∧ o.sig = [])) := by decide +kernel
/-- Three members have arrived, the first under MASK 3 and the others under MASK 7. -/
def gang3 : State :=
  let pen := fun (k : Nat) => { testPen with id := 1 + k, vcore := k, gangMask := if k = 0 then 3 else 7, hitch := [{ hw with gid := 1 + k }] }
  { e3 with launches := e3.launches.map (fun l => { l with c := 3 }), pens := [pen 0, pen 1, pen 2] }
theorem witness_Hitches_fail : (gang3.pens.map Pen.id).Nodup ∧ gang3.pen 2 ∈ gang3.team (gang3.pen 2) ∧ (gang3.pen 2).hitch ≠ [] ∧ (gang3.pen 2).saved = false
    ∧ (hitchers gang3 2 (gang3.pen 2)).length = (gangBits (gang3.pen 2).gangMask).length ∧ (∀ q ∈ gang3.pens, q ∈ hitchers gang3 2 (gang3.pen 2))
    ∧ ∃ q ∈ hitchers gang3 2 (gang3.pen 2), q.gangMask ≠ (gang3.pen 2).gangMask := by decide +kernel
/-- None of them is left waiting. -/
theorem test_hitch_all_fail : (gang3.tryHitch 1).pens.map (fun p => (p.hitch.length, p.gangSeq)) = [(0, 0), (0, 0), (0, 0)]
    ∧ ((gang3.tryHitch 1).parked.map (fun p => p.record.toNat % 256)).dedup = [cILLFMT] := by decide +kernel
/-- MCANCEL in the first pen reaches the operation that the other brought to the hitch. -/
theorem witness_TileWaitsAndControl_mates : ∃ m ∈ (gang (fun k => some (5 + k))).ops.filter (fun o => o.pen == some 1 && o.tile == some 0),
    ∃ o ∈ (gang (fun k => some (5 + k))).ops, o.pen = some 2 ∧ (gang (fun k => some (5 + k))).hitchMate m o = true := by decide +kernel
theorem witness_Hitches_wait : ∀ p, ¬ Gathered e5 1 p := by
  rintro p ⟨hp, -, -, h⟩
  have hp' : p ∈ e5.pens := by unfold State.team at hp; exact List.mem_of_mem_filter hp
  obtain rfl : p = e5.pen 1 := List.mem_singleton.mp hp'
  revert h; decide +kernel
/-- The record in the scratch at 0 is all zeros; RCHECK and RGATH name four planes; g4 = 0. -/
def e6 : State := away (strand [(2, .u 0), (4, .u 0)])
def xE3 : FmtE := { xE with pa := 3 }
def prb0 (p : Nat) : Prb := ⟨0, p, 0, (e6.pen (grp e6).pen).rtau⟩
theorem witness_PredictedRows : e6.access (grp e6).pen (thr e6).lo (thr e6).hwm .scratch (((thr e6).reads (grp e6) (run e6) .int xE3.d).val 0) 64 accRead = .ok (.scr 1 0)
    ∧ BitVec.ofNat 512 (e6.readLoc (.scr 1 0) 64) = 0 ∧ prbReserved 0 = false ∧ ((thr e6).reads (grp e6) (run e6) .int xE3.a).val 0 = 0
    ∧ (∀ i ∈ [Instr.rpred xE3, .rcheck xE3, .rgath xE3], Elects e6 (grp e6) (run e6) i (thr e6) [thr e6])
    ∧ (prb0 4).xoff % 8 = 0 ∧ (prb0 4).uoff % 8 = 0 ∧ (prb0 4).soff % 128 = 0 ∧ (prb0 4).vaddr % 128 = 0 ∧ (prb0 4).waddr % 128 = 0 ∧ (prb0 4).doff % 8 = 0
    ∧ (prb0 4).k0 + (prb0 4).k ≤ (prb0 4).kw
    ∧ ∀ rs ∈ [[⟨true, (prb0 4).xoff, 4 * (prb0 4).kw, false⟩, ⟨true, (prb0 4).uoff, 32 * (prb0 4).rk, false⟩, ⟨false, (prb0 4).vaddr, 4 * (prb0 4).rk * ((prb0 4).kw / 8), false⟩],
        [⟨true, (prb0 4).xoff, 4 * (prb0 4).kw, false⟩, ⟨true, (prb0 4).soff, 128, false⟩,
          ⟨false, (prb0 4).waddr + (4 - 1) * 64 * ((prb0 4).kw / 8), 64 * ((prb0 4).kw / 8), false⟩,
          ⟨false, (prb0 4).waddr + (4 - 2) * 64 * ((prb0 4).kw / 8), 64 * ((prb0 4).kw / 8), false⟩],
        [⟨true, (prb0 4).doff, 8 * 4 * (prb0 4).k, true⟩, ⟨false, (prb0 4).waddr, 64 * 4 * ((prb0 4).kw / 8), false⟩]], Issuable e6 (grp e6) rs := by
  and_intros <;> first | decide +kernel | exact all_issuable (by decide +kernel) | exact all_elect (by decide +kernel)
/-- ACCLD, not started; started; ACCST, started. A group that waits for room. -/
def e7 (o : EngOp) : State := { e3 with ops := [o] }
def stalled (k : Stall) : State := { e3 with groups := e3.groups.map (fun g => { g with stall := some k }) }
theorem witness_EngineOperations : (∀ o ∈ [op5, { op5 with kind := .accst true 128 }, { op5 with kind := .drain .bf16 true 128 }], (e7 o).ops.find? (·.id == o.id) = some o ∧ o.joint = none ∧ (e7 o).canStart o = true
      ∧ o.pen = some 1 ∧ o.tile = some 0)
    ∧ (∀ o ∈ [{ op5 with started := true }, { op5 with started := true, kind := .accst true 128 }, { op5 with started := true, kind := .drain .bf16 true 128 }], (e7 o).ops.find? (·.id == o.id) = some o ∧ o.joint = none
      ∧ o.started = true ∧ o.cancelled = false ∧ (e7 o).engResident o = true ∧ o.bad = none ∧ o.overlap = false ∧ o.pen = some 1 ∧ o.tile = some 0
      ∧ 1 ∈ (e7 o).pens.map Pen.id ∧ ((e7 o).pen 1).bad = [] ∧ (e7 o).memForm = true
      ∧ ∃ q ∈ (e7 o).groups, q.pen ∈ (e7 o).pens.map Pen.id ∧ ((e7 o).pen q.pen).launch = o.launch ∧ ∃ y ∈ q.threads, y.status ≠ .exited)
    ∧ (let z : EngOp := { op5 with id := 6, kind := .accz }
       ∀ q ∈ [op5, { op5 with kind := .accst true 128 }], let s : State := { e3 with ops := [q, z] }
        s.ops.find? (·.id == z.id) = some z ∧ z.joint = none ∧ z.tile ≠ none ∧ q ∈ s.before z ∧ q.pen = z.pen ∧ q.tile = z.tile)
    ∧ ((stalled .queue).group 1).stall = some .queue ∧ (stalled .queue).queueRoom 1 = true ∧ ((stalled .range).group 1).stall = some .range
    ∧ (stalled .range).rangesInUse < 16384 := by decide +kernel
/-- ACCZ waits for an earlier ACCST of its tile (R311), and not for one of another tile. -/
theorem test_accz_waits : ∀ t ∈ [0, 1], let z : EngOp := { op5 with id := 6, kind := .accz }
    ({ e3 with ops := [{ op5 with kind := .accst true 128, tile := some t }, z] } : State).canStart z = decide (t = 1) := by decide +kernel
/-- The sums of each path, over one k; a pair with E = 0xFF. -/
theorem witness_MatrixSums : scaleExp (mma1.scaleA.getD 0 0) 0 = 127 ∧ scaleExp (mma1.scaleB.getD 0 0) 0 = 127
    ∧ scaleExp (({ mma1 with scaleA := List.replicate 64 0x00FF } : Mma).scaleA.getD 0 0) 0 = 255
    ∧ (∀ p ∈ [Path.plane 1 1 true false, .float .bf16, .lns], ({ mma1 with path := p, zc := true } : Mma).path = p) ∧ 1 ≤ 8 ∧ (63 : Nat) < 64 := by decide +kernel
/-- An MMA operation of one k, and one of 64 k of which the second block has none present, has started. -/
def opM (m : Mma) : EngOp := { op5 with kind := .mma m, started := true }
def mmaIdle : Mma := { mma1 with k := 64, bitsA := (List.range 64).map (fun k => if k < 32 then 1 else 0), slicesA := List.replicate 64 1, slicesB := List.replicate 64 1 }
theorem witness_UnitsFold : ∀ m ∈ [mma1, mmaIdle], let s := e7 (opM m)
    s.ops.find? (·.id == (opM m).id) = some (opM m) ∧ (opM m).joint = none ∧ (opM m).cancelled = false ∧ s.engResident (opM m) = true ∧ (opM m).bad = none ∧ m.badMap = []
    ∧ m.badA ++ m.badB = [] ∧ (opM m).pen = some 1 ∧ (opM m).tile = some 0 ∧ 1 ∈ s.pens.map Pen.id ∧ m.steps ≤ m.stepSet.length
    ∧ (∃ q ∈ s.groups, q.pen ∈ s.pens.map Pen.id ∧ (s.pen q.pen).launch = (opM m).launch ∧ ∃ y ∈ q.threads, y.status ≠ .exited) := by decide +kernel
/-- MPROG of an operation whose bitmaps are unread; of one before a step; of one after its last. -/
theorem witness_TileWaitsAndControl_progress : (∀ m ∈ [mma1, { mma1 with spa := true }, { mma1 with steps := 1 }], ((e7 (opM m)).ops.filter (fun o => o.pen == some 1 && o.tile == some 0)).head? = some (opM m))
    ∧ ({ mma1 with spa := true } : Mma).unread = true ∧ mma1.unread = false ∧ mma1.stepSet[mma1.steps]? = some 0 ∧ mma1.stepSet.length ≤ 1
    ∧ (∀ m, op5.kind ≠ .mma m) ∧ (e3.pen 1).last = [] := by
  and_intros <;> first | decide +kernel | exact fun m => by simp [op5]
/-- The predicted-row operations of a record of zeros, with four planes, before their start and after it; their thread owes g4. -/
def opP (k : OpKind) (started : Bool) (bad : Option Nat := none) : EngOp := { op5 with kind := k, tile := none, dest := some 4, started := started, bad := bad }
def pendP : Pend := ⟨5, 3, [(4, .u 0)], 0, true, none, 0x1008, none⟩
def e8 (o : EngOp) : State := alter (e7 o) (fun t => { t with pend := [pendP], flags := 8 })
theorem witness_PredictedResults : ∀ k ∈ [OpKind.rpred (prb0 4), .rcheck (prb0 4), .rgath (prb0 4)],
    (opP k false).kind = k ∧ ((e7 (opP k false)).load (opP k false)).bad = none ∧ 2 ≤ (prb0 4).p ∧ 0 < (prb0 4).k := by decide +kernel
theorem witness_PredictedRowsComplete : ∀ k ∈ [OpKind.rpred (prb0 4), .rcheck (prb0 4), .rgath (prb0 4)], ∀ b ∈ [none, some 0x1000],
    let o := opP k true b
    let s := e8 o
    s.ops.find? (·.id == o.id) = some o ∧ o.joint = none ∧ o.cancelled = false ∧ s.engResident o = true ∧ o.pen = some 1 ∧ o.tile = none ∧ 1 ∈ s.pens.map Pen.id ∧ (s.pen 1).bad = []
    ∧ s.memForm = true ∧ o.dest = some 4 ∧ s.group 1 ∈ s.groups ∧ (s.group (s.group 1).id) = s.group 1 ∧ thr s ∈ (s.group 1).threads ∧ ((s.group 1).threads.map Thread.lane).Nodup
    ∧ (thr s).pend = [pendP] ∧ pendP.op = o.id ∧ pendP.mixed = none ∧ (thr s).regs.late = [] ∧ (thr s).status = .ready
    ∧ (∃ q ∈ s.groups, q.pen ∈ s.pens.map Pen.id ∧ (s.pen q.pen).launch = o.launch ∧ ∃ y ∈ q.threads, y.status ≠ .exited) := by decide +kernel

/-! Block 7 -/

/-- n bytes stored at a physical address. -/
def put (pa n v : Nat) (s : State) : State := { s with mem := Memory.store s.mem pa n v }
/-- A queue of 64 slots at 0x40000, in mode Q, with these indices. -/
def qAt (write read : Nat) (s : State) : State := put 0x40000 64 (6 * 2 ^ 128 + read * 2 ^ 64 + write) s
/-- g2 = the queue, g8 to g15 = a packet of zeros. -/
def qu (write read : Nat) : State := qAt write read (strand ([(2, .u 0x40000)] ++ (List.range 8).map (fun k => (8 + k, .u 0))))
def xPush : FmtQ := { xQ with b := g' 8 }
def xPop : FmtQ := { xQ with d := g' 16, b := g' 0 }
/-- A QPOP of the thread waits on the queue. -/
def pendQ : Pend := ⟨70, 3, packetWrites (g' 16) 0, 0, false, some 0x40000, 0x1008, none⟩
def quPop : State := alter (qu 1 0) (fun t => { t with pend := [pendQ], flags := 8 })
def quWait : State := alter (qu 1 0) (fun t => { t with status := .push 0x40000 0 (g' 1) })
theorem witness_Queues : (∀ p ∈ [(0, 0), (1, 0), (64, 0)], (thr (qu p.1 p.2)).reads (grp (qu p.1 p.2)) (run (qu p.1 p.2)) .int xPush.a = .u 0x40000
      ∧ isOk ((qu p.1 p.2).queue ((qu p.1 p.2).ctxOf (grp (qu p.1 p.2)).pen) 0x40000 true accRmw) = true
      ∧ isOk ((qu p.1 p.2).queue ((qu p.1 p.2).ctxOf (grp (qu p.1 p.2)).pen) 0x40000 false accRmw) = true
      ∧ ([Instr.qpush xPush, .qpush { xPush with wm := 1 }, .qpop xPop, .qpop { xPop with wm := 1 }].all fun i => ready (qu p.1 p.2) i .always) = true
      ∧ (run (qu p.1 p.2)).pos = 0)
    ∧ holdsPacket (grp (qu 0 0)) (run (qu 0 0)) (thr (qu 0 0)) xPush.b 0
    ∧ (quWait.group 1).thread 0 = some (thr quWait) ∧ (quWait.group 1).resident quWait = true ∧ (thr quWait).status = .push 0x40000 0 (g' 1)
    ∧ quWait.listed ⟨1, 0, 0⟩ = false ∧ (quPop.group 1).thread 0 = some (thr quPop) ∧ (quPop.group 1).resident quPop = true ∧ quPop.listed ⟨1, 0, pendQ.op⟩ = false
    ∧ (thr quPop).status = .ready ∧ (thr quPop).pend.filter (·.queue.isSome) = pendQ :: [] ∧ pendQ.queue = some 0x40000 := by
  unfold holdsPacket; and_intros <;> decide +kernel
theorem witness_queue_outcomes : ∃ q, (qu 1 0).queue 1 0x40000 true accRmw = .ok q ∧ q.h.modeH = false ∧ q.h.write ≠ q.h.read
    ∧ (∀ a ∈ [0, 1], (({ qu 1 0 with actor := a } : State).pushTo q 0).isSome = true ∧ (({ qu 1 0 with actor := a } : State).popFrom 1 0x40000 q).isSome = true)
    ∧ (∃ k, (qu 64 0).queue 1 0x40000 true accRmw = .ok k ∧ (k.h.write - k.h.read).toNat = 2 ^ k.h.lsize ∧ (qu 64 0).pushTo k 0 = none)
    ∧ ∃ k, (qu 0 0).queue 1 0x40000 false accRmw = .ok k ∧ k.h.write = k.h.read := by
  refine ⟨⟨.phys 0x40000, ⟨0, 0, false, 6, 0, 1⟩, .phys 0x40080, .phys 0x40000⟩, ?_⟩
  and_intros
  · decide +kernel
  · decide +kernel
  · decide +kernel
  · decide +kernel
  · exact ⟨⟨.phys 0x40000, ⟨0, 0, false, 6, 0, 64⟩, .phys 0x40040, .phys 0x40000⟩, by decide +kernel⟩
  · exact ⟨⟨.phys 0x40000, ⟨0, 0, false, 6, 0, 0⟩, .phys 0x40000, .phys 0x40040⟩, by decide +kernel⟩
/-- A copy of 64 bytes from scratch 0 to scratch 1024, its packet in the scratch at 256: g2 = 256. -/
def copyPkt (kind len : Nat) : Nat := 2 + kind * 2 ^ 14 + 2 ^ 16 + 2 ^ 18 + 1024 * 2 ^ 192 + len * 2 ^ 256
def cp (kind len : Nat) : State :=
  { away (strand [(2, .u 256)]) with pens := [{ testPen with scratch := Memory.store [] 256 64 (copyPkt kind len) }] }
def copy0 (kind len : Nat) : Copy :=
  { kind := kind, srcScr := true, dstScr := true, src := 0, dst := 1024, sstr := 0, dstr := 0, rows := 0, len := len, lesz := 0, idx := [], ring := none, dep := 0 }
theorem witness_CopyIssue : ∀ p ∈ [(0, 64, Instr.copyD1 xQ), (1, 64, Instr.copyD2 xQ), (2, 0, Instr.copyGather xQ)],
    let s := cp p.1 p.2.1
    (thr s).reads (grp s) (run s) .int xQ.a = .u 256 ∧ s.access (grp s).pen (thr s).lo (thr s).hwm .scratch 256 64 accRead = .ok (.scr 1 256)
    ∧ copyOf s (some (grp s).pen) p.1 (BitVec.ofNat 512 (s.readLoc (.scr 1 256) 64)) = some (copy0 p.1 p.2.1)
    ∧ gatherIdx s (grp s).pen (thr s).lo (thr s).hwm (copy0 p.1 p.2.1) accRead = .ok []
    ∧ s.engCheck (grp s).pen (s.ctxOf (grp s).pen) (copy0 p.1 p.2.1).ranges = .ok () ∧ s.rangeRoom (copy0 p.1 p.2.1).ranges = true
    ∧ Performs s (grp s) (run s) (thr s) p.2.2 .always := by
  intro p hp
  simp only [List.mem_cons, List.not_mem_nil, or_false] at hp
  rcases hp with rfl | rfl | rfl <;>
    (and_intros <;> first | decide +kernel | exact ready_performs (by decide +kernel))
def opC (started : Bool) : EngOp := { EngOp.blank with id := 5, kind := .copy (copy0 0 64), pen := some 1, launch := fetchPen.launch, started := started }
/-- Copies of each shape: 64 bytes; two rows of 16 bytes; two elements of 8 bytes, of a scratch and of a global array; into scratch, and
into global memory. -/
def copies : List Copy :=
  [copy0 0 64, { copy0 1 16 with rows := 2, sstr := 32, dstr := 16 }, { copy0 2 0 with rows := 2, lesz := 3, idx := [4, 0] },
   { copy0 0 64 with dstScr := false, dst := 0x40000 }, { copy0 2 0 with rows := 2, lesz := 3, idx := [4, 0], srcScr := false, src := 0x40000 }]
def opK (started : Bool) (c : Copy) : EngOp := { opC started with kind := .copy c, pages := [(4, 0x40000)] }
theorem witness_CopyMovesBytes : ∀ c ∈ copies, c.kind < 3 ∧ c.ring = none ∧ 0 < copyBytes c ∧ c.dep = 0
    ∧ (∀ b ∈ [false, true], (e7 (opK b c)).ops.find? (·.id == (opK b c).id) = some (opK b c) ∧ (opK b c).joint = none ∧ (e7 (opK b c)).memForm = true)
    ∧ (e7 (opK false c)).canStart (opK false c) = true ∧ ((e7 (opK false c)).load (opK false c)).bad = none
    ∧ (opK true c).started = true ∧ (opK true c).cancelled = false ∧ (opK true c).bad = none ∧ (opK true c).tile = none ∧ (opK true c).pen.getD 0 ∈ (e7 (opK true c)).pens.map Pen.id
    ∧ (∀ y < copyBytes c, let at' := fun (k : Nat) => (opK true c).loc c.dstScr (copyDst c k)
        (e7 (opK true c)).gone (at' y) = false ∧ (e7 (opK true c)).poisoned (at' y) = false ∧ ∀ z < copyBytes c, at' y = at' z → y = z)
    ∧ ∃ q ∈ (e7 (opK true c)).groups, q.pen ∈ (e7 (opK true c)).pens.map Pen.id
      ∧ ((e7 (opK true c)).pen q.pen).launch = (opK true c).launch ∧ ∃ t ∈ q.threads, t.status ≠ .exited := by decide +kernel
/-- g2 = the entry 0x1000; g3 = the range [5, 5 + 3), or g0's value; g1 = 7: the value of g0, or the index. -/
def sp3 : State := strand [(1, .u 7), (2, .u 0x1000), (3, .u 0x200000005)]
theorem witness_SpawnOverRange : (thr sp3).reads (grp sp3) (run sp3) .int xQ.a = .u 0x1000 ∧ (thr sp3).reads (grp sp3) (run sp3) .int xQ.b = .u 0x200000005
    ∧ (thr sp3).reads (grp sp3) (run sp3) .int xQ.d = .u 7 ∧ Performs sp3 (grp sp3) (run sp3) (thr sp3) (.spawnRange xQ) .always
    ∧ (0x200000005 : W64).toNat % 2 ^ 32 + ((0x200000005 : W64).toNat / 2 ^ 32 + 1) ≤ 2 ^ 32 ∧ sp3.checkTarget (sp3.ctxOf (grp sp3).pen) 0x1000 = .ok ()
    ∧ ∃ p ∈ sp3.pens, p.id = (grp sp3).pen ∧ p.launch = (sp3.task (thr sp3).task).launch := by
  and_intros <;> first | decide +kernel | exact ready_performs (by decide +kernel)
/-- A bin of the entry holds n spawns. -/
def binOf (n : Nat) : Bin := ⟨1, 0x1000, 1, 0, (List.range n).map (fun k => ⟨k, 0, 1⟩)⟩
def spBin (n : Nat) : State := { sp3 with dies := sp3.dies.set 0 { Die.reset with bins := [binOf n] }, now := 2000 }
theorem witness_SpawnBins : (∀ s ∈ [sp3, spBin 1, spBin 63], (thr s).reads (grp s) (run s) .int xQ.a = .u 0x1000 ∧ (thr s).reads (grp s) (run s) .int xQ.b = .u 0x200000005
      ∧ (thr s).reads (grp s) (run s) .int xQ.d = .u 7 ∧ ready s (.spawnSingle xQ) .always = true ∧ s.checkTarget (s.ctxOf (grp s).pen) 0x1000 = .ok ())
    ∧ binFind (sp3.die 0) 1 0x1000 = none ∧ (sp3.die 0).bins.length < 128 ∧ sp3.penDie (grp sp3).pen = 0 ∧ sp3.ctxOf (grp sp3).pen = 1
    ∧ (∀ n ∈ [1, 63, 64], binFind ((spBin n).die 0) 1 0x1000 = some (binOf n) ∧ ((spBin n).ctx 1).stopped = false) ∧ (binOf 1).first + 100 * ((spBin 1).ctx 1).bintm.toNat ≤ (spBin 1).clk
    ∧ (∃ p ∈ sp3.pens, p.launch = (binOf 1).launch)
    ∧ ((stalled .bin).group 1).stall = some .bin ∧ ((stalled .bin).die ((stalled .bin).penDie ((stalled .bin).group 1).pen)).bins.length < 128
    ∧ ∀ y ∈ ((stalled .bin).die ((stalled .bin).penDie ((stalled .bin).group 1).pen)).bins, 64 ≤ y.spawns.length → ((stalled .bin).ctx y.ctx).stopped = false := by decide +kernel
/-- g2 = the record, g1 = its counter. -/
def ct : State := strand [(1, .u 0x40800), (2, .u 0x40000)]
/-- A record of a strand at 0x40000, its counter zero. -/
def ct1 : State := { put 0x40000 64 (0x40800 * 2 ^ 448 + 2 ^ 416 + 2 ^ 128 + 0x1000) ct with conts := [⟨1, 0x40000, 1, true, [], []⟩] }
theorem witness_Continuations : (thr ct).reads (grp ct) (run ct) .int xI.a = .u 0x40000 ∧ (thr ct).reads (grp ct) (run ct) .int xI.d = .u 0x40800
    ∧ Performs ct (grp ct) (run ct) (thr ct) (.cont xI) .always ∧ (run ct).pos + 1 = (run ct).words.length ∧ issuers ct (envOf (grp ct) (run ct)) (thr ct) = [thr ct]
    ∧ (thr ct).laneGuard xI.gd = some true ∧ (thr ct).preds = [] ∧ (thr ct).ih = false ∧ ct.killed (grp ct).pen (thr ct) = false
    ∧ (∃ q, contLocs ct (envOf (grp ct) (run ct)) (thr ct) 0x40000 0x40800 (contRecord ct (envOf (grp ct) (run ct)) xI [thr ct] 0x40800).1 = .ok q)
    ∧ (∃ k, ct1.conts.find? (fun y => y.ctx == k.ctx && y.addr == k.addr && y.zero && y.ops.isEmpty) = some k ∧ (ct1.ctx k.ctx).stopped = false
      ∧ ∃ m, ct1.devRead k.ctx k.addr 64 = .ok m ∧ (contHead m).bad m k.ctx = false ∧ ct1.resumeBad k.ctx (contHead m).pc = false
      ∧ (ct1.launches.find? (fun y => y.id % 2 ^ 32 == (contHead m).launch && y.ctx == k.ctx)).isSome = true ∧ isOk (ct1.devRead k.ctx k.addr (contHead m).length) = true)
    ∧ ∃ p ∈ ct1.pens, p.id = 1 ∧ p.launch = 1 := by
  refine ⟨by decide +kernel, by decide +kernel, ready_performs (by decide +kernel), by decide +kernel, by decide +kernel, by decide +kernel, ?_⟩
  refine ⟨by decide +kernel, by decide +kernel, by decide +kernel, ok_of_isOk (by decide +kernel), ⟨⟨1, 0x40000, 1, true, [], []⟩, ?_⟩, by decide +kernel⟩
  exact ⟨by decide +kernel, by decide +kernel, 0x40800 * 2 ^ 448 + 2 ^ 416 + 2 ^ 128 + 0x1000, by and_intros <;> decide +kernel⟩
/-- A strand and its environment; lanes 2 and 5 of a lane group. -/
theorem witness_ContinuationRecord : (envOf (grp ct) (run ct)).strand = true ∧ (thr ct).lo < 2 ^ 32 ∧ 0 < (thr ct).n ∧ (thr ct).n ≤ 2 ^ 32
    ∧ contRegs (xI 0x10003) = [(0, 16), (1, 17)] ∧ (envOf { grp ct with lanes := true } (run ct)).strand = false
    ∧ (let ts := [{ thr ct with lane := 2 }, { thr ct with lane := 5 }]; ts ≠ [] ∧ (ts.map Thread.lane).Nodup ∧ ∀ t ∈ ts, t.lane < 64 ∧ t.lo < 2 ^ 32) := by
  decide +kernel
/-- g2 = a counter of 5 with an action of kind 3; g3, g4, g5 = 3, 5 and 7; g6 = 0; g7 = an action word of kind 1. -/
def dc : State := put 0x40000 16 (5 + 3 * 2 ^ 126)
  (strand [(2, .u 0x40000), (3, .u 3), (4, .u 5), (5, .u 7), (6, .u 0), (7, .u 0x4000000000050000)])
/-- An action is owed: its queue, at 0x41000, and its packet are named at 0x40000. -/
def dcPush : State := { put 0x41000 64 (6 * 2 ^ 128) (put 0x40000 8 0x41000 dc) with depActs := [⟨70, 1, 2, 0x40000⟩] }
theorem witness_DependenceCounters : (thr dc).reads (grp dc) (run dc) .int xQ.a = .u 0x40000
    ∧ (∀ p ∈ [(3, (3 : W64)), (4, 5), (5, 7), (6, 0)], (thr dc).reads (grp dc) (run dc) .int (g' p.1) = .u p.2
      ∧ ([Instr.depset { xQ with d := g' 7, b := g' p.1 }, .depset { xQ with d := g' 6, b := g' p.1 }, .depdec { xQ with b := g' p.1 }, .condw { xQ with b := g' p.1 },
          .condw { xQ 1 with b := g' p.1 }, .condw { xQ 2 with b := g' p.1 }].all fun i => ready dc i .always) = true)
    ∧ (thr dc).reads (grp dc) (run dc) .int (g' 7) = .u 0x4000000000050000 ∧ bits (0x4000000000050000 : W64) 61 56 = 0 ∧ bits (0x4000000000050000 : W64) 63 62 = 1
    ∧ (∀ k ∈ [accWrite, accRmw], dc.access (grp dc).pen (thr dc).lo (thr dc).hwm .global 0x40000 16 k = .ok (.phys 0x40000))
    ∧ dc.access (grp dc).pen (thr dc).lo (thr dc).hwm .global 0x40000 8 accRmw = .ok (.phys 0x40000) ∧ dc.readLoc (.phys 0x40000) 8 = 5
    ∧ dcPush.depActs.find? (·.id == 70) = some ⟨70, 1, 2, 0x40000⟩ ∧ dcPush.globalLoc 1 0x40000 8 accRead.device = .ok (.phys 0x40000)
    ∧ (∀ j < 8, dcPush.globalLoc 1 (0x40000 + BitVec.ofNat 64 (64 + 8 * j)) 8 accRead.device = .ok (.phys (0x40040 + 8 * j))
      ∧ ((0 : BitVec 512).extractLsb' (64 * j) 64).toNat = dcPush.readLoc (.phys (0x40040 + 8 * j)) 8)
    ∧ (0x40000 : W64).toNat % 8 = 0 ∧ (0x40004 : W64).toNat % 8 ≠ 0
    ∧ ({ dcPush with depActs := [⟨70, 1, 2, 0x40004⟩] } : State).depActs.find? (·.id == 70) = some ⟨70, 1, 2, 0x40004⟩ ∧ dcPush.readLoc (.phys 0x40000) 8 = 0x41000
    ∧ ∃ v, dcPush.queue 1 0x41000 true accRmw.device = .ok v ∧ (({ dcPush with depActs := [], actor := 1 } : State).pushTo v 0).isSome = true := by
  and_intros <;> first | decide +kernel | exact ⟨⟨.phys 0x41000, ⟨0, 0, false, 6, 0, 0⟩, .phys 0x41040, .phys 0x41000⟩, by decide +kernel, by decide +kernel⟩
/-- N 5, C 2, two virtual yards, entry 0x1000. -/
def launchPkt : Nat := 1 + 2 * 2 ^ 20 + 2 ^ 24 + 4 * 2 ^ 64 + 0x1000 * 2 ^ 128
/-- A node record at 0x40000 of one kind and number of predecessors; g2 names it. -/
def gr (kind npred : Nat) : State := put 0x40000 128 (kind + npred * 2 ^ 8 + 0x40080 * 2 ^ 64 + 0x40100 * 2 ^ 192) (strand [(2, .u 0x40000), (3, .u 0)])
def run0 (ready reached arrivals : List W64) : GraphRun := ⟨70, 1, 0x40000, 0, 0, ready, [], reached, arrivals, none⟩
def grRun (kind npred : Nat) (q : GraphRun) : State := { gr kind npred with runs := [⟨60, 1, 0x60000, 0, 0, [], [], [0x60000], [], none⟩, q] }
/-- A task node with a packet, whose N is the packet's; and one that takes N from bin 1 of a latch record at 0x40100. -/
def gt (pkt : Nat) (hist : Option Nat) (q : GraphRun) : State :=
  let s := put 0x40040 64 pkt (grRun 0 1 q)
  match hist with
  | none => s
  | some n => put 0x40120 16 (n + 0x77 * 2 ^ 64) (put 0x40000 64 (2 ^ 8 + 2 ^ 16 + 2 ^ 26 + 0x40080 * 2 ^ 64 + 0x40100 * 2 ^ 256) s)
/-- The node of it fires: as the entry, or at its last arrival; it launches, a packet of type 0 fails, and a count of 0 launches nothing. -/
theorem witness_Graphs_task : (∀ q ∈ [run0 [0x40000] [0x40000] [], run0 [] [] [0x40000]],
      ∀ p ∈ [(launchPkt, none, 5, 0, true), (0, none, 1, 0, false), (launchPkt, some 0, 0, 0x77, false), (launchPkt, some 3, 3, 0x77, true)],
      let s := gt p.1 p.2.1 q
      s.runs.find? (·.id == q.id) = some q ∧ (∀ y ∈ s.runs.takeWhile (fun y => y.id != q.id), y.ctx = q.ctx → (0x40000 : W64) ∉ s.graphNodes y)
      ∧ s.globalLoc q.ctx 0x40000 128 accRead.device = .ok (.phys 0x40000) ∧ s.memForm = true
      ∧ (gnode (s.readLoc (.phys 0x40000) 128)).any (fun n => decide (n.kind = 0) && decide (n.npred = 1)
        && (if n.hsel then decide (n.hist.toNat % 128 = 0 ∧ s.globalLoc q.ctx (n.hist + BitVec.ofNat 64 (16 + 16 * n.bin)) 16 accRead.device = .ok (.phys 0x40120)
            ∧ s.readLoc (.phys 0x40120) 8 = p.2.2.1 ∧ s.readLoc (.phys 0x40128) 8 = p.2.2.2.1)
          else decide (cpF n.pkt 95 64 + 1 = p.2.2.1 ∧ cpF n.pkt 255 192 = p.2.2.2.1))
        && decide (n.hsel = p.2.1.isSome) && decide (p.2.2.1 ≠ 0 → s.launchOk q.ctx n.pkt p.2.2.1 = p.2.2.2.2)) = true) := by decide +kernel
theorem witness_Graphs : (thr (gr 0 1)).reads (grp (gr 0 1)) (run (gr 0 1)) .int xQ.a = .u 0x40000 ∧ (thr (gr 0 1)).reads (grp (gr 0 1)) (run (gr 0 1)) .int xQ.b = .u 0
    ∧ Performs (gr 0 1) (grp (gr 0 1)) (run (gr 0 1)) (thr (gr 0 1)) (.graphrun xQ) .always
    ∧ (gr 0 1).access (grp (gr 0 1)).pen (thr (gr 0 1)).lo (thr (gr 0 1)).hwm .global 0x40000 128 accRead = .ok (.phys 0x40000) ∧ (gr 0 1).runs = []
    ∧ (∀ p ∈ [(0, 1), (1, 1), (0, 2)], (gnode ((gr p.1 p.2).readLoc (.phys 0x40000) 128)).isSome = true)
    ∧ (∀ p ∈ [(1, 1, run0 [0x40000] [0x40000] []), (0, 2, run0 [] [] [0x40000]), (0, 2, run0 [] [0x40000] [0x40000])],
        (grRun p.1 p.2.1 p.2.2).runs.find? (·.id == 70) = some p.2.2
        ∧ (∀ y ∈ (grRun p.1 p.2.1 p.2.2).runs.takeWhile (fun y => y.id != 70), y.ctx = 1 → (0x40000 : W64) ∉ (grRun p.1 p.2.1 p.2.2).graphNodes y)
        ∧ (∀ w ∈ (grRun p.1 p.2.1 p.2.2).devWaits, w.acc ≠ .node 70 0x40000)
        ∧ (grRun p.1 p.2.1 p.2.2).globalLoc 1 0x40000 128 accRead.device = .ok (.phys 0x40000))
    ∧ (gnode ((gr 1 1).readLoc (.phys 0x40000) 128)).map GNode.cond = some 0x40100 ∧ (gr 1 1).globalLoc 1 0x40100 8 accRead.device = .ok (.phys 0x40100)
    ∧ (grRun 0 1 (run0 [] [] [])).runs.find? (·.id == 70) = some (run0 [] [] []) := by
  and_intros <;> first | decide +kernel | exact ready_performs (by decide +kernel)
/-- Histogram 0 of the context holds two bins; g2 = 0; g3 = the latch record at 0x40000, or the number of bins in g4. -/
def h0 : Histogram := ⟨1, 0, 2, [(0, 9), (1, 4)]⟩
def hs : State := { put 0x40000 16 (0x50000 + 8 * 2 ^ 64) <| strand [(2, .u 0), (3, .u 0x40000), (4, .u 1024)] with hists := (List.replicate 64 none).set 0 (some h0) }
theorem witness_Histograms : (thr hs).reads (grp hs) (run hs) .int xQ.a = .u 0 ∧ (thr hs).reads (grp hs) (run hs) .int xQ.b = .u 0x40000
    ∧ (thr hs).reads (grp hs) (run hs) .int (g' 4) = .u 1024 ∧ hs.hist (hs.ctxOf (grp hs).pen) 0 = some (0, h0)
    ∧ (∀ i ∈ [Instr.histadd xQ, .histlatchConfigure { xQ with b := g' 4 }, .histlatchLatch xQ], Performs hs (grp hs) (run hs) (thr hs) i .always)
    ∧ (bits (0 : W64) 9 0).toNat < h0.nb ∧ (bits (1024 : W64) 10 0).toNat = 1024
    ∧ (0x40000 : W64).toNat % 128 = 0
    ∧ (∀ p ∈ [(0x40000, accRead), (0x40008, accRead)],
        hs.access (grp hs).pen (thr hs).lo (thr hs).hwm .global (BitVec.ofNat 64 p.1) 8 p.2 = .ok (.phys p.1))
    ∧ (∀ k < 2 * h0.nb, hs.access (grp hs).pen (thr hs).lo (thr hs).hwm .global (0x40000 + 16 + BitVec.ofNat 64 (8 * k)) 8 accWrite
        = .ok (.phys (0x40010 + 8 * k))) := by
  and_intros <;> first | decide +kernel | exact all_perform (by decide +kernel)
/-- Cell 3 is the context's, its key 5. g2 = 3, g3 = 4 (below the key), g4 = 6, g1 = 1; g5 = 256 + 3; g6 = an address, g7 = a declaration. -/
def ts : State := { away (strand [(1, .u 1), (2, .u 3), (3, .u 4), (4, .u 6), (5, .u 0x103), (6, .u 0x40000), (7, .u 64)]) with
  cells := State.reset.cells.set 3 { Cell.reset with key := 5, base := 5, owner := some 1 } }
/-- STAGE of no bytes at an address beyond 2^56 raises XLATE (R364). -/
theorem test_stage_address : let s := away (strand [(6, .u 0x100000000000000), (7, .u 0)])
    (match exec (.stage { xQ with a := g' 6, b := g' 7 }) s with | .next u => u.parked.map (fun p => p.record.toNat % 256) | _ => []) = [cXLATE] := by
  decide +kernel
/-- g5 has V 0 and a[63:9] set. -/
def ts8 : State := strand [(3, .u 4), (5, .u 0xFFFFFFFFFFFFFE03)]
theorem witness_TaskState : (∀ p ∈ [(2, (3 : W64)), (3, 4), (4, 6), (1, 1), (5, 0x103), (6, 0x40000), (7, 64)], (thr ts).reads (grp ts) (run ts) .int (g' p.1) = .u p.2)
    ∧ (ts.cell ((3 : W64).toNat % 256)).owner = some (ts.ctxOf (grp ts).pen) ∧ (ts.cell ((0x103 : W64).toNat % 256)).owner = some (ts.ctxOf (grp ts).pen)
    ∧ (∀ i ∈ [Instr.pflag xQ, .tbsetNextCounter xQ, .incrdKey xQ, .incrdCounters xQ, .incupd xQ, .incupd { xQ with b := g' 4 }, .tbsetNextTask { xQ with a := g' 5 },
          .tbsetOwnTask { xQ with a := g' 5 }, .wsdecl { xQ with a := g' 6, b := g' 7 }, .stage { xQ with a := g' 6, b := g' 7 }],
        Performs ts (grp ts) (run ts) (thr ts) i .always)
    ∧ (thr ts8).reads (grp ts8) (run ts8) .int (g' 5) = .u 0xFFFFFFFFFFFFFE03 ∧ (0xFFFFFFFFFFFFFE03 : W64).getLsbD 8 = false ∧ (0x40000 : W64).toNat < 2 ^ 56
    ∧ (∀ i ∈ [Instr.tbsetNextTask { xQ with a := g' 5 }, .tbsetOwnTask { xQ with a := g' 5 }], Performs ts8 (grp ts8) (run ts8) (thr ts8) i .always)
    ∧ declBad 64 (ts.pen (grp ts).pen).scsz = none ∧ ts.engCheck (grp ts).pen (ts.ctxOf (grp ts).pen) (declRanges ⟨0x40000, 64⟩) = .ok ()
    ∧ ts.stageFits (ts.ctxOf (grp ts).pen) (declLen 64) = true ∧ ts.rangeRoom (declRanges ⟨0x40000, 64⟩) = true ∧ 255 < ts.cells.length := by
  and_intros <;> first | decide +kernel | exact all_perform (by decide +kernel)
theorem witness_TaskState_keys : ({ Cell.reset with updates := [(900, 2), (100, 3)] } : Cell).updates.find? (fun p => decide (p.1 + 250 ≤ 1000)) = some (100, 3) := by
  decide
/-- g2 = 1 (stage 1, or enable); g3 = 0x20001 (LOW 1, HIGH 2; or a period); the launch's governor, enabled or not. -/
def gv (on : Bool) (b : W64 := 0x20001) : State :=
  let s := strand [(2, .u 1), (3, .u b)]
  { s with launches := s.launches.map (fun l => { l with gov := { Gov.reset with set := { GovSet.reset with enabled := on, period := 1 } } }) }
theorem witness_Governor : ∀ on ∈ [true, false], (thr (gv on)).reads (grp (gv on)) (run (gv on)) .int xQ.a = .u 1 ∧ (thr (gv on)).reads (grp (gv on)) (run (gv on)) .int xQ.b = .u 0x20001
    ∧ ([Instr.govsetQueue xQ, .govsetThresholds xQ, .govsetControl xQ].all fun i => ready (gv on) i .always) = true
    ∧ bits (0x20001 : W64) 63 48 = 0 ∧ (bits (0x20001 : W64) 15 0).toNat < (bits (0x20001 : W64) 31 16).toNat ∧ (0x20001 : W64).toNat % 2 ^ 16 ≠ 0
    ∧ (thr (gv on 0)).reads (grp (gv on 0)) (run (gv on 0)) .int xQ.b = .u 0 ∧ ready (gv on 0) (.govsetQueue xQ) .always = true
    ∧ ((gv on).launches.find? (·.id == ((gv on).pen 1).launch)).map (fun l => (l.id, l.gov.set.enabled, l.gov.want, l.gov.nextAt)) = some (1, on, none, 0) := by decide +kernel
/-- A parked thread whose record lies at 0x40000, which g2 names; it is of a bounded task. -/
def fr77 : BitVec 512 := mkRecord 0 0 0 0 0 77 1 1 0 0 0 0 0 0 0 false 1
def pk77 : Parked := ⟨77, 1, 2, [0], fr77, none, 0, true⟩
def kp : State := { put 0x40000 64 fr77.toNat (strand [(2, .u 0x40000)]) with
  parked := [pk77], cells := State.reset.cells, tasks := [{ Task.blank with id := 1, launch := 1, cell := ⟨true, 3, 5⟩ }, { Task.blank with id := 2 }] }
theorem witness_Kills : (thr kp).reads (grp kp) (run kp) .int xQ.a = .u 0x40000 ∧ (∀ i ∈ [Instr.killtSelf xQ, .killtParked xQ], Performs kp (grp kp) (run kp) (thr kp) i .always)
    ∧ kp.access (grp kp).pen (thr kp).lo (thr kp).hwm .global 0x40000 64 accRead = .ok (.phys 0x40000)
    ∧ kp.namedParked (kp.ctxOf (grp kp).pen) (BitVec.ofNat 512 (kp.readLoc (.phys 0x40000) 64)) = some pk77
    ∧ (kp.task 1).cell.v = true ∧ kp.cells[3]? = some Cell.reset ∧ (kp.task 2).cell.v = false := by
  and_intros <;> first | decide +kernel | exact all_perform (by decide +kernel)

/-! Special registers, traps, faults -/

/-- g2 = 64. -/
def sr : State := strand [(2, .u 64)]
theorem witness_SpecialRegisters : ((specialRegisters sr (grp sr) (thr sr)).all fun p => ready sr (.rdsr (xS (BitVec.ofNat 12 p.1))) .always
      && decide ((xS (BitVec.ofNat 12 p.1)).srn.toNat = p.1) && ready sr (.wrsr (xS (BitVec.ofNat 12 p.1))) .always) = true
    ∧ (thr sr).reads (grp sr) (run sr) .int (xS).a = .u 64 ∧ (sr.pen (grp sr).pen).hitch = [] ∧ (64 : W64).toNat % 64 = 0 ∧ (64 : W64).getLsbD 8 = false := by decide +kernel
theorem witness_IdentityAndClocks : (∀ i ∈ [Instr.movix xA, .range xA, .formq xA, .cycrd .cyc xS, .cycrd .ref xS, .cycrd .step xS], Performs sr (grp sr) (run sr) (thr sr) i .always)
    ∧ xA.a.file ≠ .special ∧ (thr sr).reads (grp sr) (run sr) .int (xS).a = .u 64 :=
  ⟨all_perform (by decide +kernel), by decide, by decide +kernel⟩
/-- The pen names a handler; g2 = 0; the strand is in its handler, or not. -/
def tr (ih : Bool) : State :=
  alter { strand [(2, .u 0), (3, .u 0x40000)] with pens := [{ testPen with thv := 0x1000 }] } (fun t => if ih then { t with ecause := 0x10B, epc := 0x8000000000001000 } else t)
theorem witness_TrapEntersHandler : Performs (tr false) (grp (tr false)) (run (tr false)) (thr (tr false)) (.trap xI) .always ∧ (thr (tr false)).ecause.getLsbD 8 = false
    ∧ ((tr false).pen (grp (tr false)).pen).thv ≠ 0
    ∧ (tr false).checkTarget ((tr false).ctxOf (grp (tr false)).pen) ((tr false).pen (grp (tr false)).pen).thv = .ok ()
    ∧ (thr (tr false)).splices.length ≤ 4 ∧ (thr (tr false)).preds.length ≤ 16 := by
  and_intros <;> first | decide +kernel | exact ready_performs (by decide +kernel)
theorem witness_ReturnFromHandler : (thr (tr true)).reads (grp (tr true)) (run (tr true)) .int xA.a = .u 0 ∧ (thr (tr true)).ecause.getLsbD 8 = true
    ∧ (thr (tr true)).preds.length = (thr (tr true)).ecause.toNat / 2 ^ 12 % 32 ∧ (thr (tr true)).splices.length = (thr (tr true)).ecause.toNat / 2 ^ 17 % 8
    ∧ (tr true).checkTarget ((tr true).ctxOf (grp (tr true)).pen) (BitVec.ofNat 64 ((thr (tr true)).epc.toNat % 2 ^ 56)) = .ok ()
    ∧ ∀ i ∈ [Instr.eretHandler xA, .eretResume xA], Performs (tr true) (grp (tr true)) (run (tr true)) (thr (tr true)) i .always := by
  and_intros <;> first | decide +kernel | exact all_perform (by decide +kernel)
theorem witness_ResumeParked : (thr kp).reads (grp kp) (run kp) .int xA.a = .u 0x40000 ∧ (0x40000 : W64) ≠ 0
    ∧ kp.namedParked (kp.ctxOf (grp kp).pen) (BitVec.ofNat 512 (kp.readLoc (.phys 0x40000) 64)) = some pk77 ∧ pk77.forwarded = true
    ∧ kp.access (grp kp).pen (thr kp).lo (thr kp).hwm .global 0x40000 64 accRead = .ok (.phys 0x40000)
    ∧ ∀ i ∈ [Instr.eretResume xA, .eretHandler xA], Performs kp (grp kp) (run kp) (thr kp) i .always := by
  and_intros <;> first | decide +kernel | exact all_perform (by decide +kernel)
/-- A load from a page that is not mapped. -/
def lf : State := strand [(2, .u 0x40000000)]
theorem witness_LoadFaultParks : (grp lf).lanes = false ∧ Performs lf (grp lf) (run lf) (thr lf) (.ld .b64 xM) .always
    ∧ (thr lf).reads (grp lf) (run lf) .int (xM).base = .u 0x40000000 ∧ (thr lf).ecause.getLsbD 8 = false
    ∧ lf.threadAccess (envOf (grp lf) (run lf)) (thr lf) .global 0x40000000 8 accRead = .error ⟨cXLATE, 0x40000000, 0, 1, none⟩ ∧ 5 ≤ cXLATE ∧ cXLATE ≤ 9 := by
  and_intros <;> first | decide +kernel | exact ready_performs (by decide +kernel)
theorem witness_TrapInHandlerStops : (grp (tr true)).lanes = false ∧ Performs (tr true) (grp (tr true)) (run (tr true)) (thr (tr true)) (.trap xI) .always
    ∧ ((tr true).ctx ((tr true).ctxOf (grp (tr true)).pen)).faultLog = none ∧ (tr true).hasCtx ((tr true).ctxOf (grp (tr true)).pen) = true := by
  and_intros <;> first | decide +kernel | exact ready_performs (by decide +kernel)
/-- g8 to g15 = 1 to 8. -/
def sc : State := strand ((List.range 8).map (fun k => (8 + k, .u (BitVec.ofNat 64 (k + 1)))))
def xI8 : FmtI := { xI with a := g' 8 }
theorem witness_SystemCalls : (∀ i ∈ [Instr.assert xI8, .brk xI8, .syscall xI8], Performs sc (grp sc) (run sc) (thr sc) i .always)
    ∧ issuers sc (envOf (grp sc) (run sc)) (thr sc) = [thr sc] ∧ (∀ k < (thr sc).n, ((thr sc).reads (grp sc) (run sc) .int xI8.a).val k ≠ 0) ∧ 0 < (thr sc).n
    ∧ (thr sc).laneGuard xI8.gd = some true ∧ (sc.ctx (sc.ctxOf (grp sc).pen)).debugger = false
    ∧ (∀ k < 8, (thr sc).reads (grp sc) (run sc) .int { xI8.a with idx := xI8.a.idx + BitVec.ofNat 8 k } = .u (BitVec.ofNat 64 (k + 1)))
    ∧ (run sc).pos + 1 = (run sc).words.length
    ∧ ((alter sc (fun t => { t with status := .syscall (g' 1) })).group 1).thread 0 = some (thr (alter sc (fun t => { t with status := .syscall (g' 1) })))
    ∧ (thr (alter sc (fun t => { t with status := .syscall (g' 1) }))).status = .syscall (g' 1) := by
  and_intros <;> first | decide +kernel | exact all_perform (by decide +kernel)
/-- The third index of a strand is the first whose value is 0. -/
def as3 : State := strand [(2, .a 2 0xFFFFFFFFFFFFFFFF), (1, .a 100 1)] 4
theorem witness_FailingAssertStops_third : Performs as3 (grp as3) (run as3) (thr as3) (.assert xI) .always ∧ 2 < (thr as3).n
    ∧ ((thr as3).reads (grp as3) (run as3) .int xI.a).val 2 = 0 ∧ ∀ j < 2, ((thr as3).reads (grp as3) (run as3) .int xI.a).val j ≠ 0 :=
  ⟨ready_performs (by decide +kernel), by decide +kernel, by decide +kernel, by decide +kernel⟩
theorem witness_FailingAssertStops : (grp (tr false)).lanes = false ∧ Performs (tr false) (grp (tr false)) (run (tr false)) (thr (tr false)) (.assert xI) .always
    ∧ 0 < (thr (tr false)).n ∧ ((thr (tr false)).reads (grp (tr false)) (run (tr false)) .int xI.a).val 0 = 0 ∧ (thr (tr false)).ecause.getLsbD 8 = false
    ∧ (tr false).hasCtx ((tr false).ctxOf (grp (tr false)).pen) = true ∧ ((tr false).ctx ((tr false).ctxOf (grp (tr false)).pen)).faultLog = none := by
  and_intros <;> first | decide +kernel | exact ready_performs (by decide +kernel)

/-! Clause boundaries, faults served -/

/-- A strand of a hundred indices. -/
def s100 : State := { strand [(2, .a 10 1)] 100 with fresh := 100 }
theorem witness_LayDown : (∀ s ∈ [s4, s100], (s.group 1).threads = [thr s] ∧ (s.layDown 1).isSome = true)
    ∧ (∀ y ∈ s100.groups, y.id ≠ s100.fresh) ∧ (thr s4).n = 4 ∧ 64 < (thr s100).n := by decide +kernel
/-- The strand stands before its clause; and behind the first word of a clause of two, whose wait has ended. -/
def cs : State := { s3 with groups := s3.groups.map (fun g => { g with run := none }) }
def keptClause : Fetched := ⟨0x1000, { fetchHeader with cnt := 1 }, [0, 0], false⟩
def csKept : State := alter cs (fun t => { t with status := .resume, kept := some keptClause, pc := 0x1010 })
theorem witness_ClauseStarts : (∀ s ∈ [cs, csKept], (s.group 1).lanes = false ∧ (s.group 1).threads = [thr s] ∧ (s.group 1).run = none ∧ (s.group 1).stall = none
      ∧ (s.group 1).resident s = true ∧ s.clocked (s.group 1).pen = true ∧ (s.ctx (s.ctxOf (s.group 1).pen)).stopped = false ∧ s.isDz2 (s.ctxOf (s.group 1).pen) (thr s).pc = false)
    ∧ cs.runnable (cs.ctxOf (cs.group 1).pen) (thr cs) = true ∧ (thr cs).words = none ∧ (thr cs).pc = (thr cs).hdr ∧ (thr cs).hdr.toNat % 8 = 0
    ∧ cs.globalLoc (cs.ctxOf (cs.group 1).pen) (thr cs).hdr 8 accFetch = .ok (.phys 0x1000) ∧ decodeHeader (cs.word (.phys 0x1000)) = some fetchHeader
    ∧ (∀ k < fetchHeader.cnt.toNat + 1, cs.globalLoc (cs.ctxOf (cs.group 1).pen) ((thr cs).hdr + 8 + BitVec.ofNat 64 (8 * k)) 8 accFetch = .ok (.phys 0x1008))
    ∧ (thr csKept).status = .resume ∧ (thr csKept).kept = some keptClause ∧ (thr csKept).pc = keptClause.hdr + 16 ∧ keptClause.hdr.toNat + 16 < 2 ^ 64
    ∧ 1 < keptClause.words.length := by
  decide +kernel
/-- Two lanes wait at a convergent clause since cycle 0; or at a SPLICE. -/
def cv (st : Status) : State :=
  { alter l4 (fun t => { t with status := st }) with now := 1000, groups := (alter l4 (fun t => { t with status := st })).groups.map (fun g => { g with run := none }) }
theorem witness_ConvergesAt : ((cv (.conv 0 0)).group 1).lanes = true ∧ ((cv (.conv 0 0)).group 1).run = none ∧ ((cv (.conv 0 0)).group 1).stall = none
    ∧ ((cv (.conv 0 0)).group 1).resident (cv (.conv 0 0)) = true ∧ (cv (.conv 0 0)).clocked 1 = true ∧ ((cv (.conv 0 0)).ctx 1).stopped = false
    ∧ (∀ t ∈ ((cv (.conv 0 0)).group 1).threads.filter (isConvAt 0x1000), t.arrival = (0, 0)) ∧ ((cv (.conv 0 0)).convSet ((cv (.conv 0 0)).group 1) 0x1000).length = 2
    ∧ (∃ f, (cv (.conv 0 0)).fetch 1 0x1000 0x1000 = .ok f) ∧ ((cv (.conv 0 0)).group 1).convReady = some 0x1000
    ∧ (∃ t ∈ ((cv (.conv 0 0)).group 1).threads.filter (isConvAt 0x1000), t.status = .conv 0 0 ∧ 0 + ((cv (.conv 0 0)).pen 1).spw.toNat ≤ (cv (.conv 0 0)).cycles ((cv (.conv 0 0)).penDie 1))
    ∧ ((cv (.conv 0 0)).group 1) ∈ (cv (.conv 0 0)).groups := by
  and_intros <;> first | decide +kernel | exact ok_of_isOk (by decide +kernel)
/-- Lane 1 waits since before the window's end; lane 0 runs elsewhere, so that the operation is due but not all have come. -/
def cvDue : State := alter (cv (.conv 0 0)) (fun t => if t.lane = 0 then { t with status := .ready, pc := 0x2000, hdr := 0x2000 } else t)
theorem witness_ConvergesAt_due : (cvDue.group 1).convReady = none ∧ cvDue.convDue (cvDue.group 1) = some 0x1000 ∧ (cvDue.group 1).run = none
    ∧ (∃ f, cvDue.fetch 1 0x1000 (((cvDue.convSet (cvDue.group 1) 0x1000).head?.map Thread.hdr).getD 0x1000) = .ok f) := by
  and_intros <;> first | decide +kernel | exact ok_of_isOk (by decide +kernel)
/-- A lane that came one slot later is not within a window of 0. -/
theorem test_window_of_one_slot : let s : State := { alter (cv (.conv 0 0)) (fun t => { t with status := .conv 0 t.lane }) with pens := [{ testPen with spw := 0 }] }
    (s.convSet (s.group 1) 0x1000).map Thread.lane = [0] := by decide +kernel
/-- Past a SPLICE that is its clause's only word a lane stands at the next header, and that clause's wait mask is tested. -/
theorem test_past_only_word : (past { thr csKept with status := .splice 0 0, kept := some { keptClause with words := [0] } }).status = .ready
    ∧ (past { thr csKept with status := .splice 0 0, kept := some { keptClause with words := [0] } }).hdr = 0x1010 := by decide +kernel
def wr : State := { s4 with groups := s4.groups.map (fun g => { g with stall := some (.row 0) }) }
/-- A strand that began to wait earlier is evicted. -/
def wr2 : State :=
  { s4 with groups := s4.groups.map (fun g => { g with stall := some (.row 5) }) ++ [{ fetchGroup 2 0 with id := 2, place := .saved, stall := some (.row 0) }] }
def wsp : State := { alter s9 (fun t => { t with status := .splice 0 0 }) with now := 1000 }
/-- A clause of one SPLICE, as its lane threads keep it. Lane 0 waits there since cycle 0, and lane 1 not at all, since cycle 900, or since cycle 0. -/
def spliceClause : Fetched := ⟨0x1000, fetchHeader, [(encode (.splice xI)).getD 0], false⟩
def fw (st : Status) : State :=
  let s := cv (.splice 0 0)
  { s with groups := s.groups.map (fun g => { g with threads := g.threads.map (fun t => { t with kept := some spliceClause, regs := { fill := 1, cells := [252, 253, 254, 255].map (fun k => (k, .u 0)) }, status := if t.lane = 1 then st else t.status }) })
           pens := [{ testPen with spw := 100 }] }
theorem witness_WaitsEnd : (∀ s ∈ [wr, wsp, fw .ready], s.clocked (s.group 1).pen = true) ∧ (wr.group 1).stall = some (.row 0) ∧ (wr.group 1).resident wr = true ∧ (wr.layDown 1).isSome = true
    ∧ (∀ x ∈ wr2.coreGroups 0, x.resident wr2 = true → x.stall = some (.row 5)) ∧ (wr2.group 1).stall = some (.row 5) ∧ (wr2.layDown 1).isSome = true
    ∧ (wr.coreGroups ((wr.pen (wr.group 1).pen).core.getD 0)).map Group.id = [1]
    ∧ (wsp.group 1).threads = [thr wsp] ∧ (wsp.group 1).lanes = false ∧ (thr wsp).status = .splice 0 0 ∧ (wsp.group 1).resident wsp = true
    ∧ 0 + (wsp.pen 1).spw.toNat ≤ wsp.cycles (wsp.penDie 1)
    ∧ (∀ st ∈ [Status.ready, .splice 900 1, .splice 0 0], ((fw st).group 1).lanes = true ∧ ((fw st).group 1).resident (fw st) = true
      ∧ (∃ t ∈ ((fw st).group 1).threads, t.status = .splice 0 0 ∧ t.hdr = 0x1000) ∧ 0 + ((fw st).pen 1).spw.toNat ≤ (fw st).cycles ((fw st).penDie 1))
    ∧ ((fw .ready).group 1).foldReady ≠ some 0x1000 ∧ (fw (.splice 900 1)).inWindow ((fw (.splice 900 1)).group 1) = false
    ∧ ((fw (.splice 0 0)).group 1).foldReady = some 0x1000 ∧ (fw (.splice 0 0)).inWindow ((fw (.splice 0 0)).group 1) = true
    ∧ (∃ t0, ((fw (.splice 0 0)).group 1).alive.head? = some t0 ∧ t0.spliceWord = some xI
      ∧ (foldThreads (liveSet xI) (fw (.splice 0 0)).fresh ((fw (.splice 0 0)).group 1).alive).isSome = true)
    ∧ (((fw (.splice 0 0)).freeSlots (((fw (.splice 0 0)).pen ((fw (.splice 0 0)).group 1).pen).core.getD 0)).head?).isSome = true := by
  decide +kernel
theorem witness_UnassignedWordParks : (grp s3).lanes = false ∧ Issues s3 (grp s3) (run s3) (thr s3) ∧ (thr s3).ih = false ∧ ∀ p ∈ (thr s3).pend, p.queue = none :=
  ⟨by decide +kernel, ready_issues (i := .nop xA) (gd := .always) (by decide +kernel), by decide +kernel, by decide +kernel⟩
/-- Words of a Dzinum-2 page: the low page is one, and the strand stands before its clause at 0x1008, alone on its core or behind a
group that waits for a lane row. -/
def dzMem (s : State) : State := { s with mem := Memory.store s.mem 0x30000 8 0x3F }
def dz (wait : Bool) : State :=
  let s := dzMem (alter cs (fun t => { t with pc := 0x1008, hdr := 0x1008 }))
  if wait then { s with groups := s.groups ++ [{ fetchGroup 2 0 with id := 2, place := .slot 1, stall := some (.row 0) }] } else s
theorem witness_Dzinum2Translations : (∀ w ∈ [false, true], ((dz w).group 1).lanes = false ∧ ((dz w).group 1).threads = [thr (dz w)] ∧ ((dz w).group 1).run = none
      ∧ ((dz w).group 1).stall = none ∧ ((dz w).group 1).resident (dz w) = true ∧ (dz w).clocked ((dz w).group 1).pen = true ∧ ((dz w).ctx ((dz w).ctxOf ((dz w).group 1).pen)).stopped = false
      ∧ (dz w).runnable ((dz w).ctxOf ((dz w).group 1).pen) (thr (dz w)) = true ∧ (dz w).isDz2 ((dz w).ctxOf ((dz w).group 1).pen) (thr (dz w)).pc = true
      ∧ (dz w).rowQueue 1 (((dz w).pen ((dz w).group 1).pen).core.getD 0) = w)
    ∧ ((dz false).layDown 1).isSome = true ∧ (dz false).globalLoc 1 0x1008 8 accFetch = .ok (.phys 0x1008)
    ∧ ∀ k < (128 - (0x1008 : W64).toNat % 128) / 8, (dz false).globalLoc 1 (0x1008 + BitVec.ofNat 64 (8 * k)) 8 accFetch = .ok (.phys (0x1008 + 8 * k)) := by
  decide +kernel
def parkedBy (cause : Nat) : Parked := ⟨77, 1, 1, [0], mkRecord 0 0 0 0 0 77 1 1 0 0 0 0 0 0 0 false cause, some (.phys 0x40000), 0, false⟩
theorem witness_FaultService : ∀ c ∈ [cXLATE, cPERM, cSTACKGROW, cMEMERR, cRLOCK], let s : State := { s3 with parked := [parkedBy c] }
    s.parked.find? (fun q => q.handle == 77 && !q.forwarded) = some (parkedBy c) ∧ (parkedBy c).record.toNat % 256 = c ∧ parkedBy c ∈ s.parked
    ∧ (s.ctx 1).faultLog = none ∧ s.lineCovered (parkedBy c) = false
    ∧ ({ s with ops := [{ op5 with ranges := [⟨none, 0x800, 0x801, true, false⟩] }] } : State).lineCovered (parkedBy c) = true := by decide +kernel
/-- A table word that is valid, one that is not, one that a misaligned store meets; the root of the tables is 0x20000. -/
theorem witness_stored : s3.sound 0x30000 8 = true ∧ ({ s3 with poison := [0x600] } : State).sound 0x30000 8 = false := by decide +kernel
/-- A store of Turjo into a line with an uncorrectable error is not performed (R223). -/
theorem test_sysWrite_bad : (({ s3 with poison := [0x600] } : State).sysWrite ⟨0x30000, 7⟩).readLoc (.phys 0x30000) 8 = s3.readLoc (.phys 0x30000) 8 := by decide +kernel
theorem witness_MapEdits : (s3.tableWord 0x30000).getLsbD 0 = true ∧ (s3.tableWord 0x30040).getLsbD 0 = false ∧ 0x30000 % 8 = 0 ∧ 0x30001 % 8 ≠ 0
    ∧ s3.entriesAt 0x20000 3 (s3.ctx 1).root 0 ≠ [] ∧ (0 : Nat) < 2 ^ 13 := by decide +kernel
theorem witness_FaultService_contexts : s3.tripHold = false ∧ ({ s3 with tripHold := true } : State).tripHold = true := by decide +kernel
def devWait (a : DevAcc) : State := { away s3 with devWaits := [⟨70, 1, a, 0x40000, 3⟩], runs := [run0 [] [] []] }
/-- A gathering copy of no elements, made without an issuer. -/
def gatherPkt : BitVec 512 := 0x8002
theorem witness_DeviceAccesses : (∀ a ∈ [DevAcc.decrement 0x40000, .action ⟨70, 1, 2, 0x40000⟩, .resume ⟨1, 0x40000, 1, true, [], []⟩, .node 70 0x40000, .gather 1 gatherPkt],
      (devWait a).devWaits.find? (fun y => y.id == 70) = some ⟨70, 1, a, 0x40000, 3⟩)
    ∧ (∃ k, copyOf (devWait (.gather 1 gatherPkt)) none 2 gatherPkt = some k ∧ ((devWait (.gather 1 gatherPkt)).issueCopy 1 k gatherPkt).isSome = true)
    ∧ (((devWait (.node 70 0x40000)).logPlain 1 0 0x40000 0 cXLATE 3).runs.find? (fun y => y.id == 70)).isSome = true :=
  ⟨by decide +kernel, ⟨{ copy0 2 0 with srcScr := false, dstScr := false, dst := 0 }, by decide +kernel, by decide +kernel⟩, by decide +kernel⟩
def shoot1 : Shoot := { id := 70, ctx := 1, lo := 0x40000, hi := 0x50000, old := [], sysCore := 2, time := 5, logAt := some 0 }
def shooting (ops : List EngOp) : State := { s3 with shoots := [shoot1], ops := ops }
def data1 : SampleData := { ctx := 1, core := 0, tag := 0, fetch := 0, issue := 0, opnd := 0, exec := 0, wb := 0, level := 0 }
def tag1 : Tag := { gid := 1, lane := 0, name := 1, launch := 1, vcore := 0, slot := 0, index := 0, pc := 0x1008, opc := 1, time := 0 }
/-- A sample is due; its queue lies at q. -/
def sampled (q : W64) : State := { qu 0 0 with ctxs := [{ fetchCtx with samplePeriod := 256, sampleQueue := q, samplers := [⟨0, 1, 0, [tag1]⟩] }] }
/-- The tagged instruction has issued and still owes its result. -/
def tagHeld : State := alter (sampled 0x40000) (fun t => { t with pend := [pendW] })
theorem witness_DeviceRecords : (shooting []).shoots = [] ++ shoot1 :: [] ∧ shoot1.logAt = some 0
    ∧ (∀ o ∈ (shooting []).ops, (shooting []).usesOld shoot1 o = false)
    ∧ (∃ o ∈ (shooting [{ op5 with ctx := 1, pages := [(4, 0x50000)] }]).ops, (shooting [{ op5 with ctx := 1, pages := [(4, 0x50000)] }]).usesOld shoot1 o = true)
    ∧ (∀ d ∈ [none, some 2], let s : State := { s3 with poison := [0x800], writers := [(0x800, 1), (0x801, 0)], ctxs := [{ fetchCtx with shedLines := (d.toList.map (fun k => (k, 0x800))) }] }
        0x800 ∈ s.poison ∧ (0x800, 1) ∈ s.writers ∧ (0x800, 0) ∉ s.writers ∧ s.shedDie 0x800 = d ∧ s.writers.find? (fun p => p.1 == 0x800) = some (0x800, 1) ∧ 0x801 ∉ s.poison ∧ (s.ctx 1).faultLog = none ∧ s.memForm = true)
    ∧ (s3.ctx 1).faultLog = none ∧ s3.memForm = true
    ∧ (∀ q ∈ [0x40000, 0x40000000], ((sampled (BitVec.ofNat 64 q)).ctx data1.ctx).samplers.find? (fun y => y.core == data1.core) = some ⟨0, 1, 0, tag1 :: []⟩)
    ∧ [tag1][data1.tag]? = some tag1 ∧ (∀ q ∈ (sampled 0x40000).groups, ∀ t ∈ q.threads, t.ost = tag1.name → t.holds tag1.pc = false ∧ q.holdsWord tag1.pc = false) ∧ data1.level.toNat ≤ 5
    ∧ 5 < ({ data1 with level := 6 } : SampleData).level.toNat
    ∧ (∃ q ∈ tagHeld.groups, ∃ t ∈ q.threads, t.ost = tag1.name ∧ t.holds tag1.pc = true)
    ∧ (∀ h ∈ ({ s3 with shoots := [shoot1] } : State).shoots, h.ctx = 1 → h.logAt = none → ¬(h.lo.toNat ≤ 0x40000 ∧ 0x40000 < h.hi.toNat))
    ∧ isOk ((sampled 0x40000).queue 1 0x40000 true accRmw.device) = true ∧ isOk ((sampled 0x40000000).queue 1 0x40000000 true accRmw.device) = false := by decide +kernel

/-! The scheduler, places -/

/-- A queue at 0x40000, a dispatch queue or a copy queue of the context, holds one packet. -/
def pq (pkt : Nat) : State :=
  let s := qAt 1 0 (put 0x40040 64 pkt s3)
  { s with ctxs := [{ fetchCtx with privBase := 0x100000000000, dispatchQueues := [0x40000], copyQueues := [0x40000] }] }
/-- Two dispatch queues, each with a packet; the root took its last packet from the first (R330). -/
def pqTwo : State :=
  let s := pq 1
  { s with mem := Memory.store (Memory.store s.mem 0x48000 8 1) 0x48010 1 6, lastQueue := some (1, 0x40000)
           ctxs := [{ fetchCtx with privBase := 0x100000000000, dispatchQueues := [0x40000, 0x48000] }] }
theorem test_round_robin : pqTwo.mayTake 1 0x48000 false = true ∧ pqTwo.mayTake 1 0x40000 false = false := by decide +kernel
theorem witness_PacketsTaken : (∀ n ∈ [launchPkt, 3 + 0x41000 * 2 ^ 64, 2 + 0x8000], ((pq n).peek 1 0x40000).map (fun x => x.2.1) = some (BitVec.ofNat 512 n)
      ∧ (pq n).mayTake 1 0x40000 false = true ∧ (pq n).mayTake 1 0x40000 true = true)
    ∧ cpF (BitVec.ofNat 512 launchPkt) 7 0 = 1 ∧ (pq launchPkt).launchOk 1 (BitVec.ofNat 512 launchPkt) (cpF (BitVec.ofNat 512 launchPkt) 95 64 + 1) = true
    ∧ (let p := BitVec.ofNat 512 (3 + 0x41000 * 2 ^ 64); cpF p 7 0 = 3 ∧ cpF p 511 192 = 0 ∧ cpF p 63 12 = 0 ∧ cpF p 127 64 % 128 = 0)
    ∧ ((pq 0).runs.filter (fun r => r.ctx == 1)).length < 16
    ∧ (let p := BitVec.ofNat 512 (2 + 0x8000); cpF p 7 0 = 2 ∧ cpF p 15 14 = 2
        ∧ copyOf (pq (2 + 0x8000)) none 2 p = some { copy0 2 0 with srcScr := false, dstScr := false, dst := 0 })
    ∧ isOk (gatherDevice (pq 0) 1 { copy0 2 0 with srcScr := false, dstScr := false, dst := 0 }) = true
    ∧ (pq 0).engCheck 0 1 ({ copy0 2 0 with srcScr := false, dstScr := false, dst := 0 } : Copy).ranges = .ok ()
    ∧ (pq 0).rangeRoom ({ copy0 2 0 with srcScr := false, dstScr := false, dst := 0 } : Copy).ranges = true := by
  and_intros <;> decide +kernel
theorem witness_PacketsTaken_in_turn : (∀ q ∈ [0x40000, 0x48000], (pqTwo.peek 1 (BitVec.ofNat 64 q)).isSome = true ∧ BitVec.ofNat 64 q ∈ (pqTwo.ctx 1).dispatchQueues)
    ∧ pqTwo.mayTake 1 0x40000 false = false := by decide +kernel
def task1 (killed contEnd : Bool) : Task := { Task.blank with id := 1, launch := 1, killed := killed, contEnd := contEnd }
def te (killed contEnd : Bool) : State := { s3 with groups := [], tasks := [task1 killed contEnd] }
/-- Task 1 declares 64 bytes at 0x40000 for the scratch at 0. -/
def decl1 : Decl := ⟨0x40000, 0x8000000000000040⟩
def td : State := { away s3 with tasks := [{ task1 false false with decls := [decl1] }] }
theorem witness_TasksEnd : (∀ p ∈ [(false, false), (false, true), (true, false)], (te p.1 p.2).tasks.find? (fun y => y.id == 1) = some (task1 p.1 p.2) ∧ (te p.1 p.2).taskOver 1 = true)
    ∧ (∀ s ∈ [({ s3 with tasks := [], groups := [] } : State), { s3 with tasks := [], groups := (alter s3 (fun t => { t with status := .exited })).groups }, { s3 with tasks := [] }],
      (s.launches.find? (fun y => y.id == 1)).map (fun x => (x.conts, x.unplaced)) = some ([], []) ∧ s.ops = [] ∧ s.tasks = [])
    ∧ (∀ g ∈ (alter s3 (fun t => { t with status := .exited })).groups, ∀ t ∈ g.threads, t.status = .exited)
    ∧ (∃ g ∈ s3.groups, g.pen ∈ s3.pens.map Pen.id ∧ (s3.pen g.pen).launch = 1 ∧ ∃ t ∈ g.threads, t.status ≠ .exited)
    ∧ (∃ t ∈ s3.tasks, t.launch = 1)
    ∧ (let s : State := { s3 with tasks := [], groups := [], lostPops := [⟨70, 1, 1, 0x40000, true⟩] }
       (∃ q ∈ s.lostPops, q.pen ∈ s.pens.map Pen.id ∧ (s.pen q.pen).launch = 1) ∧ (∀ y ∈ s.lostPops, y.op = 70 → y = ⟨70, 1, 1, 0x40000, true⟩)
       ∧ s.ops = [] ∧ s.conts = []) ∧ s3.lostPops = [] := by decide +kernel
/-- The declaration is bound for the scratch, or for the shed; the budget is 0, or 64 MiB. -/
theorem witness_TasksEnd_staging : ∀ d ∈ [decl1, ⟨0x40000, 64⟩], ∀ b ∈ [0, 64],
    let s : State := { td with tasks := [{ task1 false false with decls := [d] }], ctxs := td.ctxs.map (fun c => { c with budget := b }) }
    (s.task 1).decls = [d] ∧ (s.task 1).begun = false ∧ (s.task 1).jobs = [] ∧ declScr d.word = decide (d = decl1) ∧ s.taskPens (s.task 1) = [1] ∧ s.stageFits 1 (declLen d.word) = true
    ∧ s.rangeRoom (declRanges d) = true ∧ s.engCheck 1 1 (declRanges d) = .ok () := by
  intro d hd b hb
  simp only [List.mem_cons, List.not_mem_nil, or_false] at hd hb
  rcases hd with rfl | rfl <;> rcases hb with rfl | rfl <;> decide +kernel
/-- The strand is saved, the only ready member. -/
def mem1 : Member := ⟨70, .group 1 false, 0, 0, 0, false⟩
def mp : State := { s3 with members := [mem1], groups := s3.groups.map (fun g => { g with place := .saved, run := none }) }
/-- Among members of a lower priority and of a later time; and a saved lane group, the only member. -/
def mpTwo : State := { mp with members := [⟨71, .group 2 false, 0, 5, 0, false⟩, { mem1 with prio := 2 }, ⟨72, .group 2 false, 2, 5, 0, false⟩] }
def mpLanes : State := { l4 with members := [mem1], groups := l4.groups.map (fun g => { g with place := .saved, run := none }) }
theorem witness_MemberPlaced_first : (∀ x ∈ mpTwo.members, x ≠ { mem1 with prio := 2 } → x.eff < ({ mem1 with prio := 2 } : Member).eff
      ∨ (x.eff = ({ mem1 with prio := 2 } : Member).eff ∧ ({ mem1 with prio := 2 } : Member).since < x.since))
    ∧ mpTwo.reserved { mem1 with prio := 2 } 0 [1, 0, 0, 0, 0] = false ∧ mpTwo.enlist = mpTwo
    ∧ (mpLanes.group 1).lanes = true ∧ mpLanes.enlist = mpLanes ∧ mpLanes.freeRow (mpLanes.group 1).pen = some 0
    ∧ mpLanes.lacks 0 [0, 1, 512 * (mpLanes.launchOf (mpLanes.group 1).pen).regs, 0, 0] = []
    ∧ mpLanes.reserved mem1 0 [0, 1, 512 * (mpLanes.launchOf (mpLanes.group 1).pen).regs, 0, 0] = false
    ∧ (∀ y ∈ mpLanes.groups, y.id = 1 → ∀ t ∈ y.threads, t.status = .ready) := by decide +kernel
theorem witness_MemberPlaced : mp.members = [mem1] ∧ mem1.kind = .group 1 false ∧ mp.reserved mem1 0 [1, 0, 0, 0, 0] = false ∧ (mp.pen (mp.group 1).pen).core = some 0
    ∧ (mp.pen (mp.group 1).pen).saved = false ∧ (mp.ctx (mp.ctxOf (mp.group 1).pen)).stopped = false ∧ (mp.group 1).threads ≠ [] ∧ (mp.group 1).lanes = false
    ∧ (mp.freeSlots 0).head? = some 0 ∧ mp.lacks 0 [1, 0, 0, 0, 0] = [] ∧ (∀ y ∈ mp.groups, y.id = 1 → ∀ t ∈ y.threads, t.status = .ready) ∧ mp.enlist = mp := by decide +kernel
/-- The yard team is saved, the only ready member, with an operation of the pen and one of its thread outstanding. -/
def mem2 : Member := ⟨70, .pens 1 0, 0, 0, 0, false⟩
def sv : State :=
  { alter s3 (fun t => { t with pend := [pend7], flags := 8 }) with
    pens := [{ testPen with saved := true, core := none }], members := [mem2], ops := [op5]
    groups := (alter s3 (fun t => { t with pend := [pend7], flags := 8 })).groups.map (fun g => { g with place := .saved, run := none }) }
theorem witness_SaveAndRestore : (s3.pen 1).saved = false ∧ (s3.pen 1).core ≠ none
    ∧ sv.members.find? (fun y => y.kind == .pens (sv.pen 1).launch ((sv.pen 1).vcore / (sv.launch (sv.pen 1).launch).c)) = some mem2
    ∧ sv.units.yards.getLsbD 0 = true ∧ sv.fits mem2 (sv.teamNeeds 1 0 0) = true ∧ (sv.pens.map Pen.id).Nodup ∧ (∀ q ∈ sv.teamPens 1 0, q.hitch = [])
    ∧ sv.savedOp 5 = true ∧ (sv.ops.find? (fun y => y.id == 5)).isSome = true ∧ sv.savedOp 70 = true ∧ sv.ops.find? (fun y => y.id == 70) = none
    ∧ (∃ k ∈ sv.tasks, k.launch = (sv.pen 1).launch) ∧ sv.group 1 ∈ sv.groups ∧ (sv.group 1).resident sv = false ∧ thr sv ∈ (sv.group 1).threads
    ∧ ((sv.group 1).threads.map Thread.lane).Nodup ∧ pend7 ∈ (thr sv).pend ∧ ((thr sv).pend.map Pend.op).Nodup ∧ (thr sv).status = .ready ∧ sv.conts = []
    ∧ (sv.ops.map EngOp.id) = [5] ∧ sv.lostPops = [] := by decide +kernel

/-- A copy of the saved pen has started. -/
def svCopy : State := { sv with ops := [opC true] }
theorem witness_SaveAndRestore_copy : (opC true).kind = .copy (copy0 0 64) ∧ (opC true).pen = some 1 ∧ 1 ∈ svCopy.pens.map Pen.id ∧ (svCopy.pen 1).bad = []
    ∧ (svCopy.pen 1).saved = true ∧ svCopy.ops.find? (fun y => y.id == (opC true).id) = some (opC true) ∧ (opC true).joint = none ∧ svCopy.memForm = true
    ∧ (opC true).started = true ∧ (opC true).cancelled = false ∧ (opC true).bad = none ∧ (opC true).tile = none
    ∧ ∃ g ∈ svCopy.groups, g.pen ∈ svCopy.pens.map Pen.id ∧ (svCopy.pen g.pen).launch = (opC true).launch ∧ ∃ t ∈ g.threads, t.status ≠ .exited := by decide +kernel
/-- The team of the strand, which is ready to run, is saved, and becomes a ready member; a task waits for its first dispatch. -/
theorem witness_SaveAndRestore_save : s3.freshTasks ((s3.teamPens 1 0).map Pen.id) = [] ∧ s3.members = []
    ∧ ({ mp with members := [{ mem1 with kind := .group 1 true }] } : State).freshTasks [1] = [1]
    ∧ ∃ m ∈ ((s3.saveTeam 1 0).enlist).members, m.kind = .pens 1 0 := by decide +kernel

/-! Contexts, the host, gangs, links, boot, spares, clocks -/

/-- The package runs and no function is enabled. -/
def up : State := { State.reset with boot := .running }
def init1 : CtxInit := ⟨0x20000, 0, 7, 0, none, [], [], 0, 0, 0⟩
theorem witness_ContextsComeAndGo : up.boot = .running ∧ up.hasCtx 1 = false ∧ CtxInit.ok init1 = true ∧ s3.hasCtx 1 = true ∧ (s3.ctx 1).shedLines = [] ∧ (∀ d < 4, (s3.ctx 1).shed.getD d 0 = 0) ∧ mShed.poison = [] := by decide +kernel
/-- The last byte of a line; of the mailbox; of a window. -/
theorem witness_HostPort : s3.hostPort = true ∧ State.reset.hostPort = false ∧ 0xFFFF8 % 128 + 8 ≤ 128 ∧ 0xFFFF8 + 8 ≤ 2 ^ 20 ∧ s3.hasCtx 1 = true ∧ up.hasCtx 1 = false
    ∧ (0x40000 : Nat) + 8 ≤ 2 ^ 36 ∧ ((s3.ctx 1).vw.toNat + 0x40000) % 128 + 8 ≤ 128
    ∧ (∀ k ∈ [accRead.device, accWrite.device, accRmw.device], s3.globalLoc 1 (BitVec.ofNat 64 ((s3.ctx 1).vw.toNat + 0x40000)) 8 k = .ok (.phys 0x40000))
    ∧ s3.globalLoc 1 (BitVec.ofNat 64 ((s3.ctx 1).vw.toNat + 0x40000)) 4 accRmw.device = .ok (.phys 0x40000)
    ∧ (∀ k ∈ [accRead.device, accWrite.device], isOk (s3.globalLoc 1 (BitVec.ofNat 64 ((s3.ctx 1).vw.toNat + 0x40000000)) 8 k) = false)
    ∧ (s3.globalLoc 1 (BitVec.ofNat 64 ((s3.ctx 1).vw.toNat + 0x40000000)) 8 accWrite.device) = .error ⟨cXLATE, BitVec.ofNat 64 ((s3.ctx 1).vw.toNat + 0x40000000), 0, 2, none⟩
    ∧ (0x40001 : Nat) % 4 ≠ 0 := by decide +kernel
/-- A read of 100 bytes crosses a line. -/
theorem witness_HostPort_pieces : ∀ q ∈ pieces 128 ((s3.ctx 1).vw.toNat + 0x40040) 100, isOk (s3.globalLoc 1 (BitVec.ofNat 64 q.1) q.2 accRead.device) = true := by decide +kernel
theorem witness_RegisterWrites : up.hostPort = true ∧ State.reset.hostPort = false ∧ (0x60 : Nat) ≠ 8 ∧ 0x60 ≠ 24 ∧ (∀ d < 4, (0x60 : Nat) ≠ 0x40 + 8 * d)
    ∧ up.healthBoot < 16 ∧ (∀ d < 4, (up.die d).setCode < 16) ∧ s3.hasCtx 1 = true := by decide +kernel
/-- Eight ways in all, the most that a die grants. -/
theorem witness_Grants : s3.hasCtx 1 = true ∧ ((s3.ctxs.filter (fun x => x.id != 1)).map (fun x => x.shed.getD 0 0)).sum + 8 ≤ s3.shedLimit 0
    ∧ (s3.ctx 1).shed.getD 0 0 ≤ 8 ∧ 0 < (mShed.ctx 1).shed.getD 0 0 ∧ mShed.hasCtx 1 = true ∧ (s3.cell 255).owner = none ∧ 255 < s3.cells.length := by decide +kernel
/-- A gang-launch record: a launch packet, and packages 1 and 2 (or 0) in PKGS. -/
def gangRec (pkgs status : Nat) : Nat := launchPkt + pkgs * 2 ^ 576 + status * 2 ^ 704
def gl (pkgs status : Nat) (gs : List Gang) : State := { put 0x40000 128 (gangRec pkgs status) s3 with gangs := gs }
/-- The record lies in the memory of package 1, which the context maps at 0x40000000. -/
def glFar : State :=
  let s := put (2 ^ 46) 128 (gangRec 1 0) (put 0x30008 8 (2 ^ 46 + 0x1F) s3)
  { s with domain := [1] }
def gang1 : Gang := ⟨1, 0x40000, 0, false, 0⟩
theorem witness_GangLaunches : (∀ s ∈ [gl 6 0 [], gl 6 0x14 [gang1], gl 6 0x24 [gang1], { gl 6 0x14 [gang1] with now := 50000 }],
      s.globalLoc 1 0x40000 128 accRmw.device = .ok (.phys 0x40000) ∧ s.memForm = true ∧ s.hasCtx 1 = true ∧ (s.ctx 1).faultLog = none)
    ∧ 0x40000 / 2 ^ 46 = (gl 6 0 []).pkg ∧ (Memory.load (gl 6 0 []).mem (0x40000 + 72) 8).testBit (gl 6 0 []).pkg = false ∧ (gl 6 0 []).gangs = []
    ∧ (∀ g ∈ (gl 6 0 [{ gang1 with failed := true }]).gangs, ¬(g.ctx = 1 ∧ g.addr = 0x40000 ∧ g.failed = false))
    ∧ glFar.globalLoc 1 0x40000000 128 accRmw.device = .ok (.phys (2 ^ 46)) ∧ glFar.memForm = true ∧ glFar.gangs = [] ∧ 2 ^ 46 / 2 ^ 46 ≠ glFar.pkg
    ∧ (Memory.load glFar.mem (2 ^ 46 + 72) 8).testBit glFar.pkg = true
    ∧ glFar.launchOk 1 (BitVec.ofNat 512 (Memory.load glFar.mem (2 ^ 46) 64)) (cpF (BitVec.ofNat 512 (Memory.load glFar.mem (2 ^ 46) 64)) 95 64 + 1) = true
    ∧ (gl 6 0x14 [gang1]).gangPending 1 0x40000 = true ∧ Memory.load (gl 6 0x14 [gang1]).mem (0x40000 + 88) 16 / 4 ^ 1 % 4 = 1
    ∧ Memory.load (gl 6 0x14 [gang1]).mem (0x40000 + 88) 16 / 4 ^ 2 % 4 = 1
    ∧ (∀ p < 64, p ≠ 1 → Memory.load (gl 6 0x24 [gang1]).mem (0x40000 + 88) 16 / 4 ^ p % 4 = 0 ∨ Memory.load (gl 6 0x24 [gang1]).mem (0x40000 + 88) 16 / 4 ^ p % 4 = 2)
    ∧ (∃ g ∈ ({ gl 6 0x14 [gang1] with now := 50000 } : State).gangs, g.ctx = 1 ∧ g.addr = 0x40000 ∧ g.failed = false ∧ g.start + 50000 ≤ ({ gl 6 0x14 [gang1] with now := 50000 } : State).clk) := by
  refine ⟨?_, by decide +kernel⟩
  intro s hs
  simp only [List.mem_cons, List.not_mem_nil, or_false] at hs
  rcases hs with rfl | rfl | rfl | rfl <;> decide +kernel
def flit1 : Flit := { dst := 1, src := 0, vc := 0, seq := 0, len := 0, payload := List.replicate 240 0 }
/-- The ports reach package 6, which no port has reached since time 0; port 23 has asked for replay since then; package 7 has left. -/
def linked : State :=
  { up with ports := (List.replicate 23 { Port.reset with trained := true, peer := some 6 }) ++ [{ Port.reset with trained := true, peer := some 6, asked := some 0 }]
            domain := [6], left := [7], unreached := [(6, 0)] }
theorem witness_LinksAndDomain : flit1.payload.length = 240 ∧ (∃ p : Port, linked.ports[3]? = some p ∧ linked.portCarries 3 = true) ∧ State.reset.portCarries 3 = false
    ∧ (∃ p : Port, linked.ports[23]? = some p ∧ p.asked = some 0) ∧ (∀ s ∈ [linked, { linked with now := 10000000 }], 5 ≠ s.pkg ∧ s.hostPort = true ∧ 7 ∈ s.left ∧ 5 ∉ s.left)
    ∧ linked.clk < 0 + 1000000 ∧ 0 + 1000000 ≤ ({ linked with now := 10000000 } : State).clk
    ∧ 6 ∈ linked.domain ∧ (∃ u ∈ linked.unreached, u.1 = 6 ∧ u.2 + 10000000 ≤ ({ linked with now := 10000000 } : State).clk)
    ∧ ¬(∃ u ∈ linked.unreached, u.1 = 6 ∧ u.2 + 10000000 ≤ linked.clk)
    ∧ 5 ∉ linked.domain ∧ linked.pkg < 64 ∧ linked.pkg ∉ linked.left
    -- port 3 leads to package 6, which no domain holds then; it does not lead to package 5
    ∧ 6 ∉ ({ linked with domain := [] } : State).domain ∧ ({ linked with domain := [] } : State).portCarries 3 = true
    -- and through package 6, a member, to package 5
    ∧ (linked.ports.getD 3 Port.reset).peer = some 6 ∧ (6 : Nat) ≠ 5 := by
  have h : ∃ p : Port, linked.ports[3]? = some p ∧ linked.portCarries 3 = true := ⟨{ Port.reset with trained := true, peer := some 6 }, by decide +kernel⟩
  have h2 : ∃ p : Port, linked.ports[23]? = some p ∧ p.asked = some 0 := ⟨{ Port.reset with trained := true, peer := some 6, asked := some 0 }, by decide +kernel⟩
  and_intros <;> first | exact h | exact h2 | decide +kernel
def boot1 (d6 d4 : Bool) : BootInput := ⟨d6, d4, ⟨[]⟩, some (CfgRec.factory, []), true⟩
theorem witness_Boots : State.reset.boot = .reset ∧ State.reset.cfgValid = true ∧ ({ State.reset with cfg := [] } : State).cfgValid = false
    ∧ (boot1 false false).dhcp6 = false ∧ (boot1 true false).dhcp6 = true ∧ (boot1 false true).dhcp4 = true
    ∧ ({ State.reset with boot := .dhcp } : State).boot = .dhcp ∧ ({ State.reset with boot := .recovery } : State).cfgValid = true
    ∧ ({ State.reset with boot := .recovery, cfg := [] } : State).cfgValid = false ∧ (boot1 true true).record = some (CfgRec.factory, []) ∧ CfgRec.sized CfgRec.factory = true
    ∧ (List.replicate 1952 (0 : Byte)).length = 1952 ∧ (List.replicate 3309 (0 : Byte)).length = 3309
    ∧ (∀ b ∈ [Boot.dhcp, .recovery], ({ State.reset with boot := b, now := 60000000000 } : State).boot = b)
    ∧ State.reset.clk < State.reset.bootAt + 10000000000 ∧ State.reset.bootAt + 60000000000 ≤ ({ State.reset with now := 60000000000 } : State).clk
    ∧ ({ State.reset with boot := .verified } : State).boot = .verified ∧ ({ State.reset with boot := .tested } : State).boot = .tested := by decide +kernel
/-- A system core with spares left (16 of 18 serve), and the last one's failure with none. -/
def spent : State := { up with units := { up.units with sysc := 0x3FFFF } }
/-- System core 3 had two corrected errors within the hour; the threshold of its class is one, or two. -/
def worn (n : Nat) : State := { up with units := { up.units with corrected := [(.sysCore 3, 0, 2)], thresholds := [(unitClass (.sysCore 3), n)] } }
theorem witness_SparesAndStore : (up.hostPort = true ∧ (worn 1).pastThreshold (.sysCore 3) = true ∧ (worn 2).pastThreshold (.sysCore 3) = false ∧ (worn 1).hostPort = true)
    ∧ (up.units.sysc.getLsbD 3 = true ∧ PkgUnit.sysCore 3 ∉ up.units.retired ∧ (∃ j < 18, up.units.sysc.getLsbD j = false ∧ PkgUnit.sysCore j ∉ up.units.retired))
    ∧ (spent.units.sysc.getLsbD 17 = true ∧ PkgUnit.sysCore 17 ∉ spent.units.retired ∧ ¬(∃ j < 18, spent.units.sysc.getLsbD j = false ∧ PkgUnit.sysCore j ∉ spent.units.retired))
    ∧ (up.cfgUse < up.cfg.length ∧ up.cfg.length = 2 ∧ (1 - up.cfgUse) ∉ up.storeFails ∧ (1 - up.cfgUse) ∈ ({ up with storeFails := [1] } : State).storeFails)
    ∧ (∀ g l, PkgUnit.yard 0 3 ≠ .dramLane g l ∧ PkgUnit.yard 0 3 ≠ .linkLane g l) :=
  ⟨by decide +kernel, by decide +kernel, by decide +kernel, by decide +kernel, by simp⟩
/-- A self-test that is due, and one that is not; a spare yard that fails; what the factory record holds. -/
theorem witness_SparesAndStore_units : up.selfTestAt + 86400000000000 ≤ ({ up with now := 86400000000000 } : State).clk ∧ up.clk < up.selfTestAt + 86400000000000
    ∧ PkgUnit.built (.yard 0 8) = true ∧ up.units.serve (.yard 0 8) = false ∧ PkgUnit.yard 0 8 ∉ up.units.retired ∧ up.units.serve (.yard 0 3) = true := by decide +kernel
theorem witness_SparesAndStore_records : up.cert = none ∧ up.cfg = [⟨CfgRec.factory, none⟩, ⟨CfgRec.factory, none⟩] ∧ CfgRec.factory.dramMap.length = 512
    ∧ CfgRec.factory.linkMap.length = 48 ∧ CfgRec.factory.owner.length = 64 ∧ CfgRec.sized { CfgRec.factory with dramMap := [] } = false := by decide +kernel
/-- Codes 13 and 14 are the boundary; a relock in progress; temperatures of 115, 114 and 100 °C. -/
theorem witness_ClocksAndPower_stands_still : let s : State := { e4 with dies := relocking.dies }
    (s.die (s.penDie (s.group 1).pen)).relock = some 5 ∧ ∃ o, s.ops.find? (fun y => y.id == 5) = some o ∧ o.kind.isMatrix = true ∧ o.joint = none ∧ o.pen = some (s.group 1).pen :=
  ⟨by decide +kernel, op5, by decide +kernel⟩
theorem witness_ClocksAndPower : up.hostPort = true ∧ (∀ b ∈ [true, false], ({ up with tripHold := b } : State).tripHold = b) ∧ (∃ t ∈ [95, 20], 95 ≤ t) ∧ (∀ t ∈ [94, 20], t < 95)
    ∧ up.dies.length = 4 ∧ (14 : W64).toNat % 16 = 14 ∧ (13 : W64).toNat % 16 = 13 ∧ (∀ x ∈ s3.ctxs, x.thermal = false)
    ∧ (relocking.die 0).relock = some 5 ∧ 0 < relocking.dies.length ∧ ((relocking.die 0).steps.length < 64) ∧ up.loweredAt = none ∧ ({ up with loweredAt := some 0 } : State).clk < 0 + 100000 ∧ (∀ d < 4, 0 < (up.die d).code)
    ∧ (∃ t ∈ [115, 20], 115 ≤ t) ∧ (∀ t ∈ [114, 20], t < 115) ∧ (∀ t ∈ [100, 20], t ≤ 100 ∧ t < 115) := by decide +kernel

/-- The widths at which source modifiers act; codes at the ends of their range. -/
theorem witness_ranges : (1 ≤ 1 ∧ 1 ≤ 64) ∧ (1 ≤ 64 ∧ 64 ≤ (64 : Nat)) ∧ (63 : Nat) < 64 ∧ 1 ≤ 27 % 32 ∧ 27 % 32 + 4 < 32 ∧ (⟨true, 128, 1, false⟩ : OpRange).scr = true := by decide

/-! ### Results, worked by hand from the manual -/

/-- D of an instruction over a strand of one index with g2, g3 and g4 as given; the flags raised. -/
def d1 (i : Instr) (a b c : W64) : Option Form := reg i (strand [(2, .u a), (3, .u b), (4, .u c)]) 1
def fl (i : Instr) (a b c : W64) : Option Fpx := fpx i (strand [(2, .u a), (3, .u b), (4, .u c)])

/-- Wraps, signs, the corners of division, shifts by the width, fields (R138 to R144). -/
theorem test_integer_results : d1 (.iadd .i32 xA) 0x7FFFFFFF 1 0 = some (.u 0xFFFFFFFF80000000) ∧ d1 (.iadd .i32 { xA with cl := .sat }) 0x7FFFFFFF 1 0 = some (.u 0x7FFFFFFF)
    ∧ d1 (.isub .i64 xA) 3 5 0 = some (.u 0xFFFFFFFFFFFFFFFE) ∧ d1 (.imad .i64 xA) 3 5 7 = some (.u 22) ∧ d1 (.imulh .s xA) 0xFFFFFFFFFFFFFFFF 1 0 = some (.u 0xFFFFFFFFFFFFFFFF)
    ∧ d1 (.imulh .n xA) 0xFFFFFFFFFFFFFFFF 2 0 = some (.u 1) ∧ d1 (.idiv .s xA) 0xFFFFFFFFFFFFFFF9 2 0 = some (.u 0xFFFFFFFFFFFFFFFD)
    ∧ d1 (.irem .s xA) 0xFFFFFFFFFFFFFFF9 2 0 = some (.u 0xFFFFFFFFFFFFFFFF) ∧ d1 (.idiv .n xA) 9 0 0 = some (.u 0xFFFFFFFFFFFFFFFF) ∧ fl (.idiv .n xA) 9 0 0 = some fxIDZ
    ∧ d1 (.iabs xA) 0xFFFFFFFFFFFFFFF9 0 0 = some (.u 7) ∧ d1 (.imin .s xA) 0xFFFFFFFFFFFFFFFF 1 0 = some (.u 0xFFFFFFFFFFFFFFFF) ∧ d1 (.imin .n xA) 0xFFFFFFFFFFFFFFFF 1 0 = some (.u 1) := by
  decide +kernel
theorem test_bit_results : d1 (.shl xA) 1 64 0 = some (.u 0) ∧ d1 (.shr .s xA) 0x8000000000000000 64 0 = some (.u 0xFFFFFFFFFFFFFFFF) ∧ d1 (.shr .n xA) 0xF0 4 0 = some (.u 0xF)
    ∧ d1 (.rot xA) 0xF000000000000001 4 0 = some (.u 0x1F) ∧ d1 (.bfx .s xA) 0xF0 0x404 0 = some (.u 0xFFFFFFFFFFFFFFFF) ∧ d1 (.bfx .n xA) 0xF0 0x404 0 = some (.u 0xF)
    ∧ d1 (.bfi xA) 0xF 0 0x404 = some (.u 0xF0) ∧ d1 (.clz xA) 0 0 0 = some (.u 64) ∧ d1 (.ctz xA) 8 0 0 = some (.u 3) ∧ d1 (.popc xA) 0xFF 0 0 = some (.u 8)
    ∧ d1 (.bswap xA) 1 0 0 = some (.u 0x0100000000000000) ∧ d1 (.brev xA) 1 0 0 = some (.u 0x8000000000000000) ∧ d1 (.lea xA) 100 3 4 = some (.u 148)
    ∧ d1 (.movi (xI 0xFFFFFFFF)) 0 0 0 = some (.u 0xFFFFFFFFFFFFFFFF) ∧ d1 (.movhi (xI 1)) 5 0 0 = some (.u 0x100000005) ∧ d1 (.sel xA) 1 2 0 = some (.u 2) := by decide +kernel

/-- Exact and rounded results, overflow, a quotient and a root to the last place, whole powers (R261 to R267). -/
theorem test_float_results : d1 (.fadd .f32 xA) 0x3FC00000 0x40000000 0 = some (.u 0x40600000) ∧ d1 (.fmul .f32 xA) 0x7F7FFFFF 0x40000000 0 = some (.u 0x7F800000)
    ∧ fl (.fmul .f32 xA) 0x7F7FFFFF 0x40000000 0 = some (fxOF ||| fxNX) ∧ d1 (.fdiv .f32 xA) 0x3F800000 0x40400000 0 = some (.u 0x3EAAAAAB)
    ∧ fl (.fdiv .f32 xA) 0x3F800000 0x40400000 0 = some fxNX ∧ d1 (.fsqrt .f64 xA) 0x4000000000000000 0 0 = some (.u 0x3FF6A09E667F3BCD)
    ∧ d1 (.fma .f64 xA) 0x3FF8000000000000 0x4000000000000000 0x3FF0000000000000 = some (.u 0x4010000000000000) ∧ d1 (.frcp xA) 0x40000000 0 0 = some (.u 0x3F000000)
    ∧ d1 (.fexp2 xA) 0x40400000 0 0 = some (.u 0x41000000) ∧ d1 (.flog2 xA) 0x41000000 0 0 = some (.u 0x40400000)
    ∧ d1 (.cvt .f64f32 xA) 0x3FC00000 0 0 = some (.u 0x3FF8000000000000) ∧ d1 (.cvt .s64f64 xA) 0x4004000000000000 0 0 = some (.u 2)
    ∧ fl (.cvt .s64f64 xA) 0x4004000000000000 0 0 = some fxNX ∧ d1 (.cvt .e4m3f32 xA) 0x43E00000 0 0 = some (.u 0x7E) ∧ d1 (.frnd .ru .f32 xA) 0x3FA00000 0 0 = some (.u 0x40000000) := by
  decide +kernel

/-- Dot products, lns6 products, planes, packing (R277 to R283). -/
theorem test_packed_results : d1 (.qdot .s xA) 0x00000000000000FF 0x0000000000000002 10 = some (.u 8) ∧ d1 (.qdot .n xA) 0x0000000000000101 0x0000000000000302 0 = some (.u 5)
    ∧ d1 (.lmul xA) 0x10 0x12 0 = some (.u 0x12) ∧ d1 (.bplane .p8 xA) 0x0000000000000101 0 0 = some (.u 0x3) := by decide +kernel

/-- Strands: sums, prefixes, votes, ranges, forms; an affine sum stays affine (R17, R160, R271 to R275). -/
theorem test_strand_results : reg (.red .iadd64 xA) s4 1 = some (.u 46) ∧ reg (.scan .iadd64 { xA with a := g' 4 }) s4 1 = some (.a 3 3) ∧ reg (.vote .count { xA with a := g' 3 }) s4 1 = some (.u 3)
    ∧ reg (.range xA) s4 1 = some (.u 0x300000000) ∧ reg (.formq xA) s4 1 = some (.u 1) ∧ reg (.iadd .i64 { xA with b := g' 4 }) s4 1 = some (.a 13 1) ∧ reg (.elect xA) s4 1 = some (.u 1) := by
  decide +kernel

/-- A compare of an affine register cuts nothing and pushes the interval; a branch goes to its header; EXIT ends the thread (R145 to R157). -/
theorem test_control_results : (after (.cmp .lts { xA with b := g' 3 }) s5).map Thread.preds = some [⟨0, 2⟩] ∧ (after (.bra (xB 0)) s3).map Thread.pc = some 0x1000
    ∧ (after (.trap (xI 5)) (tr false)).map (fun t => (t.ecause, t.epc, t.pc)) = some (0x50000010B, 0x8000000000001010, 0x1000)
    ∧ (after (.eretHandler xA) (tr true)).map (fun t => (t.ecause, t.pc)) = some (0xB, 0x1000) := by decide +kernel

/-- A load owes its value, extended; a store is little-endian; a scratch store and load; an atomic owes the old value and stores the new (R8, R171 to R173, R232). -/
theorem test_memory_results : (after (.ld .s8 xM) m3).map (fun t => t.pend.map Pend.writes) = some [[(1, .u 0xFFFFFFFFFFFFFFFF)]]
    ∧ (match exec (.st .b16 xM) m3 with | .next u => some ((u.readLoc (.phys 0x40000) 1), u.readLoc (.phys 0x40001) 1, u.readLoc (.phys 0x40002) 1) | _ => none) = some (0x60, 0x50, 0xDD)
    ∧ (match exec (.sts .b64 (xM .scratch)) r3 with | .next u => some (u.readLoc (.scr 1 64) 8) | _ => none) = some 0x5060
    ∧ (match exec (.atom .add64 xQ) a1 with | .next u => some (u.readLoc (.phys 0x40000) 8, ((u.group 1).threads.map (fun t => t.pend.map Pend.writes))) | _ => none)
        = some (0x3F800005, [[[(1, .u 0x3F800000)]]]) := by decide +kernel

/-- A ring slot claimed; a slot with data taken; a packet pushed; a counter decremented; a range spawned (R181 to R183, R339, R366, R369). -/
theorem test_queue_results : reg (.rngclaim (xQ 1)) q3 1 = some (.u 0) ∧ reg (.rngwait { xQ 1 with a := g' 2 }) q3 1 = some (.u 0xFFFFFFFFFFFFFFFF) ∧ reg (.qpush xPush) (qu 1 0) 1 = some (.u 1)
    ∧ reg (.depdec xQ) dc 1 = some (.u 2) ∧ (match exec (.spawnRange xQ) sp3 with | .next u => some (u.tasks.length, u.groups.length, u.members.length) | _ => none) = some (2, 2, 1) := by
  decide +kernel

/-- A step of the machine with the word placed: ADDI g1, g2, 7 writes g1. -/
theorem test_step_runs_placed_word : (match step (State.reset.withFetchWord 64 0x128008000000000E) with | .next u => some ((u.group 1).threads.map (fun t => t.regs.get 1)) | _ => none) = some [.u 7] := by
  decide +kernel

/-! Object files, worked from R91 and R95. -/

theorem test_gap : gapClauses 36 36 = [16, 16, 1] ∧ gapClauses 35 35 = [16, 8, 8] ∧ gapBytes 0x1008 16 = 24 := by decide +kernel
/-- BRA (0x04F) from a header at 0x1000 to 0x0FF0: TGT26 is −2; a target that is no multiple of 8 is rejected. -/
theorem test_relocations : Reloc.place .br26 (Reloc.value .br26 0xFF0 0 0x1000) (BitVec.ofNat 64 (0x04F * 2 ^ 55))
      = some (BitVec.ofNat 64 (0x04F * 2 ^ 55 + (2 ^ 26 - 2) * 2 ^ 17))
    ∧ Reloc.place .br26 12 (BitVec.ofNat 64 (0x04F * 2 ^ 55)) = none
    ∧ Reloc.place .hi32 0x1234567800000000 (BitVec.ofNat 64 (0x025 * 2 ^ 55)) = some (BitVec.ofNat 64 (0x025 * 2 ^ 55 + 0x12345678 * 2))
    ∧ Reloc.place .lo32 5 (BitVec.ofNat 64 (0x04F * 2 ^ 55)) = none ∧ relocInfo 0x107 = some (.br26, 2) ∧ relocInfo 0x9 = none := by
  decide +kernel

/-! The hypotheses of the statements about floating point: operands of each kind, and the bounds of the conversion to lns6. -/

theorem witness_ExactResults : (3 : Nat) ≠ 0 ∧ (FVal.nan true).isNan = true ∧ (FVal.nan true).isSnan = true ∧ (FVal.fin true 3 0).isNan = false ∧ (FVal.inf false).isNan = false
    ∧ exMul (.inf false) (.fin true 0 0) = .nan fxNV := by decide
theorem witness_Quantised : (0x3FC00000 : Nat) < 2 ^ 32 ∧ F32.decode 0x3FC00000 = .fin false 0xC00000 (-23) ∧ F32.decode 0x7F800000 = .inf false ∧ (F32.decode 0x7FC00000).isNan = true
    ∧ (0x057F : W64).toNat % 256 ≠ 255 ∧ (0x05FF : W64).toNat % 256 = 255 ∧ E4M3.decode 0x7F = .nan false ∧ E2M1.decode 7 = .fin false 3 1 := by decide +kernel
/-- 1 lies in the interval of code 16, and is its value; 0 and 2^−5 below that of code 1; 2^4 above that of code 31. -/
theorem witness_ConversionRows : F32.decode (F32.modify .none (0x3F800000 % 2 ^ 32)) = .fin false 0x800000 (-23)
    ∧ (2 : ℝ) ^ ((((16 : ℕ) : ℝ) - 1 / 2 - 16) / 4) ≤ 1 ∧ (1 : ℝ) < 2 ^ ((((16 : ℕ) : ℝ) + 1 / 2 - 16) / 4) ∧ (1 : ℝ) = 2 ^ ((((16 : ℕ) : ℝ) - 16) / 4)
    ∧ (0 : ℝ) < 2 ^ (-5 : ℤ) ∧ (2 : ℝ) ^ (-5 : ℤ) < 2 ^ (-4 : ℤ) ∧ (2 : ℝ) ^ (((31.5 : ℝ) - 16) / 4) ≤ 2 ^ (4 : ℝ) := by
  refine ⟨by decide +kernel, ?_, ?_, ?_, by positivity, by norm_num, ?_⟩
  · exact Real.rpow_le_one_of_one_le_of_nonpos (by norm_num) (by norm_num)
  · exact Real.one_lt_rpow (by norm_num) (by norm_num)
  · norm_num
  · exact Real.rpow_le_rpow_of_exponent_le (by norm_num) (by norm_num)

/-- What disabling a function ends: the thread of a task is killed, so the task's counter is decremented (R323, R363, R405). -/
def counted : State := { put 0x40000 16 5 s3 with tasks := s3.tasks.map (fun t => { t with tdep := 0x40000 }) }
theorem test_disable_ends_tasks : (match exec (.vfDisable 1) counted with | .next u => some (u.readLoc (.phys 0x40000) 8, u.tasks.length, u.hasCtx 1) | _ => none) = some (4, 0, false) := by
  decide +kernel

end Sys2Proof.Tests
end

section
namespace Sys2Proof.Machine

-- Proofs are elaborated one after another: many at once need more threads than the check's memory limit allows.
set_option Elab.async false

/-! ### A state whose memories are in canonical form -/

/-- Every memory of the state is in its canonical form (R8, log 2): `State.memForm` as a proposition. -/
def State.Formed (s : State) : Prop := s.memForm = true

theorem State.formed_iff {s : State} : s.Formed ↔ Memory.wf s.mem = true ∧ Memory.wf s.dram = true
    ∧ (∀ p ∈ s.pens, Memory.wf p.scratch = true) ∧ Memory.wf s.mailbox = true := by
  simp [State.Formed, State.memForm, and_assoc]

/-- What an answer holds, where there is one, satisfies P. -/
def Holds {α : Type} (P : α → Prop) (o : Option α) : Prop := ∀ a, o = some a → P a

theorem Holds.none {α : Type} {P : α → Prop} : Holds P none := nofun
theorem Holds.some {α : Type} {P : α → Prop} {a : α} (h : P a) : Holds P (some a) := by rintro _ ⟨⟩; exact h

section
variable {s : State}

/-- A change of anything but the memories and the pens keeps the form. -/
theorem State.Formed.same {t : State} (h : s.Formed) (hm : t.mem = s.mem := by rfl) (hd : t.dram = s.dram := by rfl)
    (hp : t.pens = s.pens := by rfl) (hb : t.mailbox = s.mailbox := by rfl) : t.Formed := by
  rw [State.formed_iff, hm, hd, hp, hb]; exact State.formed_iff.mp h

/-- The form is kept where memory, DRAM and the mailbox are, and no pen comes that lacks it. -/
theorem State.Formed.pens {t : State} (h : s.Formed) (hp : ∀ p ∈ t.pens, Memory.wf p.scratch = true)
    (hm : t.mem = s.mem := by rfl) (hd : t.dram = s.dram := by rfl) (hb : t.mailbox = s.mailbox := by rfl) : t.Formed := by
  obtain ⟨h1, h2, -, h4⟩ := State.formed_iff.mp h
  exact State.formed_iff.mpr ⟨hm ▸ h1, hd ▸ h2, hp, hb ▸ h4⟩

theorem State.Formed.scratch (h : s.Formed) {p : Pen} (hp : p ∈ s.pens) : Memory.wf p.scratch = true :=
  (State.formed_iff.mp h).2.2.1 p hp

theorem State.Formed.mapPens {t : State} {f : Pen → Pen} (h : s.Formed) (hp : t.pens = s.pens.map f)
    (hf : ∀ p, Memory.wf p.scratch = true → Memory.wf (f p).scratch = true)
    (hm : t.mem = s.mem := by rfl) (hd : t.dram = s.dram := by rfl) (hb : t.mailbox = s.mailbox := by rfl) : t.Formed := by
  refine h.pens (fun q hq => ?_) hm hd hb
  obtain ⟨p, hp', rfl⟩ := List.mem_map.mp (hp ▸ hq)
  exact hf p (h.scratch hp')

theorem State.Formed.updPenBy {p : Nat} {f : Pen → Pen} (h : s.Formed)
    (hf : ∀ x : Pen, Memory.wf x.scratch = true → Memory.wf (f x).scratch = true) : (s.updPen p f).Formed :=
  h.mapPens rfl (fun x hx => by split; exacts [hf x hx, hx])

/-- A change of a pen that leaves its scratch alone keeps the form. -/
theorem State.Formed.updPen {p : Nat} {f : Pen → Pen} (h : s.Formed) (hf : ∀ x : Pen, (f x).scratch = x.scratch := by intro _; rfl) :
    (s.updPen p f).Formed := h.updPenBy (fun x hx => (hf x).symm ▸ hx)

theorem State.Formed.storeMem {t : State} {a n v : Nat} (h : s.Formed) (hm : t.mem = Memory.store s.mem a n v := by rfl)
    (hd : t.dram = s.dram := by rfl) (hp : t.pens = s.pens := by rfl) (hb : t.mailbox = s.mailbox := by rfl) : t.Formed := by
  obtain ⟨h1, h2, h3, h4⟩ := State.formed_iff.mp h
  exact State.formed_iff.mpr ⟨hm ▸ Memory.store_wf h1 a n v, hd ▸ h2, hp ▸ h3, hb ▸ h4⟩

theorem State.Formed.storeDram {t : State} {a n v : Nat} (h : s.Formed) (hd : t.dram = Memory.store s.dram a n v := by rfl)
    (hm : t.mem = s.mem := by rfl) (hp : t.pens = s.pens := by rfl) (hb : t.mailbox = s.mailbox := by rfl) : t.Formed := by
  obtain ⟨h1, h2, h3, h4⟩ := State.formed_iff.mp h
  exact State.formed_iff.mpr ⟨hm ▸ h1, hd ▸ Memory.store_wf h2 a n v, hp ▸ h3, hb ▸ h4⟩

theorem State.Formed.setMailbox {t : State} (h : s.Formed) (hb : Memory.wf t.mailbox = true) (hm : t.mem = s.mem := by rfl)
    (hd : t.dram = s.dram := by rfl) (hp : t.pens = s.pens := by rfl) : t.Formed := by
  obtain ⟨h1, h2, h3, -⟩ := State.formed_iff.mp h
  exact State.formed_iff.mpr ⟨hm ▸ h1, hd ▸ h2, hp ▸ h3, hb⟩

/-- Every write keeps the form. -/
theorem State.Formed.writeLoc {l : Loc} {n v : Nat} (h : s.Formed) : (s.writeLoc l n v).Formed := by
  cases l with
  | phys pa => exact h.storeMem
  | scr p off => exact h.updPenBy (fun x hx => Memory.store_wf hx off n v)

theorem State.Formed.foldl {α : Type} {f : State → α → State} {l : List α} (h : s.Formed)
    (hf : ∀ x a, x.Formed → (f x a).Formed) : (l.foldl f s).Formed := by
  induction l generalizing s with
  | nil => exact h
  | cons a l ih => exact ih (hf s a h)

/-- A loop that carries a value beside the state. -/
theorem State.Formed.foldlPair {α β : Type} {f : State × β → α → State × β} {l : List α} {p : State × β} (h : p.1.Formed)
    (hf : ∀ x a, x.1.Formed → (f x a).1.Formed) : (l.foldl f p).1.Formed := by
  induction l generalizing p with
  | nil => exact h
  | cons a l ih => exact ih (hf p a h)

theorem State.Formed.ite {c : Prop} [Decidable c] {t : State} (h : s.Formed) (ht : t.Formed) : (if c then s else t).Formed := by
  split
  · exact h
  · exact ht

theorem State.Formed.actFor {c : Nat} {f : State → State} (h : s.Formed) (hf : ∀ x, x.Formed → (f x).Formed) : (s.actFor c f).Formed := by
  have h1 : (f { s with actor := c }).Formed := hf _ h.same
  exact h1.same

/-! ### Queues, tethers, records -/

theorem State.Formed.setIdx {q : QView} {w r : W64} (h : s.Formed) : (s.setIdx q w r).Formed := h.writeLoc.writeLoc

theorem State.Formed.setTether {t : Tether} (h : s.Formed) : (s.setTether t).Formed := by
  unfold State.setTether
  extract_lets _ s1 _
  have h1 : s1.Formed := h.same
  split
  · exact h1.writeLoc.writeLoc
  · exact h1

theorem State.Formed.readyGroup {g : Nat} (h : s.Formed) : (s.readyGroup g).Formed := by
  unfold State.readyGroup
  extract_lets
  split
  · exact h.same
  · exact h

theorem State.Formed.popDone {op : Nat} {pkt : BitVec 512} (h : s.Formed) : (s.popDone op pkt).Formed := h.same

theorem State.Formed.handPop {t : Tether} {pkt : BitVec 512} (h : s.Formed) : (s.handPop t pkt).Formed := by
  unfold State.handPop
  split
  · exact h.setTether
  · exact h.popDone.setTether.foldl (fun _ _ hx => hx.readyGroup)

theorem State.Formed.pushTo {q : QView} {pkt : BitVec 512} (h : s.Formed) : Holds (·.1.Formed) (s.pushTo q pkt) := by
  unfold State.pushTo
  extract_lets poppers s1
  have h1 : s1.Formed := h.writeLoc.setIdx
  clear_value poppers
  split
  · exact .some h1.handPop
  · split
    · exact .none
    · exact .some h.writeLoc.setIdx

theorem State.Formed.popFrom {c : Nat} {a : W64} {q : QView} (h : s.Formed) : Holds (·.1.Formed) (s.popFrom c a q) := by
  unfold State.popFrom
  extract_lets pkt s1 pushers
  have h1 : s1.Formed := h.setIdx
  clear_value pushers s1
  split
  · exact .none
  split
  · exact .some h1
  split
  · exact .some h1.setTether
  split
  · split
    · exact .some h1
    · extract_lets s2 s3
      have h3 : s3.Formed := h1.writeLoc.setIdx.same
      exact .some h3.setTether.readyGroup
  · exact .some h1

theorem State.Formed.logRecord {c : Nat} {r : BitVec 512} (h : s.Formed) : (s.logRecord c r).Formed := by
  unfold State.logRecord
  extract_lets fail
  have hf : fail.Formed := h.same
  split
  · exact hf
  split
  · exact hf
  · refine h.actFor (fun x hx => ?_)
    split
    next s1 _ he => exact hx.pushTo _ he
    · exact hf

theorem State.Formed.logPlain {c launch : Nat} {va aux : W64} {cause acc kind : Nat} (h : s.Formed) :
    (s.logPlain c launch va aux cause acc kind).Formed := h.logRecord

/-! ### Lines, parking, waits, counters -/

theorem State.Formed.loseLine {line ctx die : Nat} {shed : Bool} (h : s.Formed) : (s.loseLine line ctx die shed).Formed := by
  unfold State.loseLine
  extract_lets r s1 s2
  have h1 : s1.Formed := h.storeMem
  have h2 : s2.Formed := by unfold s2; split; exacts [h1, h1.logRecord]
  exact h2.same

theorem State.Formed.writeBack {line die : Nat} (h : s.Formed) : (s.writeBack line die).Formed := by
  unfold State.writeBack
  split
  · split
    · exact h
    · exact h.loseLine
  · exact h.storeDram

theorem State.Formed.park {gid : Nat} {lanes : List Nat} {pc : W64} {first npm1 slot : Nat} {f : FaultInfo} (h : s.Formed) :
    (s.park gid lanes pc first npm1 slot f).Formed := by
  unfold State.park
  extract_lets g p l handle low dbl ec lmask rcd s1 held s2 s3
  have h2 : s2.Formed := h.same
  have h3 : s3.Formed := by unfold s3; split; exacts [h2, h2.logRecord]
  split
  · exact h3.same
  · exact h3

theorem State.Formed.endWait {w : WaitRef} (h : s.Formed) : (s.endWait w).Formed := by
  cases w with
  | here g l => exact h.same
  | peer p => exact h.same

theorem State.Formed.wake {c : Nat} {l : Loc} {n : Nat} (h : s.Formed) : (s.wake c l n).1.Formed :=
  h.foldl (fun _ _ hx => hx.endWait)
theorem State.Formed.wakeAll {c : Nat} {l : Loc} (h : s.Formed) : (s.wakeAll c l).Formed := h.wake

theorem State.Formed.act {c kind : Nat} {addr : W64} (h : s.Formed) : (s.act c kind addr).Formed := by
  unfold State.act
  split
  · split <;> exact h.same
  · exact h.same
  · exact h.same
  · exact h

theorem State.Formed.depDecAt {c launch : Nat} {l : Loc} {a : W64} {b : Nat} (h : s.Formed) : (s.depDecAt c launch l a b).1.Formed := by
  unfold State.depDecAt
  extract_lets cnt word r s1 s2
  have h1 : s1.Formed := h.writeLoc
  split
  · exact h.logPlain
  split
  · exact h1.writeLoc.wakeAll.act
  · exact h1

theorem State.Formed.devFail {c launch : Nat} {f : FaultInfo} {acc : DevAcc} (h : s.Formed) : (s.devFail c launch f acc).Formed := by
  unfold State.devFail
  split
  · exact h.same
  · exact h.logPlain

theorem State.Formed.devDec {c launch : Nat} {a : W64} (h : s.Formed) : (s.devDec c launch a).Formed := by
  unfold State.devDec
  split
  · exact h
  split
  · exact h.logPlain
  split
  · exact h.devFail
  · exact h.actFor (fun _ hx => hx.depDecAt)

end
end Sys2Proof.Machine
end

section
namespace Sys2Proof.Machine

set_option Elab.async false

/-! ### Reading what was written (R8, R170, R207) -/

/-- The pens after a change of one of them: every pen there is, the changed one changed. -/
theorem State.pen_updPen {s : State} {p q : Nat} {f : Pen → Pen} (hf : ∀ x, (f x).id = x.id) (hp : p ∈ s.pens.map Pen.id) :
    (s.updPen p f).pen q = if q = p then f (s.pen q) else s.pen q := by
  have hmap : ((fun x : Pen => x.id == q) ∘ fun x => if x.id == p then f x else x) = fun x => x.id == q := by
    funext x; simp only [Function.comp]; split <;> simp [hf]
  unfold State.pen State.updPen
  simp only [List.find?_map, hmap]
  cases hq : s.pens.find? (fun x => x.id == q) with
  | none =>
    have hne : q ≠ p := by
      rintro rfl
      obtain ⟨x, hx, rfl⟩ := List.mem_map.mp hp
      simpa using List.find?_eq_none.mp hq x hx
    simp [hne]
  | some x =>
    have hid : x.id = q := by simpa using List.find?_some hq
    simp [hid]

/-- The scratch of any number's pen is in canonical form: where there is no such pen, it is empty. -/
theorem State.Formed.penScratch {s : State} {p : Nat} (h : s.Formed) : Memory.wf (s.pen p).scratch = true := by
  unfold State.pen
  cases hq : s.pens.find? (fun x => x.id == p) with
  | none => rfl
  | some x => exact h.scratch (List.mem_of_find?_eq_some hq)

/-- A read of a scratch after a write to one: the written pen's scratch holds the bytes, each other is as it was. -/
theorem State.readLoc_scr_writeLoc {s : State} {p q a b n j v : Nat} (hp : p ∈ s.pens.map Pen.id) :
    (s.writeLoc (.scr p a) n v).readLoc (.scr q b) j
      = Memory.load (if q = p then Memory.store (s.pen q).scratch a n v else (s.pen q).scratch) b j := by
  simp only [State.writeLoc, State.readLoc, State.pen_updPen (f := fun x => { x with scratch := Memory.store x.scratch a n v }) (fun _ => rfl) hp,
    apply_ite Pen.scratch]

theorem State.Formed.readLoc_writeLoc {s : State} {l : Loc} {n v : Nat} (h : s.Formed)
    (hl : ∀ p o, l = .scr p o → p ∈ s.pens.map Pen.id) : (s.writeLoc l n v).readLoc l n = v % 2 ^ (8 * n) := by
  have h256 : 256 ^ n = 2 ^ (8 * n) := (Nat.pow_mul 2 8 n).symm
  rw [← h256]
  cases l with
  | phys a => exact Memory.load_store (State.formed_iff.mp h).1 a n v
  | scr p a =>
    rw [State.readLoc_scr_writeLoc (hl p a rfl), if_pos rfl]
    exact Memory.load_store h.penScratch a n v

/-- The locations share no byte. -/
def Loc.Apart (l : Loc) (n : Nat) (k : Loc) (j : Nat) : Prop :=
  match l, k with
  | .phys a, .phys b => a + n ≤ b ∨ b + j ≤ a
  | .scr p a, .scr q b => p ≠ q ∨ a + n ≤ b ∨ b + j ≤ a
  | _, _ => True

theorem State.Formed.readLoc_writeLoc_apart {s : State} {l k : Loc} {n v j : Nat} (h : s.Formed)
    (hl : ∀ p o, l = .scr p o → p ∈ s.pens.map Pen.id) (hk : l.Apart n k j) : (s.writeLoc l n v).readLoc k j = s.readLoc k j := by
  match l, k with
  | .phys a, .phys b => exact Memory.load_store_apart (State.formed_iff.mp h).1 a n v b j hk.symm
  | .phys _, .scr _ _ => rfl
  | .scr _ _, .phys _ => rfl
  | .scr p a, .scr q b =>
    rw [State.readLoc_scr_writeLoc (hl p a rfl)]
    split
    next hqp => exact Memory.load_store_apart h.penScratch a n v b j (hk.resolve_left (fun hne => hne hqp.symm)).symm
    next => rfl

/-- A write changes DRAM and its writers, or a pen's scratch, and nothing else. -/
theorem State.writeLoc_frame {s : State} {l : Loc} {n v : Nat} :
    s.writeLoc l n v = { s with mem := (s.writeLoc l n v).mem, writers := (s.writeLoc l n v).writers, pens := (s.writeLoc l n v).pens } := by
  cases l with
  | phys _ => rfl
  | scr _ _ => rfl

/-- Settles O24: the four parts are the form, the bytes written, the frame and the other bytes. -/
theorem memoryWrites : Obligations.MemoryWrites := by
  intro s l n v h hl
  refine ⟨State.Formed.writeLoc h, State.Formed.readLoc_writeLoc h hl, State.writeLoc_frame, fun k j hk => ?_⟩
  refine State.Formed.readLoc_writeLoc_apart h hl ?_
  cases l <;> cases k <;> exact hk

end Sys2Proof.Machine
end

section
namespace Sys2Proof.Machine

set_option Elab.async false

/-! ### What an answer gives -/

/-- What an answer gives, if it is no error, satisfies P. -/
def Gives {ε α : Type} (P : α → Prop) (x : Except ε α) : Prop := ∀ a, x = .ok a → P a

section
variable {ε α β : Type} {P : α → Prop}

theorem Gives.ok {a : α} (h : P a) : Gives (ε := ε) P (.ok a) := by rintro _ ⟨⟩; exact h
theorem Gives.error {e : ε} : Gives P (.error e) := nofun
/-- After a check, of whose value nothing need be known. -/
theorem Gives.bind {x : Except ε β} {f : β → Except ε α} (hf : ∀ b, Gives P (f b)) : Gives P (x >>= f) := by
  cases x with
  | error => exact .error
  | ok b => exact hf b
theorem Gives.bindOf {Q : β → Prop} {x : Except ε β} {f : β → Except ε α} (hx : Gives Q x) (hf : ∀ b, Q b → Gives P (f b)) :
    Gives P (x >>= f) := by
  cases x with
  | error => exact .error
  | ok b => exact hf b (hx b rfl)
end

section
variable {s : State}

/-! ### Strands and groups -/

theorem State.Formed.settle {p : Nat} (h : s.Formed) : (s.settle p).Formed :=
  h.same (s.settle_mem p) (s.settle_dram p) (s.settle_pens p) (s.settle_mailbox p)

theorem State.Formed.cut {gid : Nat} {ps : List (Nat × Nat)} {spl : Option W64} (h : s.Formed) : Holds (·.1.Formed) (s.cut gid ps spl) := by
  unfold State.cut
  extract_lets
  split
  · extract_lets
    split
    · exact .none
    · exact .some h.same
  · exact .none

theorem State.Formed.layDown {gid : Nat} (h : s.Formed) : Holds (·.1.Formed) (s.layDown gid) := by
  unfold State.layDown
  extract_lets
  split
  · extract_lets
    split
    · exact .some h.same
    · exact .some h.same
  · exact .none

theorem State.Formed.foldGroup {gid : Nat} {live : List Nat} {pc : W64} (h : s.Formed) : (s.foldGroup gid live pc).Formed := by
  unfold State.foldGroup
  extract_lets
  split
  · exact h.same
  · exact h.same

theorem State.Formed.cleanup {gid : Nat} (h : s.Formed) : (s.cleanup gid).Formed := by
  unfold State.cleanup
  split
  · exact h.same
  · exact h.same

theorem State.Formed.noteKill {task : Nat} {inc : Bool} (h : s.Formed) : (s.noteKill task inc).Formed := by
  unfold State.noteKill
  extract_lets
  split
  · exact h.same
  · exact h.same

theorem State.Formed.killRes {pen : Nat} {t : Thread} (h : s.Formed) : (killRes s pen t).s.Formed := h.noteKill.same

/-! ### Driving an instruction -/

theorem State.Formed.applyCps {d : Option CpsDone} (h : s.Formed) : (CpsDone.apply s d).Formed := by
  cases d with
  | none => exact h
  | some x => exact h.foldl (fun _ _ hx => hx.writeLoc)

theorem State.Formed.advance {e : Env} {go : List Nat} (h : s.Formed) : (s.advance e go).Formed := h.same

theorem State.Formed.parkStrand {e : Env} {t : Thread} {f : FaultInfo} (h : s.Formed) : (s.parkStrand e t f).Formed := by
  have h1 : State.Formed (s.updGroup e.gid (fun g => { g.mapLanes [t.lane] (fun u => u.at' e) with run := none })) := h.same
  exact h1.park

theorem State.Formed.cutFault {e : Env} {t : Thread} {j : Nat} {f : FaultInfo} {done : Option CpsDone} (h : s.Formed) :
    (s.cutFault e t j f done).Formed := by
  unfold State.cutFault
  extract_lets s0 cps g slot _ sub ng s1 _ s2
  have h0 : s0.Formed := h.applyCps
  clear_value s0
  have h2 : s2.Formed := h0.same
  split
  · have h3 : (s0.updThread e.gid t.lane (fun x => { x with cps := cps })).Formed := h0.same
    exact h3.parkStrand
  · exact h2.park.advance

/-- An action that keeps the form: what it gives, it gives in a state that has the form. -/
structure Meaning.Keeps (m : Meaning) : Prop where
  act : ∀ {s : State} {e : Env} {t : Thread}, s.Formed → Gives (·.s.Formed) (m.act s e t)
  each : ∀ f, m.each = some f → ∀ {s : State} {e : Env} {t : Thread} {k : Nat}, s.Formed → Gives (·.s.Formed) (f s e t k)

/-- A meaning without an action for each index keeps the form when its one action does. -/
theorem Meaning.Keeps.of_act {m : Meaning} (h : m.each = none)
    (ha : ∀ {s : State} {e : Env} {t : Thread}, s.Formed → Gives (·.s.Formed) (m.act s e t)) : m.Keeps :=
  ⟨ha, fun f hf => by rw [h] at hf; cases hf⟩

theorem Meaning.Keeps.guarded {m : Meaning} (h : m.Keeps) (bad : Bool) : (m.guarded bad).Keeps := by
  unfold Meaning.guarded
  split
  · exact .of_act rfl (fun _ => .error)
  · exact h

theorem State.Formed.commit {r : Res} {e : Env} (h : r.s.Formed) : (r.commit e).1.Formed := h.same

theorem State.Formed.actOnce {e : Env} {m : Meaning} (h : s.Formed) (hm : m.Keeps) : (s.actOnce e m).Formed := by
  unfold State.actOnce
  split
  · split
    next r hr => exact (State.Formed.commit (hm.act h r hr)).advance
    · exact h.cutFault
    · exact h.same
  · exact h

theorem State.Formed.actNone {e : Env} {m : Meaning} (h : s.Formed) : (s.actNone e m).Formed := by
  unfold State.actNone
  split
  · extract_lets s1
    have h1 : s1.Formed := by unfold s1; split; exacts [h.same, h]
    exact h1.advance
  · exact h

theorem eachLoop_formed {f : State → Env → Thread → Nat → Except Stop Res} {e : Env}
    (hf : ∀ {s : State} {e : Env} {t : Thread} {k : Nat}, s.Formed → Gives (·.s.Formed) (f s e t k)) (ks : List Nat) {s : State} {t : Thread}
    (h : s.Formed) : (eachLoop f e ks s t).1.Formed := by
  induction ks generalizing s t with
  | nil => exact h
  | cons k ks ih =>
    unfold eachLoop
    split
    next r hr => exact ih (hf h r hr)
    · exact ih h

theorem State.Formed.actEach {e : Env} {t : Thread} {rs : List (Nat × Nat × Bool)} {f : State → Env → Thread → Nat → Except Stop Res}
    (h : s.Formed) (hf : ∀ {s : State} {e : Env} {t : Thread} {k : Nat}, s.Formed → Gives (·.s.Formed) (f s e t k)) :
    (s.actEach e t rs f).Formed := by
  unfold State.actEach
  extract_lets ks bad good order r s1
  have hr : r.1.Formed := eachLoop_formed hf _ h.same
  have h1 : s1.Formed := hr.same
  clear_value bad
  split
  · exact h1.advance
  split
  · exact h1.cutFault
  · exact h.same
  · exact h1

theorem Meaning.Keeps.lane {m : Meaning} {e : Env} {t : Thread} (hm : m.Keeps) (h : s.Formed) : Gives (·.s.Formed) (m.lane s e t) := by
  unfold Meaning.lane
  split
  · exact .error
  split
  · split
    next f hf => exact hm.each f hf h
    · exact hm.act h
  · split
    · exact .ok h.same
    · exact .ok h

theorem laneLoop_formed {m : Meaning} {e : Env} (hm : m.Keeps) (ls : List Nat) {s : State} {go : List Nat} (h : s.Formed) :
    (laneLoop m e ls s go).1.Formed := by
  induction ls generalizing s go with
  | nil => exact h
  | cons l ls ih =>
    unfold laneLoop
    split
    · exact ih h
    · split
      next r hr => exact ih (State.Formed.commit (hm.lane h r hr))
      · exact h

theorem State.Formed.parkLanes {e : Env} {ls : List Nat} {first : Nat} {f : FaultInfo} {done : Option CpsDone} (h : s.Formed) :
    (s.parkLanes e ls first f done).Formed := by
  unfold State.parkLanes
  extract_lets s0 cps s1
  have h0 : s0.Formed := h.applyCps
  have h1 : s1.Formed := h0.same
  exact h1.park

theorem State.Formed.driveLanes {e : Env} {m : Meaning} (h : s.Formed) (hm : m.Keeps) : (s.driveLanes e m).Formed := by
  unfold State.driveLanes
  split
  · exact h
  next r _ =>
    extract_lets todo done bad good x
    have hl : (if m.asc then laneLoop m e todo s [] else (x.1, x.2.1, bad)).1.Formed := by
      split
      · exact laneLoop_formed hm _ h
      · exact laneLoop_formed hm _ h.same
    split
    next s1 go stop hs =>
    rw [hs] at hl
    split
    · exact State.Formed.advance hl
    · exact (State.Formed.parkLanes hl).advance
    · exact State.Formed.same hl

theorem State.Formed.driveLaid {e : Env} {m : Meaning} (h : s.Formed) (hm : m.Keeps) : (s.driveLaid e m).Formed := by
  unfold State.driveLaid
  extract_lets core
  split
  · exact h.same
  next s1 gid he =>
    split at he
    · cases he
    · exact State.Formed.driveLanes (h.layDown _ he) hm

theorem State.Formed.driveStrand {e : Env} {m : Meaning} {t : Thread} (h : s.Formed) (hm : m.Keeps) : (s.driveStrand e m t).Formed := by
  unfold State.driveStrand
  split
  · exact h.parkStrand
  extract_lets any
  split
  · exact h.actNone
  split
  · exact h.driveLaid hm
  split
  next f hf => exact h.actEach (hm.each f hf)
  split
  · exact h.actOnce hm
  split
  · exact h.driveLaid hm
  next s1 ids he =>
    refine State.Formed.foldl (h.cut _ he) (fun x p hx => ?_)
    split
    · exact hx.actOnce hm
    · exact hx.actNone

/-- The state that an outcome gives, if it gives one, has the form. -/
def GivesFormed (o : Host.Outcome State Fault Refusal) : Prop := ∀ t, o = .next t → t.Formed

theorem GivesFormed.next (h : s.Formed) : GivesFormed (.next s) := by rintro _ ⟨⟩; exact h
theorem GivesFormed.fault {f : Fault} : GivesFormed (.fault f) := nofun

/-- An instruction word keeps the form when its action does. -/
theorem drive_formed {i : Instr} {bad : Env → Bool} {m : Meaning} (hm : m.Keeps) (h : s.Formed) : GivesFormed (drive i bad m s) := by
  unfold drive
  split
  · exact .fault
  extract_lets g
  split
  · exact .fault
  extract_lets e m1 s1
  have h1 : s1.Formed := by
    unfold s1
    split
    · exact h.driveLanes (hm.guarded _)
    split
    · exact h.driveStrand (hm.guarded _)
    · exact h
  exact .next h1.settle
end
end Sys2Proof.Machine
end

section
namespace Sys2Proof.Machine

set_option Elab.async false

/-! ### Blocks 0, 1, 4 and 5: registers, predicates, control -/

section
variable {s : State}

/-- A check that fails stops the action; one that holds lets the rest of it run. -/
theorem Gives.guard {ε α : Type} {P : α → Prop} {c : Prop} [Decidable c] {x : Except ε Unit} {f : Unit → Except ε α}
    (h : ∀ u, Gives P (f u)) : Gives P (if c then x >>= f else f ()) := by
  split
  · exact .bind h
  · exact h ()

theorem RegI.meaning_keeps (r : RegI) : r.meaning.Keeps := .of_act rfl fun h => by
  dsimp only [RegI.meaning]
  split
  · exact .ok h
  · exact .error

theorem regOp_formed {i : Instr} {r : RegI} (h : s.Formed) : GivesFormed (regOp i r s) := drive_formed r.meaning_keeps h

theorem execImulw_formed {v : Sgn} {x : FmtA} (h : s.Formed) : GivesFormed (execImulw v x s) := by
  unfold execImulw
  exact drive_formed (.of_act rfl fun h => .ok h) h

theorem pushRuns_formed {i : Instr} {bad : Env → Bool} {m : Meaning} {pops : Nat} {runs : Env → Thread → List (Nat × Nat × Bool)}
    {fl : Env → Thread → Fpx} (hm : m.Keeps) (h : s.Formed) : GivesFormed (pushRuns i bad m pops runs fl s) := by
  unfold pushRuns
  split
  · exact .fault
  extract_lets g
  split
  · extract_lets e m1 rs fits
    split
    · split
      · exact .next (h.driveLaid (hm.guarded _)).settle
      next s1 ids he =>
        have h1 : s1.Formed := by
          split at he
          · exact h.cut _ he
          · cases he
        exact .next (h1.foldl (fun x p hx => State.Formed.advance (hx.same))).settle
    · exact drive_formed hm h
  · exact drive_formed hm h

theorem CmpI.meaning_keeps (c : CmpI) : c.meaning.Keeps := .of_act rfl fun h => by
  dsimp only [CmpI.meaning]
  split
  · exact .error
  split
  · exact .error
  split
  · exact .error
  · exact .ok h

theorem cmpOp_formed {i : Instr} {c : CmpI} (h : s.Formed) : GivesFormed (cmpOp i c s) := pushRuns_formed c.meaning_keeps h

theorem stackOp_formed {i : Instr} {need : Nat} {f : Bool → Bool → Bool} (h : s.Formed) : GivesFormed (stackOp i need f s) :=
  pushRuns_formed (.of_act rfl fun h => by
    dsimp only
    split
    · exact .error
    split
    · exact .error
    · exact .ok h) h

theorem execPpop_formed {x : FmtA} (h : s.Formed) : GivesFormed (execPpop x s) :=
  drive_formed (.of_act rfl fun h => by
    dsimp only
    split
    · exact .error
    · exact .ok h) h

theorem branchMeaning_keeps {gd : Guard} {spl : BitVec 16} {reg : Option Opd} {tgt : Env → Thread → W64} {link : Bool} :
    (branchMeaning gd spl reg tgt link).Keeps := .of_act rfl fun h => by
  dsimp only [branchMeaning]
  split
  · exact .error
  · exact .ok h

theorem execLoop_formed {x : FmtB} (h : s.Formed) : GivesFormed (execLoop x s) :=
  drive_formed (.of_act rfl fun h => by
    dsimp only
    split
    · exact .ok h
    split
    · exact .error
    · exact .ok h) h

theorem execSplice_formed {x : FmtI} (h : s.Formed) : GivesFormed (execSplice x s) :=
  drive_formed (.of_act rfl fun h => by
    dsimp only
    split
    · split
      · split
        · exact .ok h
        · exact .ok h
      · exact .ok h
    · split
      · exact .ok h.same
      · exact .ok h) h

theorem execExit_formed {x : FmtA} (h : s.Formed) : GivesFormed (execExit x s) :=
  drive_formed (.of_act rfl fun h => .ok h.same) h
theorem execNop_formed {x : FmtA} (h : s.Formed) : GivesFormed (execNop x s) :=
  drive_formed (.of_act rfl fun h => .ok h) h
theorem execLaydn_formed {x : FmtA} (h : s.Formed) : GivesFormed (execLaydn x s) :=
  drive_formed (.of_act rfl fun h => .ok h) h

theorem valueMeaning_keeps {gd : Guard} {d : Opd} {f : State → Env → Thread → W64} : (valueMeaning gd d f).Keeps :=
  .of_act rfl fun h => .ok h

theorem execKpoint_formed {x : FmtA} (h : s.Formed) : GivesFormed (execKpoint x s) :=
  drive_formed (.of_act rfl fun h => by
    dsimp only
    split
    · exact .ok h.killRes
    · exact .ok h) h

theorem yieldWord_formed {x : FmtA} (h : s.Formed) : GivesFormed (yieldWord x s) :=
  drive_formed (.of_act rfl fun h => by
    dsimp only
    split
    · exact .ok h.killRes
    · exact .ok h.same) h

theorem crossOp_formed {i : Instr} {c : CrossI} (h : s.Formed) : GivesFormed (crossOp i c s) :=
  drive_formed (.of_act rfl fun h => by
    dsimp only [CrossI.meaning]
    split
    · exact .ok h
    · exact .ok h) h

/-! ### Block 2: memory and rings -/

theorem State.Formed.placeShed {c die line : Nat} (h : s.Formed) : (s.placeShed c die line).Formed := by
  unfold State.placeShed
  extract_lets
  split
  · exact h
  · exact h.same

theorem State.Formed.hinted {e : Env} {k : Hint} {l : Loc} (h : s.Formed) : (s.hinted e k l).Formed := by
  unfold State.hinted
  split
  · exact h.placeShed
  · exact h

theorem State.Formed.oweRes {e : Env} {t : Thread} {flg : BitVec 4} {ws : List (Nat × Form)} {fpx : Fpx} {q : Option W64} (h : s.Formed) :
    (oweRes s e t flg ws fpx q).s.Formed := h.same

theorem State.Formed.oweOnce {e : Env} {t : Thread} {fpx : Fpx} (h : s.Formed) : (oweOnce s e t fpx).s.Formed := by
  unfold Machine.oweOnce
  split
  · exact h
  · exact h.oweRes

/-- An action that a strand makes for each of its indices, and a lane thread once. -/
theorem Meaning.Keeps.of_each {m : Meaning} {f : State → Env → Thread → Nat → Except Stop Res} (he : m.each = some f)
    (ha : ∀ s e t, m.act s e t = f s e t 0)
    (hf : ∀ {s : State} {e : Env} {t : Thread} {k : Nat}, s.Formed → Gives (·.s.Formed) (f s e t k)) : m.Keeps :=
  ⟨fun h => by rw [ha]; exact hf h, fun g hg => by rw [he] at hg; cases hg; exact hf⟩

theorem execLd_formed {v : LdV} {x : FmtM} (h : s.Formed) : GivesFormed (execLd v x s) :=
  drive_formed (.of_act rfl fun h => .bind fun _ => .ok h.hinted.oweRes) h

theorem execSt_formed {v : StV} {x : FmtM} (h : s.Formed) : GivesFormed (execSt v x s) := by
  unfold execSt
  exact drive_formed (.of_each rfl (fun _ _ _ => rfl) fun h => .bind fun _ => .ok h.writeLoc.hinted) h

theorem execLds_formed {v : LdsV} {x : FmtM} (h : s.Formed) : GivesFormed (execLds v x s) :=
  drive_formed (.of_act rfl fun h => .bind fun _ => .ok h) h

theorem execSts_formed {v : LdsV} {x : FmtM} (h : s.Formed) : GivesFormed (execSts v x s) := by
  unfold execSts
  exact drive_formed (.of_each rfl (fun _ _ _ => rfl) fun h => .bind fun _ => .ok h.writeLoc) h

theorem State.Formed.prefetch {e : Env} {x : FmtM} {t : Thread} {k : Nat} (h : s.Formed) : (s.prefetch e x t k).Formed := by
  unfold State.prefetch
  split
  · exact h.hinted
  · exact h

theorem execPref_formed {x : FmtM} (h : s.Formed) : GivesFormed (execPref x s) := by
  unfold execPref
  exact drive_formed (.of_each rfl (fun _ _ _ => rfl) fun h => .ok h.prefetch) h

theorem cpsAct_formed {out : Bool} {x : FmtM} {e : Env} {t : Thread} {k : Nat} (h : s.Formed) : Gives (·.s.Formed) (cpsAct out x s e t k) := by
  unfold cpsAct
  extract_lets part loads stores vs writes s1 s2 t1
  have h1 : s1.Formed := h.applyCps
  have h2 : s2.Formed := by unfold s2; split; exacts [h1.hinted, h1]
  split
  · split
    · exact .error
    · exact .error
  · split
    · exact .ok h2
    · exact .ok h2.oweOnce

theorem execCpsIn_formed {x : FmtM} (h : s.Formed) : GivesFormed (execCpsIn x s) :=
  drive_formed (.of_each rfl (fun _ _ _ => rfl) cpsAct_formed) h
theorem execCpsOut_formed {x : FmtM} (h : s.Formed) : GivesFormed (execCpsOut x s) :=
  drive_formed (.of_each rfl (fun _ _ _ => rfl) cpsAct_formed) h

theorem State.Formed.setRing {pen n : Nat} {r : Ring} (h : s.Formed) : (s.setRing pen n r).Formed := h.updPen

theorem ringWait_keeps {claim : Bool} {x : FmtQ} : (ringWait claim x).Keeps := .of_act rfl fun h => by
  dsimp only [ringWait]
  split
  · exact .error
  split
  · exact .ok h.setRing
  · split
    · exact .ok h
    · exact .ok h

theorem ringMark_keeps {want : Slot → Bool} {new : Slot} {x : FmtQ} : (ringMark want new x).Keeps := .of_act rfl fun h => by
  dsimp only [ringMark]
  split
  · exact .error
  split
  · exact .error
  split
  · exact .ok h.setRing
  · exact .error

theorem execRngcfgConfigure_formed {x : FmtQ} (h : s.Formed) : GivesFormed (execRngcfgConfigure x s) :=
  drive_formed (.of_act rfl fun h => by
    dsimp only
    split
    · exact .error
    split
    · exact .error
    · exact .ok h.setRing) h

theorem execRngcfgQuery_formed {x : FmtQ} (h : s.Formed) : GivesFormed (execRngcfgQuery x s) :=
  drive_formed (.of_act rfl fun h => .ok h) h

theorem State.Formed.updThread {g lane : Nat} {f : Thread → Thread} (h : s.Formed) : (s.updThread g lane f).Formed := h.same
theorem State.Formed.updGroup {g : Nat} {f : Group → Group} (h : s.Formed) : (s.updGroup g f).Formed := h.same

theorem State.Formed.retestRing {gid lane : Nat} (h : s.Formed) : (s.retestRing gid lane).Formed := by
  unfold State.retestRing
  extract_lets g
  split
  · split
    · split
      · exact h
      extract_lets r
      split
      · exact h.updThread.park
      split
      · exact h.setRing.updThread
      · exact h
    · exact h
  · exact h

/-! ### Block 3: atomics, waits, barriers, gather and scatter -/

theorem rmwMeaning_keeps {x : FmtQ} {n : Nat} {gang : Bool} {f : Env → Thread → Nat → Option Nat × Fpx} {out : Nat → List Form} :
    (rmwMeaning x n gang f out).Keeps := .of_act rfl fun {s e t} h => .bind fun l => by
  split
  · exact .ok h.killRes
  · extract_lets old r s1
    have h1 : s1.Formed := by unfold s1; split; exacts [h.writeLoc, h]
    exact .ok h1.oweRes

theorem execWaita_formed {x : FmtQ} (h : s.Formed) : GivesFormed (execWaita x s) :=
  drive_formed (.of_act rfl fun h => .bind fun l => by
    split
    · exact .ok h.killRes
    extract_lets r
    have hr : r.s.Formed := h.oweRes
    split
    · exact .ok hr
    · exact .ok hr) h

theorem execWake_formed {x : FmtQ} (h : s.Formed) : GivesFormed (execWake x s) :=
  drive_formed (.of_act rfl fun h => .bind fun _ => .ok h.wake) h

theorem execWaitaTimeout_formed {gid lane : Nat} (h : s.Formed) : GivesFormed (execWaitaTimeout gid lane s) := by
  refine .next ?_
  split
  · split
    · split
      · exact h.updThread
      · exact h
    · exact h
  · exact h

theorem execWaitaDeviceWake_formed {gid lane : Nat} (h : s.Formed) : GivesFormed (execWaitaDeviceWake gid lane s) := by
  refine .next ?_
  split
  · exact h.updThread
  · exact h

theorem State.Formed.barWaitRes {e : Env} {t : Thread} {d : Opd} {l : Loc} {ea : W64} {p : Nat} (h : s.Formed) :
    (barWaitRes s e t d l ea p).s.Formed := by
  unfold Machine.barWaitRes
  extract_lets
  split
  · split
    · exact h
    · exact h
  · exact h

theorem arriveMeaning_keeps {sc : BarS} {x : FmtQ} {wait : Bool} {s0 : State} : (arriveMeaning sc x wait s0).Keeps :=
  .of_act rfl fun {s e t} h => by
    dsimp only [arriveMeaning]
    split
    · exact .bind fun _ => .ok h.barWaitRes
    split
    next b _ =>
      have h1 : State.Formed (match b.rcd with | some r => s.writeLoc b.loc 16 r.code | none => s) := by
        split; exacts [h.writeLoc, h]
      split
      · exact .ok h1.barWaitRes
      · exact .ok h1
    · exact .error
    · exact .error

theorem execBarWait_formed {sc : BarS} {x : FmtQ} (h : s.Formed) : GivesFormed (execBarWait sc x s) :=
  drive_formed (.of_act rfl fun h => .bind fun _ => .ok h.barWaitRes) h

theorem State.Formed.retestBar {gid lane : Nat} (h : s.Formed) : (s.retestBar gid lane).Formed := by
  unfold State.retestBar
  extract_lets g
  split
  · split
    · split
      · exact h
      split
      · split
        · exact h.updThread
        · exact h
      · exact h.updThread.park
    · exact h
  · exact h

theorem gatherMeaning_keeps {w : ElemW} {x : FmtG} : (gatherMeaning w x).Keeps := .of_act rfl fun h => .bind fun _ => .ok h.oweRes
theorem scatterMeaning_keeps {w : ElemW} {x : FmtG} : (scatterMeaning w x).Keeps :=
  .of_each rfl (fun _ _ _ => rfl) fun h => .bind fun _ => .ok h.writeLoc
theorem scataMeaning_keeps {ty : ScataT} {x : FmtG} : (scataMeaning ty x).Keeps :=
  .of_each rfl (fun _ _ _ => rfl) fun h => .bind fun _ => .ok h.writeLoc.oweOnce

/-- An instruction of many elements keeps the form element by element. -/
theorem elementsOf_keeps {i : Instr} : Holds (fun p => p.1.Keeps) (elementsOf i) := by
  unfold elementsOf
  split
  · exact .some gatherMeaning_keeps
  · exact .some scatterMeaning_keeps
  · exact .some scataMeaning_keeps
  · exact .none

theorem execRmapset_formed {x : FmtA} (h : s.Formed) : GivesFormed (execRmapset x s) :=
  drive_formed (.of_act rfl fun h => by
    dsimp only
    split
    · exact .error
    · exact .ok h.updPen) h

theorem execEngfence_formed {x : FmtQ} (h : s.Formed) : GivesFormed (execEngfence x s) :=
  drive_formed (.of_act rfl fun h => by
    dsimp only
    split
    · split
      · exact .ok h
      · exact .ok h
    · split
      · exact .ok h
      · exact .ok h) h
end
end Sys2Proof.Machine
end

section
namespace Sys2Proof.Machine

set_option Elab.async false

section
variable {s : State}

/-! ### Block 6: the instructions of the Matrix Engine -/

theorem State.Formed.mapThreads {f : Group → Thread → Thread} (h : s.Formed) : (s.mapThreads f).Formed := h.same
theorem State.Formed.register {o : EngOp} {rs : List OpRange} (h : s.Formed) : (s.register o rs).Formed := h.same
theorem State.Formed.updOp {o : Nat} {f : EngOp → EngOp} (h : s.Formed) : (s.updOp o f).Formed := h.same
theorem State.Formed.updTask {k : Nat} {f : Task → Task} (h : s.Formed) : (s.updTask k f).Formed := h.same
theorem State.Formed.updCtx {c : Nat} {f : Context → Context} (h : s.Formed) : (s.updCtx c f).Formed := h.same
theorem State.Formed.updDie {d : Nat} {f : Die → Die} (h : s.Formed) : (s.updDie d f).Formed := h.same
theorem State.Formed.bump {k : Nat} (h : s.Formed) : (s.bump k).Formed := h.same

theorem State.Formed.parkAll {e : Env} {ps : List Thread} {el : Thread} {f : FaultInfo} (h : s.Formed) : (s.parkAll e ps el f).Formed := by
  unfold State.parkAll
  split
  · exact h.parkStrand
  · exact h.parkLanes.advance

/-- What the elected thread does keeps the form. -/
def KeepsElected (f : State → Env → Thread → List Thread → Except Stop MRes) : Prop :=
  ∀ {s : State} {e : Env} {el : Thread} {ps : List Thread}, s.Formed → Gives (·.s.Formed) (f s e el ps)

theorem matrixOp_formed {i : Instr} {bad : Env → Bool} {f : State → Env → Thread → List Thread → Except Stop MRes} (hf : KeepsElected f)
    (h : s.Formed) : GivesFormed (matrixOp i bad f s) := by
  unfold matrixOp
  split
  · exact .fault
  next gid _ =>
    extract_lets g
    split
    · exact .fault
    extract_lets e parts lanes
    clear_value lanes parts
    split
    · exact .next h.advance
    next =>
      extract_lets res s1
      have hres : Gives (·.s.Formed) res := by
        unfold res
        split
        · exact .error
        · exact hf h
      have h1 : s1.Formed := by
        unfold s1
        clear_value res
        split
        · exact h.parkAll
        · exact h.updGroup
        next m => exact State.Formed.advance (State.Formed.updGroup (hres m rfl))
      exact .next h1.settle

theorem issueMatrix_formed {e : Env} {el : Thread} {kind : OpKind} {tile : Option Nat} {rs : List OpRange} {long : Bool} {flg : BitVec 4}
    {dest : Option Opd} (h : s.Formed) : Gives (·.1.s.Formed) (issueMatrix s e el kind tile rs long flg dest) :=
  .bind fun _ => .guard fun _ => .guard fun _ => .ok h.register

theorem State.Formed.withdraw {pen : Nat} {w : HitchWait} (h : s.Formed) : (s.withdraw pen w).Formed := by
  unfold State.withdraw
  extract_lets s1 op s2
  have h2 : s2.Formed := State.Formed.updGroup (h.updPen)
  split
  · exact h2.same
  · exact h2

theorem State.Formed.failHitch {pen : Nat} {w : HitchWait} {f : FaultInfo} (h : s.Formed) : (s.failHitch pen w f).Formed := h.withdraw.park

theorem State.Formed.passHitch {pen joint : Nat} {w : HitchWait} (h : s.Formed) : (s.passHitch pen joint w).Formed := by
  unfold State.passHitch
  extract_lets s1 s2
  have h2 : s2.Formed := State.Formed.updGroup (h.updPen)
  split
  · exact h2.updOp
  · exact h2

theorem State.Formed.tryHitch {pen : Nat} (h : s.Formed) : (s.tryHitch pen).Formed := by
  unfold State.tryHitch
  extract_lets here
  split
  · exact h
  extract_lets ms ops same act
  refine h.bump.foldl (fun x q hx => ?_)
  unfold act
  split
  · split
    · exact hx.passHitch
    · exact hx.failHitch
  · exact hx

theorem State.Formed.arriveHitch {e : Env} {ps : List Thread} {op : Option Nat} (h : s.Formed) : (s.arriveHitch e ps op).Formed := h.updPen

theorem afterHitch_formed {r : Host.Outcome State Fault Refusal} (h : GivesFormed r) : GivesFormed (afterHitch r s) := by
  unfold afterHitch
  split
  next t _ _ =>
    extract_lets p
    have ht : t.Formed := h t rfl
    split
    · exact h
    · exact .next ht.tryHitch.settle
  · exact h

theorem mmaIssue_keeps {code : Nat} {x : FmtE} {path : Nat → Option Path} {used comp : Bool} : KeepsElected (mmaIssue code x path used comp) := by
  intro s e el ps h
  unfold mmaIssue
  refine .guard fun _ => ?_
  extract_lets lo hi
  split
  · split
    · refine .guard fun _ => ?_
      split
      · exact .error
      · refine .bindOf (issueMatrix_formed h) fun ⟨r, id⟩ hr => ?_
        dsimp only
        split
        · exact .ok (State.Formed.arriveHitch (State.Formed.updOp hr))
        · exact .ok hr
    · exact .error
  · exact .error

theorem execMwait_formed {x : FmtE} (h : s.Formed) : GivesFormed (execMwait x s) :=
  matrixOp_formed (fun h => by
    split
    · exact .error
    extract_lets
    split
    · exact .ok h
    · exact .ok h) h

theorem execAccz_formed {x : FmtE} (h : s.Formed) : GivesFormed (execAccz x s) :=
  matrixOp_formed (fun h => .guard fun _ => .bindOf (issueMatrix_formed h) fun _ hr => .ok hr) h

theorem tileMem_keeps {x : FmtE} {kind : Bool → W64 → OpKind} {len : Nat} {dst : Bool} : KeepsElected (tileMem x kind len dst) := by
  intro s e el ps h
  unfold tileMem
  exact .guard fun _ => .bind fun _ => .bindOf (issueMatrix_formed h) fun _ hr => .ok hr

theorem State.Formed.gangset {pen : Nat} {a : W64} (h : s.Formed) : Holds State.Formed (s.gangset pen a) := by
  unfold State.gangset
  extract_lets
  split
  · exact .none
  · exact .some h.updPen

theorem execGangset_formed {x : FmtE} (h : s.Formed) : GivesFormed (execGangset x s) :=
  matrixOp_formed (fun h => by
    split
    · exact .error
    next s1 he => exact .ok (h.gangset s1 he)) h

theorem execHitch_formed {x : FmtE} (h : s.Formed) : GivesFormed (execHitch x s) :=
  afterHitch_formed (matrixOp_formed (fun h => by
    split
    · exact .error
    · exact .ok h.arriveHitch) h)

theorem execGangtoExpiry_formed {pen : Nat} (h : s.Formed) : GivesFormed (execGangtoExpiry pen s) := by
  refine .next ?_
  split
  · exact h
  split
  · exact h.failHitch
  · exact h

theorem prbIssue_keeps {x : FmtE} {p : Nat} {mask : W64} {kind : Prb → OpKind} {dest : Option Opd} {align : Prb → List (Nat × Nat)}
    {ranges : Prb → List OpRange} {bad : Prb → Bool} : KeepsElected (prbIssue x p mask kind dest align ranges bad) := by
  intro s e el ps h
  refine .bind fun _ => .guard fun _ => ?_
  split
  · exact .error
  · exact .bindOf (issueMatrix_formed h) fun _ hr => .ok hr

theorem execRpred_formed {x : FmtE} (h : s.Formed) : GivesFormed (execRpred x s) := matrixOp_formed prbIssue_keeps h
theorem execRcheck_formed {x : FmtE} (h : s.Formed) : GivesFormed (execRcheck x s) := matrixOp_formed (fun h => prbIssue_keeps h) h
theorem execRgath_formed {x : FmtE} (h : s.Formed) : GivesFormed (execRgath x s) := matrixOp_formed (fun h => prbIssue_keeps h) h

theorem execMprog_formed {x : FmtE} (h : s.Formed) : GivesFormed (execMprog x s) :=
  matrixOp_formed (fun h => by
    split
    · exact .error
    · exact .ok h) h

theorem State.Formed.leaveHitch {o : EngOp} (h : s.Formed) : (s.leaveHitch o).Formed := by
  unfold State.leaveHitch
  split
  · exact h
  split
  · exact h
  · exact State.Formed.updGroup (h.updPen)

theorem State.Formed.cancelTile {pen tile : Nat} (h : s.Formed) : (s.cancelTile pen tile).Formed := by
  unfold State.cancelTile
  extract_lets mine by' s1
  have h1 : s1.Formed := h.same
  exact h1.foldl (fun _ _ hx => hx.leaveHitch)

theorem execMcancel_formed {x : FmtE} (h : s.Formed) : GivesFormed (execMcancel x s) :=
  afterHitch_formed (matrixOp_formed (fun h => by
    split
    · exact .error
    · exact .ok h.cancelTile) h)

theorem State.Formed.retryStall {gid : Nat} {why : Stall} {ok : Bool} (h : s.Formed) : (s.retryStall gid why ok).Formed := by
  unfold State.retryStall
  split
  · exact h.updGroup
  · exact h

end
end Sys2Proof.Machine
end

section
namespace Sys2Proof.Machine

set_option Elab.async false

section
variable {s : State}

/-! ### Block 7: queues, copies, spawns, continuations -/

/-- An action of block 7 keeps the form. -/
def KeepsAct (act : Act) : Prop := ∀ {s : State} {e : Env} {t : Thread}, s.Formed → Gives (·.s.Formed) (act s e t)

theorem qMeaning_keeps {gd : Guard} {srcs : List Opd} {dest : Option Opd} {act : Act} (ha : KeepsAct act) : (qMeaning gd srcs dest act).Keeps :=
  .of_act rfl ha

theorem execQpush_formed {x : FmtQ} (h : s.Formed) : GivesFormed (execQpush x s) :=
  drive_formed (qMeaning_keeps fun h => .bind fun q => by
    split
    next he => exact .ok (h.pushTo _ he)
    · split
      · exact .ok h
      · exact .ok h) h

theorem execQpop_formed {x : FmtQ} (h : s.Formed) : GivesFormed (execQpop x s) :=
  drive_formed (qMeaning_keeps fun h => .bind fun q => by
    split
    next he => exact .ok (State.Formed.oweRes (h.popFrom _ he))
    · extract_lets
      split
      · exact .ok h.oweRes
      · exact .ok h.oweRes) h

theorem State.Formed.retestPop {gid lane : Nat} {p : Pend} (h : s.Formed) : (s.retestPop gid lane p).Formed := by
  unfold State.retestPop
  extract_lets g c
  split
  · exact h
  refine .ite h ?_
  split
  · extract_lets waits
    split
    · exact h.park
    · exact h
  · refine h.actFor fun x hx => ?_
    split
    next he => exact State.Formed.popDone (hx.popFrom _ he)
    · exact h

theorem State.Formed.retestQueue {gid lane : Nat} (h : s.Formed) : (s.retestQueue gid lane).Formed := by
  unfold State.retestQueue
  extract_lets g c
  split
  · exact h
  split
  · exact h
  split
  · exact h
  · split
    · exact h
    split
    · exact h.updThread.park
    · refine h.actFor fun x hx => ?_
      split
      next he => exact State.Formed.updThread (hx.pushTo _ he)
      · exact h
  · exact h.foldl fun _ _ hx => hx.retestPop

theorem copyAct_keeps {kind : Nat} {x : FmtQ} : KeepsAct (copyAct kind x) := by
  intro s e t h
  refine .bind fun l => ?_
  split
  · exact .guard fun _ => .bind fun _ => .bind fun _ => .guard fun _ => .ok h.register
  · exact .error

theorem State.Formed.addMember {k : MemberKind} {prio : Nat} (h : s.Formed) : (s.addMember k prio).Formed := h.same

theorem execSpawnRange_formed {x : FmtQ} (h : s.Formed) : GivesFormed (execSpawnRange x s) :=
  drive_formed (qMeaning_keeps fun h => .bind fun _ => .guard fun _ => .ok h.same) h

theorem State.Formed.launchBin {die : Nat} {b : Bin} (h : s.Formed) : (s.launchBin die b).Formed := h.same

theorem execSpawnSingle_formed {x : FmtQ} (h : s.Formed) : GivesFormed (execSpawnSingle x s) :=
  drive_formed (qMeaning_keeps fun {s e t} h => .bind fun _ => .guard fun _ => by
    extract_lets die task sp s1
    have h1 : s1.Formed := h.same
    split
    · refine .guard fun _ => ?_
      extract_lets b1 s2
      have h2 : s2.Formed := h1.same
      split
      · exact .ok h2
      · exact .ok h2.launchBin
    · exact .guard fun _ => .ok h1.same) h

theorem execBinTimerExpiry_formed {die ctx : Nat} {entry : W64} (h : s.Formed) : GivesFormed (execBinTimerExpiry die ctx entry s) := by
  refine .next ?_
  split
  · split
    · exact h
    split
    · exact h.launchBin
    · exact h
  · exact h

theorem State.Formed.writeWords {ls : List Loc} {v : Nat} (h : s.Formed) : (s.writeWords ls v).Formed :=
  State.Formed.foldlPair (p := (s, v)) h fun _ _ hx => hx.writeLoc

theorem contAct_keeps {x : FmtI} {s0 : State} : KeepsAct (contAct x s0) := by
  intro s e t h
  unfold contAct
  extract_lets all upTo done c l
  split
  · exact .ok h.killRes
  · exact .error
  extract_lets mine r
  split
  · exact .ok h.updTask
  split
  · exact .error
  · extract_lets s1 zero s2 rcd s3 s4
    have h1 : s1.Formed := h.bump.writeWords
    have h2 : s2.Formed := by unfold s2; split; exacts [h1, h1.writeLoc]
    have h4 : s4.Formed := h2.same
    exact .ok h4.updTask

theorem execCont_formed {x : FmtI} (h : s.Formed) : GivesFormed (execCont x s) := drive_formed (.of_act rfl contAct_keeps) h

/-! ### Block 7: counters, graphs, histograms, declarations, the incumbent, the governor, KILLT -/

theorem execDepset_formed {x : FmtQ} (h : s.Formed) : GivesFormed (execDepset x s) :=
  drive_formed (qMeaning_keeps fun h => .guard fun _ => .bind fun _ => by
    extract_lets
    split
    · exact .ok h.writeLoc
    split
    · exact .ok h.writeLoc.wakeAll
    · exact .ok h.writeLoc.wakeAll.act) h

theorem execDepdec_formed {x : FmtQ} (h : s.Formed) : GivesFormed (execDepdec x s) :=
  drive_formed (qMeaning_keeps fun h => .bind fun _ => .ok h.depDecAt) h

theorem execCondw_formed {x : FmtQ} (h : s.Formed) : GivesFormed (execCondw x s) :=
  drive_formed (qMeaning_keeps fun h => .bind fun _ => .ok h.writeLoc) h

theorem State.Formed.startRun {c launch : Nat} {a k : W64} {prio rcd : Nat} (h : s.Formed) : (s.startRun c launch a k prio rcd).Formed := by
  unfold State.startRun
  split
  · exact h.logPlain.devDec
  · exact h.same

theorem execGraphrun_formed {x : FmtQ} (h : s.Formed) : GivesFormed (execGraphrun x s) :=
  drive_formed (qMeaning_keeps fun h => .bind fun _ => .guard fun _ => .ok h.startRun) h

theorem State.Formed.setHist {i : Nat} {q : Histogram} (h : s.Formed) : (s.setHist i q).Formed := h.same

theorem execHistadd_formed {x : FmtQ} (h : s.Formed) : GivesFormed (execHistadd x s) :=
  drive_formed (qMeaning_keeps fun h => by
    extract_lets
    split
    · exact .error
    split
    · exact .error
    · exact .ok h.setHist) h

theorem execHistlatchLatch_formed {x : FmtQ} (h : s.Formed) : GivesFormed (execHistlatchLatch x s) :=
  drive_formed (qMeaning_keeps fun h => .guard fun _ => .bind fun _ => by
    split
    · refine .bind fun _ => .bind fun _ => .bind fun _ => .ok ?_
      exact State.Formed.setHist (h.foldl fun _ _ hx => hx.writeLoc)
    · exact .error) h

theorem execHistlatchConfigure_formed {x : FmtQ} (h : s.Formed) : GivesFormed (execHistlatchConfigure x s) :=
  drive_formed (qMeaning_keeps fun h => by
    extract_lets
    split
    · exact .error
    split
    · exact .error
    · exact .ok h.setHist) h

theorem execWsdecl_formed {x : FmtQ} (h : s.Formed) : GivesFormed (execWsdecl x s) :=
  drive_formed (qMeaning_keeps fun h => by
    extract_lets
    split
    · exact .error
    · exact .ok h) h

theorem execStage_formed {x : FmtQ} (h : s.Formed) : GivesFormed (execStage x s) :=
  drive_formed (qMeaning_keeps fun h => .guard fun _ => .guard fun _ => .bind fun _ => by
    split
    · exact .error
    · refine .guard fun _ => .guard fun _ => .ok ?_
      split
      · exact h.same
      · exact h.same) h

theorem execIncupd_formed {x : FmtQ} (h : s.Formed) : GivesFormed (execIncupd x s) :=
  drive_formed (qMeaning_keeps fun h => by
    extract_lets
    split
    · exact .error
    split
    · exact .ok h.same
    · exact .ok h) h

theorem incrd_formed {i : Instr} {x : FmtQ} {f : Cell → W64 × W64} (h : s.Formed) : GivesFormed (incrd i x f s) :=
  drive_formed (qMeaning_keeps fun h => by
    extract_lets
    split
    · exact .error
    · exact .ok h.oweRes) h

theorem execTbsetNextTask_formed {x : FmtQ} (h : s.Formed) : GivesFormed (execTbsetNextTask x s) :=
  drive_formed (qMeaning_keeps fun h => by
    split
    · exact .error
    · exact .ok h) h

theorem execTbsetOwnTask_formed {x : FmtQ} (h : s.Formed) : GivesFormed (execTbsetOwnTask x s) :=
  drive_formed (qMeaning_keeps fun h => by
    split
    · exact .error
    · exact .ok h.updTask) h

theorem execTbsetNextCounter_formed {x : FmtQ} (h : s.Formed) : GivesFormed (execTbsetNextCounter x s) :=
  drive_formed (qMeaning_keeps fun h => by
    extract_lets
    split
    · exact .error
    · exact .ok h) h

theorem State.Formed.govset {pen : Nat} {f : GovSet → GovSet} (h : s.Formed) : (s.govset pen f).Formed := h.same

theorem execGovsetQueue_formed {x : FmtQ} (h : s.Formed) : GivesFormed (execGovsetQueue x s) :=
  drive_formed (qMeaning_keeps fun h => .ok h.govset) h

theorem execGovsetThresholds_formed {x : FmtQ} (h : s.Formed) : GivesFormed (execGovsetThresholds x s) :=
  drive_formed (qMeaning_keeps fun h => by
    extract_lets
    split
    · exact .error
    · exact .ok h.govset) h

theorem execGovsetControl_formed {x : FmtQ} (h : s.Formed) : GivesFormed (execGovsetControl x s) :=
  drive_formed (qMeaning_keeps fun h => by
    extract_lets
    split
    · exact .error
    · exact .ok h.govset) h

theorem State.Formed.killParked {handle : Nat} (h : s.Formed) : (s.killParked handle).Formed := by
  unfold State.killParked
  extract_lets dead s1 s2 pens
  have h1 : s1.Formed := h.foldl fun _ _ hx => hx.killRes
  have h2 : State.Formed { s2 with parked := s2.parked.filter (·.handle != handle) } := h1.same
  exact h2.foldl fun _ _ hx => hx.settle

theorem execKilltParked_formed {x : FmtQ} (h : s.Formed) : GivesFormed (execKilltParked x s) :=
  drive_formed (qMeaning_keeps fun h => .bind fun _ => by
    split
    · exact .error
    · exact .ok h.killParked) h

theorem execKilltSelf_formed {x : FmtQ} (h : s.Formed) : GivesFormed (execKilltSelf x s) :=
  drive_formed (qMeaning_keeps fun h => .ok h.killRes) h

/-! ### Block 7: system instructions -/

theorem execCycrd_formed {v : CycV} {x : FmtS} (h : s.Formed) : GivesFormed (execCycrd v x s) := by
  refine drive_formed ?_ h
  cases v with
  | cyc => exact valueMeaning_keeps
  | ref => exact valueMeaning_keeps
  | step => exact qMeaning_keeps fun h => .ok h

theorem execTrap_formed {x : FmtI} (h : s.Formed) : GivesFormed (execTrap x s) := by
  unfold execTrap
  refine drive_formed (.of_act rfl fun h => ?_) h
  dsimp only
  split
  · exact .error
  split
  · exact .error
  · exact .ok h.bump

theorem eretMeaning_keeps {x : FmtA} : (eretMeaning x).Keeps := qMeaning_keeps fun {s e t} h => by
  extract_lets a c
  split
  · exact .guard fun _ => .guard fun _ => .guard fun _ => .ok h
  · refine .bind fun l => ?_
    split
    · split
      · exact .ok h.same
      · exact .error
    · exact .error

theorem assertAct_keeps {x : FmtI} {s0 : State} : KeepsAct (assertAct x s0) := by
  intro s e t h
  unfold assertAct
  extract_lets all bad
  clear_value bad
  split
  · split
    · exact .error
    · exact .ok h
  · split
    · split
      · exact .error
      · exact .ok h
    · refine .ok ?_
      dsimp only
      split
      · exact h.logRecord.same
      · exact h

theorem execBrk_formed {x : FmtI} (h : s.Formed) : GivesFormed (execBrk x s) :=
  drive_formed (.of_act rfl fun h => by
    dsimp only
    split
    · exact .error
    · exact .ok h) h

theorem execSyscall_formed {x : FmtI} (h : s.Formed) : GivesFormed (execSyscall x s) :=
  drive_formed (qMeaning_keeps fun h => .ok h.same) h

theorem execSyscallReply_formed {gid lane : Nat} {v : W64} (h : s.Formed) : GivesFormed (execSyscallReply gid lane v s) := by
  refine .next ?_
  split
  · split
    · exact h.updThread
    · exact h
  · exact h

theorem execRdsr_formed {x : FmtS} (h : s.Formed) : GivesFormed (execRdsr x s) :=
  drive_formed (.of_act rfl fun h => by
    dsimp only
    split
    · exact .ok h
    · exact .error) h

theorem writeSr_formed {n : Nat} {a : W64} {e : Env} {t : Thread} (h : s.Formed) : Gives (·.1.Formed) (writeSr n a s e t) := by
  unfold writeSr
  extract_lets pen task
  have hp : ∀ f : Pen → Pen, (∀ x, (f x).scratch = x.scratch) → Gives (·.1.Formed) (pen f) := fun f hf => .ok (h.updPen hf)
  have hk : ∀ f, Gives (·.1.Formed) (task f) := fun f => .ok h.updTask
  split
  · exact .ok h
  · exact hp _ (fun _ => rfl)
  · exact .ok h.updCtx
  · exact .ok h
  · split
    next s1 he => exact .ok (h.gangset s1 he)
    · exact .error
  · exact hp _ (fun _ => rfl)
  · exact hk _
  · split
    · exact .error
    · exact hk _
  · exact hk _
  · exact hp _ (fun _ => rfl)
  iterate 9 · exact .ok h
  · exact .error

theorem execWrsr_formed {x : FmtS} (h : s.Formed) : GivesFormed (execWrsr x s) :=
  drive_formed (qMeaning_keeps fun h => by
    split
    · exact .error
    next r hr => exact .ok (writeSr_formed h r hr)) h
end
end Sys2Proof.Machine
end

section
namespace Sys2Proof.Machine

set_option Elab.async false

section
variable {s : State}

/-! ### Engine operations after their issue -/

theorem State.Formed.cure {l : Loc} (h : s.Formed) : (s.cure l).Formed := by
  cases l with
  | phys pa => exact h.same
  | scr p off => exact h.updPen

theorem State.Formed.engWriteLine {o : EngOp} {scr whole : Bool} {a n v : Nat} (h : s.Formed) : (s.engWriteLine o scr whole a n v).1.Formed := by
  unfold State.engWriteLine
  extract_lets l
  split
  · exact h
  split
  · split
    · exact h.cure.actFor fun _ hx => hx.writeLoc
    · exact h
  · exact h.actFor fun _ hx => hx.writeLoc

theorem State.Formed.engWrite {o : EngOp} {scr : Bool} {ps : List (Nat × Nat × Nat)} (h : s.Formed) : (s.engWrite o scr ps).1.Formed :=
  State.Formed.foldlPair (p := (s, none)) h fun _ _ hx => hx.engWriteLine

theorem State.Formed.startOps {id : Nat} (h : s.Formed) : (s.startOps id).Formed := by
  unfold State.startOps
  split
  · exact h
  extract_lets js
  split
  · exact h.same
  · exact h

theorem State.Formed.setTile {p t : Nat} {f : Pen → Nat → W32} (h : s.Formed) : (s.updPen p (fun q => q.setTile t (f q))).Formed := h.updPen

theorem State.Formed.mmaStep {o : EngOp} (h : s.Formed) : (s.mmaStep o).Formed := by
  unfold State.mmaStep
  split
  · extract_lets ks s1
    split
    · exact h
    extract_lets u
    have h1 : s1.Formed := h.updOp
    split
    · exact h1
    · exact h1.setTile
  · exact h

theorem State.Formed.ringPhase {o : EngOp} {c : Copy} (h : s.Formed) : (s.ringPhase o c).Formed := by
  unfold State.ringPhase
  extract_lets pen n r row k w
  split
  · exact h
  split
  · split
    · exact h.setRing.updOp
    · exact h
  · have hw : w.1.Formed := h.engWrite
    exact hw.setRing.updOp

theorem State.Formed.engStep {id : Nat} (h : s.Formed) : (s.engStep id).Formed := by
  unfold State.engStep
  split
  · exact h
  split
  · exact h
  split
  · extract_lets js
    split
    · exact h.foldl fun _ _ hx => hx.mmaStep
    · exact h
  · split
    · exact h.ringPhase
    · exact h
  · exact h

theorem State.Formed.engAdvance {id n : Nat} (h : s.Formed) : (s.engAdvance id n).Formed := by
  induction n generalizing s with
  | zero => exact h
  | succ n ih => exact ih h.engStep

theorem State.Formed.tileOut {o : EngOp} {scr : Bool} {a : W64} {n : Nat} (h : s.Formed) : (s.tileOut o scr a n).1.Formed := by
  unfold State.tileOut
  extract_lets data
  split
  · exact h.engWrite
  · exact h.engWrite

theorem State.Formed.engWrites {o : EngOp} (h : s.Formed) : (s.engWrites o).1.Formed := by
  unfold State.engWrites
  extract_lets pen t
  split
  · exact h
  split
  · extract_lets
    split
    · exact h.setTile
    · exact h
  · split
    · exact h.setTile
    · exact h
  · exact h.setTile
  · exact h.tileOut
  · exact h.tileOut
  · exact h
  · exact h
  · exact h.engWrite
  · split
    · exact h
    · exact h.engWrite
  · extract_lets
    split
    · exact h.engWrite
    split
    · exact h.foldl fun _ _ hx => hx.placeShed
    · exact h

theorem State.Formed.completeOp {id : Nat} (h : s.Formed) : (s.completeOp id).Formed := by
  unfold State.completeOp
  split
  · exact h
  next o _ =>
  extract_lets w bad fail writes _ s1 s2 s3 s4
  have hw : w.1.Formed := h.engWrites
  have h1 : s1.Formed := hw.same
  have h2 : s2.Formed := by unfold s2; split; exacts [h1.updPen, h1]
  have h3 : s3.Formed := by unfold s3; split; exacts [h2.updPen, h2]
  have h4 : s4.Formed := by
    unfold s4
    clear_value bad
    split; exacts [h3.logPlain, h3]
  split
  · exact h4.devDec
  · split
    · exact h4.updCtx
    · exact h4
  · exact h4

theorem State.Formed.complete {id : Nat} (h : s.Formed) : (s.complete id).Formed := by
  unfold State.complete
  split
  · exact h
  split
  · exact h
  extract_lets s1
  have h1 : s1.Formed := by
    unfold s1
    exact .ite h.leaveHitch h.engAdvance
  exact h1.foldl fun _ _ hx => hx.completeOp

theorem State.Formed.retestEngineRing {id : Nat} (h : s.Formed) : (s.retestEngineRing id).Formed := by
  unfold State.retestEngineRing
  split
  · split
    · split
      · exact .ite h.engStep.engStep h.engStep
      · exact h
    · exact h
  · exact h

theorem execRingWaiterRetest_formed {eng : Bool} {id lane : Nat} (h : s.Formed) : GivesFormed (execRingWaiterRetest eng id lane s) :=
  .next (.ite h.retestEngineRing h.retestRing)

/-! ### The start of a clause, and the issue of a word -/

theorem State.Formed.parkFetch {g : Group} {ts : List Thread} {pc hdr : W64} {f : FaultInfo} (h : s.Formed) :
    (s.parkFetch g ts pc hdr f).Formed := h.park

theorem State.Formed.foldOrPass {gid : Nat} {pc : W64} (h : s.Formed) : (s.foldOrPass gid pc).Formed := by
  unfold State.foldOrPass
  extract_lets g
  split
  · split
    · exact .ite h.foldGroup h.same
    · exact h.same
  · exact h

theorem State.Formed.deschedule {g : Group} {ws : List (Nat × Bool × Waiter)} (h : s.Formed) : (s.deschedule g ws).Formed :=
  h.updGroup.foldl fun _ _ hx => .ite hx hx.setTether

theorem State.Formed.startRun' {g : Group} {ts : List Thread} {pc : W64} {f : Fetched} (h : s.Formed) : (s.startRun' g ts pc f).Formed := by
  unfold State.startRun'
  extract_lets
  split
  · exact h.parkFetch
  split
  · exact h.same
  · exact h.same

theorem State.Formed.startConv {g : Group} {pc : W64} (h : s.Formed) : (s.startConv g pc).Formed := by
  unfold State.startConv
  extract_lets
  split
  · exact h.parkFetch
  · exact h.same

theorem State.Formed.clauseStart {gid : Nat} (h : s.Formed) : (s.clauseStart gid).Formed := by
  unfold State.clauseStart
  extract_lets g c
  refine .ite h ?_
  split
  · exact h.startConv
  · exact h.foldOrPass
  split
  · split
    · exact h.deschedule
    · exact h
  split
  · split
    next he =>
      split at he
      · cases he
      · exact h.layDown _ he
    · exact h.same
  · split
    · exact h.parkFetch
    · exact h.startRun'

theorem State.Formed.rejectWord {f : FaultInfo} (h : s.Formed) : (s.rejectWord f).Formed := by
  unfold State.rejectWord
  extract_lets g
  split
  · exact h
  extract_lets e w m
  have hm : m.Keeps := .of_act rfl fun _ => .error
  refine State.Formed.settle (.ite (h.driveLanes hm) ?_)
  split
  · exact h.driveStrand hm
  · exact h

theorem execUnassignedOpcode_formed {w : W64} (h : s.Formed) : GivesFormed (execUnassignedOpcode w s) := by
  unfold execUnassignedOpcode
  split
  · exact .fault
  split
  · exact .fault
  · exact .next h.rejectWord

theorem State.Formed.sampled {g : Group} (h : s.Formed) : (s.sampled g).Formed := by
  unfold State.sampled
  extract_lets c
  split
  · exact h
  split
  · exact h
  · exact h.same

theorem State.Formed.beginIssue {gid : Nat} (h : s.Formed) : (s.beginIssue gid).Formed := by
  have h1 : (s.sampled (s.group gid)).Formed := h.sampled
  exact h1.same

/-! ### Events of waiting threads -/

theorem State.Formed.grantRow {gid : Nat} (h : s.Formed) : (s.grantRow gid).Formed := by
  unfold State.grantRow
  extract_lets g core
  split
  · refine .ite h ?_
    split
    next he => exact h.layDown _ he
    · exact h
  · exact h

theorem execSpliceWaitExpiry_formed {gid : Nat} (h : s.Formed) : GivesFormed (execSpliceWaitExpiry gid s) := by
  refine .next ?_
  split
  · exact .ite h.updThread.settle h
  · exact h

theorem execConvergentWindowExpiry_formed {gid : Nat} {pc : W64} (h : s.Formed) : GivesFormed (execConvergentWindowExpiry gid pc s) :=
  .next (.ite h h.startConv)

theorem execFoldWindowExpiry_formed {gid : Nat} {pc : W64} (h : s.Formed) : GivesFormed (execFoldWindowExpiry gid pc s) :=
  .next (.ite h (.ite h.foldOrPass h.same))

theorem State.Formed.contPop {op : Nat} (h : s.Formed) : (s.contPop op).Formed := by
  unfold State.contPop
  split
  · exact h
  split
  · exact h
  · refine h.actFor fun x hx => ?_
    split
    next he => exact State.Formed.popDone (hx.popFrom _ he)
    · exact h

theorem State.Formed.memComplete {op : Nat} (h : s.Formed) : (s.memComplete op).Formed :=
  .ite h (.ite h.contPop (.ite h.same h.same))
end
end Sys2Proof.Machine
end

section
namespace Sys2Proof.Machine

set_option Elab.async false

section
variable {s : State}

/-! ### The finish of launches and the end of tasks -/

theorem State.Formed.updRun {r : Nat} {f : GraphRun → GraphRun} (h : s.Formed) : (s.updRun r f).Formed := h.same
theorem State.Formed.updLaunch {l : Nat} {f : Launch → Launch} (h : s.Formed) : (s.updLaunch l f).Formed := h.same

/-- Pens that are taken away leave the form as it is. -/
theorem State.Formed.filterPens {t : State} {f : Pen → Bool} (h : s.Formed) (hp : t.pens = s.pens.filter f := by rfl) (hm : t.mem = s.mem := by rfl)
    (hd : t.dram = s.dram := by rfl) (hb : t.mailbox = s.mailbox := by rfl) : t.Formed :=
  h.pens (fun _ hq => h.scratch (List.mem_of_mem_filter (hp ▸ hq))) hm hd hb

theorem State.Formed.tryFinish {l : Nat} (h : s.Formed) : (s.tryFinish l).Formed := by
  unfold State.tryFinish
  split
  · exact h
  extract_lets mine s1 s2
  refine .ite h ?_
  have h1 : s1.Formed := h.filterPens
  have h2 : s2.Formed := by unfold s2; split; exacts [h1, h1.updRun]
  exact h2.devDec

theorem State.Formed.tryFinishAll {c : Nat} (h : s.Formed) : (s.tryFinishAll c).Formed := h.foldl fun _ _ hx => hx.tryFinish

theorem execEngineOpCompletion_formed {op : Nat} (h : s.Formed) : GivesFormed (execEngineOpCompletion op s) := by
  refine .next ?_
  split
  · exact h.complete.tryFinish
  · exact h

theorem execMemoryOpCompletion_formed {op : Nat} (h : s.Formed) : GivesFormed (execMemoryOpCompletion op s) := by
  refine .next ?_
  split
  · exact h.memComplete.tryFinish
  · exact h.memComplete

theorem execSavedImageCompletion_formed {op : Nat} (h : s.Formed) : GivesFormed (execSavedImageCompletion op s) := by
  refine .next (.ite h ?_)
  split
  · exact h.complete.tryFinish
  · exact h.memComplete

theorem State.Formed.spoilDecl {ps : List Nat} {d : Decl} (h : s.Formed) : (s.spoilDecl ps d).Formed :=
  .ite (h.foldl fun _ _ hx => hx.bump.writeLoc) h

theorem State.Formed.cancelStaging {task : Nat} (h : s.Formed) : (s.cancelStaging task).Formed := by
  unfold State.cancelStaging
  extract_lets t s1
  have h1 : s1.Formed := .ite (h.foldl fun _ _ hx => hx.spoilDecl) h
  exact h1.same

theorem State.Formed.endTask {t : Task} (h : s.Formed) : (s.endTask t).Formed := by
  unfold State.endTask
  extract_lets c s0 s1 s2 s3
  have h0 : s0.Formed := .ite h.cancelStaging h
  have h2 : s2.Formed := h0.same
  have h3 : s3.Formed := .ite h2 h2.devDec
  exact h3.tryFinishAll

theorem execTaskEnd_formed {task : Nat} (h : s.Formed) : GivesFormed (execTaskEnd task s) := by
  refine .next ?_
  split
  · exact .ite h.endTask h
  · exact h

/-! ### Launches and packets -/

/-- The pens of a new launch have empty scratch. -/
theorem State.Formed.createLaunch {c n prio : Nat} {p : BitVec 512} {karg queue : W64} {node : Option (Nat × W64)} {gang : Option W64}
    (h : s.Formed) : (s.createLaunch c p n prio karg queue node gang).Formed := by
  unfold State.createLaunch
  refine h.pens fun q hq => ?_
  obtain hq | hq := List.mem_append.mp hq
  · exact h.scratch hq
  · obtain ⟨j, -, rfl⟩ := List.mem_map.mp hq
    rfl

theorem State.Formed.failLaunch {c : Nat} {p : BitVec 512} {va : W64} (h : s.Formed) : (s.failLaunch c p va).Formed := h.logPlain.bump.devDec

theorem State.Formed.takePacket {c : Nat} {a : W64} {q : QView} (h : s.Formed) : (s.takePacket c a q).Formed := by
  refine h.actFor fun x hx => ?_
  split
  next s1 _ he =>
    have h1 : s1.Formed := hx.popFrom _ he
    exact .ite h1.same h1
  · exact h

theorem State.Formed.refusePacket {c : Nat} {a slot : W64} {q : QView} (h : s.Formed) : (s.refusePacket c a q slot).Formed :=
  h.takePacket.logPlain

theorem execLaunchPacket_formed {ctx : Nat} {queue : W64} (h : s.Formed) : GivesFormed (execLaunchPacket ctx queue s) := by
  refine .next (.ite h ?_)
  split
  · exact h
  · split
    · exact h
    · exact .ite h.takePacket.createLaunch h.takePacket.failLaunch
    · exact h.refusePacket

theorem execGraphRunPacket_formed {ctx : Nat} {queue : W64} (h : s.Formed) : GivesFormed (execGraphRunPacket ctx queue s) := by
  refine .next (.ite h ?_)
  split
  · exact h
  next q p slot _ =>
    have h1 : (s.takePacket ctx queue q).Formed := h.takePacket
    exact .ite h (.ite h.refusePacket (.ite h (.ite h1.logPlain h1.same)))

theorem State.Formed.issueCopy {c : Nat} {k : Copy} {pkt : BitVec 512} (h : s.Formed) : Holds State.Formed (s.issueCopy c k pkt) := by
  unfold State.issueCopy
  split
  · exact .some h.devFail
  · extract_lets
    split
    · exact .some h.logPlain
    · split
      · exact .none
      · exact .some h.register

/-- What an answer holds, or the state where there is none. -/
theorem State.Formed.getD {o : Option State} (h : s.Formed) (ho : Holds State.Formed o) : (o.getD s).Formed := by
  cases o with
  | none => exact h
  | some t => exact ho t rfl

theorem execCopyQueuePacket_formed {ctx : Nat} {queue : W64} (h : s.Formed) : GivesFormed (execCopyQueuePacket ctx queue s) := by
  refine .next (.ite h ?_)
  split
  · exact h
  · split
    · exact h.refusePacket
    · exact h.getD h.takePacket.issueCopy

/-! ### Seats, saves and restores -/

theorem State.Formed.seat {gid : Nat} (h : s.Formed) : (s.seat gid).Formed := by
  unfold State.seat
  extract_lets g core place
  clear_value place
  split
  · exact h
  · exact h.bump.updGroup

theorem State.Formed.seatAll {gs : List Nat} (h : s.Formed) : (s.seatAll gs).Formed :=
  h.foldl fun _ _ hx => hx.seat.foldl fun _ _ hy => hy.retestBar

theorem State.Formed.latchRole {gid : Nat} (h : s.Formed) : (s.latchRole gid).Formed := h.updGroup
theorem State.Formed.dropMember {m : Nat} (h : s.Formed) : (s.dropMember m).Formed := h.same

theorem State.Formed.placeTeam {m : Member} {launch vy yard : Nat} {first : Bool} (h : s.Formed) :
    (s.placeTeam m launch vy yard first).Formed := by
  unfold State.placeTeam
  extract_lets ps gs s1 s2 s3 s4
  have h1 : s1.Formed := h.dropMember.foldl fun _ _ hx => hx.updPen
  have h2 : s2.Formed := h1.seatAll
  have h3 : s3.Formed := .ite (h2.foldl fun _ _ hx => hx.latchRole) h2
  have h4 : s4.Formed := h3.updLaunch
  clear_value s4 s3 s2 s1 gs ps
  split
  · exact h4
  · exact h4.tryHitch.tryFinish

theorem State.Formed.enlist (h : s.Formed) : s.enlist.Formed :=
  (h.foldl fun _ _ hx => hx.addMember).foldl fun _ _ hx => hx.addMember

theorem State.Formed.evict {gid : Nat} (h : s.Formed) : (s.evict gid).Formed := h.updGroup.enlist

theorem State.Formed.unstage {task : Nat} (h : s.Formed) : (s.unstage task).Formed := h.cancelStaging.updCtx.updTask

theorem State.Formed.saveTeam {launch vy : Nat} (h : s.Formed) : (s.saveTeam launch vy).Formed := by
  unfold State.saveTeam
  extract_lets ps s0 s1
  have h0 : s0.Formed := h.foldl fun _ _ hx => hx.unstage
  have h1 : s1.Formed := h0.mapPens rfl fun x hx => by split; exacts [hx, hx]
  exact h1.enlist

theorem execPenSave_formed {pen : Nat} (h : s.Formed) : GivesFormed (execPenSave pen s) := .next (.ite h h.saveTeam)

/-! ### Staging before dispatch -/

theorem State.Formed.stageOne {c die pen : Nat} {t : Task} {d : Decl} (h : s.Formed) : (s.stageOne c t die pen d).Formed := by
  unfold State.stageOne
  extract_lets
  refine .ite h ?_
  split
  · exact h.logPlain
  · exact h.register.updCtx.updTask

theorem State.Formed.stageJobs {c task : Nat} {js : List (Decl × Nat)} (h : s.Formed) : (s.stageJobs c task js).Formed := by
  induction js generalizing s with
  | nil => exact h.updTask
  | cons j js ih => exact .ite h.updTask (ih h.stageOne)

theorem execStagingTransfer_formed {task : Nat} (h : s.Formed) : GivesFormed (execStagingTransfer task s) :=
  .next (.ite h.stageJobs (.ite h h.updTask.stageJobs))

theorem State.Formed.dispatched {task : Nat} (h : s.Formed) : (s.dispatched task).Formed := h.updCtx.updTask

/-! ### Dispatch, drops and evictions -/

theorem State.Formed.updCell {c : Nat} {f : Cell → Cell} (h : s.Formed) : (s.updCell c f).Formed := h.same

theorem State.Formed.dropTasks {die gid : Nat} (h : s.Formed) : (s.dropTasks die gid).Formed :=
  h.foldl fun _ _ hx => hx.updCell.cancelStaging.updGroup.endTask

theorem State.Formed.evictGroups {m : Member} {n : Nat × Room} (h : s.Formed) : (s.evictGroups m n).Formed :=
  h.foldl fun _ _ hx => .ite hx.evict hx

theorem State.Formed.evictTeams {m : Member} {n : Nat × Room} (h : s.Formed) : (s.evictTeams m n).Formed :=
  h.foldl fun _ _ hx => .ite hx.saveTeam hx

theorem State.Formed.makeRoom {m : Member} {ns : List (Nat × Room)} (h : s.Formed) : (s.makeRoom m ns).Formed :=
  (h.foldl fun _ _ hx => hx.evictTeams).foldl fun _ _ hx => hx.evictGroups

theorem State.Formed.settleMember {m : Member} {target die : Nat} (h : s.Formed) : (s.settleMember m target die).Formed := by
  unfold State.settleMember
  split
  · exact h.placeTeam.foldl fun _ _ hx => hx.dispatched
  · exact h.placeTeam
  · extract_lets s1 _ s2
    have h1 : s1.Formed := .ite h.dropTasks h
    have h2 : s2.Formed := h1.dropMember.seatAll
    exact .ite h1.same (.ite (h2.latchRole.foldl fun _ _ hx => hx.dispatched) h2)

theorem State.Formed.tryPlace {m : Member} {die : Nat} (h : s.Formed) : (s.tryPlace m die).1.Formed := by
  unfold State.tryPlace
  split
  · exact h
  extract_lets ts
  clear_value ts
  split
  · exact h.settleMember
  split
  · exact h.makeRoom.settleMember
  split
  · split
    · exact h
    · exact h.same
  · exact h

theorem execPlaceMember_formed {die : Nat} (h : s.Formed) : GivesFormed (execPlaceMember die s) := by
  refine .next (.ite h (State.Formed.foldlPair h.enlist fun x _ hx => ?_))
  split
  · exact hx
  · exact hx.tryPlace

theorem State.Formed.yieldEvict {gid : Nat} (h : s.Formed) : (s.yieldEvict gid).Formed := .ite h.enlist.evict h

theorem execYield_formed {x : FmtA} (h : s.Formed) : GivesFormed (execYield x s) := by
  have hw : GivesFormed (yieldWord x s) := yieldWord_formed h
  unfold execYield
  split
  next he _ => exact .next (State.Formed.yieldEvict (hw _ he))
  · exact hw

theorem execPenRestore_formed {pen yard : Nat} (h : s.Formed) : GivesFormed (execPenRestore pen yard s) := by
  unfold execPenRestore
  extract_lets
  refine .next ?_
  split
  · exact h
  · exact .ite h h.placeTeam

/-! ### Stores of Turjo, and stopped contexts -/

theorem State.Formed.sysWrite {w : SysStore} (h : s.Formed) : (s.sysWrite w).Formed := .ite h.writeLoc h
theorem State.Formed.sysStores {ws : List SysStore} (h : s.Formed) : (s.sysStores ws).Formed := h.foldl fun _ _ hx => hx.sysWrite
theorem State.Formed.noteEdit {ctx sysc : Nat} {lo hi : W64} {ws : List SysStore} (h : s.Formed) : (s.noteEdit ctx lo hi ws sysc).Formed :=
  h.same

theorem State.Formed.sysStore {w : SysStore} {sysc : Nat} (h : s.Formed) : (s.sysStore w sysc).Formed :=
  (h.foldl fun _ _ hx => hx.noteEdit).sysStores

theorem State.Formed.mapEdit {ws : List SysStore} {sysc : Nat} (h : s.Formed) : (s.mapEdit ws sysc).Formed :=
  h.foldl fun x w hx => by
    have hy : (x.sysStore w sysc).Formed := hx.sysStore
    exact .ite hy.same hy

theorem State.Formed.unpark {handle : Nat} (h : s.Formed) : (s.unpark handle).Formed := h.same

theorem execTurjoService_formed {handle : Nat} {act : TurjoAct} (h : s.Formed) : GivesFormed (execTurjoService handle act s) := by
  refine .next ?_
  split
  · exact h
  next p _ =>
    refine .ite h ?_
    cases act with
    | forward =>
      have h1 : (s.logRecord p.ctx p.record).Formed := h.logRecord
      exact h1.same
    | resume => exact .ite h (.ite h.mapEdit.unpark.updThread h.mapEdit.unpark)

theorem State.Formed.resumeCtx {c : Nat} (h : s.Formed) : (s.resumeCtx c).Formed := .ite h h.mapThreads.updCtx

theorem execDebuggerResume_formed {handle : Nat} {kill : Bool} (h : s.Formed) : GivesFormed (execDebuggerResume handle kill s) :=
  .next (.ite (.ite h.killParked h.unpark) h)

/-! ### Continuation records -/

theorem State.Formed.endRecord {k : Cont} (h : s.Formed) : (s.endRecord k).Formed := by
  refine State.Formed.tryFinish (State.Formed.updLaunch ?_)
  exact h.same

theorem State.Formed.contFail {k : Cont} {f : FaultInfo} (h : s.Formed) : (s.contFail k f).Formed := .ite h.same h.logPlain.endRecord

theorem State.Formed.contGo {k : Cont} {l : Launch} {pen whole : Nat} {r : ContRec} (h : s.Formed) : (s.contGo k l pen r whole).Formed := h.same

theorem State.Formed.resumeCont {k : Cont} {pen : Nat} (h : s.Formed) : (s.resumeCont k pen).Formed := by
  unfold State.resumeCont
  split
  · exact h.contFail
  extract_lets
  refine .ite h.logPlain.endRecord ?_
  split
  · exact h.logPlain.endRecord
  · exact h.contFail
  · exact .ite h.contGo h

theorem execContinuationResume_formed {ctx pen : Nat} {addr : W64} (h : s.Formed) : GivesFormed (execContinuationResume ctx addr pen s) := by
  refine .next ?_
  split
  · exact h
  · exact .ite h h.resumeCont

/-! ### Actions of counters, and graphs -/

theorem State.Formed.pushAction {id : Nat} (h : s.Formed) : (s.pushAction id).Formed := by
  unfold State.pushAction
  split
  · exact h
  extract_lets gone
  have hg : gone.Formed := h.same
  split
  · exact hg.devFail
  split
  · exact hg.devFail
  · refine hg.actFor fun x hx => ?_
    split
    next he => exact hx.pushTo _ he
    · exact h

theorem State.Formed.endRun {r : GraphRun} (h : s.Formed) : (s.endRun r).Formed := by
  unfold State.endRun
  extract_lets s1
  have h1 : s1.Formed := h.foldl fun x a hx => by
    split
    · exact hx
    · split
      · exact hx.actFor fun _ hy => hy.writeLoc
      · exact hx
  exact State.Formed.devDec h1.same

theorem State.Formed.fireNode {r : GraphRun} {a : W64} {n : GNode} (h : s.Formed) : Gives State.Formed (s.fireNode r a n) := by
  unfold State.fireNode
  split
  · extract_lets done launch
    have hl : ∀ p, Gives State.Formed (launch p) := fun p => by
      unfold launch
      obtain ⟨cnt, karg⟩ := p
      dsimp only
      split
      · exact .ok h.devDec.updRun
      split
      · exact .ok h.failLaunch.updRun
      · exact .ok h.createLaunch.updRun
    split
    · exact .guard fun _ => .bind fun _ => .bind hl
    · exact .bind hl
  · exact .bind fun _ => .ok h.updRun

theorem State.Formed.walkerFail {r : GraphRun} {a : W64} {f : FaultInfo} (h : s.Formed) : (s.walkerFail r a f).Formed :=
  .ite h.same h.logPlain.endRun

theorem State.Formed.graphFire {rid : Nat} {a : W64} (h : s.Formed) : (s.graphFire rid a).Formed := by
  unfold State.graphFire
  split
  · exact h
  extract_lets
  refine .ite h (.ite h.walkerFail ?_)
  split
  · exact h.walkerFail
  extract_lets
  split
  · exact h.logPlain.endRun
  extract_lets
  refine .ite (h.actFor fun _ hx => hx.writeLoc).updRun ?_
  split
  · exact h.walkerFail
  next s1 he =>
    have h1 : s1.Formed := h.fireNode _ he
    exact (h1.actFor fun _ hx => hx.writeLoc).updRun

theorem execGraphRunEnd_formed {run : Nat} (h : s.Formed) : GivesFormed (execGraphRunEnd run s) := by
  refine .next ?_
  split
  · exact .ite h.endRun h
  · exact h

theorem execDeviceAccessRetry_formed {id : Nat} {act : TurjoAct} (h : s.Formed) : GivesFormed (execDeviceAccessRetry id act s) := by
  refine .next ?_
  split
  · exact h
  extract_lets s1 fwd
  have h1 : s1.Formed := h.same
  have hf : fwd.Formed := h1.logPlain
  clear_value s1 fwd
  split
  · extract_lets s2
    have h2 : s2.Formed := h1.mapEdit
    split
    · exact h2.devDec
    · exact h2.same
    · exact h2.same
    · exact h2
    · split
      · exact h.getD h2.issueCopy
      · exact h2
  · split
    · exact hf.endRecord
    · split
      · exact hf.endRun
      · exact hf
    · exact hf

/-! ### The governor, write-backs, shoot-downs and samples -/

theorem execGovernorPeriod_formed {launch : Nat} (h : s.Formed) : GivesFormed (execGovernorPeriod launch s) := by
  refine .next ?_
  split
  · exact h
  · exact .ite h h.updLaunch

theorem execLostWriteback_formed {line ctx die : Nat} {shed : Bool} (h : s.Formed) : GivesFormed (execLostWriteback line ctx die shed s) :=
  .next (.ite h h.loseLine)

theorem execShootdownComplete_formed {id : Nat} (h : s.Formed) : GivesFormed (execShootdownComplete id s) := by
  refine .next ?_
  split
  · exact h
  · exact .ite h h.same

theorem execSampleTag_formed {d : SampleData} (h : s.Formed) : GivesFormed (execSampleTag d s) := by
  unfold execSampleTag
  extract_lets x s1 drop
  have hd : drop.Formed := h.updCtx.updCtx
  refine .next ?_
  split
  · split
    · exact h
    · refine .ite h ?_
      split
      · exact hd
      · refine State.Formed.actFor h.updCtx fun z hz => ?_
        split
        next he => exact hz.pushTo _ he
        · exact hd
  · exact h
end
end Sys2Proof.Machine
end

section
namespace Sys2Proof.Machine

set_option Elab.async false

section
variable {s : State}

/-! ### The end of a context's work -/

theorem State.Formed.cutElement {gid : Nat} (h : s.Formed) : (s.cutElement gid).Formed := by
  unfold State.cutElement
  extract_lets g found
  have hf : Holds (fun p => p.1.Keeps) found := by
    unfold found
    split
    · split
      · exact elementsOf_keeps
      · exact .none
    · exact .none
  clear_value found
  split
  next m x _ _ =>
    extract_lets e j'
    have hm : m.Keeps := hf _ rfl
    split
    · exact h
    · exact h
    next f rs he _ =>
      extract_lets ks stops s1
      have h1 : s1.Formed := eachLoop_formed (hm.each f he) ks h.bump
      split
      · exact h
      · exact .ite h h1.logRecord
  · exact h

theorem State.Formed.cutElements {c : Nat} (h : s.Formed) : (s.cutElements c).Formed := h.foldl fun _ _ hx => hx.cutElement

theorem State.Formed.forceOp {id : Nat} (h : s.Formed) : (s.forceOp id).Formed := by
  unfold State.forceOp
  extract_lets s1
  have h1 : s1.Formed := h.startOps.complete
  clear_value s1
  split
  · exact h1
  · extract_lets js s2
    have h2 : s2.Formed := h1.same
    exact State.Formed.complete (h2.foldl fun _ _ hx => hx.logPlain)

theorem State.Formed.forceOps {c : Nat} (h : s.Formed) : (s.forceOps c).Formed := h.foldl fun _ _ hx => hx.forceOp
theorem State.Formed.finishAll {c : Nat} (h : s.Formed) : (s.finishAll c).Formed := h.foldl fun _ _ hx => hx.tryFinish

theorem State.Formed.endPops {c : Nat} (h : s.Formed) : (s.endPops c).Formed := by
  have h1 : ((s.waitingPops c).foldl (fun x p => x.logPlain c 0 p.2 0 cPARTIAL accRmw.acc) s).Formed := h.foldl fun _ _ hx => hx.logPlain
  exact h1.same

theorem State.Formed.endActions {c : Nat} (h : s.Formed) : (s.endActions c).Formed :=
  (h.foldl fun _ _ hx => hx.pushAction).foldl fun _ _ hx => hx.logPlain

theorem State.Formed.flushRecords {c : Nat} (h : s.Formed) : (s.flushRecords c).Formed :=
  (h.foldl fun _ _ hx => hx.logRecord).foldl fun _ _ hx => hx.logPlain

theorem State.Formed.releaseCtx {c : Nat} (h : s.Formed) : (s.releaseCtx c).Formed := by
  unfold State.releaseCtx
  extract_lets s0
  have h0 : s0.Formed := h.foldl fun _ _ hx => hx.writeBack
  exact h0.filterPens

theorem State.Formed.leavePops {pen : Nat} {t : Thread} (h : s.Formed) : (s.leavePops pen t).Formed := h.same

theorem State.Formed.killCtx {c : Nat} (h : s.Formed) : (s.killCtx c).Formed := by
  unfold State.killCtx
  extract_lets mine dead spawned s1 s2 _ s3 s4
  have h1 : s1.Formed := h.foldl fun _ _ hx => hx.noteKill.leavePops
  have h2 : s2.Formed := h1.foldl fun _ _ hx => hx.noteKill
  clear_value s2
  have h3 : s3.Formed := h2.same
  have h4 : s4.Formed := h3.foldl fun _ _ hx => hx.endTask
  exact h4.foldl fun _ _ hx => hx.endRecord

theorem State.Formed.endCtx {c : Nat} {destroyed : Bool} (h : s.Formed) : (s.endCtx c destroyed).Formed := by
  unfold State.endCtx
  extract_lets s1 s2
  have h1 : s1.Formed := h.cutElements.updCtx.forceOps
  have h2 : s2.Formed := (State.Formed.ite h1.killCtx h1).endPops.finishAll.endActions.flushRecords
  clear_value s2
  exact State.Formed.releaseCtx h2.same

theorem execVfReset_formed {ctx : Nat} (h : s.Formed) : GivesFormed (execVfReset ctx s) := .next (.ite h.endCtx h)

theorem execVfDisable_formed {ctx : Nat} (h : s.Formed) : GivesFormed (execVfDisable ctx s) := by
  have h1 : (s.endCtx ctx true).Formed := h.endCtx
  unfold execVfDisable
  generalize s.endCtx ctx true = t at h1 ⊢
  exact .next (.ite h1.same h)

theorem execPfFlr_formed (h : s.Formed) : GivesFormed (execPfFlr s) := .next (h.setMailbox rfl)

theorem execVfEnable_formed {ctx : Nat} {i : CtxInit} (h : s.Formed) : GivesFormed (execVfEnable ctx i s) := .next (.ite h.same h)

theorem State.Formed.setSampling {ctx p : Nat} {queue : W64} (h : s.Formed) : (s.setSampling ctx p queue).Formed := .ite h.updCtx h

/-! ### Accesses from the host port -/

theorem State.Formed.reply {d : Option Nat} (h : s.Formed) : (s.reply d).Formed := h.same
theorem State.Formed.noFunction {wants : Bool} (h : s.Formed) : (s.noFunction wants).Formed := .ite h.reply h

theorem State.Formed.storeMailbox {t : State} {a n v : Nat} (h : s.Formed) (hb : t.mailbox = Memory.store s.mailbox a n v := by rfl)
    (hm : t.mem = s.mem := by rfl) (hd : t.dram = s.dram := by rfl) (hp : t.pens = s.pens := by rfl) : t.Formed := by
  obtain ⟨-, -, -, hwf⟩ := State.formed_iff.mp h
  exact h.setMailbox (hb ▸ Memory.store_wf hwf a n v) hm hd hp

theorem State.Formed.mailboxAccess {off size : Nat} {write : Option Nat} (h : s.Formed) : (s.mailboxAccess off size write).Formed := by
  refine .ite h.noFunction ?_
  cases write with
  | none => exact h.reply
  | some v => exact h.storeMailbox

theorem State.Formed.windowFail {c : Nat} {f : FaultInfo} (h : s.Formed) : (s.windowFail c f).Formed := h.logPlain

theorem State.Formed.windowRead {c va size : Nat} (h : s.Formed) : (s.windowRead c va size).Formed := by
  unfold State.windowRead
  split
  · exact h.windowFail.reply
  · exact h.reply

theorem State.Formed.windowWrite {c va n v : Nat} (h : s.Formed) : (s.windowWrite c va n v).Formed := by
  unfold State.windowWrite
  extract_lets
  split
  · exact h.actFor fun _ hx => hx.writeLoc
  · split
    · exact .ite h.windowFail (h.actFor fun _ hx => hx.cure.writeLoc)
    · exact h.windowFail

theorem State.Formed.windowAccess {c off size : Nat} {write : Option Nat} (h : s.Formed) : (s.windowAccess c off size write).Formed := by
  refine .ite h.noFunction ?_
  cases write with
  | none => exact h.windowRead
  | some v => exact h.foldl fun _ _ hx => hx.windowWrite

theorem execBar2Access_formed {ctx off size : Nat} {write : Option Nat} (h : s.Formed) : GivesFormed (execBar2Access ctx off size write s) :=
  .next (.ite h (.ite h.mailboxAccess (.ite h.windowAccess h.noFunction)))

theorem execHostAtomicop_formed {ctx off : Nat} {op : HostAtomic} {wide : Bool} {operand compare : W64} (h : s.Formed) :
    GivesFormed (execHostAtomicop ctx off op wide operand compare s) := by
  unfold execHostAtomicop
  extract_lets n va new
  refine .next (.ite h (.ite h.reply (.ite (.ite h.reply ?_) (.ite h.reply ?_))))
  · exact State.Formed.reply h.storeMailbox
  · split
    · exact h.windowFail.reply
    · exact State.Formed.reply (.ite h (h.actFor fun _ hx => hx.writeLoc))

theorem State.Formed.setMsix {fn vec : Nat} {addr : W64} {data : W32} (h : s.Formed) : (s.setMsix fn vec addr data).Formed :=
  .ite h h.same

/-! ### Gang launches -/

theorem State.Formed.gangStart {c : Nat} {a : W64} (h : s.Formed) : (s.gangStart c a).Formed := by
  unfold State.gangStart
  split
  · exact h.logPlain
  · extract_lets pkt pkgs id home status s1 n part s2
    have h1 : s1.Formed := .ite (h.actFor fun _ hx => hx.writeLoc.writeLoc.writeLoc.writeLoc) h
    have h2 : s2.Formed := h1.same
    exact .ite h2.bump (.ite h2.createLaunch h2.failLaunch)

theorem execGangLaunchStart_formed {ctx : Nat} {addr : W64} (h : s.Formed) : GivesFormed (execGangLaunchStart ctx addr s) :=
  .next (.ite h.gangStart h)

theorem execGangLaunchAck_formed {ctx pkg : Nat} {addr : W64} (h : s.Formed) : GivesFormed (execGangLaunchAck ctx addr pkg s) := by
  refine .next (.ite h ?_)
  split
  · exact h.logPlain
  · extract_lets st ack st1 s1
    refine .ite h ?_
    have h1 : s1.Formed := h.actFor fun _ hx => hx.writeLoc.writeLoc
    exact .ite (State.Formed.same (h1.actFor fun _ hx => hx.writeLoc)) h1

theorem State.Formed.killGang {c : Nat} {a : W64} {phase : Loc} (h : s.Formed) : (s.killGang c a phase).Formed := by
  unfold State.killGang
  extract_lets hit dead s1 s2
  have h1 : s1.Formed := h.foldl fun _ _ hx => hx.noteKill.leavePops
  have h2 : s2.Formed := h1.mapThreads
  exact h2.foldl fun _ _ hx => hx.settle

theorem State.Formed.gangFail {c : Nat} {a : W64} (h : s.Formed) : (s.gangFail c a).Formed := by
  unfold State.gangFail
  split
  · exact h.logPlain
  · extract_lets st st1 s1 s2 s3
    have h1 : s1.Formed := h.actFor fun _ hx => hx.writeLoc.writeLoc
    have h2 : s2.Formed := h1.killGang
    have h3 : s3.Formed := h2.same
    exact h3.logPlain

theorem execGangLaunchTimeout_formed {ctx : Nat} {addr : W64} (h : s.Formed) : GivesFormed (execGangLaunchTimeout ctx addr s) :=
  .next (.ite h.gangFail h)

/-! ### The link and the domain -/

theorem State.Formed.updPort {k : Nat} {f : Port → Port} (h : s.Formed) : (s.updPort k f).Formed := h.same
theorem State.Formed.reach (h : s.Formed) : s.reach.Formed := h.same

theorem execFlitReceive_formed {port : Nat} {bytes : List Byte} (h : s.Formed) : GivesFormed (execFlitReceive port bytes s) :=
  .next (.ite h h.updPort)

theorem execReplayTimeout_formed {port : Nat} (h : s.Formed) : GivesFormed (execReplayTimeout port s) := by
  refine .next ?_
  split
  · exact .ite h.updPort.reach h
  · exact h

theorem execPackageLeaveDomain_formed {x : Leaver} (h : s.Formed) : GivesFormed (execPackageLeaveDomain x s) :=
  .next (.ite h.same (.ite h.same h))

theorem execDomainJoin_formed {x : Joiner} {timer : Nat} (h : s.Formed) : GivesFormed (execDomainJoin x timer s) := by
  unfold execDomainJoin
  extract_lets pkg taken ps vs s0 s1 s2
  have h0 : s0.Formed := h.same
  have h1 : s1.Formed := h0.foldl fun _ _ hx => hx.updPort
  have h2 : s2.Formed := h1.foldl fun _ _ hx => hx.updPort
  exact .next (.ite h (.ite (State.Formed.reach (h.foldl fun _ _ hx => hx.updPort)) (.ite h (.ite h2.reach h2.same))))

/-! ### The configuration record and boot -/

theorem State.Formed.writeCfg {r : CfgRec} {f : State → State} (h : s.Formed) (hf : ∀ x, x.Formed → (f x).Formed) : (s.writeCfg r f).Formed :=
  .ite (hf _ h.same) h.same

theorem State.Formed.recovery (h : s.Formed) : s.recovery.Formed := h.same
theorem State.Formed.tryImage {b : BootInput} {rec : Bool} (h : s.Formed) : (s.tryImage b rec).Formed := .ite h.same h.recovery

theorem execPowerGood_formed {b : BootInput} (h : s.Formed) : GivesFormed (execPowerGood b s) := by
  unfold execPowerGood
  extract_lets s1
  have h1 : s1.Formed := h.same
  exact .next (.ite h (.ite h1.recovery (.ite h1.tryImage h1.same)))

theorem execDhcpv6Timeout_formed {b : BootInput} (h : s.Formed) : GivesFormed (execDhcpv6Timeout b s) :=
  .next (.ite h (.ite h.tryImage h.recovery))

theorem execRecoveryRetry_formed {b : BootInput} (h : s.Formed) : GivesFormed (execRecoveryRetry b s) := by
  refine .next (.ite h (.ite h.recovery ?_))
  split
  next r _ =>
    refine .ite h.recovery ?_
    extract_lets s1 s2
    have h2 : s2.Formed := State.Formed.tryImage h.same
    exact .ite h2 h.recovery
  · exact h.tryImage

theorem State.Formed.bringUp (h : s.Formed) : s.bringUp.Formed := h.same
theorem State.Formed.turjoStart (h : s.Formed) : s.turjoStart.Formed := .ite h.same h

/-- At a loss of power every memory is empty. -/
theorem execPowerLoss_formed {mid : Bool} : GivesFormed (execPowerLoss mid s) :=
  .next (State.Formed.same (s := State.reset) rfl)

/-! ### Spares and degraded operation -/

theorem State.Formed.exhaust {bit : Nat} (h : s.Formed) : (s.exhaust bit).Formed := h.same

theorem State.Formed.recordUnits {u : Units} {f : State → State} (h : s.Formed) (hf : ∀ x, x.Formed → (f x).Formed) :
    (s.recordUnits u f).Formed :=
  h.writeCfg fun _ hx => hf _ hx.same

theorem State.Formed.moveYard {yard : Nat} {spare : Option Nat} (h : s.Formed) : (s.moveYard yard spare).Formed := by
  refine h.foldl fun x t hx => ?_
  extract_lets y x1
  have hy : y.Formed := hx.saveTeam
  have h1 : x1.Formed := .ite hy hy.addMember
  split
  · exact h1.placeTeam
  · exact h1

theorem State.Formed.setShed {c die n : Nat} (h : s.Formed) : (s.setShed c die n).Formed :=
  State.Formed.updCtx (h.foldl fun _ _ hx => hx.writeBack)

theorem State.Formed.trimShed {die : Nat} (h : s.Formed) : (s.trimShed die).Formed :=
  State.Formed.foldlPair (p := (s, s.shedLimit die)) h fun _ _ hx => hx.setShed

theorem State.Formed.flushWay {way : Nat} (h : s.Formed) : (s.flushWay way).Formed := h.foldl fun _ _ hx => hx.writeBack

theorem State.Formed.retire {u : PkgUnit} (h : s.Formed) : (s.retire u).Formed := by
  unfold State.retire
  refine .ite h ?_
  extract_lets mu gone
  refine .ite h.same ?_
  split
  · exact h.recordUnits fun x hx => .ite hx.moveYard hx.moveYard.exhaust
  · exact h.recordUnits fun x hx => .ite hx hx.exhaust
  · exact h.recordUnits fun x hx => .ite hx hx.exhaust
  · exact h.recordUnits fun x hx => .ite hx.flushWay hx.flushWay.exhaust.trimShed
  · split
    · exact h.recordUnits fun _ hx => hx
    · exact .ite h.same h.same
  · split
    · exact h.recordUnits fun _ hx => hx.reach
    · exact h.same

theorem execSelfTest_formed {failed : List PkgUnit} (h : s.Formed) : GivesFormed (execSelfTest failed s) := by
  have hretire : ∀ x : State, x.Formed → (failed.foldl State.retire x).Formed := fun _ hx => hx.foldl fun _ _ hy => hy.retire
  exact .next (.ite (hretire _ h.bringUp) (.ite (hretire _ h.same) h))

theorem execCorrectedErrorThreshold_formed {u : PkgUnit} (h : s.Formed) : GivesFormed (execCorrectedErrorThreshold u s) := by
  have h1 : (s.retire u).Formed := h.retire
  exact .next (.ite h1.same h)

theorem execRetrainComplete_formed {u : PkgUnit} (h : s.Formed) : GivesFormed (execRetrainComplete u s) := .next h.same

theorem execConfigRecordService_formed {r : CfgRec} (h : s.Formed) : GivesFormed (execConfigRecordService r s) := by
  unfold execConfigRecordService
  extract_lets
  exact .next (.ite h (h.writeCfg fun _ hx => hx.same))

/-! ### Clocks, power and cooling, registers, grants -/

theorem State.Formed.relockTo {die q : Nat} (h : s.Formed) : (s.relockTo die q).Formed := h.updDie

theorem State.Formed.diefreq {die : Nat} {v : W64} (h : s.Formed) : (s.diefreq die v).Formed := .ite h h.updDie.relockTo

theorem execDiefreqWrite_formed {die : Nat} {v : W64} (h : s.Formed) : GivesFormed (execDiefreqWrite die v s) := .next (.ite h.diefreq h)

theorem State.Formed.lower {die : Nat} (h : s.Formed) : (s.lower die).Formed := .ite h h.relockTo

theorem State.Formed.powerSample {mean10 mean1 : Nat} {temps : List Nat} (h : s.Formed) : (s.powerSample mean10 mean1 temps).Formed := by
  unfold State.powerSample
  extract_lets s0 s1 all top one hot ds
  have h0 : s0.Formed := h.same
  have h1 : s1.Formed := h0.same
  have hl : (ds.foldl State.lower s0).Formed := h0.foldl fun _ _ hx => hx.lower
  exact .ite (h1.foldl fun _ _ hx => hx.relockTo) (.ite h0 (.ite h0 (.ite h0 hl.same)))

theorem State.Formed.thermalResume (h : s.Formed) : s.thermalResume.Formed := by
  unfold State.thermalResume
  refine .ite h ?_
  extract_lets s1
  have h1 : s1.Formed := State.Formed.foldl h.same fun _ _ hx => hx.resumeCtx
  exact h1.foldl fun _ _ hx => hx.relockTo

theorem State.Formed.writeHealth {v : W64} (h : s.Formed) : (s.writeHealth v).Formed := .ite h.same h
theorem State.Formed.writeCecnt {v : W64} (h : s.Formed) : (s.writeCecnt v).Formed := h.same

theorem State.Formed.bar0Read {fn off : Nat} (h : s.Formed) : (s.bar0Read fn off).Formed :=
  .ite h (.ite h.reply (.ite h.reply (.ite h.reply h.reply)))

theorem execRegisterWrite_formed {off : Nat} {v : W64} (h : s.Formed) : GivesFormed (execRegisterWrite off v s) :=
  .next (.ite h (.ite h.writeHealth (.ite h.writeCecnt (.ite h.diefreq h))))

theorem State.Formed.countCorrected {cls n : Nat} {u : Option PkgUnit} (h : s.Formed) : (s.countCorrected cls n u).Formed := .ite h h.same

theorem execShedWayGrant_formed {ctx die ways : Nat} (h : s.Formed) : GivesFormed (execShedWayGrant ctx die ways s) := .next (.ite h h.setShed)

theorem execIncumbentCellAllocate_formed {ctx cell : Nat} (h : s.Formed) : GivesFormed (execIncumbentCellAllocate ctx cell s) :=
  .next (.ite h h.updCell)

theorem State.Formed.histAllocate {n ctx num : Nat} (h : s.Formed) : (s.histAllocate n ctx num).Formed := .ite h h.same
end
end Sys2Proof.Machine
end

section
namespace Sys2Proof.Machine

set_option Elab.async false

section
variable {s : State}

/-! ### Instructions whose meaning is one shared operation -/

theorem execBra_formed {x : FmtB} (h : s.Formed) : GivesFormed (execBra x s) := drive_formed branchMeaning_keeps h
theorem execBrx_formed {x : FmtB} (h : s.Formed) : GivesFormed (execBrx x s) := drive_formed branchMeaning_keeps h
theorem execCall_formed {x : FmtB} (h : s.Formed) : GivesFormed (execCall x s) := drive_formed branchMeaning_keeps h
theorem execCallx_formed {x : FmtB} (h : s.Formed) : GivesFormed (execCallx x s) := drive_formed branchMeaning_keeps h
theorem execRet_formed {x : FmtB} (h : s.Formed) : GivesFormed (execRet x s) := drive_formed branchMeaning_keeps h
theorem execMovix_formed {x : FmtA} (h : s.Formed) : GivesFormed (execMovix x s) := drive_formed valueMeaning_keeps h
theorem execRange_formed {x : FmtA} (h : s.Formed) : GivesFormed (execRange x s) := drive_formed valueMeaning_keeps h
theorem execFormq_formed {x : FmtA} (h : s.Formed) : GivesFormed (execFormq x s) := drive_formed valueMeaning_keeps h
theorem execPflag_formed {x : FmtQ} (h : s.Formed) : GivesFormed (execPflag x s) := drive_formed valueMeaning_keeps h
theorem execRngwait_formed {x : FmtQ} (h : s.Formed) : GivesFormed (execRngwait x s) := drive_formed ringWait_keeps h
theorem execRngclaim_formed {x : FmtQ} (h : s.Formed) : GivesFormed (execRngclaim x s) := drive_formed ringWait_keeps h
theorem execRngfree_formed {x : FmtQ} (h : s.Formed) : GivesFormed (execRngfree x s) := drive_formed ringMark_keeps h
theorem execRngfill_formed {x : FmtQ} (h : s.Formed) : GivesFormed (execRngfill x s) := drive_formed ringMark_keeps h
theorem execAtom_formed {op : AtomOp} {x : FmtQ} (h : s.Formed) : GivesFormed (execAtom op x s) := drive_formed rmwMeaning_keeps h
theorem execCas_formed {w : CasW} {x : FmtQ} (h : s.Formed) : GivesFormed (execCas w x s) :=
  by
  unfold execCas
  exact drive_formed rmwMeaning_keeps h
theorem execAtomf_formed {ty : AtomfT} {x : FmtQ} (h : s.Formed) : GivesFormed (execAtomf ty x s) := drive_formed rmwMeaning_keeps h
theorem execBarArriveWait_formed {sc : BarS} {x : FmtQ} (h : s.Formed) : GivesFormed (execBarArriveWait sc x s) := drive_formed arriveMeaning_keeps h
theorem execBararv_formed {sc : BarS} {x : FmtQ} (h : s.Formed) : GivesFormed (execBararv sc x s) := drive_formed arriveMeaning_keeps h
theorem execGather_formed {w : ElemW} {x : FmtG} (h : s.Formed) : GivesFormed (execGather w x s) := drive_formed gatherMeaning_keeps h
theorem execScatter_formed {w : ElemW} {x : FmtG} (h : s.Formed) : GivesFormed (execScatter w x s) := drive_formed scatterMeaning_keeps h
theorem execScata_formed {ty : ScataT} {x : FmtG} (h : s.Formed) : GivesFormed (execScata ty x s) := drive_formed scataMeaning_keeps h
theorem execMmap_formed {v : MmapV} {x : FmtE} (h : s.Formed) : GivesFormed (execMmap v x s) := afterHitch_formed (matrixOp_formed mmaIssue_keeps h)
theorem execMmaf_formed {v : MmafV} {x : FmtE} (h : s.Formed) : GivesFormed (execMmaf v x s) := afterHitch_formed (matrixOp_formed mmaIssue_keeps h)
theorem execMmal_formed {x : FmtE} (h : s.Formed) : GivesFormed (execMmal x s) := afterHitch_formed (matrixOp_formed mmaIssue_keeps h)
theorem execMmasp_formed {v : MmaspV} {x : FmtE} (h : s.Formed) : GivesFormed (execMmasp v x s) :=
  afterHitch_formed (matrixOp_formed mmaIssue_keeps h)
theorem execAccld_formed {x : FmtE} (h : s.Formed) : GivesFormed (execAccld x s) := matrixOp_formed tileMem_keeps h
theorem execAccst_formed {x : FmtE} (h : s.Formed) : GivesFormed (execAccst x s) := matrixOp_formed tileMem_keeps h
theorem execDrain_formed {v : DrainV} {x : FmtE} (h : s.Formed) : GivesFormed (execDrain v x s) := matrixOp_formed tileMem_keeps h
theorem execCopyD1_formed {x : FmtQ} (h : s.Formed) : GivesFormed (execCopyD1 x s) := drive_formed (qMeaning_keeps copyAct_keeps) h
theorem execCopyD2_formed {x : FmtQ} (h : s.Formed) : GivesFormed (execCopyD2 x s) := drive_formed (qMeaning_keeps copyAct_keeps) h
theorem execCopyGather_formed {x : FmtQ} (h : s.Formed) : GivesFormed (execCopyGather x s) := drive_formed (qMeaning_keeps copyAct_keeps) h
theorem execIncrdKey_formed {x : FmtQ} (h : s.Formed) : GivesFormed (execIncrdKey x s) := incrd_formed h
theorem execIncrdCounters_formed {x : FmtQ} (h : s.Formed) : GivesFormed (execIncrdCounters x s) := incrd_formed h
theorem execAssert_formed {x : FmtI} (h : s.Formed) : GivesFormed (execAssert x s) := drive_formed (.of_act rfl assertAct_keeps) h
theorem execEretHandler_formed {x : FmtA} (h : s.Formed) : GivesFormed (execEretHandler x s) := drive_formed eretMeaning_keeps h
theorem execEretResume_formed {x : FmtA} (h : s.Formed) : GivesFormed (execEretResume x s) := drive_formed eretMeaning_keeps h

/-! ### Every instruction and event -/

theorem exec_formed {i : Instr} (h : s.Formed) : GivesFormed (exec i s) := by
  cases i with
  | iadd | isub | imul | imulh | imad | idiv | irem | imin | imax | iabs | and | or | xor | not | shl | shr | rot | bfx | bfi | popc | clz | ctz |
    iclamp | sel | mov | movi | movhi | lea | addi | bswap | brev | fadd | fsub | fmul | fma | fdiv | fsqrt | frcp | frsq | fexp2 | flog2 | fmin |
    fmax | cvt | frnd | bspack | bsunpk | lmul | lacc | bplane | qdot => exact regOp_formed h
  | imulw => exact execImulw_formed h
  | cmp | ptest | fcmp => exact cmpOp_formed h
  | pand | por | pnot => exact stackOp_formed h
  | ppop => exact execPpop_formed h
  | bra => exact execBra_formed h
  | brx => exact execBrx_formed h
  | call => exact execCall_formed h
  | callx => exact execCallx_formed h
  | ret => exact execRet_formed h
  | splice => exact execSplice_formed h
  | exit => exact execExit_formed h
  | loop => exact execLoop_formed h
  | nop => exact execNop_formed h
  | movix => exact execMovix_formed h
  | range => exact execRange_formed h
  | formq => exact execFormq_formed h
  | laydn => exact execLaydn_formed h
  | yield => exact execYield_formed h
  | kpoint => exact execKpoint_formed h
  | ld => exact execLd_formed h
  | st => exact execSt_formed h
  | lds => exact execLds_formed h
  | sts => exact execSts_formed h
  | pref => exact execPref_formed h
  | cpsIn => exact execCpsIn_formed h
  | cpsOut => exact execCpsOut_formed h
  | rngwait => exact execRngwait_formed h
  | rngfree => exact execRngfree_formed h
  | rngfill => exact execRngfill_formed h
  | rngclaim => exact execRngclaim_formed h
  | rngcfgConfigure => exact execRngcfgConfigure_formed h
  | rngcfgQuery => exact execRngcfgQuery_formed h
  | ringWaiterRetest => exact execRingWaiterRetest_formed h
  | atom => exact execAtom_formed h
  | cas => exact execCas_formed h
  | atomf => exact execAtomf_formed h
  | waita => exact execWaita_formed h
  | waitaTimeout => exact execWaitaTimeout_formed h
  | waitaDeviceWake => exact execWaitaDeviceWake_formed h
  | wake => exact execWake_formed h
  | barArriveWait => exact execBarArriveWait_formed h
  | barWait => exact execBarWait_formed h
  | bararv => exact execBararv_formed h
  | barrierWaitEnd => exact .next h.retestBar
  | gather => exact execGather_formed h
  | scatter => exact execScatter_formed h
  | scata => exact execScata_formed h
  | rmapset => exact execRmapset_formed h
  | engfence => exact execEngfence_formed h
  | red | scan | shfl | vote | elect => exact crossOp_formed h
  | convergentWindowExpiry => exact execConvergentWindowExpiry_formed h
  | mmap => exact execMmap_formed h
  | mmaf => exact execMmaf_formed h
  | mmal => exact execMmal_formed h
  | mmasp => exact execMmasp_formed h
  | mwait => exact execMwait_formed h
  | accz => exact execAccz_formed h
  | accld => exact execAccld_formed h
  | accst => exact execAccst_formed h
  | drain => exact execDrain_formed h
  | gangset => exact execGangset_formed h
  | hitch => exact execHitch_formed h
  | gangtoExpiry => exact execGangtoExpiry_formed h
  | rpred => exact execRpred_formed h
  | rcheck => exact execRcheck_formed h
  | rgath => exact execRgath_formed h
  | mprog => exact execMprog_formed h
  | mcancel => exact execMcancel_formed h
  | engineQueueRoom | rangeLockIssueRetry | spawnBinFree => exact .next h.retryStall
  | engineOpStart => exact .next h.startOps
  | engineOpCompletion => exact execEngineOpCompletion_formed h
  | qpush => exact execQpush_formed h
  | qpop => exact execQpop_formed h
  | queueWaiterRetest => exact .next h.retestQueue
  | copyD1 => exact execCopyD1_formed h
  | copyD2 => exact execCopyD2_formed h
  | copyGather => exact execCopyGather_formed h
  | spawnRange => exact execSpawnRange_formed h
  | spawnSingle => exact execSpawnSingle_formed h
  | binTimerExpiry => exact execBinTimerExpiry_formed h
  | cont => exact execCont_formed h
  | continuationResume => exact execContinuationResume_formed h
  | depset => exact execDepset_formed h
  | depdec => exact execDepdec_formed h
  | depActionPush => exact .next h.pushAction
  | graphrun => exact execGraphrun_formed h
  | graphNodeFire => exact .next h.graphFire
  | graphRunEnd => exact execGraphRunEnd_formed h
  | condw => exact execCondw_formed h
  | histadd => exact execHistadd_formed h
  | histlatchLatch => exact execHistlatchLatch_formed h
  | histlatchConfigure => exact execHistlatchConfigure_formed h
  | wsdecl => exact execWsdecl_formed h
  | incupd => exact execIncupd_formed h
  | incrdKey => exact execIncrdKey_formed h
  | incrdCounters => exact execIncrdCounters_formed h
  | incumbentKeyPropagate => exact .next h.updCell
  | tbsetNextTask => exact execTbsetNextTask_formed h
  | tbsetOwnTask => exact execTbsetOwnTask_formed h
  | tbsetNextCounter => exact execTbsetNextCounter_formed h
  | stage => exact execStage_formed h
  | pflag => exact execPflag_formed h
  | govsetQueue => exact execGovsetQueue_formed h
  | govsetThresholds => exact execGovsetThresholds_formed h
  | govsetControl => exact execGovsetControl_formed h
  | governorPeriod => exact execGovernorPeriod_formed h
  | killtParked => exact execKilltParked_formed h
  | killtSelf => exact execKilltSelf_formed h
  | cycrd => exact execCycrd_formed h
  | trap => exact execTrap_formed h
  | assert => exact execAssert_formed h
  | syscall => exact execSyscall_formed h
  | syscallReply => exact execSyscallReply_formed h
  | brk => exact execBrk_formed h
  | rdsr => exact execRdsr_formed h
  | wrsr => exact execWrsr_formed h
  | eretHandler => exact execEretHandler_formed h
  | eretResume => exact execEretResume_formed h
  | clauseStart => exact .next h.clauseStart
  | laneRowGrant => exact .next h.grantRow
  | spliceWaitExpiry => exact execSpliceWaitExpiry_formed h
  | memoryOpCompletion => exact execMemoryOpCompletion_formed h
  | turjoService => exact execTurjoService_formed h
  | contextStop => exact .next h.updCtx
  | contextResume => exact .next h.resumeCtx
  | launchPacket => exact execLaunchPacket_formed h
  | graphRunPacket => exact execGraphRunPacket_formed h
  | copyQueuePacket => exact execCopyQueuePacket_formed h
  | placeMember => exact execPlaceMember_formed h
  | reservationExpiry | priorityAging => exact .next h.same
  | coreWake | replayRequest => exact .next h
  | penSave => exact execPenSave_formed h
  | penRestore => exact execPenRestore_formed h
  | savedImageCompletion => exact execSavedImageCompletion_formed h
  | taskEnd => exact execTaskEnd_formed h
  | deviceAccessRetry => exact execDeviceAccessRetry_formed h
  | stagingTransfer => exact execStagingTransfer_formed h
  | lostWriteback => exact execLostWriteback_formed h
  | shootdownComplete => exact execShootdownComplete_formed h
  | vfReset => exact execVfReset_formed h
  | pfFlr => exact execPfFlr_formed h
  | vfEnable => exact execVfEnable_formed h
  | vfDisable => exact execVfDisable_formed h
  | bar2Access => exact execBar2Access_formed h
  | hostAtomicop => exact execHostAtomicop_formed h
  | gangLaunchStart => exact execGangLaunchStart_formed h
  | gangLaunchTimeout => exact execGangLaunchTimeout_formed h
  | flitReceive => exact execFlitReceive_formed h
  | replayTimeout => exact execReplayTimeout_formed h
  | packageLeaveDomain => exact execPackageLeaveDomain_formed h
  | domainJoin => exact execDomainJoin_formed h
  | powerGood => exact execPowerGood_formed h
  | dhcpv6Timeout => exact execDhcpv6Timeout_formed h
  | recoveryRetry => exact execRecoveryRetry_formed h
  | selfTest => exact execSelfTest_formed h
  | diefreqWrite => exact execDiefreqWrite_formed h
  | relockComplete => exact .next h.updDie
  | powerSample => exact .next h.powerSample
  | healthWrite => exact .next (.ite h.writeHealth h)
  | cecntWrite => exact .next (.ite h.writeCecnt h)
  | registerWrite => exact execRegisterWrite_formed h
  | sampleTag => exact execSampleTag_formed h
  | foldWindowExpiry => exact execFoldWindowExpiry_formed h
  | unassignedOpcode w => exact execUnassignedOpcode_formed (w := w) h
  | powerLoss => exact execPowerLoss_formed
  | correctedErrorThreshold => exact execCorrectedErrorThreshold_formed h
  | retrainComplete => exact execRetrainComplete_formed h
  | debuggerResume => exact execDebuggerResume_formed h
  | shedWayGrant => exact execShedWayGrant_formed h
  | incumbentCellAllocate => exact execIncumbentCellAllocate_formed h
  | gangLaunchAck => exact execGangLaunchAck_formed h
  | configRecordService => exact execConfigRecordService_formed h

/-! ### Inputs and steps -/

theorem State.Formed.tableEdit {ctx sysc : Nat} {lo hi : W64} {ws : List SysStore} (h : s.Formed) : (s.tableEdit ctx lo hi ws sysc).Formed :=
  h.noteEdit.sysStores
theorem State.Formed.shootDown {ctx sysc : Nat} {lo hi : W64} (h : s.Formed) : (s.shootDown ctx lo hi sysc).Formed := h.same

theorem State.Formed.peerWake {c pa : Nat} (h : s.Formed) : (s.peerWake c pa).Formed := by
  unfold State.peerWake
  split
  · exact h.endWait
  · exact h

theorem State.Formed.peerWait {c pa : Nat} {begins : Bool} (h : s.Formed) : (s.peerWait c pa begins).Formed := .ite h.same h.same

theorem State.Formed.applyInput {x : Input} (h : s.Formed) : (s.applyInput x).Formed := by
  cases x with
  | event => exact h
  | corrupt => exact h.same
  | corruptScratch => exact h.updPen
  | corrected => exact h.countCorrected
  | unitError => exact h.retire
  | threshold => exact h.same
  | writeBack => exact .ite h h.writeBack
  | engineAdvance => exact h.engAdvance
  | storeFail => exact h.same
  | peerStore => exact .ite h.writeLoc h
  | peerWait => exact h.peerWait
  | peerWake => exact h.peerWake
  | tableEdit => exact h.tableEdit
  | shootDown => exact h.shootDown
  | sysStore => exact h.sysStore
  | histAllocate => exact h.histAllocate
  | stagingShare => exact .ite h.updDie h
  | debugger => exact h.updCtx
  | thermalResume => exact h.thermalResume
  | turjoStart => exact h.turjoStart
  | samplePeriod => exact h.setSampling
  | msixEntry => exact h.setMsix
  | bar0Read => exact h.bar0Read

theorem State.Formed.input {x : Input} (h : s.Formed) : (s.input x).Formed := by
  unfold State.input
  split
  · split
    next he => exact exec_formed h _ he
    · exact h
    · exact h
  · exact h.applyInput

theorem issue_formed {gid : Nat} (h : s.Formed) : GivesFormed (issue gid s) := by
  unfold issue
  split
  · exact exec_formed h.beginIssue
  · exact .next h.beginIssue.rejectWord

theorem State.Formed.tick (h : s.Formed) : s.tick.Formed := h.same

theorem step_formed (h : s.Formed) : GivesFormed (step s) := by
  unfold step
  split
  next ns x rest _ =>
    have h1 : (s.arrive ns rest).Formed := h.same
    exact .next h1.input
  · split
    · exact issue_formed h
    · exact exec_formed h.tick.same
    · exact exec_formed h.tick.same
    · exact .next h.tick
end

/-- Settles O8: every write goes by `Memory.store`, which keeps the form, and every other change of a memory empties it; so each
instruction, event and input keeps it, and with them each step. -/
theorem stepKeepsMemoryForm : Obligations.StepKeepsMemoryForm := by
  intro s t h hs
  exact step_formed h t hs

end Sys2Proof.Machine
end

section
namespace Sys2Proof.Machine
set_option Elab.async false

/-! ### The issue of a word, and the turns of a step -/

/-- A group inside a clause, at a word that decodes and that its class admits, issues the instruction (R63, R65). -/
theorem State.issueOf_run {s : State} {gid : Nat} {r : Run} {i : Instr} (hr : (s.group gid).run = some r)
    (hd : (if r.dz2 then decodeDz2 (r.words.getD r.pos 0) else decodeWord (r.words.getD r.pos 0)) = .ok i)
    (ha : eclAdmits r.head.ecl (opcOf (r.words.getD r.pos 0)).toNat = true) : s.issueOf gid = .instr i := by
  simp only [State.issueOf, hr, Run.issue, hd, ha, if_true]

theorem step_issue {s : State} {gid : Nat} (ha : s.agenda = []) (hs : s.schedule = .issue gid) : step s = issue gid s := by
  simp only [step, ha, hs]

/-- Settles O6: the schedule says `issue`, and what the group issues is the decoded instruction. -/
theorem stepRunsDecoded : Obligations.StepRunsDecoded := by
  intro s gid r i ha hs hr hd he
  rw [step_issue ha hs, issue, State.issueOf_run hr hd he]

theorem turnList_cons {α : Type} {l : List α} {n : Nat} {x : α} (h : l[n % l.length]? = some x) :
    ∃ rest, turnList l n = x :: rest := by
  obtain ⟨hlt, rfl⟩ := List.getElem?_eq_some_iff.mp h
  exact ⟨_, by rw [turnList, List.drop_eq_getElem_cons hlt]; rfl⟩

/-- The kind whose turn it is comes first, if an event of it has something to do. -/
theorem State.nextOf_turn {s : State} {ks : List (List Instr)} {n : Nat} {l l' : List Instr} (hl : ks[n % ks.length]? = some l)
    (hl' : (if n / ks.length % 2 = 0 then l else turnList l (n / ks.length / 2)) = l') (hne : s.firstEnabled l' ≠ none) :
    s.nextOf ks n = s.firstEnabled l' := by
  obtain ⟨rest, hrest⟩ := turnList_cons hl
  obtain ⟨i, hi⟩ := Option.ne_none_iff_exists'.mp hne
  simp only [State.nextOf, hrest, List.findSome?_cons, hl', hi]

/-- After eight steps without a turn of the device, its event comes next (R56; log 4). -/
theorem State.schedule_device {s : State} {i : Instr} (hd : 8 ≤ s.duty) (hi : s.deviceEvent = some i) : s.schedule = .device i := by
  simp [State.schedule, State.deviceFirst, hd, State.deviceTurn, hi]

theorem turnList_pair_odd {α : Type} (i t : α) {k : Nat} (h : k % 2 = 1) : turnList [i, t] k = [t, i] := by
  simp [turnList, h]

theorem turns : Says.Turns := by
  refine ⟨fun s ns x rest ha => ?_, fun s i ha hs => ?_, fun s i ha hs => ?_, fun s ha hs => ?_, fun s i => State.schedule_device,
    fun s gid => ⟨Nat.lt_succ_self _, Nat.lt_succ_self _⟩, fun s ks n j i t hj hk => ?_⟩
  · simp only [step, ha]
  · simp only [step, ha, hs]; rfl
  · simp only [step, ha, hs]; rfl
  · simp only [step, ha, hs]
  · subst hj
    refine ⟨fun hne hv => State.nextOf_turn hk ?_ hne, fun hne hv => State.nextOf_turn hk ?_ hne⟩
    · rw [if_pos (by omega)]
    · rw [if_neg (by omega), turnList_pair_odd i t (by omega)]

theorem placeWord_penDie (w : W64) : (State.reset.placeWord w).penDie 1 = 0 := by
  have hp : (State.reset.placeWord w).pen 1 = fetchPen := rfl
  rw [State.penDie, hp]; decide
/-- The group placed at the word can issue: its strand holds a slot, and its die's clock runs. -/
theorem placeWord_ready (w : W64) : (State.reset.placeWord w).ready (fetchGroup 1 w) = true := by
  have hr : (fetchGroup 1 w).resident (State.reset.placeWord w) = true := rfl
  have hc : (State.reset.placeWord w).clocked 1 = true := by rw [State.clocked, placeWord_penDie]; rfl
  unfold State.ready
  rw [hr, show (fetchGroup 1 w).pen = 1 from rfl, hc]
  rfl

theorem placeWord_nextGroup (w : W64) : (State.reset.placeWord w).nextGroup = some (fetchGroup 1 w) := by
  have hg : (State.reset.placeWord w).groups = [fetchGroup 1 w] := rfl
  have hf : (State.reset.placeWord w).groups.filter (State.reset.placeWord w).ready = [fetchGroup 1 w] := by
    rw [hg, List.filter_cons, placeWord_ready]; rfl
  have hrot : (State.reset.placeWord w).rotation 0 = [fetchGroup 1 w] := by
    have hcg : (State.reset.placeWord w).coreGroups 0 = [fetchGroup 1 w] := rfl
    rw [State.rotation, hcg, List.filter_cons, placeWord_ready]; rfl
  unfold State.nextGroup
  rw [hf]
  show (List.find? (fun g => !g.yielded) ((State.reset.placeWord w).rotation 0)).orElse _ = _
  rw [hrot]; rfl

/-- The machine has just issued once, so that a group comes before the events that are due. -/
theorem placeWord_schedule (w : W64) : (State.reset.placeWord w).schedule = .issue 1 := by
  have hc : (State.reset.placeWord w).coreTurn = some (.issue 1) := by
    have hd : (State.reset.placeWord w).duty = 1 := rfl
    rw [State.coreTurn, placeWord_nextGroup, hd]; rfl
  rw [State.schedule, hc]; rfl

theorem placedWordRuns : Says.PlacedWordRuns := by
  intro w i hi
  have hw : State.reset.withFetchWord 64 w.toNat = State.reset.placeWord w := by
    rw [State.withFetchWord, Nat.mod_eq_of_lt w.isLt, BitVec.ofNat_toNat, BitVec.setWidth_eq]
  rw [hw]
  exact stepRunsDecoded _ 1 (fetchRun w) i rfl (placeWord_schedule w) rfl hi (Bool.or_true _)

/-- Settles O10: the turns are those of `State.schedule`, and the placed word stands where the one group issues. -/
theorem stepTurns : Obligations.StepTurns := ⟨turns, placedWordRuns⟩

end Sys2Proof.Machine
end

section
namespace Sys2Proof.Machine
set_option Elab.async false

/-! ### Affine results of a strand (R15, R17, R136) -/

/-- The values form one affine sequence over the offsets of a range (R15). -/
def Affine (f : Nat → W64) : Prop := ∃ b s, ∀ k, f k = b + s * BitVec.ofNat 64 k

theorem Form.mk_val (b s : W64) (k : Nat) : (Form.mk b s).val k = b + s * BitVec.ofNat 64 k := by
  unfold Form.mk
  split
  · next h => simp [Form.val, h]
  · rfl

/-- The form that two neighbouring values of an affine sequence give holds every value of it. -/
theorem Affine.mk_val {f : Nat → W64} (h : Affine f) (k : Nat) : (Form.mk (f 0) (f 1 - f 0)).val k = f k := by
  obtain ⟨b, s, hf⟩ := h
  simp [Form.mk_val, hf]

theorem Form.affine (f : Form) : Affine f.val := by
  cases f with
  | u v => exact ⟨v, 0, fun k => by simp [Form.val]⟩
  | a b s => exact ⟨b, s, fun _ => rfl⟩

namespace Affine
variable {f g : Nat → W64}

theorem const (c : W64) : Affine (fun _ => c) := ⟨c, 0, fun k => by simp⟩
theorem add (hf : Affine f) (hg : Affine g) : Affine (fun k => f k + g k) := by
  obtain ⟨b, s, hf⟩ := hf
  obtain ⟨c, r, hg⟩ := hg
  exact ⟨b + c, s + r, fun k => by simp only [hf, hg]; ring⟩
theorem mul_const (hf : Affine f) (c : W64) : Affine (fun k => f k * c) := by
  obtain ⟨b, s, hf⟩ := hf
  exact ⟨b * c, s * c, fun k => by simp only [hf]; ring⟩
theorem neg (hf : Affine f) : Affine (fun k => -f k) := by
  obtain ⟨b, s, hf⟩ := hf
  exact ⟨-b, -s, fun k => by simp only [hf]; ring⟩
theorem sub (hf : Affine f) (hg : Affine g) : Affine (fun k => f k - g k) := by
  simpa only [sub_eq_add_neg] using hf.add hg.neg
theorem not (hf : Affine f) : Affine (fun k => ~~~f k) := by
  have h (a : W64) : ~~~a = -a - 1 := by simpa using BitVec.not_neg (-a)
  simpa only [h] using hf.neg.sub (.const 1)
/-- A product of which one factor is the same at every index. -/
theorem mul (hf : Affine f) (hg : Affine g) (h : (∀ k, f k = f 0) ∨ ∀ k, g k = g 0) : Affine (fun k => f k * g k) := by
  rcases h with h | h
  · simpa only [h, mul_comm] using hg.mul_const (f 0)
  · simpa only [h] using hf.mul_const (g 0)
end Affine

theorem Form.val_of_not_isA {f : Form} (h : f.isA = false) (k : Nat) : f.val k = f.val 0 := by
  cases f with
  | u v => rfl
  | a b s => cases h

theorem valsAt_of_not_isA {fs : List Form} (h : fs.any Form.isA = false) (k : Nat) : valsAt fs k = valsAt fs 0 := by
  refine List.map_congr_left (fun f hf => Form.val_of_not_isA ?_ k)
  simpa using List.any_eq_false.mp h f hf

/-! ### Integer readings and results as bit vectors (R11, R138) -/

theorem sextN_eq_bmod (x : Nat) {w : Nat} (hw : 1 ≤ w) : sextN x w = (x : Int).bmod (2 ^ w) := by
  obtain ⟨v, rfl⟩ : ∃ v, w = v + 1 := ⟨w - 1, by omega⟩
  have h2 : (2 : Nat) ^ (v + 1) = 2 * 2 ^ v := by ring
  have h2' : (2 : Int) ^ (v + 1) = 2 * 2 ^ v := by ring
  simp only [sextN, Int.bmod, Nat.add_sub_cancel, h2, h2', Nat.cast_pow, Nat.cast_ofNat, Nat.cast_mul]
  have hc : ((x % (2 * 2 ^ v) : Nat) : Int) = (x : Int) % (2 * 2 ^ v) := by push_cast; rfl
  have hp : ((2 ^ v : Nat) : Int) = 2 ^ v := by push_cast; rfl
  split <;> split <;> omega

theorem sextN_emod (y : Int) {w : Nat} (hw : 1 ≤ w) : sextN (y % 2 ^ w).toNat w = y.bmod (2 ^ w) := by
  rw [sextN_eq_bmod _ hw, Int.toNat_of_nonneg (Int.emod_nonneg _ (by positivity))]
  rw [show (2 : Int) ^ w = ((2 ^ w : Nat) : Int) by push_cast; rfl]; exact Int.emod_bmod y _

theorem narrowInt_eq (w : Nat) (y : Int) (hw : 1 ≤ w) : narrowInt w false y = BitVec.ofInt 64 (y.bmod (2 ^ w)) := by
  simp [narrowInt, word64, sextN_emod y hw]

theorem narrowInt_toInt (w : IntW) (y : Int) : (narrowInt (IntW.bits w) false y).toInt = y.bmod (2 ^ IntW.bits w) := by
  cases w with
  | i32 =>
    rw [narrowInt_eq _ _ (by decide), BitVec.toInt_ofInt]
    have h1 := Int.le_bmod (x := y) (m := 2 ^ 32) (by decide)
    have h2 := Int.bmod_lt (x := y) (m := 2 ^ 32) (by decide)
    simp only [IntW.bits]
    exact Int.bmod_eq_of_le (by omega) (by omega)
  | i64 =>
    rw [narrowInt_eq _ _ (by decide), BitVec.toInt_ofInt]
    exact Int.bmod_bmod

theorem narrowInt_64 (y : Int) : narrowInt 64 false y = BitVec.ofInt 64 y := by
  rw [narrowInt_eq _ _ (by decide)]
  exact BitVec.eq_of_toInt_eq (by simp [BitVec.toInt_ofInt])

/-- What a source is after a modifier that is not absolute, modulo 2^64 (R75). -/
theorem ofInt_modInt (m : Mod) (a : W64) (hm : Mod.isAbs m = false) :
    BitVec.ofInt 64 (modInt 64 m a) = match m with | .neg => -a | _ => a := by
  have ha : sextN a.toNat 64 = a.toInt := by rw [sextN_eq_bmod _ (by decide), BitVec.toInt_eq_toNat_bmod]
  have hb (y : Int) : BitVec.ofInt 64 (y.bmod (2 ^ 64)) = BitVec.ofInt 64 y := BitVec.eq_of_toInt_eq (by simp [BitVec.toInt_ofInt])
  cases m with
  | none => simp only [modInt, ha, sextN_emod _ (show 1 ≤ 64 by decide), hb, BitVec.ofInt_toInt]
  | neg => simp only [modInt, ha, sextN_emod _ (show 1 ≤ 64 by decide), hb]; rw [BitVec.ofInt_neg, BitVec.ofInt_toInt]
  | abs => cases hm
  | negAbs => cases hm

theorem Affine.modInt {f : Nat → W64} (hf : Affine f) {m : Mod} (hm : Mod.isAbs m = false) :
    Affine (fun k => BitVec.ofInt 64 (modInt 64 m (f k))) := by
  simp only [ofInt_modInt m _ hm]
  cases m with
  | none => exact hf
  | neg => exact hf.neg
  | abs => cases hm
  | negAbs => cases hm

/-! ### Results of register instructions in a strand -/

section
variable {s : State} {g : Group} {r : Run} {t : Thread} {i : Instr}

/-- A rule that gives an affine result a form gives it one that has the result at every index. -/
def Rule.Covers (q : Rule) (n : Nat) (f f64 f32 : Nat → W64) : Prop := ∃ fm, q.form n f f64 f32 = some fm ∧ ∀ k < n, fm.val k = f k

theorem Rule.covers_u {n : Nat} {f f64 f32 : Nat → W64} (h : ∀ k, f k = f 0) : Rule.u.Covers n f f64 f32 :=
  ⟨_, rfl, fun k _ => (h k).symm⟩
theorem Rule.covers_aff {n : Nat} {f f64 f32 : Nat → W64} (h : Affine f) : Rule.aff.Covers n f f64 f32 :=
  ⟨_, rfl, fun k _ => h.mk_val k⟩
theorem Rule.covers_exact32 {n : Nat} {f f64 f32 : Nat → W64} (h : Affine f64) (hf : ∀ k < n, f k = f64 k) (hf32 : ∀ k < n, f32 k = f64 k) :
    Rule.exact32.Covers n f f64 f32 := by
  refine ⟨_, if_pos ?_, fun k hk => (h.mk_val k).trans (hf k hk).symm⟩
  simpa using hf32

/-- In a strand a register instruction whose result has a form, and that raises no flag, writes a form that has the result at
every index. -/
theorem regOp_covers {q : RegI} (h : Performs s g r t i q.gd) (hl : g.lanes = false) (hfl : ∀ vs, (q.op vs).2 = 0)
    (hc : (q.rule (q.forms (envOf g r) t)).Covers t.n (fun k => (q.op (valsAt (q.forms (envOf g r) t) k)).1)
      (fun k => q.op64 (valsAt (q.forms (envOf g r) t) k)) (fun k => q.op32 (valsAt (q.forms (envOf g r) t) k))) :
    ∃ f, regOp i q s = s.makes g r (t.result q.d f) ∧ ∀ k < t.n, f.val k = (q.op (valsAt (q.forms (envOf g r) t) k)).1 := by
  obtain ⟨f, hf, hv⟩ := hc
  refine ⟨f, ?_, hv⟩
  have he : (envOf g r).strand = true := by simp [envOf, hl]
  rw [regOp_next h (f := f) (by rw [RegI.form, he]; exact hf), hfl, orFpx_zero]
  rfl

/-- The same where the rule is U for sources in U form, and A for an affine result otherwise. -/
theorem regOp_affine {q : RegI} (h : Performs s g r t i q.gd) (hl : g.lanes = false) (hfl : ∀ vs, (q.op vs).2 = 0)
    (hr : q.rule (q.forms (envOf g r) t) = if (q.forms (envOf g r) t).any Form.isA then .aff else .u)
    (ha : Affine (fun k => (q.op (valsAt (q.forms (envOf g r) t) k)).1)) :
    ∃ f, regOp i q s = s.makes g r (t.result q.d f) ∧ ∀ k < t.n, f.val k = (q.op (valsAt (q.forms (envOf g r) t) k)).1 := by
  refine regOp_covers h hl hfl ?_
  rw [hr]
  split
  · exact Rule.covers_aff ha
  · next hu => exact Rule.covers_u (fun k => by rw [valsAt_of_not_isA (by simpa using hu) k])
end

/-! ### Sums and products (R138) -/

theorem arith_toInt (w : IntW) {x : FmtA} (hcl : x.cl = .none) (f : Int → Int → Int → Int) (vs : List W64) :
    (arith (IntW.bits w) x f vs).toInt = (f (modInt (IntW.bits w) x.ma (arg vs 0)) (modInt (IntW.bits w) x.mb (arg vs 1))
      (modInt (IntW.bits w) x.mc (arg vs 2))).bmod (2 ^ IntW.bits w) := by
  rw [arith, hcl]; exact narrowInt_toInt w _

theorem arith_64 {x : FmtA} (hcl : x.cl = .none) (f : Int → Int → Int → Int) (vs : List W64) :
    arith 64 x f vs = BitVec.ofInt 64 (f (modInt 64 x.ma (arg vs 0)) (modInt 64 x.mb (arg vs 1)) (modInt 64 x.mc (arg vs 2))) := by
  rw [arith, hcl]; exact narrowInt_64 _

theorem needsExact_eq_false {x : FmtA} (hcl : x.cl = .none) (hm : ∀ m ∈ [x.ma, x.mb, x.mc], Mod.isAbs m = false) (fs : List Form) :
    needsExact x fs = false := by
  have hz : (fs.zip [x.ma, x.mb, x.mc]).any (fun p => p.1.isA && Mod.isAbs p.2) = false := by
    refine List.any_eq_false.mpr (fun p hp => ?_)
    simp [hm p.2 (List.of_mem_zip hp).2]
  simp [needsExact, hcl, hz]

section
variable {s : State} {g : Group} {r : Run} {t : Thread} {i : Instr} {w : IntW} {x : FmtA} {srcs : List (STy × Opd)}
  {f : Int → Int → Int → Int} {bad : List Form → Bool}

/-- A sum or product in a strand, with a 64-bit result that is affine, and equal to the result at the width given (R17, R136). -/
theorem arithI_affine (h : Performs s g r t i x.gd) (hl : g.lanes = false) (hcl : x.cl = .none)
    (hm : ∀ m ∈ [x.ma, x.mb, x.mc], Mod.isAbs m = false)
    (hb : bad ((arithI w x srcs f bad).forms (envOf g r) t) = false)
    (ha : Affine (fun k => arith 64 x f (valsAt ((arithI w x srcs f bad).forms (envOf g r) t) k)))
    (he : ∀ k < t.n, arith (IntW.bits w) x f (valsAt ((arithI w x srcs f bad).forms (envOf g r) t) k)
      = arith 64 x f (valsAt ((arithI w x srcs f bad).forms (envOf g r) t) k)) :
    ∃ fm, regOp i (arithI w x srcs f bad) s = s.makes g r (t.result x.d fm)
      ∧ ∀ k < t.n, fm.val k = arith (IntW.bits w) x f (valsAt ((arithI w x srcs f bad).forms (envOf g r) t) k) := by
  have hx : ({ x with cl := .none } : FmtA) = x := by rw [← hcl]
  refine regOp_covers (q := arithI w x srcs f bad) h hl (fun _ => rfl) ?_
  generalize (arithI w x srcs f bad).forms (envOf g r) t = fs at hb ha he
  simp only [arithI, arithRule, hb, needsExact_eq_false hcl hm, hx]
  cases hA : fs.any Form.isA with
  | false => exact Rule.covers_u (fun k => by rw [valsAt_of_not_isA hA k])
  | true =>
    cases w with
    | i64 => exact Rule.covers_aff ha
    | i32 => exact Rule.covers_exact32 ha he he
end

section
variable {s : State} {g : Group} {r : Run} {t : Thread} {x : FmtA}

theorem affineAt_eq_arith (w : IntW) (hcl : x.cl = .none) (f : Int → Int → Int → Int) (k : Nat) :
    affineAt (IntW.bits w) t g r x f k
      = (arith (IntW.bits w) x f [(t.reads g r .int x.a).val k, (t.reads g r .int x.b).val k, (t.reads g r .int x.c).val k]).toInt := by
  rw [arith_toInt w hcl, affineAt]
  simp only [arg, List.getD_cons_zero, List.getD_cons_succ]

/-- At 64 bits a sum, a difference, and a product of factors not both affine, are affine. -/
theorem affineOps_affine {w : IntW} (hcl : x.cl = .none) (hm : ∀ m ∈ [x.ma, x.mb, x.mc], Mod.isAbs m = false)
    {p : Instr × (Int → Int → Int → Int) × Bool} (hp : p ∈ affineOps w x) {fa fb fc : Form}
    (hab : p.2.2 = true → ¬(fa.isA = true ∧ fb.isA = true)) :
    Affine (fun k => arith 64 x p.2.1 [fa.val k, fb.val k, fc.val k]) := by
  simp only [List.mem_cons, List.not_mem_nil, or_false, forall_eq_or_imp, forall_eq] at hm
  have ha : Affine (fun k => BitVec.ofInt 64 (modInt 64 x.ma (fa.val k))) := fa.affine.modInt hm.1
  have hb : Affine (fun k => BitVec.ofInt 64 (modInt 64 x.mb (fb.val k))) := fb.affine.modInt hm.2.1
  have hc : Affine (fun k => BitVec.ofInt 64 (modInt 64 x.mc (fc.val k))) := fc.affine.modInt hm.2.2
  have hmul (h : ¬(fa.isA = true ∧ fb.isA = true)) :
      Affine (fun k => BitVec.ofInt 64 (modInt 64 x.ma (fa.val k)) * BitVec.ofInt 64 (modInt 64 x.mb (fb.val k))) := by
    rw [not_and_or, Bool.not_eq_true, Bool.not_eq_true] at h
    exact ha.mul hb (h.imp (fun h k => by rw [Form.val_of_not_isA h]) (fun h k => by rw [Form.val_of_not_isA h]))
  simp only [arith_64 hcl, arg, List.getD_cons_zero, List.getD_cons_succ]
  simp only [affineOps, List.mem_cons, List.not_mem_nil, or_false] at hp
  rcases hp with rfl | rfl | rfl | rfl
  · simpa only [BitVec.ofInt_add] using ha.add hb
  · simpa only [sub_eq_add_neg, BitVec.ofInt_add, BitVec.ofInt_neg] using ha.sub hb
  · simpa only [BitVec.ofInt_mul] using hmul (hab rfl)
  · simpa only [BitVec.ofInt_add, BitVec.ofInt_mul] using (hmul (hab rfl)).add hc

/-- R17, R136: a sum or product that stays affine is written whole. -/
theorem affineOps_makes {w : IntW} (hl : g.lanes = false) (hcl : x.cl = .none) (hm : ∀ m ∈ [x.ma, x.mb, x.mc], Mod.isAbs m = false)
    {p : Instr × (Int → Int → Int → Int) × Bool} (hp : p ∈ affineOps w x)
    (hab : p.2.2 = true → ¬((t.reads g r .int x.a).isA = true ∧ (t.reads g r .int x.b).isA = true))
    (he : ∀ k < t.n, affineAt (IntW.bits w) t g r x p.2.1 k = affineAt 64 t g r x p.2.1 k) (h : Performs s g r t p.1 x.gd) :
    ∃ f, exec p.1 s = s.makes g r (t.result x.d f) ∧ ∀ k < t.n, (f.val k).toInt = affineAt (IntW.bits w) t g r x p.2.1 k := by
  have ha := affineOps_affine hcl hm hp hab (fc := t.reads g r .int x.c)
  have he' : ∀ k < t.n, arith (IntW.bits w) x p.2.1
        [(t.reads g r .int x.a).val k, (t.reads g r .int x.b).val k, (t.reads g r .int x.c).val k]
      = arith 64 x p.2.1 [(t.reads g r .int x.a).val k, (t.reads g r .int x.b).val k, (t.reads g r .int x.c).val k] := fun k hk => by
    refine BitVec.eq_of_toInt_eq ?_
    rw [← affineAt_eq_arith w hcl, he k hk]
    exact affineAt_eq_arith .i64 hcl _ k
  simp only [affineAt_eq_arith w hcl]
  suffices hs : ∃ f, exec p.1 s = s.makes g r (t.result x.d f) ∧ ∀ k < t.n, f.val k = arith (IntW.bits w) x p.2.1
      [(t.reads g r .int x.a).val k, (t.reads g r .int x.b).val k, (t.reads g r .int x.c).val k] by
    obtain ⟨f, hf, hv⟩ := hs
    exact ⟨f, hf, fun k hk => by rw [hv k hk]⟩
  have hbad : p.2.2 = true → bothA [t.reads g r .int x.a, t.reads g r .int x.b] = false := fun hp => by
    simpa [bothA] using hab hp
  simp only [affineOps, List.mem_cons, List.not_mem_nil, or_false] at hp
  rcases hp with rfl | rfl | rfl | rfl
  · exact arithI_affine (srcs := int2 x) h hl hcl hm rfl ha he'
  · exact arithI_affine (srcs := int2 x) h hl hcl hm rfl ha he'
  · exact arithI_affine (srcs := int2 x) (bad := bothA) h hl hcl hm (hbad rfl) ha he'
  · exact arithI_affine (srcs := int3 x) (bad := bothA) h hl hcl hm (hbad rfl) ha he'

/-! ### Moves, shifts, addresses (R17, R140, R143) -/

theorem shlOp_eq (a c : W64) : shlOp a c = a * BitVec.ofNat 64 (2 ^ c.toNat) := by
  unfold shlOp
  refine BitVec.eq_of_toNat_eq ?_
  split
  · simp [Nat.shiftLeft_eq]
  · next h =>
    obtain ⟨d, hd⟩ : 2 ^ 64 ∣ 2 ^ c.toNat := Nat.pow_dvd_pow 2 (by omega)
    simp [hd]

theorem lastU_of_u {fs : List Form} {c : W64} :
    lastU (fs ++ [Form.u c]) = if (fs ++ [Form.u c]).any Form.isA then .aff else .u := by
  have h : fs.reverse.any Form.isA = fs.any Form.isA := List.any_reverse
  have hu : (Form.u c).isA = false := rfl
  simp only [lastU, List.reverse_append, List.reverse_cons, List.reverse_nil, List.nil_append, List.cons_append, h, hu, List.any_append,
    List.any_cons, List.any_nil, Bool.or_false, Bool.false_eq_true, if_false]

theorem modBits_shift (m : Mod) (a c : W64) :
    shlOp (modBits m a) c = BitVec.ofInt 64 (if c.toNat < 64 then modInt 64 m a * 2 ^ c.toNat else 0) := by
  rw [shlOp_eq, modBits, word64]
  have hp : BitVec.ofInt 64 (2 ^ c.toNat) = BitVec.ofNat 64 (2 ^ c.toNat) := by
    rw [← BitVec.ofInt_natCast]; push_cast; rfl
  split
  · rw [BitVec.ofInt_mul, hp]
  · next h =>
    obtain ⟨d, hd⟩ : 2 ^ 64 ∣ 2 ^ c.toNat := Nat.pow_dvd_pow 2 (by omega)
    have h0 : BitVec.ofNat 64 (2 ^ c.toNat) = 0 := BitVec.eq_of_toNat_eq (by simp [hd])
    rw [h0]; simp

theorem shl_makes {c : W64} (hl : g.lanes = false) (hc : t.reads g r .int x.b = .u c) (h : Performs s g r t (.shl x) x.gd) :
    ∃ f, exec (.shl x) s = s.makes g r (t.result x.d f)
      ∧ ∀ k < t.n, f.val k = BitVec.ofNat 64 (((t.reads g r .int x.a).val k).toNat * 2 ^ c.toNat) := by
  let q : RegI := { gd := x.gd, d := x.d, srcs := int2 x, op := pure2 shlOp, rule := lastU }
  have hf : q.forms (envOf g r) t = [t.reads g r .int x.a] ++ [.u c] := by rw [← hc]; rfl
  have hv (k : Nat) : (q.op (valsAt (q.forms (envOf g r) t) k)).1 = (t.reads g r .int x.a).val k * BitVec.ofNat 64 (2 ^ c.toNat) := by
    rw [hf, ← shlOp_eq]; rfl
  obtain ⟨f, he, hk⟩ := regOp_affine (q := q) h hl (fun _ => rfl) (by rw [hf]; exact lastU_of_u (fs := [t.reads g r .int x.a]))
    (by simp only [hv]; exact (Form.affine _).mul_const _)
  refine ⟨f, he, fun k h => ?_⟩
  rw [hk k h, hv]
  exact BitVec.eq_of_toNat_eq (by simp [BitVec.toNat_mul])

theorem leaRule_of_u {fs : List Form} {c : W64} (hne : needsExact x (fs ++ [Form.u c]) = false) :
    leaRule x (fs ++ [Form.u c]) = if (fs ++ [Form.u c]).any Form.isA then .aff else .u := by
  rw [leaRule, lastU_of_u, hne]
  cases (fs ++ [Form.u c]).any Form.isA <;> rfl

theorem lea_makes {c : W64} (hl : g.lanes = false) (hc : t.reads g r .int x.c = .u c) (hcl : x.cl = .none)
    (hm : ∀ m ∈ [x.ma, x.mb], Mod.isAbs m = false) (h : Performs s g r t (.lea x) x.gd) :
    ∃ f, exec (.lea x) s = s.makes g r (t.result x.d f)
      ∧ ∀ k < t.n, f.val k = BitVec.ofInt 64 (modInt 64 x.ma ((t.reads g r .int x.a).val k)
          + if c.toNat < 64 then modInt 64 x.mb ((t.reads g r .int x.b).val k) * 2 ^ c.toNat else 0) := by
  let q : RegI := { gd := x.gd, d := x.d, srcs := int3 x, op := pure3 (leaOp x), rule := leaRule x }
  have hf : q.forms (envOf g r) t = [t.reads g r .int x.a, t.reads g r .int x.b] ++ [.u c] := by rw [← hc]; rfl
  have hv (k : Nat) : (q.op (valsAt (q.forms (envOf g r) t) k)).1
      = leaOp x ((t.reads g r .int x.a).val k) ((t.reads g r .int x.b).val k) c := by rw [hf]; rfl
  simp only [List.mem_cons, List.not_mem_nil, or_false, forall_eq_or_imp, forall_eq] at hm
  have hne : needsExact x ([t.reads g r .int x.a, t.reads g r .int x.b] ++ [Form.u c]) = false := by
    simp [needsExact, hcl, hm, Form.isA]
  obtain ⟨f, he, hk⟩ := regOp_affine (q := q) h hl (fun _ => rfl)
    (by rw [hf]; exact leaRule_of_u hne)
    (by
      simp only [hv, leaOp, shlOp_eq, modBits, word64]
      exact ((Form.affine _).modInt hm.1).add (((Form.affine _).modInt hm.2).mul_const _))
  refine ⟨f, he, fun k h => ?_⟩
  rw [hk k h, hv, leaOp, modBits_shift, modBits, word64, ← BitVec.ofInt_add]
end

/-- Settles O12: each result is a sum or product of affine sequences modulo 2^64 of which it stays affine, so that the form given by
its first two values has every other. -/
theorem affineResults : Obligations.AffineResults := by
  intro s g r t x y c hl
  refine ⟨fun hcl hm => ⟨fun p hp hab h => ?_, fun p hp hab he h => ?_⟩, shl_makes hl, lea_makes hl, fun h => ?_, fun h => ?_, fun h => ?_⟩
  · exact affineOps_makes (w := .i64) hl hcl hm hp hab (fun _ _ => rfl) h
  · exact affineOps_makes (w := .i32) hl hcl hm hp hab he h
  · exact regOp_affine (q := { gd := y.gd, d := y.d, srcs := [(.int, y.a)], op := pure1 fun a => a + y.imm.signExtend 64, rule := uOrAff })
      h hl (fun _ => rfl) rfl ((Form.affine _).add (.const _))
  · exact regOp_affine (q := { gd := x.gd, d := x.d, srcs := int1 x, op := pure1 id, rule := uOrAff }) h hl (fun _ => rfl) rfl (Form.affine _)
  · exact regOp_affine (q := { gd := x.gd, d := x.d, srcs := int1 x, op := pure1 fun a => ~~~a, rule := uOrAff }) h hl (fun _ => rfl) rfl
      (Form.affine _).not

end Sys2Proof.Machine
end

section
namespace Sys2Proof.Machine
set_option Elab.async false

/-! ### Runs of equal truth, and the interval that they push (R32, R33) -/

theorem runsOf_succ {P : Nat → Bool} {n a l : Nat} {b : Bool} {init : List (Nat × Nat × Bool)} (h : runsOf P n = init ++ [(a, l, b)]) :
    runsOf P (n + 1) = if b = P n then init ++ [(a, l + 1, b)] else init ++ [(a, l, b)] ++ [(n, 1, P n)] := by
  rw [runsOf, h]
  simp

/-- The last run has the truth of the last offset. -/
theorem runsOf_last (P : Nat → Bool) (n : Nat) : ∃ init a l, runsOf P (n + 1) = init ++ [(a, l, P n)] := by
  induction n with
  | zero => exact ⟨[], 0, 1, rfl⟩
  | succ n ih =>
    obtain ⟨init, a, l, h⟩ := ih
    rw [runsOf_succ h]
    split
    · next he => exact ⟨init, a, l + 1, by rw [he]⟩
    · exact ⟨_, _, _, rfl⟩

/-- Where the true offsets are those from p to p + q − 1, there is one true run, or none. -/
theorem runsOf_filter {P : Nat → Bool} {p q : Nat} (n : Nat) (h : ∀ k < n, P k = true ↔ p ≤ k ∧ k < p + q) :
    (runsOf P n).filter (·.2.2) = if p < min n (p + q) then [(p, min n (p + q) - p, true)] else [] := by
  induction n with
  | zero => simp [runsOf]
  | succ n ih =>
    have hn := h n (by omega)
    specialize ih (fun k hk => h k (by omega))
    cases n with
    | zero =>
      rw [show runsOf P 1 = [(0, 1, P 0)] from rfl]
      cases hP : P 0 with
      | true => simp only [hP, true_iff] at hn; rw [if_pos (by omega)]; simp; omega
      | false =>
        simp only [hP, Bool.false_eq_true, false_iff] at hn
        simp; omega
    | succ m =>
      have hm := h m (by omega)
      obtain ⟨init, a, l, hr⟩ := runsOf_last P m
      rw [hr, List.filter_append] at ih
      rw [runsOf_succ hr]
      cases hP : P (m + 1) with
      | true =>
        simp only [hP, true_iff] at hn
        cases hQ : P m with
        | true =>
          simp only [hQ, true_iff] at hm
          rw [hQ, if_pos (by omega)] at ih
          simp only [List.filter_cons, if_true, List.filter_nil] at ih
          obtain ⟨hi, heq⟩ := List.append_inj' (s₁ := []) ih.symm rfl
          simp only [List.cons.injEq, Prod.mk.injEq, and_true] at heq
          rw [if_pos rfl, List.filter_append, ← hi, if_pos (by omega)]
          simp; omega
        | false =>
          simp only [hQ, Bool.false_eq_true, false_iff] at hm
          rw [hQ, if_neg (by omega)] at ih
          rw [if_neg (by decide), List.filter_append, List.filter_append, ih, if_pos (by omega)]
          simp; omega
      | false =>
        simp only [hP, Bool.false_eq_true, false_iff] at hn
        cases hQ : P m with
        | true =>
          simp only [hQ, true_iff] at hm
          rw [hQ] at ih
          rw [if_neg (by decide), List.filter_append, List.filter_append, ih, if_pos (by omega), if_pos (by omega)]
          simp; omega
        | false =>
          simp only [hQ, Bool.false_eq_true, false_iff] at hm
          have hmin : min (m + 1 + 1) (p + q) = min (m + 1) (p + q) ∨ ¬p < min (m + 1 + 1) (p + q) ∧ ¬p < min (m + 1) (p + q) := by omega
          rw [hQ] at ih
          rw [if_pos rfl, List.filter_append]
          rcases hmin with hmin | ⟨h1, h2⟩
          · rw [hmin, ← ih]; simp
          · rw [if_neg h2] at ih; rw [if_neg h1]; simpa using ih

theorem Ivl.has_iff (lo len i : Nat) : (⟨lo, len⟩ : Ivl).has i = true ↔ lo ≤ i ∧ i < lo + len := by simp [Ivl.has]

/-- The one run of a test over the range is an entry that is true at exactly the offsets where the test holds. -/
theorem oneIvl_runsOf {t : Thread} {P : Nat → Bool} {p q : Nat} (h : OneRun t (fun k => P k = true) p q) :
    ∃ e, oneIvl t (runsOf P t.n) = some e ∧ ∀ k < t.n, e.has (t.lo + k) = true ↔ P k = true := by
  obtain ⟨hpq, hP⟩ := h
  dsimp only at hP
  rw [oneIvl, runsOf_filter t.n hP]
  split_ifs with hlt
  · refine ⟨_, rfl, fun k hk => ?_⟩
    rw [hP k hk, Ivl.has_iff]; dsimp only; omega
  · refine ⟨_, rfl, fun k hk => ?_⟩
    rw [hP k hk, Ivl.has_iff]; omega

section
variable {s : State} {g : Group} {r : Run} {t : Thread} {i : Instr}

/-- A guard that is true for every index of the thread has one true run. -/
theorem Performs.guardRuns {gd : Guard} (h : Performs s g r t i gd) : t.guardRuns gd = some [(0, t.n, true)] := by
  have hg := h.guard
  unfold GuardTrue at hg
  cases hl : g.lanes with
  | true =>
    rw [hl, if_pos rfl] at hg
    obtain ⟨-, -, -, hn⟩ := h.lane hl
    exact guardRuns_lane hg hn
  | false => rwa [hl, if_neg (by decide)] at hg

/-- What pushes one interval is not cut. -/
theorem pushRuns_one {bad : Env → Bool} {m : Meaning} {pops : Nat} {runs : Env → Thread → List (Nat × Nat × Bool)} {fl : Env → Thread → Fpx}
    {e : Ivl} (h : Issues s g r t) (he : oneIvl t (runs (envOf g r) t) = some e) : pushRuns i bad m pops runs fl s = drive i bad m s := by
  unfold pushRuns
  simp only [h.cur, h.grp, h.run]
  cases hl : g.lanes with
  | true => rfl
  | false => simp [h.strand hl, he]

/-- The interval of a compare under a true guard. -/
theorem CmpI.oneIvl_runs {c : CmpI} {e : Env} {p q : Nat} (h : OneRun t (fun k => (c.test (valsAt (c.forms e t) k)).1 = true) p q) :
    ∃ v, oneIvl t (c.runs e t [(0, t.n, true)]) = some v
      ∧ ∀ k < t.n, v.has (t.lo + k) = true ↔ (c.test (valsAt (c.forms e t) k)).1 = true := by
  unfold CmpI.runs
  split
  · have hone : OneRun t (fun k => c.truth e t [(0, t.n, true)] k = true) p q := by
      refine ⟨h.1, fun k hk => ?_⟩
      rw [← h.2 k hk]; simp [CmpI.truth, runTrue, hk]
    obtain ⟨v, hv, hh⟩ := oneIvl_runsOf hone
    refine ⟨v, hv, fun k hk => ?_⟩
    rw [hh k hk]; simp [CmpI.truth, runTrue, hk]
  · next hu =>
    have hv (k : Nat) := valsAt_of_not_isA (by simpa using hu : (c.forms e t).any Form.isA = false) k
    simp only [hv]
    cases (c.test (valsAt (c.forms e t) 0)).1 with
    | true => exact ⟨⟨t.lo + 0, t.n⟩, rfl, fun k hk => by rw [Ivl.has_iff]; simp [hk]⟩
    | false => exact ⟨⟨t.lo, 0⟩, rfl, fun k hk => by rw [Ivl.has_iff]; simp⟩

/-- R31 to R33: a compare that raises no flag, whose true set is one run, pushes it. -/
theorem cmpOp_pushes {c : CmpI} {p q : Nat} (h : Performs s g r t i c.gd) (hd : t.preds.length < 16) (hl : c.layA = false)
    (hfl : ∀ vs, (c.test vs).2 = 0) (h1 : OneRun t (fun k => (c.test (valsAt (c.forms (envOf g r) t) k)).1 = true) p q) :
    ∃ e, cmpOp i c s = s.makes g r { t with preds := e :: t.preds }
      ∧ ∀ k < t.n, e.has (t.lo + k) = true ↔ (c.test (valsAt (c.forms (envOf g r) t) k)).1 = true := by
  obtain ⟨e, he, hh⟩ := CmpI.oneIvl_runs h1
  refine ⟨e, ?_, hh⟩
  have hr := h.guardRuns
  rw [cmpOp, pushRuns_one (e := e) h.toIssues (by simpa only [hr] using he)]
  refine drive_next (m := c.meaning) h rfl rfl (fun _ => by simp [CmpI.meaning, hl]) rfl ?_ rfl
  have hf : c.flags (envOf g r) t [(0, t.n, true)] = 0 := by simp [CmpI.flags, hfl]
  simp only [CmpI.meaning, hr, he, if_neg (by omega : ¬16 ≤ t.preds.length), hf, orFpx_zero]

theorem cmpTest_iff (cc : CmpCC) (x : FmtA) (a b : W64) : cmpTest cc x [a, b] = true ↔ cmpTruth cc x a b := by
  cases cc <;> exact decide_eq_true_iff

theorem comparesPush : Says.ComparesPush := by
  intro s g r t cc x p q hd
  refine ⟨fun h h1 => ?_, fun h h1 => ?_⟩
  · simp only [← cmpTest_iff] at h1 ⊢
    exact cmpOp_pushes (c := { gd := x.gd, srcs := int2 x, test := fun vs => (cmpTest cc x vs, 0) }) h hd rfl (fun _ => rfl) h1
  · simp only [← bne_iff_ne] at h1 ⊢
    exact cmpOp_pushes (c := { gd := x.gd, srcs := int2 x, test := fun vs => (arg vs 0 &&& arg vs 1 != 0, 0) }) h hd rfl (fun _ => rfl) h1

/-- R148: a combination of the top entries whose true set is one run takes the place of the entries it needs. -/
theorem stackOp_makes {need p q : Nat} {f : Bool → Bool → Bool} {P : Nat → Bool} {rest : List Ivl} (h : Performs s g r t i .always)
    (hd : need ≤ t.preds.length) (hrest : t.preds.drop need = rest) (hP : stackRuns f t = runsOf P t.n)
    (h1 : OneRun t (fun k => P k = true) p q) :
    ∃ e, stackOp i need f s = s.makes g r { t with preds := e :: rest } ∧ ∀ k < t.n, e.has (t.lo + k) = true ↔ P k = true := by
  obtain ⟨e, he, hh⟩ := oneIvl_runsOf h1
  rw [← hP] at he
  refine ⟨e, ?_, hh⟩
  rw [stackOp, pushRuns_one (e := e) h.toIssues he]
  refine drive_next h rfl rfl (fun _ => rfl) rfl ?_ rfl
  simp only [he, hrest, if_neg (by omega : ¬t.preds.length < need)]

theorem stackOperations : Says.StackOperations := by
  intro s g r t x p1 p2 rest p q
  refine ⟨fun h hp h1 => ?_, fun h hp h1 => ?_, fun h hp h1 => ?_, fun h hp => ?_⟩
  · simp only [← Bool.and_eq_true] at h1 ⊢
    exact stackOp_makes h (by simp [hp]) (by simp [hp]) (by simp [stackRuns, hp]) h1
  · simp only [← Bool.or_eq_true] at h1 ⊢
    exact stackOp_makes h (by simp [hp]) (by simp [hp]) (by simp [stackRuns, hp]) h1
  · simp only [Bool.not_eq_true, ← Bool.not_eq_true'] at h1 ⊢
    exact stackOp_makes h (by simp [hp]) (by simp [hp]) (by simp [stackRuns, hp]) h1
  · rw [show exec (.ppop x) s = execPpop x s from rfl, execPpop]
    exact drive_next h rfl rfl (fun _ => rfl) rfl (by simp only [hp]) rfl
end

/-- Settles O16: one run of the range is one interval (`runsOf_filter`), which the instruction pushes without a cut. -/
theorem predicateStack : Obligations.PredicateStack := ⟨comparesPush, stackOperations⟩

end Sys2Proof.Machine
end

section
namespace Sys2Proof.Machine
set_option Elab.async false

/-! ### The instructions that give a register a result (R17, R69, R70) -/

/-- A register instruction of class E under the guard of x, into D, that reads a. -/
structure RegI.OfClassE (q : RegI) (x : FmtA) : Prop where
  gd : q.gd = x.gd
  d : q.d = x.d
  rule : q.rule = eClass
  src : ∃ ty, (ty, x.a) ∈ q.srcs

/-- The instructions of class E are IMULW, which has two results, and register instructions. -/
theorem eInstrs_cases {x : FmtA} : ∀ i ∈ eInstrs x,
    (∃ v, i = .imulw v x) ∨ ∃ q : RegI, (∀ s, exec i s = regOp i q s) ∧ q.OfClassE x := by
  have reg {i : Instr} {q : RegI} (h : ∀ s, exec i s = regOp i q s) (hg : q.gd = x.gd) (hd : q.d = x.d) (hr : q.rule = eClass)
      {ty : STy} (hs : q.srcs.head? = some (ty, x.a)) :
      (∃ v, i = .imulw v x) ∨ ∃ q : RegI, (∀ s, exec i s = regOp i q s) ∧ q.OfClassE x :=
    .inr ⟨q, h, hg, hd, hr, ty, List.mem_of_head? hs⟩
  simp only [eInstrs, List.flatten_cons, List.flatten_nil, List.forall_mem_append, List.forall_mem_cons, List.flatMap_cons,
    List.flatMap_nil, List.map_cons, List.map_nil, List.not_mem_nil, IsEmpty.forall_iff, implies_true, and_true]
  repeat' apply And.intro
  case right.left.left.right.right.right.left => exact .inl ⟨_, rfl⟩
  case right.left.right.right.right.right.left => exact .inl ⟨_, rfl⟩
  all_goals exact reg (fun _ => rfl) rfl rfl rfl rfl

/-- A meaning that acts once for a thread, under guard gd, and keeps D in the history where that is false (R70). -/
structure Meaning.Skips (m : Meaning) (gd : Guard) (dest : Option Opd) (asc : Bool) : Prop where
  gd : m.gd = gd
  dest : m.dest = dest
  asc : m.asc = asc
  whole : m.whole = false
  wholeLanes : m.wholeLanes = false

theorem RegI.meaning_skips (q : RegI) : q.meaning.Skips q.gd (some q.d) true := ⟨rfl, rfl, rfl, rfl, rfl⟩

theorem resultInstrs_meaning {x : FmtA} : ∀ i ∈ resultInstrs x,
    ∃ m : Meaning, (∀ s, exec i s = drive i (fun _ => false) m s) ∧ m.Skips x.gd (some x.d) true := by
  have reg {i : Instr} {q : RegI} (h : ∀ s, exec i s = regOp i q s) (hg : q.gd = x.gd) (hd : q.d = x.d) :
      ∃ m : Meaning, (∀ s, exec i s = drive i (fun _ => false) m s) ∧ m.Skips x.gd (some x.d) true :=
    ⟨q.meaning, h, hg ▸ hd ▸ q.meaning_skips⟩
  simp only [resultInstrs, List.forall_mem_append, List.flatMap_cons, List.flatMap_nil, List.forall_mem_cons, List.not_mem_nil,
    IsEmpty.forall_iff, implies_true, and_true]
  refine ⟨⟨fun i hi => ?_, ?_⟩, ?_⟩
  · rcases eInstrs_cases i hi with ⟨v, rfl⟩ | ⟨q, hq, hc⟩
    · exact ⟨_, fun _ => rfl, rfl, rfl, rfl, rfl, rfl⟩
    · exact reg hq hc.gd hc.d
  · refine ⟨?_, ?_, ?_, ?_⟩
    all_goals exact reg (fun _ => rfl) rfl rfl
  · refine ⟨⟨?_, ?_, ?_, ?_⟩, ?_, ?_, ?_, ?_⟩
    all_goals exact reg (fun _ => rfl) rfl rfl

theorem storeInstrs_meaning {y : FmtM} : ∀ i ∈ storeInstrs y,
    ∃ m : Meaning, (∀ s, exec i s = drive i (fun _ => false) m s) ∧ m.Skips y.gd none false := by
  simp only [storeInstrs, List.map_cons, List.map_nil, List.forall_mem_append, List.forall_mem_cons, List.not_mem_nil,
    IsEmpty.forall_iff, implies_true, and_true]
  repeat' apply And.intro
  all_goals exact ⟨_, fun _ => rfl, rfl, rfl, rfl, rfl, rfl⟩

/-! ### Under a false guard (R31, R70, R135, R441) -/

/-- What stands for one that does not act: the history shifts where there is a short-latency destination (R70). -/
def State.afterSkip (s : State) (g : Group) (t : Thread) (dest : Option Opd) : State :=
  match dest with
  | some d => s.bump.updThread g.id t.lane (fun u => if g.lanes then t.skipped d s.fresh else u.skipped d s.fresh)
  | none => (s.drawn g).updThread g.id t.lane (fun u => if g.lanes then t else u)

theorem Thread.skipped_eq (t : Thread) (d : Opd) (seed : Nat) : t.skipped d seed
    = { t with hist := t.hist.push (if d.file = .special then .u (Config.freeReg seed 520) else t.regs.get (Opd.key d)) } := by
  simp [Thread.skipped]

theorem State.updThread_id (s : State) (g l : Nat) : s.updThread g l (fun u => u) = s := by
  simp [State.updThread, State.updGroup, Group.mapLanes]

section
variable {s : State} {g : Group} {r : Run} {t : Thread} {i : Instr} {m : Meaning}

/-- A strand whose guard is false everywhere does not act. -/
theorem driveStrand_false (h : Issues s g r t) (hl : g.lanes = false) (hg : t.guardRuns m.gd = some [(0, t.n, false)]) (hw : m.whole = false) :
    s.driveStrand (envOf g r) m t = (s.afterSkip g t m.dest).advance (envOf g r) [t.lane] := by
  have hgid : (envOf g r).gid = g.id := rfl
  have hn : s.driveStrand (envOf g r) m t = s.actNone (envOf g r) m := by
    unfold State.driveStrand; simp [hg, hw]
  rw [hn, State.actNone, hgid, h.grp, h.strand hl]
  unfold State.afterSkip
  cases m.dest with
  | some d => simp [hl]
  | none => simp [hl, State.drawn, State.updThread_id]

/-- A lane whose guard is false does not act. -/
theorem lane_false {s : State} (hg : t.laneGuard m.gd = some false) (hw : m.whole = false) (hwl : m.wholeLanes = false) (e : Env) :
    m.lane s e t = .ok (match m.dest with | some d => { s := s.bump, t := t.skipped d s.fresh } | none => { s := s, t := t }) := by
  unfold Meaning.lane
  simp only [hg, hw, hwl]
  cases m.dest <;> rfl

theorem driveLanes_false {gd : Guard} {dest : Option Opd} {asc : Bool} (hm : m.Skips gd dest asc) (ha : asc = dest.isSome)
    (h : Issues s g r t) (hl : g.lanes = true) (hg : t.laneGuard gd = some false) :
    s.driveLanes (envOf g r) m = (s.afterSkip g t dest).advance (envOf g r) [t.lane] := by
  obtain ⟨rfl, rfl, rfl, hw, hwl⟩ := hm
  have hlane (u : State) := lane_false (s := u) hg hw hwl (envOf g r)
  unfold State.afterSkip
  cases hd : m.dest with
  | some d =>
    simp only [hd] at hlane ha
    rw [driveLanes_asc h hl ha (hlane s)]
    simp only [hl, if_true]
    rfl
  | none =>
    simp only [hd] at hlane ha
    rw [driveLanes_any h hl ha ⟨_, hlane s⟩ (hlane s.bump)]
    simp only [hl, State.drawn, if_true]
    rfl

/-- R31, R70, R441: under a guard that is false for the strand, or for the lane, nothing acts. -/
theorem drive_false {gd : Guard} {dest : Option Opd} {asc : Bool} (hm : m.Skips gd dest asc) (ha : asc = dest.isSome)
    (h : Issues s g r t) (hr : i.regsOk (s.launchOf g.pen).regs = true)
    (hg : if g.lanes then t.laneGuard gd = some false else t.guardRuns gd = some [(0, t.n, false)]) :
    drive i (fun _ => false) m s = .next (((s.afterSkip g t dest).advance (envOf g r) [t.lane]).settle g.pen) := by
  rw [drive_eq h hr rfl]
  cases hl : g.lanes with
  | true =>
    rw [hl, if_pos rfl] at hg
    rw [if_pos rfl, driveLanes_false hm ha h hl hg]
  | false =>
    rw [hl, if_neg (by decide)] at hg
    obtain ⟨rfl, rfl, -, hw, -⟩ := hm
    rw [if_neg (by decide), driveStrand_false h hl hg hw]

end

theorem falseGuard : Says.FalseGuard := by
  intro s g r t x y h hn isFalse
  refine ⟨fun i hi hg hr => ?_, fun i hi hg hr => ?_, Thread.skipped_eq t x.d⟩
  · obtain ⟨m, he, hm⟩ := resultInstrs_meaning i hi
    rw [he, drive_false hm rfl h hr hg]; rfl
  · obtain ⟨m, he, hm⟩ := storeInstrs_meaning i hi
    rw [he, drive_false hm rfl h hr hg]; rfl

/-! ### Several lanes (R20, R65) -/

theorem insertBy_le {α : Type} (key : α → Nat) (x : α) (l : List α) (h : ∀ y ∈ l, key x ≤ key y) : insertBy key x l = x :: l := by
  cases l with
  | nil => rfl
  | cons y ys => simp [insertBy, h y]

theorem sortBy_sorted {α : Type} (key : α → Nat) (l : List α) (h : l.Pairwise (fun a b => key a ≤ key b)) : sortBy key l = l := by
  induction l with
  | nil => rfl
  | cons x xs ih =>
    rw [List.pairwise_cons] at h
    rw [show sortBy key (x :: xs) = insertBy key x (sortBy key xs) from rfl, ih h.2, insertBy_le key x xs h.1]

theorem Group.thread_mapLanes_ne {g : Group} {l k : Nat} {f : Thread → Thread} (h : k ≠ l) (hf : ∀ t ∈ g.threads, t.lane = l → (f t).lane = l) :
    (g.mapLanes [l] f).thread k = g.thread k := by
  unfold Group.thread Group.mapLanes
  generalize g.threads = ts at hf
  induction ts with
  | nil => rfl
  | cons t ts ih =>
    specialize ih (fun u hu => hf u (.tail _ hu))
    simp only [List.map_cons, List.find?_cons]
    by_cases ht : t.lane = l
    · have hne : l ≠ k := h.symm
      simp only [List.contains_cons, ht, hf t (.head _) ht, beq_self_eq_true, Bool.true_or, if_true,
        (beq_eq_false_iff_ne).mpr hne]
      exact ih
    · simp only [List.contains_cons, List.contains_nil, (beq_eq_false_iff_ne).mpr ht, Bool.or_self, Bool.false_eq_true, if_false]
      cases t.lane == k with
      | true => rfl
      | false => exact ih

/-- The threads of a group after each lane of a list has acted for itself. -/
def Group.actLanes (g : Group) (ls : List Nat) (f : Nat → Thread → Thread) : Group :=
  { g with threads := g.threads.map (fun t => if t.lane ∈ ls then f t.lane t else t) }

/-- Lanes act one after another, each for itself: none sees what another has made of its own registers. -/
theorem laneLoop_each {m : Meaning} {e : Env} {f : Nat → Thread → Thread} (ls : List Nat) {s : State} (go : List Nat) (hn : ls.Nodup)
    (hr : (s.group e.gid).run.isSome)
    (h : ∀ l ∈ ls, ∃ t t1, (s.group e.gid).thread l = some t ∧ t1.lane = l ∧ (∀ u, f l u = t1)
      ∧ ∀ x : State, m.lane x e t = .ok { s := x, t := t1 }) :
    laneLoop m e ls s go = (s.updGroup e.gid (fun y => y.actLanes ls f), go ++ ls, none) := by
  induction ls generalizing s go with
  | nil => simp [laneLoop, Group.actLanes, State.updGroup]
  | cons l ls ih =>
    obtain ⟨hl, hn⟩ := List.nodup_cons.mp hn
    obtain ⟨t, t1, ht, hlane, hf, ha⟩ := h l (.head _)
    have hgrp : (s.updThread e.gid l (fun _ => t1)).group e.gid = (s.group e.gid).mapLanes [l] (fun _ => t1) := group_updThread s _ _ _ hr
    have hstep : laneLoop m e (l :: ls) s go = laneLoop m e ls (s.updThread e.gid l (fun _ => t1)) (go ++ [l]) := by
      simp only [laneLoop, ht, ha, Res.commit, hlane]
      rfl
    rw [hstep, ih (go ++ [l]) hn (by rw [hgrp]; exact hr) (fun k hk => ?_)]
    · have hupd : (s.updThread e.gid l (fun _ => t1)).updGroup e.gid (fun y => y.actLanes ls f)
          = s.updGroup e.gid (fun y => y.actLanes (l :: ls) f) := by
        unfold State.updThread State.updGroup
        simp only [List.map_map]
        congr 1
        refine List.map_congr_left (fun y _ => ?_)
        by_cases hy : y.id == e.gid
        · simp only [Function.comp, hy, if_true, Group.mapLanes, Group.actLanes, List.map_map]
          congr 1
          refine List.map_congr_left (fun u _ => ?_)
          by_cases hu : u.lane = l
          · simp [Function.comp, hu, hlane, hl, hf]
          · simp [Function.comp, hu]
        · simp [Function.comp, hy]
      rw [hupd, List.append_assoc]; rfl
    · obtain ⟨t', t1', h1, h2, h3, h4⟩ := h k (.tail _ hk)
      refine ⟨t', t1', ?_, h2, h3, h4⟩
      rw [hgrp, Group.thread_mapLanes_ne (by rintro rfl; exact hl hk) (fun _ _ _ => hlane), h1]

/-- A lane group executes an instruction whose lanes act in ascending order (R65). -/
theorem drive_lanesEach {s : State} {g : Group} {r : Run} {i : Instr} {m : Meaning} {f : Nat → Thread → Thread} (hc : s.cur = some g.id)
    (hg : s.group g.id = g) (hr : g.run = some r) (hl : g.lanes = true) (h0 : r.from' = 0) (hn : r.sel.Nodup) (hs : r.sel.Pairwise (· ≤ ·))
    (hi : i.regsOk (s.launchOf g.pen).regs = true) (hasc : m.asc = true)
    (h : ∀ l ∈ r.sel, ∃ t t1, g.thread l = some t ∧ t1.lane = l ∧ (∀ u, f l u = t1)
      ∧ ∀ x : State, m.lane x (envOf g r) t = .ok { s := x, t := t1 }) :
    drive i (fun _ => false) m s
      = .next (((s.updGroup g.id (fun y => y.actLanes r.sel f)).advance (envOf g r) r.sel).settle g.pen) := by
  have hgid : (envOf g r).gid = g.id := rfl
  have hloop := laneLoop_each (m := m) (e := envOf g r) r.sel (s := s) [] hn (by rw [hgid, hg, hr]; rfl) (by rw [hgid, hg]; exact h)
  have hd : s.driveLanes (envOf g r) m = (s.updGroup g.id (fun y => y.actLanes r.sel f)).advance (envOf g r) r.sel := by
    unfold State.driveLanes
    have h1 : r.sel.filter (fun l => decide (0 ≤ l)) = r.sel := by simp
    have h2 : r.sel.filter (fun l => decide (l < 0)) = [] := by simp
    simp only [hgid, hg, hr, h0, h1, h2, hasc, if_true, hloop, List.nil_append, sortBy_sorted id r.sel hs]
  unfold drive
  simp only [hc, hg, hr, hi, hl, hd, Bool.not_true, Bool.or_self, guarded_false, if_true]

theorem Thread.result_lane (t : Thread) (d : Opd) (f : Form) : (t.result d f).lane = t.lane := by
  unfold Thread.result Thread.write; split <;> rfl

theorem Group.thread_lane {g : Group} {l : Nat} {t : Thread} (h : g.thread l = some t) : t.lane = l := by
  simpa using List.find?_some h

theorem lanesActEach : Says.LanesActEach := by
  intro s g r x a b hc hg hr hl h0 hn hs p hp hi h
  suffices hop : ∃ q : RegI, (∀ s, exec p.1 s = regOp p.1 q s) ∧ q.gd = x.gd ∧ q.d = x.d ∧ q.srcs = int2 x
      ∧ q.op = pure2 p.2 by
    obtain ⟨q, he, hgd, hd, hsrc, hop⟩ := hop
    rw [he]
    refine drive_lanesEach (m := q.meaning) (f := fun l t => ((g.thread l).getD t).result x.d (.u (p.2 (a l) (b l)))) hc hg hr hl h0 hn hs
      hi rfl (fun l hl' => ?_)
    obtain ⟨t, ht, hgt, ha, hb⟩ := h l hl'
    refine ⟨t, t.result x.d (.u (p.2 (a l) (b l))), ht, (t.result_lane ..).trans (Group.thread_lane ht), fun u => by rw [ht]; rfl, fun y => ?_⟩
    have hf : q.forms (envOf g r) t = [.u (a l), .u (b l)] := by rw [← ha, ← hb, RegI.forms, hsrc]; rfl
    have hform : q.form (envOf g r) t = some (.u (p.2 (a l) (b l))) := by
      have he : (envOf g r).strand = false := by simp [envOf, hl]
      rw [RegI.form, he, hf, hop]; rfl
    rw [lane_true (by rw [← hgt, ← hgd]; rfl) rfl]
    simp only [RegI.meaning, hform, hop, hd, pure2, orFpx_zero]
  simp only [List.mem_cons, List.not_mem_nil, or_false] at hp
  rcases hp with rfl | rfl | rfl
  all_goals exact ⟨_, fun _ => rfl, rfl, rfl, rfl, rfl⟩

/-- Settles O19: the lanes selected act one after another, each on its own record; under a false guard none acts. -/
theorem lanesAndGuards : Obligations.LanesAndGuards := ⟨lanesActEach, falseGuard⟩

end Sys2Proof.Machine
end

section
namespace Sys2Proof.Machine
set_option Elab.async false

/-! ### A strand laid down before it acts (R19 to R23) -/

/-- A group that is there, after a change of it that keeps its identifier. -/
theorem State.group_updGroup {s : State} {k : Nat} {f : Group → Group} (h : (s.group k).run.isSome) (hf : ∀ x, (f x).id = x.id) :
    (s.updGroup k f).group k = f (s.group k) := by
  unfold State.updGroup State.group at *
  have hmap : ((fun x : Group => x.id == k) ∘ fun x => if x.id == k then f x else x) = fun x => x.id == k := by
    funext x; simp only [Function.comp]; split <;> simp [hf]
  rw [List.find?_map, hmap]
  cases hx : s.groups.find? (fun x => x.id == k) with
  | none => rw [hx] at h; cases h
  | some x =>
    have hid : x.id = k := by simpa using List.find?_some (p := fun x : Group => x.id == k) hx
    simp [hid]

/-- A group that takes the lanes of a short strand laid down, and goes on in a clause for all of them (R20). -/
def Group.takeLanes (g : Group) (run : Option Run) (t : Thread) (row now : Nat) : Group :=
  { g with lanes := true, place := .row row, threads := (List.range (min t.n 64)).map t.laneOf
           run := run.map (fun r => { r with sel := List.range (min t.n 64), from' := 0 }), stall := none, placedAt := now }
/-- The lane group that laying down a short strand makes of its group (R20). -/
def Group.laid (g : Group) (t : Thread) (row now : Nat) : Group := g.takeLanes g.run t row now

theorem Group.laid_absent (g : Group) (t : Thread) (row now : Nat) : (g.laid t row now).absent (List.range (min t.n 64)) = false := by
  simp only [Group.absent, Group.alive, Group.laid, Group.takeLanes, List.any_eq_false, List.mem_filter, List.mem_map]
  rintro u ⟨⟨k, hk, rfl⟩, -⟩
  simpa [Thread.laneOf] using hk

section
variable {s s1 : State} {g : Group} {r : Run} {t : Thread} {i : Instr} {gid : Nat}

/-- Laying down a strand of at most 64 indices (R21). -/
theorem State.layDown_short {k : Nat} (ht : (s.group k).threads = [t]) (hn : t.n ≤ 64) (h : s.layDown k = some (s1, gid)) :
    gid = k ∧ ∃ row, (s.freeRow (s.group k).pen) = some row ∧ s1 = s.updGroup k (fun x => x.takeLanes (s.group k).run t row s.now) := by
  unfold State.layDown at h
  simp only [ht] at h
  cases hrow : s.freeRow (s.group k).pen with
  | none => rw [hrow] at h; cases h
  | some row =>
    simp only [hrow] at h
    rw [if_pos hn] at h
    obtain ⟨rfl, rfl⟩ := Prod.mk.injEq .. ▸ Option.some.inj h
    exact ⟨rfl, row, rfl, rfl⟩

/-- What the state after a lay-down is to an instruction word: the group that issues is the lane group, at the same word. -/
structure LaidDown (s s1 : State) (g : Group) (r : Run) (t : Thread) : Prop where
  cur : s1.cur = some g.id
  pens : s1.pens = s.pens
  launches : s1.launches = s.launches
  grp : ∃ row now, s1.group g.id = g.laid t row now

theorem Issues.laidDown (h : Issues s g r t) (hl : g.lanes = false) (hn : t.n ≤ 64) (hs : s.layDown g.id = some (s1, gid)) :
    gid = g.id ∧ LaidDown s s1 g r t := by
  obtain ⟨hgid, row, -, rfl⟩ := State.layDown_short (by rw [h.grp]; exact h.strand hl) hn hs
  refine ⟨hgid, h.cur, rfl, rfl, row, s.now, ?_⟩
  rw [State.group_updGroup (f := fun x => x.takeLanes (s.group g.id).run t row s.now) (by rw [h.grp, h.run]; rfl) (fun _ => rfl), h.grp]
  rfl

/-- An instruction that lays a strand of at most 64 indices down executes in the lane group that the lay-down makes. -/
theorem drive_layDown {bad : Env → Bool} {m : Meaning} (h : Performs s g r t i m.gd) (hl : g.lanes = false) (hn : t.n ≤ 64)
    (hq : s.rowQueue g.id ((s.pen g.pen).core.getD 0) = false) (hs : s.layDown g.id = some (s1, gid))
    (hb : ∀ e, e.first = (envOf g r).first → bad e = false) (hlay : m.lay s (envOf g r) t = true) :
    drive i bad m s = drive i bad m s1 := by
  obtain ⟨rfl, hd⟩ := h.toIssues.laidDown hl hn hs
  obtain ⟨row, now, hg1⟩ := hd.grp
  have hgid : (envOf g r).gid = g.id := rfl
  have hpen : (envOf g r).pen = g.pen := rfl
  have hstrand : s.driveStrand (envOf g r) m t = s1.driveLanes { envOf g r with gid := g.id, strand := false } m := by
    unfold State.driveStrand State.driveLaid
    simp [h.guardRuns, hlay, hgid, hpen, hq, hs]
  have hrun : (g.laid t row now).run = some { r with sel := List.range (min t.n 64), from' := 0 } := by
    simp [Group.laid, Group.takeLanes, h.run]
  have henv : envOf (g.laid t row now) { r with sel := List.range (min t.n 64), from' := 0 }
      = { envOf g r with gid := g.id, strand := false } := by
    have hab : (envOf g r).absent = false := by simp [envOf, hl]
    have he : envOf (g.laid t row now) { r with sel := List.range (min t.n 64), from' := 0 } = { envOf g r with
        gid := g.id, strand := false, absent := true && (g.laid t row now).absent (List.range (min t.n 64)) } := rfl
    rw [he, Group.laid_absent, Bool.and_false, ← hab]
  have hlaunch : s1.launchOf (g.laid t row now).pen = s.launchOf g.pen := by
    simp only [State.launchOf, State.launch, State.pen, hd.pens, hd.launches]; rfl
  have h1 : drive i bad m s1 = .next ((s1.driveLanes { envOf g r with gid := g.id, strand := false } m).settle g.pen) := by
    unfold drive
    simp only [hd.cur, hg1, hrun, henv, hlaunch, h.regs, hb { envOf g r with gid := g.id, strand := false } rfl, Bool.not_true,
      Bool.or_self, guarded_false]
    rfl
  rw [drive_eq h.toIssues h.regs (hb _ rfl), h1, hl, if_neg (by decide), hstrand]

theorem exec_layDown {m : Meaning} {gd : Guard} (he : ∀ s, exec i s = drive i (fun _ => false) m s) (hgd : m.gd = gd)
    (h : Performs s g r t i gd) (hl : g.lanes = false) (hn : t.n ≤ 64)
    (hq : s.rowQueue g.id ((s.pen g.pen).core.getD 0) = false) (hs : s.layDown g.id = some (s1, gid))
    (hlay : m.lay s (envOf g r) t = true) : exec i s = exec i s1 := by
  rw [he, he]
  exact drive_layDown (hgd ▸ h) hl hn hq hs (fun _ _ => rfl) hlay

/-- A register instruction whose result has no form in the strand. -/
theorem regOp_layDown {q : RegI} {gd : Guard} (he : ∀ s, exec i s = regOp i q s) (hgd : q.gd = gd) (h : Performs s g r t i gd) (hl : g.lanes = false) (hn : t.n ≤ 64)
    (hq : s.rowQueue g.id ((s.pen g.pen).core.getD 0) = false) (hs : s.layDown g.id = some (s1, gid))
    (hf : (q.rule (q.forms (envOf g r) t)).form t.n (fun k => (q.op (valsAt (q.forms (envOf g r) t) k)).1)
      (fun k => q.op64 (valsAt (q.forms (envOf g r) t) k)) (fun k => q.op32 (valsAt (q.forms (envOf g r) t) k)) = none) :
    exec i s = exec i s1 := by
  refine exec_layDown (m := q.meaning) he hgd h hl hn hq hs ?_
  have he : (envOf g r).strand = true := by simp [envOf, hl]
  simp [RegI.meaning, RegI.form, he, hf]

theorem regOp_e_layDown {q : RegI} {gd : Guard} (he : ∀ s, exec i s = regOp i q s) (hgd : q.gd = gd) (h : Performs s g r t i gd)
    (hl : g.lanes = false) (hn : t.n ≤ 64) (hq : s.rowQueue g.id ((s.pen g.pen).core.getD 0) = false)
    (hs : s.layDown g.id = some (s1, gid)) (hr : q.rule (q.forms (envOf g r) t) = .e) : exec i s = exec i s1 :=
  regOp_layDown he hgd h hl hn hq hs (by rw [hr]; rfl)

/-- Whether a source is in A form does not depend on the type in which it is read. -/
theorem Thread.src_isA (t : Thread) (st : Bool) (lit : W32) (ty : STy) (o : Opd) : (t.src st lit ty o).isA = (t.src st lit .int o).isA := by
  unfold Thread.src
  cases o.file with
  | special => dsimp only; split <;> [(split <;> rfl); rfl]
  | _ => rfl

theorem eClass_of_isA {fs : List Form} {f : Form} (hf : f ∈ fs) (ha : f.isA = true) : eClass fs = .e := by
  rw [eClass, if_pos (List.any_eq_true.mpr ⟨f, hf, ha⟩)]

theorem eInstrs_layDown {x : FmtA} (hi : i ∈ eInstrs x) (h : Performs s g r t i x.gd) (hl : g.lanes = false) (hn : t.n ≤ 64)
    (hq : s.rowQueue g.id ((s.pen g.pen).core.getD 0) = false) (hs : s.layDown g.id = some (s1, gid))
    (ha : (t.reads g r .int x.a).isA = true) : exec i s = exec i s1 := by
  rcases eInstrs_cases i hi with ⟨v, rfl⟩ | ⟨q, he, hc⟩
  · refine exec_layDown (fun _ => rfl) rfl h hl hn hq hs ?_
    have hst : (envOf g r).strand = true := by simp [envOf, hl]
    refine Bool.and_eq_true_iff.mpr ⟨hst, List.any_eq_true.mpr ⟨_, .head _, ha⟩⟩
  · refine regOp_e_layDown he hc.gd h hl hn hq hs ?_
    obtain ⟨ty, hty⟩ := hc.src
    have hmem : t.src (!g.lanes) r.head.lit ty x.a ∈ q.forms (envOf g r) t :=
      List.mem_map_of_mem (f := fun p : STy × Opd => t.src (!g.lanes) r.head.lit p.1 p.2) hty
    rw [hc.rule]
    exact eClass_of_isA hmem ((t.src_isA ..).trans ha)

/-! ### RED and SCAN (R268, R272) -/

/-- The participants are the same before and after a lay-down: the lanes that the strand becomes (R268). -/
theorem issuers_laidDown (h : Issues s g r t) (hl : g.lanes = false) (hd : LaidDown s s1 g r t) (e : Env) (u : Thread) :
    issuers s e u = issuers s1 e u := by
  obtain ⟨row, now, hg1⟩ := hd.grp
  cases he : e.strand with
  | true => simp [issuers, he]
  | false =>
    have hall : ((List.range (min t.n 64)).map t.laneOf).filter (fun u => (List.range (min t.n 64)).contains u.lane)
        = (List.range (min t.n 64)).map t.laneOf := by
      refine List.filter_eq_self.mpr (fun v hv => ?_)
      obtain ⟨k, hk, rfl⟩ := List.mem_map.mp hv
      simpa [Thread.laneOf] using hk
    simp only [issuers, he, h.cur, hd.cur, Option.getD_some, h.grp, hg1, hl, h.strand hl]
    simp only [Group.laid, Group.takeLanes, h.run, Option.map_some, hall]
    rfl

theorem CrossI.meaning_laidDown (h : Issues s g r t) (hl : g.lanes = false) (hd : LaidDown s s1 g r t) (c : CrossI) :
    c.meaning s = c.meaning s1 := by
  have hp : c.parts s = c.parts s1 := by
    funext e u; simp only [CrossI.parts, issuers_laidDown h hl hd]
  simp only [CrossI.meaning, hp]

theorem crossOp_layDown {c : CrossI} (he : ∀ s, exec i s = crossOp i c s) (h : Performs s g r t i .always) (hl : g.lanes = false) (hn : t.n ≤ 64)
    (hq : s.rowQueue g.id ((s.pen g.pen).core.getD 0) = false) (hs : s.layDown g.id = some (s1, gid)) (h0 : r.pos = 0)
    (hc : c.lay (c.forms (envOf g r) t) = true) : exec i s = exec i s1 := by
  obtain ⟨-, hd⟩ := h.toIssues.laidDown hl hn hs
  have hfirst : (envOf g r).first = true := by simp [envOf, h0]
  have hst : (envOf g r).strand = true := by simp [envOf, hl]
  rw [he, he, crossOp, drive_layDown (m := c.meaning s) h hl hn hq hs (fun e he => by rw [he, hfirst]; rfl) (by simp [CrossI.meaning, hst, hc]),
    CrossI.meaning_laidDown h.toIssues hl hd]
  rfl

end

/-! ### The instructions that lay a strand down -/

section
variable {s s1 : State} {g : Group} {r : Run} {t : Thread} {x : FmtA} {gid : Nat}

theorem arithRule_bad {w : IntW} {bad : List Form → Bool} {fs : List Form} (ha : fs.any Form.isA = true) (hb : bad fs = true) :
    arithRule w x bad fs = .e := by
  simp [arithRule, ha, hb]

/-- Sums and products at 32 bits that are not, at some index, the affine 64-bit value (R17). -/
theorem arithI_no_form {srcs : List (STy × Opd)} {f : Int → Int → Int → Int} {bad : List Form → Bool} {fs : List Form} {n k : Nat}
    (hcl : x.cl = .none) (hm : ∀ m ∈ [x.ma, x.mb, x.mc], Mod.isAbs m = false) (ha : fs.any Form.isA = true)
    (hk : k < n) (hne : arith 32 x f (valsAt fs k) ≠ arith 64 x f (valsAt fs k)) (g' : Nat → W64) :
    ((arithI .i32 x srcs f bad).rule fs).form n g' (fun k => (arithI .i32 x srcs f bad).op64 (valsAt fs k))
      (fun k => (arithI .i32 x srcs f bad).op32 (valsAt fs k)) = none := by
  have hx : ({ x with cl := .none } : FmtA) = x := by rw [← hcl]
  cases hb : bad fs with
  | true =>
    have hr : (arithI .i32 x srcs f bad).rule fs = .e := arithRule_bad ha hb
    rw [hr]; rfl
  | false =>
    have hr : (arithI .i32 x srcs f bad).rule fs = .exact32 := by
      show arithRule .i32 x bad fs = _
      simp [arithRule, ha, hb, needsExact_eq_false hcl hm]
    rw [hr]
    refine if_neg (fun hall => hne ?_)
    have := List.all_eq_true.mp hall k (List.mem_range.mpr hk)
    simp only [arithI, hx] at this
    exact beq_iff_eq.mp this

theorem arith_pair (w : Nat) (x : FmtA) (f : Int → Int → Int) (a b c : W64) :
    arith w x (fun a b _ => f a b) [a, b, c] = arith w x (fun a b _ => f a b) [a, b] := rfl

theorem affineOps32_layDown {p : Instr × (Int → Int → Int → Int) × Bool} (hl : g.lanes = false) (hn : t.n ≤ 64)
    (hq : s.rowQueue g.id ((s.pen g.pen).core.getD 0) = false) (hs : s.layDown g.id = some (s1, gid)) (hcl : x.cl = .none)
    (hm : ∀ m ∈ [x.ma, x.mb, x.mc], Mod.isAbs m = false) (hp : p ∈ affineOps .i32 x) (h : Performs s g r t p.1 x.gd)
    (hab : (t.reads g r .int x.a).isA = true ∨ (t.reads g r .int x.b).isA = true)
    (hne : ∃ k < t.n, affineAt 32 t g r x p.2.1 k ≠ affineAt 64 t g r x p.2.1 k) : exec p.1 s = exec p.1 s1 := by
  obtain ⟨k, hk, hne⟩ := hne
  have hne' : arith 32 x p.2.1 [(t.reads g r .int x.a).val k, (t.reads g r .int x.b).val k, (t.reads g r .int x.c).val k]
      ≠ arith 64 x p.2.1 [(t.reads g r .int x.a).val k, (t.reads g r .int x.b).val k, (t.reads g r .int x.c).val k] := fun he => by
    have h32 := affineAt_eq_arith (t := t) (g := g) (r := r) .i32 hcl p.2.1 k
    have h64 := affineAt_eq_arith (t := t) (g := g) (r := r) .i64 hcl p.2.1 k
    simp only [IntW.bits] at h32 h64
    exact hne (by rw [h32, h64, he])
  have h2 : [t.reads g r .int x.a, t.reads g r .int x.b].any Form.isA = true := by simpa using hab
  have h3 : [t.reads g r .int x.a, t.reads g r .int x.b, t.reads g r .int x.c].any Form.isA = true := by
    simp only [List.any_cons, Bool.or_eq_true]; exact hab.imp_right .inl
  simp only [affineOps, List.mem_cons, List.not_mem_nil, or_false] at hp
  rcases hp with rfl | rfl | rfl | rfl
  · rw [arith_pair 32 x (· + ·), arith_pair 64 x (· + ·)] at hne'
    exact regOp_layDown (q := arithI .i32 x (int2 x) (fun a b _ => a + b) (fun _ => false)) (fun _ => rfl) rfl h hl hn hq hs
      (arithI_no_form (fs := [t.reads g r .int x.a, t.reads g r .int x.b]) hcl hm h2 hk hne' _)
  · rw [arith_pair 32 x (· - ·), arith_pair 64 x (· - ·)] at hne'
    exact regOp_layDown (q := arithI .i32 x (int2 x) (fun a b _ => a - b) (fun _ => false)) (fun _ => rfl) rfl h hl hn hq hs
      (arithI_no_form (fs := [t.reads g r .int x.a, t.reads g r .int x.b]) hcl hm h2 hk hne' _)
  · rw [arith_pair 32 x (· * ·), arith_pair 64 x (· * ·)] at hne'
    exact regOp_layDown (q := arithI .i32 x (int2 x) (fun a b _ => a * b) bothA) (fun _ => rfl) rfl h hl hn hq hs
      (arithI_no_form (fs := [t.reads g r .int x.a, t.reads g r .int x.b]) hcl hm h2 hk hne' _)
  · exact regOp_layDown (q := arithI .i32 x (int3 x) (fun a b c => a * b + c) bothA) (fun _ => rfl) rfl h hl hn hq hs
      (arithI_no_form (fs := [t.reads g r .int x.a, t.reads g r .int x.b, t.reads g r .int x.c]) hcl hm h3 hk hne' _)
end

theorem layDownFirst : Says.LayDownFirst := by
  intro s s1 g r t x gid hl hn hq hs
  have hst : (envOf g r).strand = true := by simp [envOf, hl]
  have srcA_base {e : Env} (he : e = envOf g r) {o : Opd} (ha : (t.reads g r .int o).isA = true) : srcA e t [o] = true := by
    subst he
    exact Bool.and_eq_true_iff.mpr ⟨hst, List.any_eq_true.mpr ⟨o, .head _, ha⟩⟩
  refine ⟨fun h => ?_, fun i hi h ha => eInstrs_layDown hi h hl hn hq hs ha, fun y h ha => ?_, fun y ha => ?_, ?_, fun h hb => ?_,
    fun h hc => ?_, fun hcl hm p hp h => affineOps32_layDown hl hn hq hs hcl hm hp h, fun h0 => ⟨?_, ?_⟩⟩
  · exact exec_layDown (fun _ => rfl) rfl h hl hn hq hs hst
  · exact regOp_e_layDown (q := { gd := y.gd, d := y.d, srcs := [(.int, y.a)], op := pure1 (movhiOp y.imm) }) (fun _ => rfl) rfl h hl hn hq
      hs (eClass_of_isA (.head _) ha)
  · simp only [List.map_cons, List.map_nil, List.forall_mem_append, List.forall_mem_cons, List.not_mem_nil, IsEmpty.forall_iff,
      implies_true, and_true]
    repeat' apply And.intro
    all_goals exact fun h => exec_layDown (fun _ => rfl) rfl h hl hn hq hs (srcA_base rfl ha)
  · simp only [List.flatMap_cons, List.flatMap_nil, List.forall_mem_append, List.forall_mem_cons, List.not_mem_nil, IsEmpty.forall_iff,
      implies_true, and_true]
    have he {w : IntW} {fs : List Form} (ha : (t.reads g r .int x.a).isA = true) (hb : (t.reads g r .int x.b).isA = true) :
        arithRule w x bothA (t.reads g r .int x.a :: t.reads g r .int x.b :: fs) = .e :=
      arithRule_bad (by simp [ha]) (by simp [bothA, ha, hb])
    have hmul (w : IntW) (h : Performs s g r t (.imul w x) x.gd) (ha : (t.reads g r .int x.a).isA = true)
        (hb : (t.reads g r .int x.b).isA = true) : exec (.imul w x) s = exec (.imul w x) s1 :=
      regOp_e_layDown (q := arithI w x (int2 x) (fun a b _ => a * b) bothA) (fun _ => rfl) rfl h hl hn hq hs (he (fs := []) ha hb)
    have hmad (w : IntW) (h : Performs s g r t (.imad w x) x.gd) (ha : (t.reads g r .int x.a).isA = true)
        (hb : (t.reads g r .int x.b).isA = true) : exec (.imad w x) s = exec (.imad w x) s1 :=
      regOp_e_layDown (q := arithI w x (int3 x) (fun a b c => a * b + c) bothA) (fun _ => rfl) rfl h hl hn hq hs (he ha hb)
    exact ⟨⟨hmul _, hmad _⟩, hmul _, hmad _⟩
  · exact regOp_e_layDown (q := { gd := x.gd, d := x.d, srcs := int2 x, op := pure2 shlOp, rule := lastU }) (fun _ => rfl) rfl h hl hn hq hs
      (if_pos hb)
  · have hu : lastU [t.reads g r .int x.a, t.reads g r .int x.b, t.reads g r .int x.c] = .e := if_pos hc
    have hr : leaRule x [t.reads g r .int x.a, t.reads g r .int x.b, t.reads g r .int x.c] = .e := by rw [leaRule, hu]
    exact regOp_e_layDown (q := { gd := x.gd, d := x.d, srcs := int3 x, op := pure3 (leaOp x), rule := leaRule x }) (fun _ => rfl) rfl
      h hl hn hq hs hr
  · simp only [List.forall_mem_cons, List.not_mem_nil, IsEmpty.forall_iff, implies_true, and_true]
    refine ⟨?_, ?_, ?_, ?_, ?_⟩
    all_goals exact fun h => crossOp_layDown (fun _ => rfl) h hl hn hq hs h0 rfl
  · simp only [List.forall_mem_cons, List.not_mem_nil, IsEmpty.forall_iff, implies_true, and_true]
    have ha' {ty : STy} {o : Bool} (ha : (t.reads g r .int x.a).isA = true) :
        (o || [t.src (envOf g r).strand (envOf g r).lit ty x.a].any Form.isA) = true := by
      have : (t.src (envOf g r).strand (envOf g r).lit ty x.a).isA = true := (t.src_isA ..).trans ha
      simp [this]
    refine ⟨?_, ?_, ?_, ?_, ?_⟩
    all_goals exact fun h ha => crossOp_layDown (fun _ => rfl) h hl hn hq hs h0 (ha' (o := false) ha)

theorem atomicsLayDown : Says.AtomicsLayDown := by
  intro s s1 g r t x gid hl hn hq hs
  have hst : (envOf g r).strand = true := by simp [envOf, hl]
  refine ⟨fun op h => ?_, fun w h => ?_, fun ty h => ?_⟩
  all_goals exact exec_layDown (fun _ => rfl) rfl h hl hn hq hs hst

/-- Settles O29: the lay-down comes before the instruction acts, and leaves the lane group at the same word (`drive_layDown`). -/
theorem layDownBeforeActing : Obligations.LayDownBeforeActing := ⟨layDownFirst, atomicsLayDown⟩

end Sys2Proof.Machine
end

section
namespace Sys2Proof.Machine
set_option Elab.async false

/-! ### Register files: what a write, a landing and a settling leave (R68) -/

theorem cellGet_cellSet (l : List (Nat × Form)) (k j : Nat) (f : Form) :
    cellGet (cellSet l k f) j = if k = j then some f else cellGet l j := by
  induction l with
  | nil => rfl
  | cons c l ih =>
    obtain ⟨i, e⟩ := c
    rcases Nat.lt_trichotomy k i with h | h | h
    · simp [cellSet, cellGet, h]
    · subst h
      by_cases hk : k = j <;> simp [cellSet, cellGet, hk]
    · have h1 : ¬ k < i := by omega
      have h2 : k ≠ i := by omega
      simp only [cellSet, h1, h2, if_false, cellGet, ih]
      by_cases hk : k = j
      · rw [if_pos hk, if_pos hk, if_neg (fun hi => h2 (hk.trans hi.symm))]
      · rw [if_neg hk, if_neg hk]

theorem RegFile.get_eq (r : RegFile) (k : Nat) :
    r.get k = (cellGet r.cells k).getD (if r.fill = 0 then .u 0 else .u (Config.freeReg r.fill k)) := by
  unfold RegFile.get
  cases cellGet r.cells k <;> rfl

theorem RegFile.get_set (r : RegFile) (k j : Nat) (f : Form) : (r.set k f).get j = if k = j then f else r.get j := by
  rw [RegFile.get_eq, RegFile.get_eq, RegFile.set, cellGet_cellSet]
  split <;> rfl

/-- The results of register k that cannot be read yet. -/
def RegFile.lateAt (r : RegFile) (k : Nat) : List (Nat × Form × Nat) := r.late.filter (fun p => p.1 == k)

theorem RegFile.lateKeys_eq (r : RegFile) (k : Nat) : r.lateKeys k = (r.lateAt k).map (fun p => p.2.2) := rfl

theorem RegFile.held_of_head {r : RegFile} {k : Nat} {p : Nat × Form × Nat} {l : List (Nat × Form × Nat)} (h : r.lateAt k = p :: l) :
    r.held k = p.2.1 := by
  have hf : r.late.find? (fun p => p.1 == k) = some p := by
    rw [← List.head?_filter]; exact congrArg List.head? h
  rw [RegFile.held, hf]

theorem RegFile.lateAt_set (r : RegFile) (k j : Nat) (f : Form) : (r.set k f).lateAt j = if k = j then [] else r.lateAt j := by
  simp only [RegFile.lateAt, RegFile.set, List.filter_filter]
  split
  next h => subst h; exact List.filter_eq_nil_iff.mpr (by simp)
  next h =>
    refine List.filter_congr (fun p _ => ?_)
    by_cases hp : p.1 = j <;> simp [hp, Ne.symm h]

/-- Register k stands as it did, readable or not. -/
def RegFile.SameAt (k : Nat) (r r' : RegFile) : Prop := r'.get k = r.get k ∧ r'.lateAt k = r.lateAt k

theorem RegFile.SameAt.trans {k : Nat} {a b c : RegFile} (h : SameAt k a b) (h' : SameAt k b c) : SameAt k a c :=
  ⟨h'.1.trans h.1, h'.2.trans h.2⟩

theorem RegFile.sameAt_set {r : RegFile} {k j : Nat} {f : Form} (h : j ≠ k) : SameAt k r (r.set j f) :=
  ⟨by rw [RegFile.get_set, if_neg h], by rw [RegFile.lateAt_set, if_neg h]⟩

theorem RegFile.sameAt_land {r : RegFile} {k j : Nat} {f : Form} {fl : List Nat} {seed : Nat} (h : j ≠ k) :
    SameAt k r (r.land j f fl seed) := by
  unfold RegFile.land
  split
  · exact sameAt_set h
  · refine (sameAt_set h).trans ⟨rfl, ?_⟩
    have hnew : (fl.map (fun n => (j, f, n))).filter (fun p => p.1 == k) = [] := List.filter_eq_nil_iff.mpr (by simp [h])
    simp only [RegFile.lateAt, List.filter_append, hnew, List.append_nil]

theorem RegFile.land_nil (r : RegFile) (k : Nat) (f : Form) (seed : Nat) : r.land k f [] seed = r.set k f := rfl

theorem RegFile.lateAt_land {r : RegFile} {k : Nat} {f : Form} {fl : List Nat} {seed : Nat} :
    (r.land k f fl seed).lateAt k = fl.map (fun n => (k, f, n)) := by
  unfold RegFile.land
  cases fl with
  | nil => exact (RegFile.lateAt_set ..).trans (if_pos rfl)
  | cons n fl =>
    have h := RegFile.lateAt_set r k k (.u (Config.freeReg seed k))
    rw [if_pos rfl] at h
    simp only [List.isEmpty_cons, Bool.false_eq_true, if_false, RegFile.lateAt, List.filter_append] at h ⊢
    rw [h, List.nil_append, List.filter_eq_self.mpr]
    simp

theorem RegFile.sameAt_settle {r : RegFile} {k flag : Nat} (h : r.lateAt k = []) : SameAt k r (r.settle flag) := by
  have hne : ∀ p ∈ r.late, p.1 ≠ k := fun p hp => by simpa using List.filter_eq_nil_iff.mp h p hp
  have hstep : ∀ (l : List (Nat × Form × Nat)) (x : RegFile), (∀ p ∈ l, p.1 ≠ k) →
      SameAt k x (l.foldl (fun x p => if x.late.any (fun q => q.1 == p.1) then x else x.set p.1 p.2.1) x) := by
    intro l
    induction l with
    | nil => exact fun x _ => ⟨rfl, rfl⟩
    | cons p l ih =>
      intro x hl
      refine .trans ?_ (ih _ (fun q hq => hl q (List.mem_cons_of_mem _ hq)))
      show SameAt k x (if _ then _ else _)
      split
      · exact ⟨rfl, rfl⟩
      · exact sameAt_set (hl p List.mem_cons_self)
  unfold RegFile.settle
  refine .trans (b := { r with late := r.late.filter (fun p => p.2.2 != flag) }) ⟨rfl, ?_⟩
    (hstep _ _ (fun p hp => hne p (List.mem_of_mem_filter hp)))
  rw [h]
  exact List.filter_eq_nil_iff.mpr (fun p hp => by simpa using hne p (List.mem_of_mem_filter hp))

/-! ### The delivery of results (R66, R68) -/

/-- The results land, one after another. -/
def RegFile.landAll (r : RegFile) (rest : List Pend) (own : List Nat) (op : Nat) (ws : List (Nat × Form)) : RegFile :=
  ws.foldl (fun r w => r.land w.1 w.2 (lateFlags r rest own w.1) op) r

section
variable {r : RegFile} {rest : List Pend} {own : List Nat} {op k : Nat} {ws : List (Nat × Form)}

theorem RegFile.sameAt_landAll (h : ∀ w ∈ ws, w.1 ≠ k) : SameAt k r (r.landAll rest own op ws) := by
  induction ws generalizing r with
  | nil => exact ⟨rfl, rfl⟩
  | cons w ws ih =>
    obtain ⟨hw, hws⟩ := List.forall_mem_cons.mp h
    exact (sameAt_land hw).trans (ih hws)

/-- While the flag is not clear, each register holds the last result for it, under the flag. -/
theorem RegFile.landAll_shared {flag : Nat} (hk : k ∈ ws.map Prod.fst) :
    (r.landAll rest [flag] op ws).held k = (ws.foldl (fun f w => f.set w.1 w.2) r).get k
      ∧ flag ∈ (r.landAll rest [flag] op ws).lateKeys k := by
  induction ws using List.reverseRecOn with
  | nil => simp at hk
  | append_singleton ws w ih =>
    simp only [RegFile.landAll, List.foldl_append, List.foldl_cons, List.foldl_nil] at ih ⊢
    generalize hx : List.foldl (fun r w => r.land w.1 w.2 (lateFlags r rest [flag] w.1) op) r ws = x at ih ⊢
    by_cases hw : w.1 = k
    · subst hw
      have hmem : flag ∈ lateFlags x rest [flag] w.1 := by simp [lateFlags]
      have hl := RegFile.lateAt_land (r := x) (k := w.1) (f := w.2) (fl := lateFlags x rest [flag] w.1) (seed := op)
      refine ⟨?_, ?_⟩
      · obtain ⟨a, l, he⟩ := List.exists_cons_of_ne_nil (List.ne_nil_of_mem hmem)
        rw [he, List.map_cons] at hl
        rw [he, RegFile.held_of_head hl, RegFile.get_set, if_pos rfl]
      · rw [RegFile.lateKeys_eq, hl, List.map_map]
        exact List.mem_map.mpr ⟨flag, hmem, rfl⟩
    · have hin : k ∈ ws.map Prod.fst := by
        rw [List.map_append, List.mem_append, List.map_singleton, List.mem_singleton] at hk
        exact hk.resolve_right (fun h => hw h.symm)
      obtain ⟨h1, h2⟩ := ih hin
      have hs := sameAt_land (r := x) (f := w.2) (fl := lateFlags x rest [flag] w.1) (seed := op) hw
      have hheld : (x.land w.1 w.2 (lateFlags x rest [flag] w.1) op).held k = x.held k := by
        simp only [RegFile.held, ← List.head?_filter]
        exact congrArg₂ (fun (l : List (Nat × Form × Nat)) (f : Form) => match l.head? with | some p => p.2.1 | none => f) hs.2 hs.1
      rw [hheld, RegFile.get_set, if_neg hw, RegFile.lateKeys_eq, hs.2]
      exact ⟨h1, h2⟩

/-- Where no flag names register k, it takes the last result for it, and can be read. -/
theorem RegFile.landAll_free (hrest : ∀ q ∈ rest, ∀ v ∈ q.writes, v.1 ≠ k) (hl : r.lateAt k = []) :
    (r.landAll rest [] op ws).get k = (ws.foldl (fun f w => f.set w.1 w.2) r).get k ∧ (r.landAll rest [] op ws).lateAt k = [] := by
  induction ws using List.reverseRecOn with
  | nil => exact ⟨rfl, hl⟩
  | append_singleton ws w ih =>
    simp only [RegFile.landAll, List.foldl_append, List.foldl_cons, List.foldl_nil] at ih ⊢
    generalize hx : List.foldl (fun r w => r.land w.1 w.2 (lateFlags r rest [] w.1) op) r ws = x at ih ⊢
    obtain ⟨h1, h2⟩ := ih
    by_cases hw : w.1 = k
    · subst hw
      have hf : lateFlags x rest [] w.1 = [] := by
        have : rest.filter (fun q => q.writes.any (fun v => v.1 == w.1)) = [] :=
          List.filter_eq_nil_iff.mpr (by simpa using fun q hq b hv => hrest q hq (w.1, b) hv rfl)
        simp [lateFlags, this, RegFile.lateKeys_eq, h2]
      rw [hf, RegFile.land_nil, RegFile.get_set, RegFile.get_set, RegFile.lateAt_set, if_pos rfl, if_pos rfl, if_pos rfl]
      exact ⟨rfl, rfl⟩
    · have hs := sameAt_land (r := x) (f := w.2) (fl := lateFlags x rest [] w.1) (seed := op) hw
      rw [RegFile.get_set, if_neg hw, hs.1, hs.2]
      exact ⟨h1, h2⟩

end

theorem Pend.forms_keys (p : Pend) (ws : List (Nat × Form)) : (p.forms ws).map Prod.fst = ws.map Prod.fst := by
  unfold Pend.forms
  split
  · rfl
  · simp [Function.comp_def]

theorem RegFile.lateAt_nil_iff {r : RegFile} {k : Nat} : r.lateAt k = [] ↔ ∀ v ∈ r.late, v.1 ≠ k := by
  simp [RegFile.lateAt, List.filter_eq_nil_iff]

/-- The flag of an operation stays up for another operation in flight. -/
def Pend.Shared (p : Pend) (t : Thread) : Prop := p.flag < 12 ∧ ∃ q ∈ t.pend, q.op ≠ p.op ∧ q.flag = p.flag

section
variable {t : Thread} {p : Pend}

theorem Thread.find_pend (hp : p ∈ t.pend) (hn : (t.pend.map Pend.op).Nodup) : t.pend.find? (fun q => q.op == p.op) = some p := by
  cases hf : t.pend.find? (fun q => q.op == p.op) with
  | none => simpa using List.find?_eq_none.mp hf p hp
  | some q =>
    have hq : q.op = p.op := by simpa using List.find?_some (p := fun q : Pend => q.op == p.op) hf
    exact congrArg some (List.inj_on_of_nodup_map hn (List.mem_of_find?_eq_some hf) hp hq)

theorem Thread.deliver_shared (hp : p ∈ t.pend) (hn : (t.pend.map Pend.op).Nodup) (h : p.Shared t) (ws : List (Nat × Form)) :
    t.deliver p.op ws = { t with
      pend := t.pend.filter (fun q => q.op != p.op), fpx := t.fpx ||| p.fpx
      regs := t.regs.landAll (t.pend.filter (fun q => q.op != p.op)) [p.flag] p.op (p.forms ws) } := by
  obtain ⟨h12, q, hq, hop, hfl⟩ := h
  have hsh : (decide (p.flag < 12) && (t.pend.filter (fun q => q.op != p.op)).any (fun q => q.flag == p.flag)) = true := by
    simp only [Bool.and_eq_true, decide_eq_true_eq, List.any_eq_true, List.mem_filter]
    exact ⟨h12, q, ⟨hq, by simpa using hop⟩, by simpa using hfl⟩
  rw [Thread.deliver, Thread.find_pend hp hn]
  simp only [hsh, if_true]
  rfl

theorem Thread.deliver_alone (hp : p ∈ t.pend) (hn : (t.pend.map Pend.op).Nodup) (h : ¬ p.Shared t) (ws : List (Nat × Form)) :
    t.deliver p.op ws = { t with
      pend := t.pend.filter (fun q => q.op != p.op), fpx := t.fpx ||| p.fpx
      regs := (t.regs.landAll (t.pend.filter (fun q => q.op != p.op)) [] p.op (p.forms ws)).settle p.key
      flags := if p.flag < 12 then t.flags &&& ~~~(BitVec.ofNat 12 (2 ^ p.flag)) else t.flags } := by
  have hsh : (decide (p.flag < 12) && (t.pend.filter (fun q => q.op != p.op)).any (fun q => q.flag == p.flag)) = false := by
    rw [← Bool.not_eq_true]
    simp only [Bool.and_eq_true, decide_eq_true_eq, List.any_eq_true, List.mem_filter]
    rintro ⟨h12, q, ⟨hq, hop⟩, hfl⟩
    exact h ⟨h12, q, hq, by simpa using hop, by simpa using hfl⟩
  rw [Thread.deliver, Thread.find_pend hp hn]
  simp only [hsh, Bool.false_eq_true, if_false]
  rfl

theorem getLsbD_clear (a : BitVec 12) {n : Nat} (h : n < 12) : (a &&& ~~~(BitVec.ofNat 12 (2 ^ n))).getLsbD n = false := by
  have h2 : (BitVec.ofNat 12 (2 ^ n)).getLsbD n = true := by rw [BitVec.getLsbD_ofNat]; simp [h]
  rw [BitVec.getLsbD_and, BitVec.getLsbD_not, h2]
  simp

end

/-- What a delivery leaves in the thread: `delivered` of the thread itself. -/
theorem delivered_of_deliver {s u : State} {g : Group} {t : Thread} {p : Pend} (hp : p ∈ t.pend) (hn : (t.pend.map Pend.op).Nodup)
    (ht : (u.group g.id).thread t.lane = some (t.deliver p.op p.writes)) (hm : u.mem = s.mem) : delivered s u g t p := by
  refine ⟨_, ht, hm, ?_⟩
  have hkey : ∀ w ∈ p.writes, w.1 ∈ (p.forms p.writes).map Prod.fst := fun w hw => by
    rw [Pend.forms_keys]; exact List.mem_map_of_mem hw
  have hout : ∀ k, (∀ w ∈ p.writes, w.1 ≠ k) → ∀ w ∈ p.forms p.writes, w.1 ≠ k := fun k hk w hw => by
    have hin : w.1 ∈ p.writes.map Prod.fst := by rw [← Pend.forms_keys p]; exact List.mem_map_of_mem hw
    obtain ⟨v, hv, he⟩ := List.mem_map.mp hin
    exact he ▸ hk v hv
  by_cases hs : p.Shared t
  · rw [Thread.deliver_shared hp hn hs]
    refine ⟨fun w hw _ => RegFile.landAll_shared (hkey w hw), fun w _ hns => absurd hs hns,
      fun k hk _ => (RegFile.sameAt_landAll (hout k hk)).1, rfl, rfl, fun _ => ?_⟩
    exact (and_iff_left hs.2).symm
  · rw [Thread.deliver_alone hp hn hs]
    refine ⟨fun w _ hsh => absurd hsh hs, fun w _ _ hother hlate => ?_, fun k hk hlate => ?_, rfl, rfl, fun h12 => ?_⟩
    · have hrest : ∀ q ∈ t.pend.filter (fun q => q.op != p.op), ∀ v ∈ q.writes, v.1 ≠ w.1 := fun q hq =>
        hother q (List.mem_of_mem_filter hq) (by simpa using (List.mem_filter.mp hq).2)
      obtain ⟨hget, hnil⟩ := RegFile.landAll_free (op := p.op) (ws := p.forms p.writes) hrest (RegFile.lateAt_nil_iff.mpr hlate)
      obtain ⟨h1, h2⟩ := RegFile.sameAt_settle (flag := p.key) hnil
      exact ⟨h1.trans hget, by rw [RegFile.lateKeys_eq, h2, hnil]; rfl⟩
    · have hl := RegFile.sameAt_landAll (r := t.regs) (rest := t.pend.filter (fun q => q.op != p.op)) (own := []) (op := p.op) (hout k hk)
      have hnil := hl.2.trans (RegFile.lateAt_nil_iff.mpr hlate)
      exact (RegFile.sameAt_settle hnil).1.trans hl.1
    · rw [if_pos h12, getLsbD_clear _ h12]
      simp only [Bool.false_eq_true, false_iff]
      rintro ⟨-, hex⟩
      exact hs ⟨h12, hex⟩

end Sys2Proof.Machine
end

section
namespace Sys2Proof.Machine
set_option Elab.async false

/-! ### Clocks of the scheduler (R332, R334) -/

theorem schedulerClocks : Says.SchedulerClocks := by
  intro s k
  refine ⟨?_, ?_, rfl⟩
  · show Host.Outcome.next _ = _
    congr 2
    refine List.filter_congr (fun r _ => ?_)
    simp [Bool.beq_eq_decide_eq, Bool.decide_and]
  · show Host.Outcome.next _ = _
    congr 2
    refine List.map_congr_left (fun m _ => ?_)
    refine if_congr ?_ rfl rfl
    simp only [Bool.and_eq_true, beq_iff_eq, decide_eq_true_eq, and_assoc]
    exact Iff.rfl

/-! ### The results of a saved thread (R403) -/

theorem State.group_mapThreads {s u : State} {f : Group → Thread → Thread} {g : Nat}
    (hu : u.groups = s.groups.map (fun g => { g with threads := g.threads.map (f g) })) (hg : s.group g ∈ s.groups) (hid : (s.group g).id = g) :
    u.group g = { s.group g with threads := (s.group g).threads.map (f (s.group g)) } := by
  unfold State.group
  rw [hu, List.find?_map]
  have hc : ((fun x : Group => x.id == g) ∘ fun g : Group => { g with threads := g.threads.map (f g) }) = fun x => x.id == g := rfl
  rw [hc]
  cases hf : s.groups.find? (fun x => x.id == g) with
  | none => simpa [hid] using List.find?_eq_none.mp hf _ hg
  | some x => rfl

theorem Group.thread_map {g : Group} {f : Thread → Thread} (hf : ∀ t, (f t).lane = t.lane) {t : Thread} (ht : t ∈ g.threads)
    (hn : (g.threads.map Thread.lane).Nodup) : ({ g with threads := g.threads.map f } : Group).thread t.lane = some (f t) := by
  unfold Group.thread
  have hc : ((fun x : Thread => x.lane == t.lane) ∘ f) = fun x => x.lane == t.lane := by funext x; simp [hf]
  rw [List.find?_map, hc]
  cases hx : g.threads.find? (fun x => x.lane == t.lane) with
  | none => simpa using List.find?_eq_none.mp hx t ht
  | some x =>
    have he : x.lane = t.lane := by simpa using List.find?_some (p := fun x : Thread => x.lane == t.lane) hx
    rw [List.inj_on_of_nodup_map hn (List.mem_of_find?_eq_some hx) ht he]
    rfl

@[simp] theorem Thread.deliver_lane (t : Thread) (op : Nat) (ws : List (Nat × Form)) : (t.deliver op ws).lane = t.lane := by
  unfold Thread.deliver
  split
  · rfl
  · extract_lets
    split <;> rfl

/-- A memory-class operation that no record and no ended thread waits for delivers its results in the thread that is owed them. -/
theorem memComplete_delivers {s : State} {g : Group} {t : Thread} {q : Pend} (hg : s.group g.id = g) (hmem : g ∈ s.groups) (ht : t ∈ g.threads)
    (hlanes : (g.threads.map Thread.lane).Nodup) (hq : q ∈ t.pend) (hops : (t.pend.map Pend.op).Nodup) (heng : q.engine = false)
    (hqueue : q.queue = none) (hwait : ∀ m, t.status ≠ .waita m) (hop : ∀ o ∈ s.ops, o.id ≠ q.op)
    (hconts : ∀ k ∈ s.conts, ∀ y ∈ k.pops, y.1 ≠ q.op) (hlost : ∀ y ∈ s.lostPops, y.op ≠ q.op) : delivered s (s.memComplete q.op) g t q := by
  have h1 : (s.ops.any (fun o => o.id == q.op)) = false := by simpa using hop
  have h2 : s.orphanPop q.op = none := by
    have hc : s.conts.findSome? (fun k => (k.pops.find? (fun p => p.1 == q.op)).map (fun p => (k.ctx, p.2))) = none :=
      List.findSome?_eq_none_iff.mpr (fun k hk => by
        rw [List.find?_eq_none.mpr (fun y hy => by simpa using hconts k hk y hy)]; rfl)
    have hl : s.lostPops.find? (fun p => p.op == q.op && !p.done) = none :=
      List.find?_eq_none.mpr (fun y hy => by simp [hlost y hy])
    rw [State.orphanPop, hc, hl]; rfl
  have h3 : (s.lostPops.any (fun p => p.op == q.op)) = false := by simpa using hlost
  refine delivered_of_deliver hq hops ?_ ?_
  · rw [State.memComplete, h1, h2, h3]
    simp only [Bool.false_eq_true, if_false, Option.isSome_none]
    rw [State.group_mapThreads (s := s) rfl (hg.symm ▸ hmem) (congrArg Group.id hg), hg, Group.thread_map _ ht hlanes]
    · have howed : (t.pend.any (fun p => p.op == q.op && !p.engine && p.queue.isNone)) = true :=
        List.any_eq_true.mpr ⟨q, hq, by simp [heng, hqueue]⟩
      have hst : (match t.status with | .waita m => m.op != q.op | _ => true) = true := by
        cases hst : t.status
        case waita m => exact absurd hst (hwait m)
        all_goals rfl
      refine congrArg some ((if_pos ((Bool.and_eq_true ..).mpr ⟨howed, hst⟩)).trans ?_)
      rw [Thread.find_pend hq hops]
    · intro x
      split
      · split
        · exact Thread.deliver_lane ..
        · rfl
      · rfl
  · rw [State.memComplete, h1, h2, h3]; rfl

theorem savedThread_delivers {s : State} {g : Group} {t : Thread} {q : Pend} (hg : s.group g.id = g) (hmem : g ∈ s.groups)
    (hres : g.resident s = false) (ht : t ∈ g.threads)
    (hlanes : (g.threads.map Thread.lane).Nodup) (hq : q ∈ t.pend) (hops : (t.pend.map Pend.op).Nodup) (heng : q.engine = false)
    (hqueue : q.queue = none) (hwait : ∀ m, t.status ≠ .waita m) (hop : ∀ o ∈ s.ops, o.id ≠ q.op)
    (hconts : ∀ k ∈ s.conts, ∀ y ∈ k.pops, y.1 ≠ q.op) (hlost : ∀ y ∈ s.lostPops, y.op ≠ q.op) :
    ∃ u : State, exec (.savedImageCompletion q.op) s = .next u ∧ delivered s u g t q := by
  refine ⟨_, ?_, memComplete_delivers hg hmem ht hlanes hq hops heng hqueue hwait hop hconts hlost⟩
  have hsaved : s.savedOp q.op = true := by
    have h : (s.groups.any (fun g => !g.resident s && g.threads.any (fun t => t.pend.any (fun p => p.op == q.op)))) = true :=
      List.any_eq_true.mpr ⟨g, hmem, by
        rw [hres]; exact List.any_eq_true.mpr ⟨t, ht, List.any_eq_true.mpr ⟨q, hq, beq_self_eq_true _⟩⟩⟩
    rw [State.savedOp, h, Bool.true_or]
  have hnone : s.ops.find? (fun o => o.id == q.op) = none := List.find?_eq_none.mpr (fun o ho => by simpa using hop o ho)
  show Host.Outcome.next _ = _
  rw [hsaved, hnone]
  rfl

end Sys2Proof.Machine
end

section
namespace Sys2Proof.Machine
set_option Elab.async false

/-! ### Sorting by a key -/

theorem insertBy_perm {α : Type} (key : α → Nat) (x : α) (l : List α) : (insertBy key x l).Perm (x :: l) := by
  induction l with
  | nil => exact .refl _
  | cons y l ih =>
    unfold insertBy
    split
    · exact .refl _
    · exact (ih.cons y).trans (.swap ..)

theorem sortBy_perm {α : Type} (key : α → Nat) (l : List α) : (sortBy key l).Perm l := by
  induction l with
  | nil => exact .refl _
  | cons x l ih => exact (insertBy_perm key x _).trans (ih.cons x)

theorem mem_sortBy {α : Type} {key : α → Nat} {l : List α} {x : α} : x ∈ sortBy key l ↔ x ∈ l := (sortBy_perm key l).mem_iff

theorem insertBy_pairwise {α : Type} {key : α → Nat} {x : α} {l : List α} (h : l.Pairwise (fun a b => key a ≤ key b)) :
    (insertBy key x l).Pairwise (fun a b => key a ≤ key b) := by
  induction l with
  | nil => exact List.pairwise_singleton ..
  | cons y l ih =>
    obtain ⟨hy, hl⟩ := List.pairwise_cons.mp h
    unfold insertBy
    split
    next hxy => exact List.pairwise_cons.mpr ⟨List.forall_mem_cons.mpr ⟨hxy, fun z hz => hxy.trans (hy z hz)⟩, h⟩
    next hxy =>
      refine List.pairwise_cons.mpr ⟨fun z hz => ?_, ih hl⟩
      rcases List.mem_cons.mp ((insertBy_perm key x l).mem_iff.mp hz) with rfl | hz
      · omega
      · exact hy z hz

theorem sortBy_pairwise {α : Type} (key : α → Nat) (l : List α) : (sortBy key l).Pairwise (fun a b => key a ≤ key b) := by
  induction l with
  | nil => exact .nil
  | cons x l ih => exact insertBy_pairwise ih

/-- An element of a key no greater than any after it, and smaller than each before it, comes first. -/
theorem sortBy_first {α : Type} {key : α → Nat} {a b : List α} {m : α} (ha : ∀ x ∈ a, key m < key x) (hb : ∀ x ∈ b, key m ≤ key x) :
    ∃ r, sortBy key (a ++ m :: b) = m :: r := by
  induction a with
  | nil => exact ⟨_, insertBy_le key m _ (fun x hx => hb x (mem_sortBy.mp hx))⟩
  | cons x a ih =>
    obtain ⟨hx, ha⟩ := List.forall_mem_cons.mp ha
    obtain ⟨r, hr⟩ := ih ha
    refine ⟨insertBy key x r, ?_⟩
    show insertBy key x (sortBy key (a ++ m :: b)) = _
    rw [hr, insertBy, if_neg (by omega)]

/-- The scheduler's order: the highest priority first, and among equals the one ready longest (R334). -/
theorem placeOrder_first {ms : List Member} {m : Member} (hm : m ∈ ms)
    (h : ∀ x ∈ ms, x ≠ m → x.eff < m.eff ∨ (x.eff = m.eff ∧ m.since < x.since)) :
    ∃ r, sortBy (fun m => 15 - m.eff) (sortBy Member.since ms) = m :: r := by
  have hle : ∀ x : Member, x.eff ≤ 15 := fun x => Nat.min_le_left ..
  obtain ⟨a, b, hab, hna⟩ := List.eq_append_cons_of_mem (mem_sortBy (key := Member.since).mpr hm)
  have hs := sortBy_pairwise Member.since ms
  rw [hab] at hs ⊢
  have hin : ∀ x ∈ a ++ m :: b, x ∈ ms := fun x hx => mem_sortBy.mp (hab ▸ hx)
  refine sortBy_first (fun x hx => ?_) (fun x hx => ?_)
  · have hne : x ≠ m := fun he => hna (he ▸ hx)
    have hsx := (List.pairwise_append.mp hs).2.2 x hx m List.mem_cons_self
    have := h x (hin x (List.mem_append_left _ hx)) hne
    have := hle m
    omega
  · by_cases hne : x = m
    · rw [hne]
    · have := h x (hin x (List.mem_append_right _ (List.mem_cons_of_mem _ hx))) hne
      omega

/-! ### The placing of a member (R334, R335) -/

/-- A fold that has found its answer changes nothing more. -/
theorem foldl_done {α β : Type} (f : α → β → α × Bool) (l : List β) (x : α) :
    l.foldl (fun (x : α × Bool) m => if x.2 then x else f x.1 m) (x, true) = (x, true) := by
  induction l with
  | nil => rfl
  | cons b l ih => exact ih

/-- Threads that wait for nothing are seated as they are. -/
theorem State.seat_ready {s : State} {gid : Nat} {p : Place} (h : ∀ y ∈ s.groups, y.id = gid → ∀ t ∈ y.threads, t.status = .ready)
    (hp : (if (s.group gid).lanes then (s.freeRow (s.group gid).pen).map Place.row
      else (s.freeSlots ((s.pen (s.group gid).pen).core.getD 0)).head?.map Place.slot) = some p) :
    s.seat gid = { s with fresh := s.fresh + 1
                          groups := s.groups.map (fun y => if y.id = gid then { y with place := p, placedAt := s.now } else y) } := by
  simp only [State.seat, hp, State.bump, State.updGroup]
  congr 1
  refine List.map_congr_left (fun y hy => ?_)
  by_cases hid : y.id = gid
  · rw [if_pos hid, if_pos (by simpa using hid)]
    have hmap : ∀ f : Thread → Thread, (∀ t, t.status = .ready → f t = t) → y.threads.map f = y.threads := fun f hf =>
      (List.map_congr_left (fun t ht => hf t (h y hy hid t ht))).trans (List.map_id' _)
    rw [hmap _ (fun t ht => by rw [ht])]
  · rw [if_neg hid, if_neg (by simpa using hid)]

theorem State.group_mem_id {s : State} {gid : Nat} (h : (s.group gid).threads ≠ []) : s.group gid ∈ s.groups ∧ (s.group gid).id = gid := by
  unfold State.group at h ⊢
  cases hf : s.groups.find? (fun x => x.id == gid) with
  | none => rw [hf] at h; exact absurd rfl h
  | some y =>
    exact ⟨List.mem_of_find?_eq_some hf, by simpa using List.find?_some (p := fun x : Group => x.id == gid) hf⟩

/-- A thread that is ready waits at no barrier. -/
theorem State.retestBars_ready {s : State} {gid : Nat} (h : ∀ y ∈ s.groups, y.id = gid → ∀ t ∈ y.threads, t.status = .ready) :
    s.retestBars gid = s := by
  have hone : ∀ l, s.retestBar gid l = s := fun l => by
    unfold State.retestBar
    extract_lets g
    cases ht : g.thread l with
    | none => rfl
    | some t =>
      have hmem : t ∈ (s.group gid).threads := List.mem_of_find?_eq_some ht
      obtain ⟨hin, hid⟩ := State.group_mem_id (List.ne_nil_of_mem hmem)
      simp only [h _ hin hid t hmem]
  unfold State.retestBars
  generalize (s.group gid).threads.map Thread.lane = ls
  induction ls with
  | nil => rfl
  | cons l ls ih => rw [List.foldl_cons, hone, ih]

/-- A group of a resident pen is placed where it finds a free place. -/
theorem State.settleMember_group {s : State} {m : Member} {gid target die : Nat} {p : Place} (hk : m.kind = .group gid false)
    (hne : (s.group gid).threads ≠ []) (h : ∀ y ∈ s.groups, y.id = gid → ∀ t ∈ y.threads, t.status = .ready)
    (hp : (if (s.group gid).lanes then (s.freeRow (s.group gid).pen).map Place.row
      else (s.freeSlots ((s.pen (s.group gid).pen).core.getD 0)).head?.map Place.slot) = some p) :
    s.settleMember m target die = { s with
      members := s.members.filter (fun x => x.id != m.id), reservations := s.reservations.filter (fun x => x.member != m.id)
      fresh := s.fresh + 1
      groups := s.groups.map (fun y => if y.id = gid then { y with place := p, placedAt := s.now } else y) } := by
  have hemp : (s.group gid).threads.isEmpty = false := by simpa using hne
  have hseat := State.seat_ready (s := s.dropMember m.id) (gid := gid) h hp
  simp only [State.settleMember, hk, Bool.false_eq_true, if_false, hemp, State.seatAll, List.foldl_cons, List.foldl_nil]
  rw [hseat, State.retestBars_ready]
  · rfl
  · rintro y hy hid t ht
    obtain ⟨x, hx, rfl⟩ := List.mem_map.mp hy
    by_cases hxg : x.id = gid
    · rw [if_pos hxg] at ht
      exact h x hx hxg t ht
    · rw [if_neg hxg] at hid
      exact absurd hid hxg

theorem memberPlaced : Says.MemberPlaced := by
  intro s m gid core k g need hm hfirst henl hkind hres hcore hsaved h216 hstop hne hplace hlack hready
  obtain ⟨r, hr⟩ := placeOrder_first hm hfirst
  have hp : (if (s.group gid).lanes then (s.freeRow (s.group gid).pen).map Place.row
      else (s.freeSlots ((s.pen (s.group gid).pen).core.getD 0)).head?.map Place.slot) = some (if g.lanes then .row k else .slot k) := by
    rw [hcore, Option.getD_some]
    show (if g.lanes = true then _ else _) = _
    by_cases hl : g.lanes = true
    · rw [if_pos hl] at hplace ⊢
      rw [if_pos hl]
      exact congrArg (Option.map Place.row) hplace
    · rw [if_neg hl] at hplace ⊢
      rw [if_neg hl]
      exact congrArg (Option.map Place.slot) hplace
  have htargets : s.targets m (core / 54) = [(core, [(core, need)])] := by
    have hcore' : (s.pen (s.group gid).pen).core = some core := hcore
    have hsaved' : (s.pen (s.group gid).pen).saved = false := hsaved
    simp only [State.targets, hkind, hcore', hsaved', dieOfCore, Bool.not_false, Bool.true_and, beq_self_eq_true, if_true]
    rfl
  have hfits : s.fits m [(core, need)] = true := by
    simp [State.fits, hlack, hres]
  have hdone : s.stagingDone m = true := by rw [State.stagingDone, hkind]
  have hctx : (s.ctx (s.launch (s.memberLaunch m)).ctx).stopped = false := by
    rw [State.memberLaunch, hkind]; exact hstop
  have htry : s.tryPlace m (core / 54) = (s.settleMember m core (core / 54), true) := by
    simp only [State.tryPlace, hctx, hdone, htargets, Bool.not_true, Bool.or_self, Bool.false_eq_true, if_false, List.find?_cons, hfits]
  show Host.Outcome.next _ = _
  rw [if_neg (by omega), henl, hr, List.foldl_cons]
  simp only [Bool.false_eq_true, if_false]
  have hfold := congrArg Prod.fst (foldl_done (fun (x : State) m => x.tryPlace m (core / 54)) r (s.settleMember m core (core / 54)))
  rw [htry]
  exact congrArg Host.Outcome.next (hfold.trans (State.settleMember_group hkind hne hready hp))

end Sys2Proof.Machine
end

section
namespace Sys2Proof.Machine
set_option Elab.async false

/-! ### Records and tests of waits leave pens, tasks and launches alone -/

/-- The pens, the tasks and the launches are as they were. -/
def State.KeepsWork (s s' : State) : Prop := s'.pens = s.pens ∧ s'.tasks = s.tasks ∧ s'.launches = s.launches

namespace State.KeepsWork

variable {s a b : State}

theorem refl : KeepsWork s s := ⟨rfl, rfl, rfl⟩
theorem trans (h : KeepsWork s a) (h' : KeepsWork a b) : KeepsWork s b :=
  ⟨h'.1.trans h.1, h'.2.1.trans h.2.1, h'.2.2.trans h.2.2⟩

theorem foldl {α : Type} {f : State → α → State} {l : List α} (hf : ∀ x y, KeepsWork x (f x y)) : KeepsWork s (l.foldl f s) := by
  induction l generalizing s with
  | nil => exact refl
  | cons y l ih => exact (hf s y).trans ih

theorem writePhys {pa n v : Nat} : KeepsWork s (s.writeLoc (.phys pa) n v) := ⟨rfl, rfl, rfl⟩

theorem readyGroup {g : Nat} : KeepsWork s (s.readyGroup g) := by
  unfold State.readyGroup
  extract_lets
  split
  · exact ⟨rfl, rfl, rfl⟩
  · exact refl

theorem setTether {t : Tether} : KeepsWork s (s.setTether t) := by
  unfold State.setTether
  extract_lets
  split <;> exact ⟨rfl, rfl, rfl⟩

theorem handPop {t : Tether} {pkt : BitVec 512} : KeepsWork s (s.handPop t pkt) := by
  have hd : ∀ op, KeepsWork s (s.popDone op pkt) := fun _ => ⟨rfl, rfl, rfl⟩
  unfold State.handPop
  split
  · exact setTether
  · exact ((hd _).trans setTether).trans (foldl (fun _ _ => readyGroup))

end State.KeepsWork

/-- After a check that gives an error where it fails. -/
theorem Gives.check {ε α : Type} {P : α → Prop} {c : Prop} [Decidable c] {e : ε} {x : Except ε α} (h : Gives P x) :
    Gives P (if c then .error e else x) := by
  split
  · exact .error
  · exact h

theorem State.globalLoc_phys {s : State} {c n : Nat} {va : W64} {k : AccKind} : Gives (fun l => ∃ pa, l = .phys pa) (s.globalLoc c va n k) := by
  unfold State.globalLoc
  cases s.translate c va with
  | none => exact .error
  | some leaf => exact .check (.check (.check (.ok ⟨_, rfl⟩)))

/-- The slots of a queue that passes its checks lie in memory, not in a scratch. -/
def QView.Phys (q : QView) : Prop := (∃ a, q.pa = .phys a) ∧ ∃ a, q.wslot = .phys a

theorem State.queue_phys {s : State} {c : Nat} {a : W64} {push : Bool} {k : AccKind} : Gives QView.Phys (s.queue c a push k) := by
  have hpa : Gives (fun l => ∃ b, l = .phys b) (match s.translate c a with
      | some leaf => if s.sound leaf.pa 64 then .ok (Loc.phys leaf.pa) else s.globalLoc c a 64 k
      | none => .error ⟨cXLATE, a, 0, k.acc, none⟩) := by
    cases s.translate c a with
    | none => exact .error
    | some leaf =>
      show Gives _ (if _ then _ else _)
      split
      · exact .ok ⟨_, rfl⟩
      · exact State.globalLoc_phys
  unfold State.queue
  refine .guard (fun _ => .bindOf hpa (fun pa hpa => ?_))
  cases qHead (BitVec.ofNat 512 (s.readLoc pa 64)) with
  | none => exact .error
  | some h =>
    refine .bind (fun _ => ?_)
    split
    · exact .bindOf State.globalLoc_phys (fun w hw => .bind (fun _ => .ok ⟨hpa, hw⟩))
    · exact .bindOf (Q := fun l => ∃ b, l = Loc.phys b) (.ok hpa) (fun w hw => .bind (fun _ => .ok ⟨hpa, hw⟩))

namespace State.KeepsWork

variable {s : State}

theorem setIdx {q : QView} {w r : W64} (hq : q.Phys) : KeepsWork s (s.setIdx q w r) := by
  obtain ⟨⟨a, ha⟩, -⟩ := hq
  rw [State.setIdx, ha]
  exact writePhys.trans writePhys

theorem pushTo {q : QView} {pkt : BitVec 512} (hq : q.Phys) : Holds (fun u => KeepsWork s u.1) (s.pushTo q pkt) := by
  obtain ⟨a, ha⟩ := hq.2
  have hw : KeepsWork s (s.writeLoc q.wslot 64 pkt.toNat) := by rw [ha]; exact writePhys
  unfold State.pushTo
  extract_lets poppers s1
  clear_value poppers
  split
  · exact .some ((hw.trans (setIdx hq)).trans handPop)
  · split
    · exact .none
    · exact .some (hw.trans (setIdx hq))

theorem actFor {c : Nat} {f : State → State} (hf : KeepsWork { s with actor := c } (f { s with actor := c })) : KeepsWork s (s.actFor c f) := hf

theorem logRecord {c : Nat} {r : BitVec 512} : KeepsWork s (s.logRecord c r) := by
  unfold State.logRecord
  extract_lets fail
  have hfail : KeepsWork s fail := ⟨rfl, rfl, rfl⟩
  split
  · exact hfail
  split
  · exact hfail
  next q hq =>
    refine actFor (s := s) ?_
    split
    next u _ he => exact pushTo (State.queue_phys q hq) _ he
    · exact hfail

theorem park {gid : Nat} {lanes : List Nat} {pc : W64} {first npm1 slot : Nat} {f : FaultInfo} :
    KeepsWork s (s.park gid lanes pc first npm1 slot f) := by
  unfold State.park
  extract_lets g p l handle low dbl ec lmask rcd s1 held s2 s3
  have h2 : KeepsWork s s2 := ⟨rfl, rfl, rfl⟩
  have h3 : KeepsWork s s3 := by
    unfold s3
    split
    · exact h2
    · exact h2.trans logRecord
  split
  · exact h3.trans ⟨rfl, rfl, rfl⟩
  · exact h3

theorem retestBar {gid lane : Nat} : KeepsWork s (s.retestBar gid lane) := by
  unfold State.retestBar
  extract_lets g
  split
  · split
    · split
      · exact refl
      split
      · split
        · exact ⟨rfl, rfl, rfl⟩
        · exact refl
      · exact (show KeepsWork s (s.updThread ..) from ⟨rfl, rfl, rfl⟩).trans park
    · exact refl
  · exact refl

theorem seat {gid : Nat} : KeepsWork s (s.seat gid) := by
  unfold State.seat
  extract_lets g core place
  clear_value place
  cases place with
  | none => exact refl
  | some p => exact ⟨rfl, rfl, rfl⟩

theorem seatAll {gs : List Nat} : KeepsWork s (s.seatAll gs) := foldl (fun _ _ => seat.trans (foldl (fun _ _ => retestBar)))

end State.KeepsWork

end Sys2Proof.Machine
end

section
namespace Sys2Proof.Machine
set_option Elab.async false

/-! ### A saved team is restored (R240, R336) -/

section
variable {s : State}

theorem State.updPen_ids {p : Nat} {f : Pen → Pen} (hf : ∀ x, (f x).id = x.id) : (s.updPen p f).pens.map Pen.id = s.pens.map Pen.id := by
  rw [State.updPen, List.map_map]
  refine List.map_congr_left (fun x _ => ?_)
  show (if _ then f x else x).id = x.id
  split
  · exact hf x
  · rfl

/-- One change after another, each of another pen. -/
theorem State.pen_foldl_updPen {F : Pen → Pen → Pen} (hF : ∀ p x, (F p x).id = x.id) {ps : List Pen} (hin : ∀ p ∈ ps, p.id ∈ s.pens.map Pen.id)
    (hn : (ps.map Pen.id).Nodup) :
    (∀ q ∈ ps, (ps.foldl (fun x p => x.updPen p.id (F p)) s).pen q.id = F q (s.pen q.id))
      ∧ ∀ k, (∀ p ∈ ps, p.id ≠ k) → (ps.foldl (fun x p => x.updPen p.id (F p)) s).pen k = s.pen k := by
  induction ps generalizing s with
  | nil => exact ⟨nofun, fun _ _ => rfl⟩
  | cons p ps ih =>
    obtain ⟨hp, hps⟩ := List.forall_mem_cons.mp hin
    rw [List.map_cons, List.nodup_cons] at hn
    obtain ⟨hdone, hother⟩ := ih (s := s.updPen p.id (F p)) (fun q hq => (State.updPen_ids (hF p)).symm ▸ hps q hq) hn.2
    have hne : ∀ q ∈ ps, q.id ≠ p.id := fun q hq he => hn.1 (he ▸ List.mem_map_of_mem hq)
    refine ⟨fun q hq => ?_, fun k hk => ?_⟩
    · rcases List.mem_cons.mp hq with rfl | hq
      · rw [List.foldl_cons, hother q.id hne, State.pen_updPen (hF q) hp, if_pos rfl]
      · rw [List.foldl_cons, hdone q hq, State.pen_updPen (hF p) hp, if_neg (hne q hq)]
    · obtain ⟨hkp, hkps⟩ := List.forall_mem_cons.mp hk
      rw [List.foldl_cons, hother k hkps, State.pen_updPen (hF p) hp, if_neg (Ne.symm hkp)]

/-- What every pen keeps through the changes. -/
theorem State.foldl_updPen_all {P : Pen → Prop} {F : Pen → Pen → Pen} (hF : ∀ p x, P x → P (F p x)) {ps : List Pen} (h : ∀ x ∈ s.pens, P x) :
    ∀ x ∈ (ps.foldl (fun x p => x.updPen p.id (F p)) s).pens, P x := by
  induction ps generalizing s with
  | nil => exact h
  | cons p ps ih =>
    refine ih (fun y hy => ?_)
    obtain ⟨x, hx, rfl⟩ := List.mem_map.mp hy
    show P (if _ then F p x else x)
    split
    · exact hF p x (h x hx)
    · exact h x hx

theorem State.pen_of_mem {q : Pen} (hn : (s.pens.map Pen.id).Nodup) (hq : q ∈ s.pens) : s.pen q.id = q := by
  unfold State.pen
  cases hf : s.pens.find? (fun x => x.id == q.id) with
  | none => simpa using List.find?_eq_none.mp hf q hq
  | some x =>
    have he : x.id = q.id := by simpa using List.find?_some (p := fun x : Pen => x.id == q.id) hf
    exact List.inj_on_of_nodup_map hn (List.mem_of_find?_eq_some hf) hq he

theorem State.launch_updLaunch {l : Nat} {f : Launch → Launch} (hf : ∀ x, (f x).id = x.id) (k : Nat) :
    (s.updLaunch l f).launch k = s.launch k ∨ (s.updLaunch l f).launch k = f (s.launch k) := by
  have hc : ((fun x : Launch => x.id == k) ∘ fun x => if x.id == l then f x else x) = fun x => x.id == k := by
    funext x; simp only [Function.comp]; split <;> simp [hf]
  unfold State.launch State.updLaunch
  simp only [List.find?_map, hc]
  cases s.launches.find? (fun x => x.id == k) with
  | none => exact .inl rfl
  | some x =>
    by_cases hx : (x.id == l) = true
    · exact .inr (if_pos hx)
    · exact .inl (if_neg hx)

theorem State.tryFinish_of_task {l : Nat} (h : ∃ k ∈ s.tasks, k.launch = l) : s.tryFinish l = s := by
  obtain ⟨k, hk, rfl⟩ := h
  have ht : (s.tasks.any (fun t => t.launch == k.launch)) = true := List.any_eq_true.mpr ⟨k, hk, beq_self_eq_true _⟩
  unfold State.tryFinish
  split
  · rfl
  · simp [ht]

/-- Where no pen of the team waits at a hitch nothing happens there. -/
theorem State.tryHitch_none {k : Nat} (h : ∀ q ∈ s.team (s.pen k), q.hitch = []) : s.tryHitch k = s := by
  have hh : s.atHitch k = [] := List.filter_eq_nil_iff.mpr (fun q hq => by simp [h q hq])
  simp only [State.tryHitch, hh, List.find?_nil]

/-- What the placing of a yard team makes of a pen of it. -/
def placePen (s : State) (yard : Nat) (p q : Pen) : Pen :=
  { q with core := some (yardCore yard (s.member p)), saved := false, placedAt := s.now, hitch := q.hitch.map (fun h => { h with since := s.clk }) }

theorem State.placeTeam_pen {m : Member} {launch vy yard : Nat} (hn : (s.pens.map Pen.id).Nodup)
    (hh : ∀ q ∈ s.teamPens launch vy, q.hitch = []) (ht : ∃ k ∈ s.tasks, k.launch = launch) :
    ∀ q ∈ s.teamPens launch vy, (s.placeTeam m launch vy yard false).pen q.id
      = { q with core := some (6 * yard + q.vcore % (s.launch launch).c), saved := false, placedAt := s.now } := by
  intro q hq
  have hteam : ∀ q ∈ s.teamPens launch vy, q ∈ s.pens ∧ q.launch = launch ∧ q.vcore / (s.launch launch).c = vy := fun q hq => by
    obtain ⟨h1, h2⟩ := List.mem_filter.mp hq
    rw [Bool.and_eq_true, beq_iff_eq, beq_iff_eq] at h2
    exact ⟨h1, h2⟩
  obtain ⟨hqin, hqlaunch, -⟩ := hteam q hq
  let s0 := s.dropMember m.id
  let ps := s.teamPens launch vy
  let s1 := ps.foldl (fun x p => x.updPen p.id (placePen s yard p)) s0
  let gs := (ps.map (fun p => (s.penGroups p.id).map Group.id)).flatten
  let s4 := (s1.seatAll gs).updLaunch launch (fun l => { l with unplaced := l.unplaced.filter (· != vy) })
  have hs1 : s1.tasks = s.tasks ∧ s1.launches = s.launches := by
    have : ∀ (l : List Pen) (x : State), (l.foldl (fun x p => x.updPen p.id (placePen s yard p)) x).tasks = x.tasks
        ∧ (l.foldl (fun x p => x.updPen p.id (placePen s yard p)) x).launches = x.launches := fun l => by
      induction l with
      | nil => exact fun _ => ⟨rfl, rfl⟩
      | cons p l ih => exact fun x => ih _
    exact this ps s0
  obtain ⟨hpens, htasks, hlaunches⟩ := State.KeepsWork.seatAll (s := s1) (gs := gs)
  have hc : ∀ k, (s4.launch k).c = (s.launch k).c := fun k => by
    have hk : (s1.seatAll gs).launch k = s.launch k := by rw [State.launch, hlaunches, hs1.2]; rfl
    rcases State.launch_updLaunch (s := s1.seatAll gs) (l := launch) (f := fun l => { l with unplaced := l.unplaced.filter (· != vy) })
      (fun _ => rfl) k with h | h
    · rw [h, hk]
    · rw [h, hk]
  have hpen : ∀ k, s4.pen k = s1.pen k := fun k => by rw [State.pen, State.pen, show s4.pens = s1.pens from hpens]
  have hin : ∀ p ∈ ps, p.id ∈ s0.pens.map Pen.id := fun p hp => List.mem_map_of_mem (hteam p hp).1
  have hnps : (ps.map Pen.id).Nodup := hn.sublist (List.filter_sublist.map _)
  have hplaced : ∀ p ∈ ps, s1.pen p.id = placePen s yard p p := fun p hp => by
    rw [(State.pen_foldl_updPen (F := placePen s yard) (fun _ _ => rfl) hin hnps).1 p hp]
    exact congrArg _ (State.pen_of_mem hn (hteam p hp).1)
  have hfree : ∀ x ∈ s1.pens, x.launch = launch → x.vcore / (s.launch launch).c = vy → x.hitch = [] :=
    State.foldl_updPen_all (P := fun x => x.launch = launch → x.vcore / (s.launch launch).c = vy → x.hitch = [])
      (fun p x hx hl hv => by rw [placePen, hx hl hv]; rfl)
      (fun x hx hl hv => hh x (List.mem_filter.mpr ⟨hx, by rw [hl, hv]; simp⟩))
  have hlast : ∀ r : List Pen, (∀ p ∈ r, p ∈ ps) → (match r with | [] => s4 | p :: _ => (s4.tryHitch p.id).tryFinish launch) = s4
    | [], _ => rfl
    | p :: r, hr => by
      have hp : p ∈ ps := hr p List.mem_cons_self
      have hno : s4.tryHitch p.id = s4 := by
        refine State.tryHitch_none (fun x hx => ?_)
        obtain ⟨hx1, hx2⟩ := List.mem_filter.mp hx
        rw [hc, hpen, hplaced p hp, Bool.and_eq_true, beq_iff_eq, beq_iff_eq] at hx2
        obtain ⟨-, hpl, hpv⟩ := hteam p hp
        have hpc : (placePen s yard p p).launch = launch := hpl
        rw [hpc] at hx2
        exact hfree x (hpens ▸ hx1) hx2.1 (hx2.2.trans hpv)
      show (s4.tryHitch p.id).tryFinish launch = s4
      rw [hno]
      exact State.tryFinish_of_task (by rw [show s4.tasks = s.tasks from htasks.trans hs1.1]; exact ht)
  have hend : s.placeTeam m launch vy yard false = s4 := hlast ps (fun _ h => h)
  rw [hend, hpen, hplaced q hq, placePen, hh q hq, State.member, hqlaunch, yardCore, Config.coresPerYard, Nat.mul_comm yard 6]
  rfl

end
end Sys2Proof.Machine
end

section
namespace Sys2Proof.Machine
set_option Elab.async false

/-! ### Staging that is cancelled, to begin again later (R359) -/

/-- A pen but for the bytes of its scratch. -/
def Pen.bare (p : Pen) : Pen := { p with scratch := [] }

/-- Tasks, staging operations, budgets and bytes of scratch may have changed, and the draws; every operation is still there. -/
def State.Unstaged (s s' : State) : Prop :=
  (∃ pens tasks ops ctxs fresh, s' = { s with pens := pens, tasks := tasks, ops := ops, ctxs := ctxs, fresh := fresh })
    ∧ s'.pens.map Pen.bare = s.pens.map Pen.bare ∧ s'.ops.map EngOp.id = s.ops.map EngOp.id

namespace State.Unstaged
variable {s a b : State}

theorem refl : Unstaged s s := ⟨⟨_, _, _, _, _, rfl⟩, rfl, rfl⟩
theorem trans (h : Unstaged s a) (h' : Unstaged a b) : Unstaged s b := by
  obtain ⟨⟨_, _, _, _, _, rfl⟩, h1, h2⟩ := h
  obtain ⟨⟨_, _, _, _, _, rfl⟩, h3, h4⟩ := h'
  exact ⟨⟨_, _, _, _, _, rfl⟩, h3.trans h1, h4.trans h2⟩

theorem foldl {α : Type} {f : State → α → State} {l : List α} (hf : ∀ x y, Unstaged x (f x y)) : Unstaged s (l.foldl f s) := by
  induction l generalizing s with
  | nil => exact refl
  | cons y l ih => exact (hf s y).trans ih

theorem writeScratch {p off n v : Nat} : Unstaged s (s.writeLoc (.scr p off) n v) := by
  refine ⟨⟨_, _, _, _, _, rfl⟩, ?_, rfl⟩
  show (s.pens.map _).map _ = _
  rw [List.map_map]
  refine List.map_congr_left (fun x _ => ?_)
  show Pen.bare (if _ then _ else x) = _
  split <;> rfl

theorem spoilDecl {ps : List Nat} {d : Decl} : Unstaged s (s.spoilDecl ps d) := by
  unfold State.spoilDecl
  split
  · exact foldl (fun x p => (show Unstaged x x.bump from ⟨⟨_, _, _, _, _, rfl⟩, rfl, rfl⟩).trans writeScratch)
  · exact refl

theorem cancelStaging {k : Nat} : Unstaged s (s.cancelStaging k) := by
  unfold State.cancelStaging
  extract_lets t s1
  have h1 : Unstaged s s1 := by
    unfold s1
    split
    · exact foldl (fun _ _ => spoilDecl)
    · exact refl
  refine h1.trans ⟨⟨_, _, _, _, _, rfl⟩, rfl, ?_⟩
  show (s1.ops.map _).map _ = _
  rw [List.map_map]
  refine List.map_congr_left (fun o _ => ?_)
  simp only [Function.comp]
  split
  · split <;> rfl
  · rfl

theorem unstage {k : Nat} : Unstaged s (s.unstage k) := cancelStaging.trans ⟨⟨_, _, _, _, _, rfl⟩, rfl, rfl⟩

/-- A pen stands where it did. -/
theorem pen_core (h : Unstaged s a) (p : Nat) : (a.pen p).core = (s.pen p).core := by
  have hc : ∀ l : List Pen, (((l.find? (fun x => x.id == p)).getD (Pen.create 0 0 0 0 0))).core
      = (((l.map Pen.bare).find? (fun x => x.id == p)).getD (Pen.create 0 0 0 0 0)).core := fun l => by
    rw [List.find?_map, show ((fun x : Pen => x.id == p) ∘ Pen.bare) = fun x => x.id == p from rfl]
    cases l.find? (fun x => x.id == p) <;> rfl
  exact (hc a.pens).trans ((congrArg (fun l : List Pen => ((l.find? (fun x => x.id == p)).getD (Pen.create 0 0 0 0 0)).core) h.2.1).trans
    (hc s.pens).symm)

theorem penCycles (h : Unstaged s a) (p : Nat) : a.cycles (a.penDie p) = s.cycles (s.penDie p) := by
  have hp : a.penDie p = s.penDie p := by rw [State.penDie, State.penDie, h.pen_core]
  rw [hp]
  obtain ⟨⟨_, _, _, _, _, rfl⟩, -⟩ := h
  rfl

end State.Unstaged

/-- Nothing of a task is staged, and it has not begun. -/
def Task.Unbegun (k : Task) : Prop := k.begun = false ∧ k.staged = 0 ∧ k.scrStaged = 0

theorem State.tasks_spoilDecl {s : State} {ps : List Nat} {d : Decl} : (s.spoilDecl ps d).tasks = s.tasks := by
  unfold State.spoilDecl
  split
  · induction ps generalizing s with
    | nil => rfl
    | cons p ps ih => exact ih
  · rfl

/-- Of each task, what a cancelled staging leaves: its transfers go, what it counts stays. -/
theorem State.tasks_cancelStaging {s : State} {k : Nat} :
    (s.cancelStaging k).tasks = s.tasks.map (fun t => if t.id = k then { t with jobs := [] } else t) := by
  have hfold : ∀ (ds : List Decl) (ps : State → List Nat) (x : State), (ds.foldl (fun x d => x.spoilDecl (ps s) d) x).tasks = x.tasks := by
    intro ds ps
    induction ds with
    | nil => exact fun _ => rfl
    | cons d ds ih => exact fun x => (ih _).trans State.tasks_spoilDecl
  unfold State.cancelStaging
  extract_lets t s1
  have h1 : s1.tasks = s.tasks := by
    unfold s1
    split
    · exact hfold _ (fun s => s.taskPens t) s
    · rfl
  show s1.tasks.map _ = _
  rw [h1]
  exact List.map_congr_left (fun t _ => if_congr beq_iff_eq rfl rfl)

theorem State.tasks_unstage {s : State} {k : Nat} : (s.unstage k).tasks = s.tasks.map (fun t =>
    if t.id = k then { t with jobs := [], staged := 0, scrStaged := 0, begun := false, home := none } else t) := by
  show (s.cancelStaging k).tasks.map _ = _
  rw [State.tasks_cancelStaging, List.map_map]
  refine List.map_congr_left (fun t _ => ?_)
  simp only [Function.comp]
  by_cases h : t.id = k
  · simp [h]
  · simp [h]

/-- Every task of the list is unbegun once each has been unstaged. -/
theorem State.unstaged_unbegun {s : State} {l : List Nat} : ∀ k ∈ (l.foldl State.unstage s).tasks, k.id ∈ l → k.Unbegun := by
  have hstep : ∀ (x : State) (j : Nat) (P : Nat → Prop), (∀ k ∈ x.tasks, P k.id → k.Unbegun) →
      ∀ k ∈ (x.unstage j).tasks, P k.id ∨ k.id = j → k.Unbegun := by
    intro x j P h k hk hP
    rw [State.tasks_unstage] at hk
    obtain ⟨t, ht, rfl⟩ := List.mem_map.mp hk
    by_cases hj : t.id = j
    · rw [if_pos hj]
      exact ⟨rfl, rfl, rfl⟩
    · rw [if_neg hj] at hP ⊢
      exact h t ht (hP.resolve_right hj)
  have hall : ∀ (l : List Nat) (x : State) (P : Nat → Prop), (∀ k ∈ x.tasks, P k.id → k.Unbegun) →
      ∀ k ∈ (l.foldl State.unstage x).tasks, P k.id ∨ k.id ∈ l → k.Unbegun := by
    intro l
    induction l with
    | nil => exact fun x P h k hk hP => h k hk (hP.resolve_right List.not_mem_nil)
    | cons j l ih =>
      intro x P h k hk hP
      refine ih (x.unstage j) (fun i => P i ∨ i = j) (hstep x j P h) k hk ?_
      rcases hP with hP | hP
      · exact .inl (.inl hP)
      · exact (List.mem_cons.mp hP).imp (.inr) id
  exact fun k hk hl => hall l s (fun _ => False) (fun _ _ => False.elim) k hk (.inr hl)

/-! ### The listing of what has become ready (R334, R335) -/

theorem State.members_addMember (s : State) (k : MemberKind) (prio : Nat) :
    (s.addMember k prio).members = s.members ++ [⟨s.fresh, k, prio, s.clk, 0, false⟩] := rfl

theorem State.foldl_addMember {α : Type} {K : α → MemberKind} {P : α → Nat} {l : List α} {s : State} :
    (∀ m ∈ s.members, m ∈ (l.foldl (fun x a => x.addMember (K a) (P a)) s).members)
      ∧ ∀ a ∈ l, ∃ m ∈ (l.foldl (fun x a => x.addMember (K a) (P a)) s).members, m.kind = K a := by
  induction l generalizing s with
  | nil => exact ⟨fun _ h => h, nofun⟩
  | cons a l ih =>
    obtain ⟨hkeep, hadd⟩ := ih (s := s.addMember (K a) (P a))
    have hnew : ∀ m ∈ (s.addMember (K a) (P a)).members, m ∈ ((a :: l).foldl (fun x a => x.addMember (K a) (P a)) s).members := hkeep
    rw [State.members_addMember] at hnew
    refine ⟨fun m hm => hnew m (List.mem_append_left _ hm), fun b hb => ?_⟩
    rcases List.mem_cons.mp hb with rfl | hb
    · exact ⟨_, hnew _ (List.mem_append_right _ (List.mem_singleton_self _)), rfl⟩
    · exact hadd b hb

/-- A saved team, no ready member yet, of which a saved group is ready to run is listed. -/
theorem State.enlist_team {s : State} {launch vy : Nat} (hno : ∀ m ∈ s.members, m.kind ≠ .team launch vy)
    {p : Pen} (hp : p ∈ s.pens) (hsaved : p.saved = true) (hl : p.launch = launch) (hv : p.vcore / (s.launch launch).c = vy)
    {g : Group} (hg : g ∈ s.groups) (hpen : g.pen = p.id) (hplace : g.place = .saved) (hready : s.groupReady g = true) :
    ∃ m ∈ s.enlist.members, m.kind = .pens launch vy := by
  unfold State.enlist
  extract_lets listed own gs wants ts
  have hgs := (State.foldl_addMember (K := fun g : Group => .group g.id false) (P := s.groupPrio) (l := gs) (s := s)).1
  obtain ⟨hkeep, hadd⟩ := State.foldl_addMember (K := fun k : Nat × Nat => .pens k.1 k.2) (P := fun k => (s.launch k.1).prio) (l := ts)
    (s := gs.foldl (fun x g => x.addMember (.group g.id false) (s.groupPrio g)) s)
  by_cases hlist : listed (.pens launch vy) = true
  · obtain ⟨m, hm, hk⟩ := List.any_eq_true.mp hlist
    exact ⟨m, hkeep m (hgs m hm), by simpa using hk⟩
  · have hteam : listed (.team launch vy) = false := by
      rw [List.any_eq_false]
      exact fun m hm => by simpa using hno m hm
    have hw : wants p = true := by
      have : (s.groups.any (fun g => g.pen == p.id && g.place == .saved && (own g || s.groupReady g))) = true :=
        List.any_eq_true.mpr ⟨g, hg, by simp [hpen, hplace, hready]⟩
      show (_ || _) = true
      rw [this, Bool.true_or]
    refine hadd (launch, vy) (List.mem_filter.mpr ⟨List.mem_dedup.mpr (List.mem_map.mpr ⟨p, List.mem_filter.mpr ⟨hp, ?_⟩, ?_⟩), ?_⟩)
    · rw [hsaved, hw]; rfl
    · rw [hl, hv]
    · rw [Bool.not_eq_true] at hlist
      show (!listed (.pens launch vy) && !listed (.team launch vy)) = true
      rw [hlist, hteam]; rfl

/-! ### A team is saved whole (R336, R402) -/

/-- The state of a team saved whole, before what has become ready is listed. -/
def State.savedTeam (s : State) (ids waiting : List Nat) : State :=
  let x := waiting.foldl State.unstage s
  { x with
    pens := x.pens.map (fun p => if ids.contains p.id then { p with core := none, saved := true } else p)
    groups := x.groups.map (fun g => match g.place with
      | .slot _ | .row _ => if ids.contains g.pen then { g with place := .saved, savedAt := x.cycles (x.penDie g.pen) } else g
      | _ => g)
    ops := x.ops.map (fun o => match o.pen with | some p => if ids.contains p then o.stopped else o | none => o) }

theorem EngOp.stopped_id (o : EngOp) : o.stopped.id = o.id := by
  unfold EngOp.stopped
  split <;> rfl

theorem match_seated {α : Type} (g : Group) (a b : α) : (match g.place with | .slot _ | .row _ => a | _ => b) = if seated g = true then a else b := by
  unfold seated
  cases g.place <;> rfl

theorem ite_and_seated {α : Type} {p : Prop} [Decidable p] (g : Group) (a b : α) :
    (if seated g = true then if p then a else b else b) = if p ∧ seated g = true then a else b := by
  by_cases h : p <;> simp [h]

/-- A pen of the team is away. -/
def Pen.away (ids : List Nat) (p : Pen) : Pen := if p.id ∈ ids then { p with core := none, saved := true } else p

section
variable {s : State} {ids waiting : List Nat}

theorem State.savedTeam_pens : (s.savedTeam ids waiting).pens = (waiting.foldl State.unstage s).pens.map (Pen.away ids) := by
  unfold State.savedTeam
  exact List.map_congr_left (fun p _ => if_congr List.contains_iff_mem rfl rfl)

theorem Pen.bare_away (p : Pen) : (p.away ids).bare = p.bare.away ids := by
  unfold Pen.away
  show Pen.bare (if p.id ∈ ids then _ else _) = if p.id ∈ ids then _ else _
  split <;> rfl

theorem State.savedTeam_bare : (s.savedTeam ids waiting).pens.map Pen.bare = s.pens.map (fun p => (p.away ids).bare) := by
  have hswap : ∀ l : List Pen, (l.map (Pen.away ids)).map Pen.bare = (l.map Pen.bare).map (Pen.away ids) := fun l => by
    rw [List.map_map, List.map_map]
    exact List.map_congr_left (fun p _ => Pen.bare_away p)
  rw [State.savedTeam_pens, hswap, (State.Unstaged.foldl (fun _ _ => State.Unstaged.unstage)).2.1, ← hswap, List.map_map]
  rfl

theorem State.savedTeam_groups : (s.savedTeam ids waiting).groups = s.groups.map (fun y => if y.pen ∈ ids ∧ seated y = true
    then { y with place := .saved, savedAt := s.cycles (s.penDie y.pen) } else y) := by
  have hx := State.Unstaged.foldl (s := s) (l := waiting) (f := State.unstage) (fun _ _ => State.Unstaged.unstage)
  have hg : (waiting.foldl State.unstage s).groups = s.groups := by
    obtain ⟨⟨_, _, _, _, _, he⟩, -⟩ := hx
    rw [he]
  unfold State.savedTeam
  show (waiting.foldl State.unstage s).groups.map _ = _
  rw [hg]
  refine List.map_congr_left (fun y _ => ?_)
  rw [← ite_and_seated]
  exact (match_seated y _ _).trans (by simp only [hx.penCycles, List.contains_iff_mem])

theorem State.savedTeam_ops : (s.savedTeam ids waiting).ops.map EngOp.id = s.ops.map EngOp.id := by
  rw [← (State.Unstaged.foldl (s := s) (l := waiting) (f := State.unstage) (fun _ _ => State.Unstaged.unstage)).2.2]
  unfold State.savedTeam
  show ((waiting.foldl State.unstage s).ops.map _).map _ = _
  rw [List.map_map]
  refine List.map_congr_left (fun o _ => ?_)
  simp only [Function.comp]
  split
  · split
    · exact o.stopped_id
    · rfl
  · rfl

theorem State.savedTeam_none : s.savedTeam ids [] = { s with
    pens := s.pens.map (Pen.away ids), groups := (s.savedTeam ids []).groups, ops := (s.savedTeam ids []).ops } := by
  rw [← show (s.savedTeam ids []).pens = s.pens.map (Pen.away ids) from State.savedTeam_pens]
  rfl

theorem State.savedTeam_members : (s.savedTeam ids waiting).members = s.members := by
  obtain ⟨⟨_, _, _, _, _, he⟩, -⟩ := State.Unstaged.foldl (s := s) (l := waiting) (f := State.unstage) (fun _ _ => State.Unstaged.unstage)
  show (waiting.foldl State.unstage s).members = _
  rw [he]

theorem State.savedTeam_launch (k : Nat) : (s.savedTeam ids waiting).launch k = s.launch k := by
  obtain ⟨⟨_, _, _, _, _, he⟩, -⟩ := State.Unstaged.foldl (s := s) (l := waiting) (f := State.unstage) (fun _ _ => State.Unstaged.unstage)
  show (waiting.foldl State.unstage s).launch k = _
  rw [he]
  rfl

end

theorem State.saveTeam_eq (s : State) (launch vy : Nat) :
    s.saveTeam launch vy = (s.savedTeam ((s.teamPens launch vy).map Pen.id) (s.freshTasks ((s.teamPens launch vy).map Pen.id))).enlist := rfl

/-- A saved team of which a saved group is ready to run becomes a ready member. -/
theorem State.savedTeam_listed {s : State} {launch vy : Nat} {waiting : List Nat} (hno : ∀ m ∈ s.members, m.kind ≠ .team launch vy)
    (h : ∃ g ∈ (s.savedTeam ((s.teamPens launch vy).map Pen.id) waiting).groups, g.pen ∈ (s.teamPens launch vy).map Pen.id
      ∧ g.place = .saved ∧ (s.savedTeam ((s.teamPens launch vy).map Pen.id) waiting).groupReady g = true) :
    ∃ m ∈ (s.savedTeam ((s.teamPens launch vy).map Pen.id) waiting).enlist.members, m.kind = .pens launch vy := by
  obtain ⟨g, hg, hin, hplace, hready⟩ := h
  obtain ⟨q, hq, hid⟩ := List.mem_map.mp hin
  obtain ⟨hqs, hqt⟩ := List.mem_filter.mp hq
  rw [Bool.and_eq_true, beq_iff_eq, beq_iff_eq] at hqt
  have hbare : (q.away ((s.teamPens launch vy).map Pen.id)).bare
      ∈ (s.savedTeam ((s.teamPens launch vy).map Pen.id) waiting).pens.map Pen.bare := by
    rw [State.savedTeam_bare]; exact List.mem_map_of_mem hqs
  obtain ⟨p, hp, hpq⟩ := List.mem_map.mp hbare
  rw [Pen.away, if_pos (List.mem_map_of_mem hq)] at hpq
  have hsaved : p.saved = true := congrArg Pen.saved hpq
  have hlaunch : p.launch = launch := (congrArg Pen.launch hpq).trans hqt.1
  have hvc : p.vcore = q.vcore := (congrArg Pen.vcore hpq :)
  have hpid : p.id = q.id := (congrArg Pen.id hpq :)
  exact State.enlist_team (State.savedTeam_members.symm ▸ hno) hp hsaved hlaunch (by rw [State.savedTeam_launch, hvc]; exact hqt.2) hg
    (hid.symm.trans hpid.symm) hplace hready

end Sys2Proof.Machine
end

section
namespace Sys2Proof.Machine
set_option Elab.async false

/-! ### A value written in pieces, line by line -/

/-- The bytes of a value at the pieces of a range, as an engine operation writes them. -/
def lineWrites (a n v : Nat) : List (Nat × Nat × Nat) := (pieces 128 a n).map (fun q => (q.1, q.2, v / 2 ^ (8 * (q.1 - a)) % 2 ^ (8 * q.2)))

theorem Memory.store_mod {m : List Host.Cell} (a n v : Nat) : Memory.store m a n (v % 2 ^ (8 * n)) = Memory.store m a n v := by
  induction n generalizing m a v with
  | zero => rfl
  | succ n ih =>
    have h8 : 2 ^ (8 * (n + 1)) = 256 * 2 ^ (8 * n) := by rw [Nat.mul_add, Nat.pow_add, Nat.mul_comm]
    have h1 : BitVec.ofNat 8 (v % 2 ^ (8 * (n + 1))) = BitVec.ofNat 8 v := by
      apply BitVec.eq_of_toNat_eq
      rw [BitVec.toNat_ofNat, BitVec.toNat_ofNat, h8, Nat.mod_mul_right_mod]
    have h2 : v % 2 ^ (8 * (n + 1)) / 256 = v / 256 % 2 ^ (8 * n) := by rw [h8, Nat.mod_mul_right_div_self]
    rw [Memory.store, Memory.store, h1, h2, ih]

theorem Memory.get_store {m : List Host.Cell} (hm : Memory.wf m = true) (a n v b : Nat) :
    Memory.get (Memory.store m a n v) b = if a ≤ b ∧ b < a + n then BitVec.ofNat 8 (v / 256 ^ (b - a)) else Memory.get m b := by
  split
  next h =>
    have := Memory.get_store_inside hm a n v (b - a) (by omega)
    rwa [show a + (b - a) = b by omega] at this
  next h => exact Memory.get_store_outside hm a n v b (by omega)

/-- Stores of the pieces of a value, one after another. -/
theorem Memory.get_storePieces {m : List Host.Cell} (hm : Memory.wf m = true) (a n v b : Nat) :
    Memory.get ((lineWrites a n v).foldl (fun m q => Memory.store m q.1 q.2.1 q.2.2) m) b = Memory.get (Memory.store m a n v) b := by
  unfold lineWrites pieces
  by_cases hn : n = 0
  · subst hn; simp [Memory.store]
  have hupto : ∀ K, K ≤ (a + n - 1) / 128 - a / 128 + 1 → ∀ w, w = ((List.range K).map (fun k =>
      (max a ((a / 128 + k) * 128), min (a + n) ((a / 128 + k + 1) * 128) - max a ((a / 128 + k) * 128)))).foldl
        (fun m (q : Nat × Nat) => Memory.store m q.1 q.2 (v / 2 ^ (8 * (q.1 - a)) % 2 ^ (8 * q.2))) m →
      Memory.wf w = true ∧ ∀ b, Memory.get w b = if a ≤ b ∧ b < min (a + n) ((a / 128 + K) * 128) then BitVec.ofNat 8 (v / 256 ^ (b - a))
        else Memory.get m b := by
    intro K
    induction K with
    | zero =>
      rintro - w rfl
      refine ⟨hm, fun b => ?_⟩
      exact (if_neg (by omega)).symm
    | succ K ih =>
      intro hK w hw
      rw [List.range_succ, List.map_append, List.foldl_append, List.map_singleton, List.foldl_cons, List.foldl_nil] at hw
      obtain ⟨hwf, hget⟩ := ih (by omega) _ rfl
      subst hw
      refine ⟨Memory.store_wf hwf .., fun b => ?_⟩
      rw [Memory.store_mod, Memory.get_store hwf, hget]
      have hin : ∀ b, max a ((a / 128 + K) * 128) ≤ b ∧ b < max a ((a / 128 + K) * 128)
          + (min (a + n) ((a / 128 + K + 1) * 128) - max a ((a / 128 + K) * 128))
          ↔ (a ≤ b ∧ (a / 128 + K) * 128 ≤ b) ∧ b < min (a + n) ((a / 128 + K + 1) * 128) := fun b => by omega
      rw [if_congr (hin b) rfl rfl]
      by_cases h1 : (a ≤ b ∧ (a / 128 + K) * 128 ≤ b) ∧ b < min (a + n) ((a / 128 + K + 1) * 128)
      · rw [if_pos h1, if_pos (show a ≤ b ∧ b < min (a + n) ((a / 128 + (K + 1)) * 128) from ⟨h1.1.1, h1.2⟩),
          show (2 : Nat) ^ (8 * (max a ((a / 128 + K) * 128) - a)) = 256 ^ (max a ((a / 128 + K) * 128) - a) from Nat.pow_mul 2 8 _,
          Nat.div_div_eq_div_mul, ← Nat.pow_add]
        congr 3
        omega
      · rw [if_neg h1]
        exact if_congr (by omega) rfl rfl
  obtain ⟨-, hget⟩ := hupto _ le_rfl _ rfl
  rw [if_neg hn, List.map_map, List.foldl_map, Memory.get_store hm]
  rw [List.foldl_map] at hget
  refine (hget b).trans (if_congr ?_ rfl rfl)
  omega

/-! ### A copy into the scratch of its pen completes (R343, R403) -/

section
variable {s : State}

/-- Lines written to the scratch of a pen none of whose lines is bad. -/
theorem State.engWrite_scratch {o : EngOp} {p : Nat} (ho : o.pen = some p) (hp : p ∈ s.pens.map Pen.id) (hbad : (s.pen p).bad = [])
    (ps : List (Nat × Nat × Nat)) :
    s.engWrite o true ps = (s.updPen p (fun x => { x with
      scratch := (ps.flatMap (fun q => lineWrites q.1 q.2.1 q.2.2)).foldl (fun m q => Memory.store m q.1 q.2.1 q.2.2) x.scratch }), none) := by
  unfold State.engWrite
  extract_lets spans lines
  show List.foldl _ (s, none) lines = (s.updPen p (fun x => { x with scratch := lines.foldl (fun m q => Memory.store m q.1 q.2.1 q.2.2) x.scratch }), none)
  generalize lines = ls
  have hall : ∀ (ls : List (Nat × Nat × Nat)) (s : State), p ∈ s.pens.map Pen.id → (s.pen p).bad = [] →
      ls.foldl (fun (x : State × Option Nat) q =>
        let bad := x.1.poisoned (o.loc true q.1)
        let r := x.1.engWriteLine o true (bad && coversLine spans q.1) q.1 q.2.1 q.2.2
        (r.1, x.2.orElse (fun _ => r.2))) (s, none)
      = (s.updPen p (fun x => { x with scratch := ls.foldl (fun m q => Memory.store m q.1 q.2.1 q.2.2) x.scratch }), none) := by
    intro ls
    induction ls with
    | nil =>
      intro s _ _
      simp [State.updPen]
    | cons q ls ih =>
      intro s hp hbad
      have hl : o.loc true q.1 = .scr p q.1 := by rw [EngOp.loc, if_pos rfl, ho]; rfl
      have hpois : s.poisoned (.scr p q.1) = false := by rw [State.poisoned, hbad]; rfl
      have hline : s.engWriteLine o true (s.poisoned (.scr p q.1) && coversLine spans q.1) q.1 q.2.1 q.2.2
          = (s.writeLoc (.scr p q.1) q.2.1 q.2.2, none) := by
        simp only [State.engWriteLine, hl, State.gone, hpois, Bool.false_eq_true, if_false]
        rfl
      simp only [List.foldl_cons, hl, hline]
      show List.foldl _ (s.writeLoc (.scr p q.1) q.2.1 q.2.2, none) ls = _
      rw [ih (s.writeLoc (.scr p q.1) q.2.1 q.2.2)]
      · simp only [State.writeLoc, State.updPen, List.map_map]
        congr 2
        refine List.map_congr_left (fun x _ => ?_)
        simp only [Function.comp]
        by_cases hx : (x.id == p) = true
        · simp [hx]
        · simp [hx]
      · exact (State.updPen_ids (f := fun x => { x with scratch := Memory.store x.scratch q.1 q.2.1 q.2.2 }) (fun _ => rfl)).symm ▸ hp
      · rw [State.writeLoc, State.pen_updPen (f := fun x => { x with scratch := Memory.store x.scratch q.1 q.2.1 q.2.2 }) (fun _ => rfl) hp, if_pos rfl]
        exact hbad
  exact hall ls s hp hbad

end

theorem Thread.opDone_exited {op : Nat} {fail : Bool} {t : Thread} (h : t.status ≠ .exited) : (t.opDone op fail).status ≠ .exited := by
  have h1 : ∀ c : Bool, (if c then { t with engOps := t.engOps.filter (· != op), engFail := t.engFail || fail } else t).status = t.status := fun c => by
    cases c <;> rfl
  unfold Thread.opDone
  extract_lets t1
  have ht1 : t1.status = t.status := h1 _
  clear_value t1
  split
  · split
    · extract_lets rest
      split <;> exact Status.noConfusion
    · exact ht1 ▸ h
  · extract_lets rest
    split <;> exact Status.noConfusion
  · exact ht1 ▸ h

@[simp] theorem Thread.deliver_status (t : Thread) (op : Nat) (ws : List (Nat × Form)) : (t.deliver op ws).status = t.status := by
  unfold Thread.deliver
  split
  · rfl
  · extract_lets
    split <;> rfl

/-- A launch with a thread that has not ended in a pen of it does not finish. -/
theorem State.tryFinish_of_thread {s : State} {l : Nat} (h : ∃ g ∈ s.groups, g.pen ∈ s.pens.map Pen.id ∧ (s.pen g.pen).launch = l
    ∧ ∃ t ∈ g.threads, t.status ≠ .exited) : s.tryFinish l = s := by
  obtain ⟨g, hg, hpen, hl, t, ht, hst⟩ := h
  unfold State.tryFinish
  split
  · rfl
  · extract_lets mine
    have hmine : mine g.pen = true := by
      obtain ⟨p, hp, he⟩ := List.mem_map.mp hpen
      have hany : s.pens.any (fun x => x.id == g.pen) = true := List.any_eq_true.mpr ⟨p, hp, by simpa using he⟩
      show (_ && _) = true
      rw [hl, hany]; simp
    have halive : g.alive.isEmpty = false := by
      rw [List.isEmpty_eq_false_iff_exists_mem]
      exact ⟨t, List.mem_filter.mpr ⟨ht, by simpa using hst⟩⟩
    have hany : s.groups.any (fun g => mine g.pen && !g.alive.isEmpty) = true :=
      List.any_eq_true.mpr ⟨g, hg, by rw [hmine, halive]; rfl⟩
    rw [if_pos (by rw [hany, Bool.or_true])]

end Sys2Proof.Machine
end

section
namespace Sys2Proof.Machine
set_option Elab.async false

section
variable {s : State} {o : EngOp} {k : Copy} {p : Nat}

/-- The pen of a copy within its scratch, once it is complete. -/
def copyPen (o : EngOp) (k : Copy) (x : Pen) : Pen :=
  { x with scratch := (lineWrites k.dst.toNat k.len (o.data % 2 ^ (8 * k.len))).foldl (fun m q => Memory.store m q.1 q.2.1 q.2.2) x.scratch }

theorem State.engWrites_copy (hk : o.kind = .copy k) (h0 : k.kind = 0) (hr : k.ring = none) (hd : k.dstScr = true) (hc : o.cancelled = false)
    (ho : o.pen = some p) (hp : p ∈ s.pens.map Pen.id) (hbad : (s.pen p).bad = []) :
    s.engWrites o = (s.updPen p (copyPen o k), none) := by
  have hch : k.chunks = [(k.dst.toNat, k.src.toNat, k.len)] := by simp only [Copy.chunks, h0]
  simp only [State.engWrites, hc, hk, hr, hd, hch, Bool.false_and, Bool.false_eq_true, if_false, Option.isSome_none, List.foldl_cons,
    List.foldl_nil, List.nil_append, Nat.mul_zero, pow_zero, Nat.div_one]
  rw [State.engWrite_scratch ho hp hbad]
  simp only [List.flatMap_cons, List.flatMap_nil, List.append_nil]
  rfl

theorem State.completeOp_copy (hf : s.ops.find? (fun y => y.id == o.id) = some o) (hk : o.kind = .copy k) (h0 : k.kind = 0) (hr : k.ring = none)
    (hd : k.dstScr = true) (hdep : k.dep = 0) (hc : o.cancelled = false) (hb : o.bad = none) (ht : o.tile = none)
    (ho : o.pen = some p) (hp : p ∈ s.pens.map Pen.id) (hbad : (s.pen p).bad = []) :
    ∃ writes, s.completeOp o.id = { s with
      fresh := s.fresh + 1, pens := s.pens.map (fun x => if x.id = p then copyPen o k x else x)
      groups := s.groups.map (fun g => { g with threads := g.threads.map (fun t => (t.deliver o.id writes).opDone o.id false) })
      ops := s.ops.filter (fun q => q.id != o.id), conts := s.conts.map (fun c => { c with ops := c.ops.filter (· != o.id) }) } := by
  have hw := State.engWrites_copy hk h0 hr hd hc ho hp hbad
  refine ⟨match o.dest with | some d => [(d, Form.u (o.value s.fresh false))] | none => [], ?_⟩
  simp only [State.completeOp, hf, hw, hb, ht, ho, hc, hk, hdep, State.devDec]
  simp only [Option.orElse_none, Option.isSome_none, Bool.or_false, Bool.false_and, if_true]
  simp only [State.updPen, State.mapThreads, State.bump, List.map_map]
  congr 1
  refine List.map_congr_left (fun x _ => ?_)
  simp only [Function.comp]
  by_cases hx : x.id = p
  · simp [hx, copyPen]
  · simp [hx]

/-- The image of a saved pen takes what a copy within its scratch has read, at the copy's completion. -/
theorem savedImage_copied (hk : o.kind = .copy k) (h0 : k.kind = 0) (hr : k.ring = none)
    (hd : k.dstScr = true) (hdep : k.dep = 0) (ho : o.pen = some p) (hp : p ∈ s.pens.map Pen.id) (hbad : (s.pen p).bad = [])
    (hsaved : (s.pen p).saved = true) (hf : s.ops.find? (fun y => y.id == o.id) = some o) (hj : o.joint = none) (hm : s.memForm = true)
    (hst : o.started = true) (hc : o.cancelled = false) (hb : o.bad = none) (ht : o.tile = none)
    (hlive : ∃ g ∈ s.groups, g.pen ∈ s.pens.map Pen.id ∧ (s.pen g.pen).launch = o.launch ∧ ∃ t ∈ g.threads, t.status ≠ .exited) :
    ∃ u : State, exec (.savedImageCompletion o.id) s = .next u ∧ copied s u o k p := by
  obtain ⟨writes, hcomp⟩ := State.completeOp_copy hf hk h0 hr hd hdep hc hb ht ho hp hbad
  have hcan : s.canComplete o = true := by
    simp only [State.canComplete, hc, hk, hst, EngOp.finished, hr, Option.isNone_none, Bool.true_or, Bool.and_self, Bool.false_eq_true, if_false]
  have hdone : s.complete o.id = s.completeOp o.id := by
    simp only [State.complete, hf, hcan, hc, hk, State.jointOps, hj, Bool.not_true, Bool.false_eq_true, if_false, List.foldl_cons, List.foldl_nil]
    rfl
  have hpen : ∀ q, (s.completeOp o.id).pen q = if q = p then copyPen o k (s.pen q) else s.pen q := fun q => by
    rw [← State.pen_updPen (f := copyPen o k) (fun _ => rfl) hp, hcomp]
    simp only [State.pen, State.updPen, beq_iff_eq]
  have hids : (s.completeOp o.id).pens.map Pen.id = s.pens.map Pen.id := by
    rw [← State.updPen_ids (s := s) (p := p) (f := copyPen o k) (fun _ => rfl), hcomp]
    simp only [State.updPen, beq_iff_eq]
  have hfin : (s.completeOp o.id).tryFinish o.launch = s.completeOp o.id := by
    obtain ⟨g, hg, hgp, hgl, t, htg, hts⟩ := hlive
    refine State.tryFinish_of_thread
      ⟨{ g with threads := g.threads.map (fun t : Thread => (t.deliver o.id writes).opDone o.id false) }, ?_, ?_, ?_, ?_⟩
    · rw [hcomp]
      exact List.mem_map_of_mem (f := fun g : Group => { g with threads := g.threads.map (fun t : Thread => (t.deliver o.id writes).opDone o.id false) }) hg
    · rw [hids]; exact hgp
    · rw [hpen]
      split <;> exact hgl
    · exact ⟨_, List.mem_map_of_mem htg, Thread.opDone_exited (by rw [Thread.deliver_status]; exact hts)⟩
  have hsv : s.savedOp o.id = true := by
    have : s.ops.any (fun y => y.id == o.id && match y.pen with | some p => (s.pen p).saved | none => false) = true :=
      List.any_eq_true.mpr ⟨o, List.mem_of_find?_eq_some hf, by simp [ho, hsaved]⟩
    exact (Bool.or_eq_true ..).mpr (.inr this)
  have hexec : exec (.savedImageCompletion o.id) s = .next (s.completeOp o.id) := by
    show Host.Outcome.next _ = _
    rw [hsv, hf]
    show Host.Outcome.next ((s.complete o.id).tryFinish o.launch) = _
    rw [hdone, hfin]
  have hwf : Memory.wf (s.pen p).scratch = true := State.Formed.penScratch hm
  have hscr : ∀ b, Memory.get ((s.completeOp o.id).pen p).scratch b
      = Memory.get (Memory.store (s.pen p).scratch k.dst.toNat k.len (o.data % 2 ^ (8 * k.len))) b := fun b => by
    rw [hpen, if_pos rfl]
    exact Memory.get_storePieces hwf ..
  refine ⟨_, hexec, ?_, by rw [hcomp], ?_, fun b hb => ?_, ?_⟩
  · rw [hcomp]
    show o.id ∉ (s.ops.filter (fun q => q.id != o.id)).map EngOp.id
    simp
  · rw [Memory.load_congr _ _ (fun j _ => hscr _), Memory.store_mod, Memory.load_store hwf]
    rw [show (256 : Nat) ^ k.len = 2 ^ (8 * k.len) from (Nat.pow_mul 2 8 _).symm]
  · rw [hscr, Memory.get_store_outside hwf _ _ _ _ hb]
  · rw [hpen, if_pos rfl]; rfl

end

/-! ### Places -/

theorem saveAndRestore : Says.SaveAndRestore := by
  intro s pen p c team waiting away
  refine ⟨fun hsaved hcore => ?_, fun m yard hm hyard hserv hfits => ⟨?_, ?_⟩, ?_, ?_⟩
  · refine ⟨s.savedTeam (team.map Pen.id) waiting, ?_, State.savedTeam_bare, State.savedTeam_groups, State.savedTeam_ops, fun hw => ?_, ?_, ?_⟩
    · have hno : ((s.pen pen).saved || (s.pen pen).core.isNone) = false := by
        rw [Bool.or_eq_false_iff]
        exact ⟨hsaved, by rw [Option.isNone_eq_false_iff]; exact Option.isSome_iff_ne_none.mpr hcore⟩
      show Host.Outcome.next _ = _
      rw [hno, State.saveTeam_eq]
      rfl
    · rw [hw]
      exact State.savedTeam_none
    · exact State.unstaged_unbegun
    · exact State.savedTeam_listed
  · show Host.Outcome.next _ = _
    have hroom : (decide (36 ≤ yard) || !s.units.yards.getLsbD yard || !s.fits m (s.teamNeeds p.launch (p.vcore / c) yard)) = false := by
      rw [hserv, hfits, decide_eq_false (by omega)]
      rfl
    rw [hm]
    exact congrArg Host.Outcome.next (if_neg (Bool.eq_false_iff.mp hroom))
  · exact fun hn hh ht => State.placeTeam_pen hn hh ht
  · exact fun g t q hg hmem hres ht hl hq hops he hqu hw ho hcs hlo =>
      savedThread_delivers hg hmem hres ht hl hq hops he hqu hw ho hcs hlo
  · exact fun o k hk h0 hr _ hd hdep ho hp hbad hsaved hf hj hm hst hc hb ht hlive =>
      savedImage_copied hk h0 hr hd hdep ho hp hbad hsaved hf hj hm hst hc hb ht hlive

/-- Settles O57: the order in which members are tried, the saved team before it is listed, and the results that saved threads and
images take. -/
theorem placement : Obligations.Placement := ⟨memberPlaced, saveAndRestore, schedulerClocks⟩

end Sys2Proof.Machine
end

section
namespace Sys2Proof.Machine
set_option Elab.async false

/-! ### Packets (R326 to R330, R346) -/

theorem cpF_lt (p : BitVec 512) (hi lo : Nat) : cpF p hi lo < 2 ^ (hi + 1 - lo) := Nat.mod_lt _ (by positivity)

section
variable {s : State} {ctx : Nat} {queue slot : W64} {q : QView} {p : BitVec 512}

theorem State.peek_nonempty (h : s.peek ctx queue = some (q, p, slot)) : q.h.empty = false := by
  unfold State.peek at h
  split at h
  · exact nomatch h
  next q' _ =>
    split at h
    · exact nomatch h
    next he =>
      obtain ⟨rfl, -⟩ := Prod.mk.inj (Option.some.inj h)
      exact Bool.eq_false_iff.mpr he

theorem State.popFrom_some {c : Nat} {a : W64} (h : q.h.empty = false) : ∃ u pkt, s.popFrom c a q = some (u, pkt) := by
  unfold State.popFrom
  extract_lets pkt s1 pushers
  clear_value pushers
  rw [if_neg (Bool.eq_false_iff.mp h)]
  split
  · exact ⟨_, _, rfl⟩
  split
  · exact ⟨_, _, rfl⟩
  split
  · split <;> exact ⟨_, _, rfl⟩
  · exact ⟨_, _, rfl⟩

/-- The root's turn goes on from the dispatch queue whose packet is taken. -/
theorem State.takePacket_lastQueue (h : q.h.empty = false) (hq : queue ∈ (s.ctx ctx).dispatchQueues) :
    (s.takePacket ctx queue q).lastQueue = some (ctx, queue) := by
  obtain ⟨u, pkt, hu⟩ := State.popFrom_some (s := { s with actor := ctx }) (c := ctx) (a := queue) h
  have hc : (s.ctx ctx).dispatchQueues.contains queue = true := List.contains_iff_mem.mpr hq
  simp only [State.takePacket, State.actFor, hu, hc, if_true]

/-! ### The parts of an index range (R13, R328) -/

/-- Part j of n indices of which each part has `per`. -/
def partLen (n per j : Nat) : Nat := min ((j + 1) * per) n - j * per

theorem sum_parts (n per K : Nat) : (((List.range K).filter (fun j => j * per < n)).map (partLen n per)).sum = min (K * per) n := by
  induction K with
  | zero => simp
  | succ K ih =>
    rw [List.range_succ, List.filter_append, List.map_append, List.sum_append, ih]
    have hs : (K + 1) * per = K * per + per := Nat.succ_mul K per
    by_cases h : K * per < n
    · rw [List.filter_cons_of_pos (by simpa using h)]
      simp only [List.filter_nil, List.map_singleton, List.sum_singleton, partLen]
      omega
    · rw [List.filter_cons_of_neg (by simpa using h)]
      simp only [List.filter_nil, List.map_nil, List.sum_nil]
      omega

/-- The parts are all of the range. -/
theorem sum_parts_all {n np : Nat} (h : 0 < np) :
    (((List.range np).filter (fun j => j * ((n + np - 1) / np) < n)).map (partLen n ((n + np - 1) / np))).sum = n := by
  rw [sum_parts]
  have h1 := Nat.div_add_mod (n + np - 1) np
  have h2 := Nat.mod_lt (n + np - 1) h
  omega

end
end Sys2Proof.Machine
end

section
namespace Sys2Proof.Machine
set_option Elab.async false

section
variable {s : State} {ctx : Nat} {queue slot : W64} {q : QView} {p : BitVec 512}

theorem execLaunchPacket_launch (hpeek : s.peek ctx queue = some (q, p, slot)) (hmay : s.mayTake ctx queue false = true) (h1 : cpF p 7 0 = 1)
    (hok : s.launchOk ctx p (cpF p 95 64 + 1) = true) :
    exec (.launchPacket ctx queue) s = .next ((s.takePacket ctx queue q).createLaunch ctx p (cpF p 95 64 + 1) (cpF p 11 8)
      (BitVec.ofNat 64 (cpF p 255 192)) queue none none) := by
  show Host.Outcome.next _ = _
  rw [hmay, hpeek]
  simp only [h1, hok, Bool.not_true, Bool.false_eq_true, if_false, if_true]

theorem launchOk_yards {n : Nat} (h : s.launchOk ctx p n = true) : 0 < cpF p 22 20 := by
  simp only [State.launchOk, Bool.and_eq_true, decide_eq_true_eq] at h
  omega

theorem ofNat_field (hi lo : Nat) (h : hi + 1 - lo = 64) : (BitVec.ofNat 64 (cpF p hi lo)).toNat = cpF p hi lo :=
  (BitVec.toNat_ofNat ..).trans (Nat.mod_eq_of_lt (h ▸ cpF_lt p hi lo))

/-- A launch packet that passes the checks becomes a launch. -/
theorem launchPacket_creates (hpeek : s.peek ctx queue = some (q, p, slot)) (hmay : s.mayTake ctx queue false = true) (h1 : cpF p 7 0 = 1)
    (hok : s.launchOk ctx p (cpF p 95 64 + 1) = true) :
    let s1 := s.takePacket ctx queue q
    let n := cpF p 95 64 + 1
    let np := (cpF p 35 24 + 1) * cpF p 22 20
    let per := (n + np - 1) / np
    ∃ (u : State) (l : Launch) (k : Task) (ps : List Pen) (gs : List Group) (ms : List Member),
      exec (.launchPacket ctx queue) s = .next u
      ∧ u = { s1 with launches := s1.launches ++ [l], tasks := s1.tasks ++ [k], pens := s1.pens ++ ps, groups := s1.groups ++ gs,
                      members := s1.members ++ ms, fresh := u.fresh }
      ∧ l.ctx = ctx ∧ l.n = n ∧ l.entry.toNat = cpF p 191 128 ∧ l.yards = cpF p 35 24 + 1 ∧ l.c = cpF p 22 20
      ∧ l.regs = 16 * (cpF p 19 16 + 1) ∧ l.scr = 128 * cpF p 55 42 ∧ l.accn = cpF p 41 36 ∧ l.gp.toNat = cpF p 319 256
      ∧ l.stk.toNat = cpF p 383 320 ∧ l.z = (if cpF p 127 96 = 0 then 0x100000 else 16 * cpF p 127 96)
      ∧ l.karg.toNat = cpF p 255 192 ∧ l.dep.toNat = cpF p 511 448 ∧ l.prio = cpF p 11 8
      ∧ k.launch = l.id ∧ k.launchOwn = true
      ∧ ps.map Pen.vcore = List.range np
      ∧ (∀ y ∈ ps, y.launch = l.id ∧ y.scsz = l.scr ∧ y.accn = l.accn ∧ y.scratch = [] ∧ y.core = none ∧ y.saved = true)
      ∧ gs.flatMap (fun y => y.threads.map (fun t => (t.lo, t.n)))
          = ((List.range np).filter (fun j => j * per < n)).map (fun j => (j * per, min ((j + 1) * per) n - j * per))
      ∧ (gs.flatMap (fun y => y.threads.map Thread.n)).sum = n
      ∧ (∀ y ∈ gs, y.lanes = false ∧ y.place = .saved ∧ ∀ t ∈ y.threads, t.pc = l.entry ∧ t.hdr = l.entry ∧ t.task = k.id)
      ∧ ms.map Member.kind = (List.range l.yards).map (fun y => MemberKind.team l.id y) := by
  intro s1 n np per
  have hnp : 0 < np := Nat.mul_pos (Nat.succ_pos _) (launchOk_yards hok)
  refine ⟨_, _, _, _, _, _, execLaunchPacket_launch hpeek hmay h1 hok, rfl, rfl, rfl, ofNat_field 191 128 rfl, rfl, rfl, rfl, rfl, rfl,
    ofNat_field 319 256 rfl, ofNat_field 383 320 rfl, rfl, ofNat_field 255 192 rfl, ofNat_field 511 448 rfl, rfl, rfl, rfl, ?_, ?_, ?_, ?_, ?_, ?_⟩
  · exact List.map_map.trans (List.map_id _)
  · intro y hy
    obtain ⟨j, -, rfl⟩ := List.mem_map.mp hy
    exact ⟨rfl, rfl, rfl, rfl, rfl, rfl⟩
  · rw [List.flatMap_map]
    exact List.map_eq_flatMap.symm
  · rw [List.flatMap_map]
    exact (congrArg List.sum (List.map_eq_flatMap (f := partLen n per)).symm).trans (sum_parts_all hnp)
  · intro y hy
    obtain ⟨j, -, rfl⟩ := List.mem_map.mp hy
    refine ⟨rfl, rfl, fun t ht => ?_⟩
    rw [List.mem_singleton.mp ht]
    exact ⟨rfl, rfl, rfl⟩
  · exact List.map_map

theorem packetsTaken : Says.PacketsTaken := by
  intro s ctx queue slot q p hpeek s1
  refine ⟨fun hno => ?_, fun hq => State.takePacket_lastQueue (State.peek_nonempty hpeek) hq, ?_, ?_, ?_⟩
  · constructor
    · show Host.Outcome.next _ = _
      rw [hno]; rfl
    · show Host.Outcome.next _ = _
      rw [hno]; rfl
  · exact fun hmay h1 hok => launchPacket_creates hpeek hmay h1 hok
  · intro hmay h3 hz1 hz2 hal hroom a
    have ha : ¬ a.toNat % 128 ≠ 0 := by
      rw [ofNat_field 127 64 rfl]; exact not_not.mpr hal
    show Host.Outcome.next _ = _
    rw [hmay, hpeek]
    simp only [Bool.not_true, Bool.false_eq_true, if_false]
    rw [if_neg (not_not.mpr h3), if_neg (by rw [hz1, hz2]; simp), if_neg (Nat.not_le.mpr hroom), if_neg ha]
    rfl
  · intro k idx hmay h2 hkind hcopy hidx hcheck hroom
    show Host.Outcome.next _ = _
    rw [hmay, hpeek]
    simp only [Bool.not_true, Bool.false_eq_true, if_false]
    rw [if_pos ⟨h2, hkind⟩, hcopy]
    have hissue : s1.issueCopy ctx k p = some (s1.register
        { EngOp.blank with id := s1.fresh, kind := .copy { k with idx := idx }, ctx := ctx } ({ k with idx := idx } : Copy).ranges) := by
      simp only [State.issueCopy, hidx, hcheck, hroom, Bool.not_true, Bool.false_eq_true, if_false]
    exact congrArg (fun o : Option State => Host.Outcome.next (o.getD s)) hissue

end
end Sys2Proof.Machine
end

section
namespace Sys2Proof.Machine
set_option Elab.async false

section
variable {s : State}

/-! ### The end of tasks and launches (R66, R158, R323, R324) -/

theorem execTaskEnd_over {t : Task} (hf : s.tasks.find? (fun y => y.id == t.id) = some t) (hover : s.taskOver t.id = true) :
    exec (.taskEnd t.id) s = .next (s.endTask t) := by
  show Host.Outcome.next _ = _
  rw [hf, hover]
  rfl

theorem State.tryFinish_last {x : Launch} (hf : s.launches.find? (fun y => y.id == x.id) = some x)
    (htasks : ∀ t ∈ s.tasks, t.launch ≠ x.id) (hconts : x.conts = []) (hun : x.unplaced = [])
    (hops : ∀ o ∈ s.ops, ∀ p, o.pen = some p → (s.pen p).launch ≠ x.id)
    (hthreads : ∀ g ∈ s.groups, (s.pen g.pen).launch = x.id → ∀ t ∈ g.threads, t.status = .exited)
    (hpops : ∀ q ∈ s.lostPops, (s.pen q.pen).launch ≠ x.id) :
    ∃ u : State, s.tryFinish x.id = u.devDec x.ctx x.id x.dep ∧ u.mem = s.mem
      ∧ u.launches = s.launches.filter (fun y => y.id != x.id) ∧ u.pens = s.pens.filter (fun p => p.launch != x.id) := by
  have h1 : s.tasks.any (fun t => t.launch == x.id) = false := by simpa using htasks
  have h2 : s.ops.any (fun o => match o.pen with
      | some p => (s.pen p).launch == x.id && s.pens.any (fun y => y.id == p) | none => false) = false := by
    rw [List.any_eq_false]
    intro o ho
    cases hp : o.pen with
    | none => exact Bool.false_ne_true
    | some p => simp [hops o ho p hp]
  have h3 : s.lostPops.any (fun p => (s.pen p.pen).launch == x.id && s.pens.any (fun y => y.id == p.pen)) = false := by
    rw [List.any_eq_false]
    exact fun p hp => by simp [hpops p hp]
  have h4 : s.groups.any (fun g => ((s.pen g.pen).launch == x.id && s.pens.any (fun y => y.id == g.pen)) && !g.alive.isEmpty) = false := by
    rw [List.any_eq_false]
    intro g hg
    by_cases hl : (s.pen g.pen).launch = x.id
    · have ha : g.alive = [] := List.filter_eq_nil_iff.mpr (fun t ht => by simp [hthreads g hg hl t ht])
      simp [ha]
    · simp [hl]
  have hno : (s.tasks.any (fun t => t.launch == x.id) || !x.conts.isEmpty || !x.unplaced.isEmpty
      || s.ops.any (fun o => match o.pen with | some p => (s.pen p).launch == x.id && s.pens.any (fun y => y.id == p) | none => false)
      || s.lostPops.any (fun p => (s.pen p.pen).launch == x.id && s.pens.any (fun y => y.id == p.pen))
      || s.groups.any (fun g => ((s.pen g.pen).launch == x.id && s.pens.any (fun y => y.id == g.pen)) && !g.alive.isEmpty)) = false := by
    rw [h1, h2, h3, h4, hconts, hun]; rfl
  unfold State.tryFinish
  rw [hf]
  simp only []
  refine ⟨_, if_neg (Bool.eq_false_iff.mp hno), ?_⟩
  cases x.node with
  | none => exact ⟨rfl, rfl, rfl⟩
  | some r => exact ⟨rfl, rfl, rfl⟩

theorem State.tryFinish_waits {x : Launch} (hf : s.launches.find? (fun y => y.id == x.id) = some x)
    (h : (∃ t ∈ s.tasks, t.launch = x.id) ∨ x.conts ≠ [] ∨ x.unplaced ≠ []
      ∨ (∃ g ∈ s.groups, g.pen ∈ s.pens.map Pen.id ∧ (s.pen g.pen).launch = x.id ∧ ∃ t ∈ g.threads, t.status ≠ .exited)
      ∨ (∃ q ∈ s.lostPops, q.pen ∈ s.pens.map Pen.id ∧ (s.pen q.pen).launch = x.id)) : s.tryFinish x.id = s := by
  rcases h with h | h | h | h | h
  · exact State.tryFinish_of_task h
  · unfold State.tryFinish
    rw [hf]
    have : x.conts.isEmpty = false := by simpa using h
    simp [this]
  · unfold State.tryFinish
    rw [hf]
    have : x.unplaced.isEmpty = false := by simpa using h
    simp [this]
  · exact State.tryFinish_of_thread h
  · obtain ⟨q, hq, hpen, hl⟩ := h
    obtain ⟨p, hp, he⟩ := List.mem_map.mp hpen
    have hany : s.pens.any (fun x => x.id == q.pen) = true := List.any_eq_true.mpr ⟨p, hp, by simpa using he⟩
    have hpop : s.lostPops.any (fun p => (s.pen p.pen).launch == x.id && s.pens.any (fun y => y.id == p.pen)) = true :=
      List.any_eq_true.mpr ⟨q, hq, by rw [hl, hany]; simp⟩
    unfold State.tryFinish
    rw [hf]
    simp [hpop]

/-- A QPOP of an ended thread that has its packet is over. -/
theorem execMemoryOpCompletion_lost {q : LostPop} (hq : q ∈ s.lostPops) (hdone : q.done = true) (hone : ∀ y ∈ s.lostPops, y.op = q.op → y = q)
    (hops : ∀ o ∈ s.ops, o.id ≠ q.op) (hconts : ∀ k ∈ s.conts, ∀ y ∈ k.pops, y.1 ≠ q.op) :
    exec (.memoryOpCompletion q.op) s
      = .next (({ s with lostPops := s.lostPops.filter (fun y => y.op != q.op) } : State).tryFinish (s.pen q.pen).launch) := by
  have hfind : s.lostPops.find? (fun p => p.op == q.op) = some q := by
    cases hf : s.lostPops.find? (fun p => p.op == q.op) with
    | none => simpa using List.find?_eq_none.mp hf q hq
    | some y => exact congrArg some (hone y (List.mem_of_find?_eq_some hf) (by simpa using List.find?_some (p := fun p : LostPop => p.op == q.op) hf))
  have h1 : s.ops.any (fun o => o.id == q.op) = false := by simpa using hops
  have h2 : s.orphanPop q.op = none := by
    have hc : s.conts.findSome? (fun k => (k.pops.find? (fun p => p.1 == q.op)).map (fun p => (k.ctx, p.2))) = none :=
      List.findSome?_eq_none_iff.mpr (fun k hk => by
        rw [List.find?_eq_none.mpr (fun y hy => by simpa using hconts k hk y hy)]; rfl)
    have hl : s.lostPops.find? (fun p => p.op == q.op && !p.done) = none := List.find?_eq_none.mpr (fun y hy => by
      by_cases he : y.op = q.op
      · rw [hone y hy he, hdone]; simp
      · simp [he])
    rw [State.orphanPop, hc, hl]; rfl
  have h3 : s.lostPops.any (fun p => p.op == q.op) = true := List.any_eq_true.mpr ⟨q, hq, beq_self_eq_true _⟩
  have hc : s.memComplete q.op = { s with lostPops := s.lostPops.filter (fun y => y.op != q.op) } := by
    rw [State.memComplete, h1, h2, h3]; rfl
  show Host.Outcome.next _ = _
  rw [hfind]
  show Host.Outcome.next ((s.memComplete q.op).tryFinish _) = _
  rw [hc]

/-! ### Staging (R357, R358) -/

theorem State.task_of_decls {k : Nat} (h : (s.task k).decls ≠ []) : s.tasks.find? (fun t => t.id == k) = some (s.task k) := by
  unfold State.task at h ⊢
  cases hf : s.tasks.find? (fun t => t.id == k) with
  | none => rw [hf] at h; exact absurd rfl h
  | some t => rfl

theorem State.task_updTask {k : Nat} {f : Task → Task} (hid : ∀ t, (f t).id = t.id) {t : Task}
    (hf : s.tasks.find? (fun t => t.id == k) = some t) : (s.updTask k f).task k = f t := by
  have hc : ((fun x : Task => x.id == k) ∘ fun x => if x.id == k then f x else x) = fun x => x.id == k := by
    funext x; simp only [Function.comp]; split <;> simp [hid]
  have ht : (t.id == k) = true := List.find?_some (p := fun x : Task => x.id == k) hf
  unfold State.task State.updTask
  simp only [List.find?_map, hc, hf, Option.map_some, Option.getD_some, ht, if_true]

/-- The staging of a task has begun. -/
def Task.begin (t : Task) (die : Nat) (k : Task) : Task := { k with begun := true, home := some (t.home.getD die) }

/-- The one declaration of a ready task is staged once its bytes fit. -/
theorem execStagingTransfer_one {task pen : Nat} {d : Decl} (hdecls : (s.task task).decls = [d]) (hbegun : (s.task task).begun = false)
    (hjobs : (s.task task).jobs = []) (hpens : s.taskPens (s.task task) = [pen])
    (hfits : s.stageFits (s.launch (s.task task).launch).ctx (declLen d.word) = true) (hroom : s.rangeRoom (declRanges d) = true) :
    let t := s.task task
    let c := (s.launch t.launch).ctx
    exec (.stagingTransfer task) s = .next
      (((s.updTask task (t.begin (s.homeDie c [pen]))).stageOne c (t.begin (s.homeDie c [pen]) t) (t.home.getD (s.homeDie c [pen])) pen d).updTask
        task (fun k => { k with jobs := [] })) := by
  intro t c
  have hf := State.task_of_decls (s := s) (k := task) (by rw [hdecls]; exact List.cons_ne_nil _ _)
  have ht := State.task_updTask (s := s) (f := t.begin (s.homeDie c [pen])) (fun _ => rfl) hf
  have hone : (if declScr d.word then [pen] else [pen].take 1) = [pen] := by split <;> rfl
  have hj : t.decls.flatMap (fun d => (if declScr d.word then s.taskPens t else (s.taskPens t).take 1).map (fun p => (d, p))) = [(d, pen)] := by
    rw [show t.decls = [d] from hdecls, show s.taskPens t = [pen] from hpens, List.flatMap_cons, hone]
    rfl
  have hno : (t.decls.isEmpty || t.begun || (s.taskPens t).isEmpty || !s.stageFits c (([(d, pen)].map (fun j => j.1.bytes)).sum)) = false := by
    rw [show t.decls = [d] from hdecls, show t.begun = false from hbegun, show s.taskPens t = [pen] from hpens]
    show (!s.stageFits c (declLen d.word + 0)) = false
    rw [Nat.add_zero]
    exact congrArg not hfits
  have hroom' : (s.updTask task (t.begin (s.homeDie c [pen]))).rangeRoom (declRanges d) = true := hroom
  have hstage : (s.updTask task (t.begin (s.homeDie c [pen]))).stageJobs c task [(d, pen)]
      = ((s.updTask task (t.begin (s.homeDie c [pen]))).stageOne c (t.begin (s.homeDie c [pen]) t) (t.home.getD (s.homeDie c [pen])) pen d).updTask
        task (fun k => { k with jobs := [] }) := by
    rw [State.stageJobs, hroom', ht]
    rfl
  have hend : exec (.stagingTransfer task) s = .next (if !t.jobs.isEmpty then s.stageJobs c task t.jobs
      else if t.decls.isEmpty || t.begun || (s.taskPens t).isEmpty || !s.stageFits c (([(d, pen)].map (fun j => j.1.bytes)).sum) then s
      else (s.updTask task (fun k => { k with begun := true, home := some (t.home.getD (s.homeDie c (s.taskPens t))) })).stageJobs c task [(d, pen)]) := by
    rw [← hj]
    rfl
  rw [hend, show t.jobs = [] from hjobs, hno, show s.taskPens t = [pen] from hpens, ← hstage]
  rfl

end
end Sys2Proof.Machine
end

section
namespace Sys2Proof.Machine
set_option Elab.async false

section
variable {s : State}

theorem State.task_id {k : Nat} {t : Task} (hf : s.tasks.find? (fun t => t.id == k) = some t) : t.id = k := by
  simpa using List.find?_some (p := fun t : Task => t.id == k) hf

/-- What a task becomes when its one declaration, bound for scratch, is staged. -/
def Task.staging (home n : Nat) (k : Task) : Task := { k with begun := true, home := some home, jobs := [], scrStaged := k.scrStaged + n }

theorem stagingTransfer_scratch {task pen : Nat} {d : Decl} (hdecls : (s.task task).decls = [d]) (hbegun : (s.task task).begun = false)
    (hjobs : (s.task task).jobs = []) (hpens : s.taskPens (s.task task) = [pen])
    (hfits : s.stageFits (s.launch (s.task task).launch).ctx (declLen d.word) = true) (hroom : s.rangeRoom (declRanges d) = true)
    (hscr : declScr d.word = true) (hcheck : s.engCheck pen (s.launch (s.task task).launch).ctx (declRanges d) = .ok ()) :
    let t := s.task task
    let c := (s.launch t.launch).ctx
    let n := if (s.ctx c).budget = 0 then 0 else declLen d.word
    ∃ u : State, exec (.stagingTransfer task) s = .next u
      ∧ u.tasks = s.tasks.map (fun k => if k.id = task then k.staging (t.home.getD (s.homeDie c [pen])) n else k)
      ∧ u.ops = (s.register { EngOp.blank with id := s.fresh, kind := .stage d, ctx := c, launch := t.launch, pen := some pen,
                                               task := some t.id } (declRanges d)).ops
      ∧ u = { s with ops := u.ops, tasks := u.tasks, ctxs := u.ctxs, fresh := u.fresh } := by
  intro t c n
  have hid : t.id = task := State.task_id (State.task_of_decls (s := s) (k := task) (by rw [hdecls]; exact List.cons_ne_nil _ _))
  have hone : (s.updTask task (t.begin (s.homeDie c [pen]))).stageOne c (t.begin (s.homeDie c [pen]) t) (t.home.getD (s.homeDie c [pen])) pen d
      = (((s.updTask task (t.begin (s.homeDie c [pen]))).register
          { EngOp.blank with id := s.fresh, kind := .stage d, ctx := c, launch := t.launch, pen := some pen, task := some t.id } (declRanges d)).updCtx c
          (fun x => { x with staged := x.staged + n })).updTask t.id (fun k => { k with scrStaged := k.scrStaged + n }) := by
    have hcheck' : (s.updTask task (t.begin (s.homeDie c [pen]))).engCheck pen c (declRanges d) = .ok () := hcheck
    simp only [State.stageOne, hscr, hcheck', Bool.not_true, Bool.false_and, Bool.false_eq_true, if_false]
    rfl
  refine ⟨_, (execStagingTransfer_one hdecls hbegun hjobs hpens hfits hroom).trans (congrArg (fun x : State => Host.Outcome.next (x.updTask task _)) hone),
    ?_, rfl, rfl⟩
  show (((s.tasks.map _).map _).map _) = _
  rw [List.map_map, List.map_map]
  refine List.map_congr_left (fun k _ => ?_)
  simp only [Function.comp, hid]
  by_cases hk : k.id = task
  · simp [hk, Task.begin, Task.staging]
  · simp [hk]

/-- A declaration bound for the shed is dropped where the budget is 0. -/
theorem stagingTransfer_dropped {task pen : Nat} {d : Decl} (hdecls : (s.task task).decls = [d]) (hbegun : (s.task task).begun = false)
    (hjobs : (s.task task).jobs = []) (hpens : s.taskPens (s.task task) = [pen])
    (hfits : s.stageFits (s.launch (s.task task).launch).ctx (declLen d.word) = true) (hroom : s.rangeRoom (declRanges d) = true)
    (hscr : declScr d.word = false) (hbudget : (s.ctx (s.launch (s.task task).launch).ctx).budget = 0) :
    let t := s.task task
    let c := (s.launch t.launch).ctx
    exec (.stagingTransfer task) s = .next { s with
      tasks := s.tasks.map (fun k => if k.id = task then { k with begun := true, home := some (t.home.getD (s.homeDie c [pen])), jobs := [] } else k) } := by
  intro t c
  have hone : (s.updTask task (t.begin (s.homeDie c [pen]))).stageOne c (t.begin (s.homeDie c [pen]) t) (t.home.getD (s.homeDie c [pen])) pen d
      = s.updTask task (t.begin (s.homeDie c [pen])) := by
    have hb : ((s.updTask task (t.begin (s.homeDie c [pen]))).ctx c).budget = 0 := hbudget
    simp only [State.stageOne, hscr, hb, Bool.not_false, beq_self_eq_true, Bool.true_or, Bool.and_self, if_true]
  rw [execStagingTransfer_one hdecls hbegun hjobs hpens hfits hroom, hone]
  simp only [State.updTask, List.map_map]
  congr 2
  refine List.map_congr_left (fun k _ => ?_)
  simp only [Function.comp]
  by_cases hk : k.id = task
  · simp [hk, Task.begin]
  · simp [hk]

end

theorem tasksEnd : Says.TasksEnd := by
  refine ⟨?_, fun s x hf ht hc hu ho hg hp => State.tryFinish_last hf ht hc hu ho hg hp, fun s x hf h => State.tryFinish_waits hf h,
    fun s q hq hd h1 ho hc => execMemoryOpCompletion_lost hq hd h1 ho hc, ?_⟩
  · intro s t hf hover c without u
    rw [execTaskEnd_over hf hover]
    refine ⟨fun hk hc => ?_, fun hk hc => ?_, fun hk => ?_⟩
    · simp only [State.endTask, hk, hc, Bool.false_and, Bool.false_eq_true, if_false]
      rfl
    · simp only [State.endTask, hk, hc, Bool.not_false, Bool.and_self, Bool.false_eq_true, if_false, if_true]
      rfl
    · simp only [State.endTask, hk, Bool.not_true, Bool.and_false, Bool.false_eq_true, if_false, if_true]
      rfl
  · intro s task pen d t c hd hb hj hp hf hr die
    exact ⟨fun hs hc => stagingTransfer_scratch hd hb hj hp hf hr hs hc, fun hs hb0 => stagingTransfer_dropped hd hb hj hp hf hr hs hb0⟩

/-- Settles O56: the packet at the head of a queue by its type, and what the end of a task and of a launch waits for. -/
theorem launchesAndTasks : Obligations.LaunchesAndTasks := ⟨packetsTaken, tasksEnd⟩

end Sys2Proof.Machine
end

section
namespace Sys2Proof.Machine
set_option Elab.async false

/-! ### Two groups of one number (log 24)

`Says.UnassignedWordParks` speaks of the group that stands first under the issuer's number. Nothing says that it is the only one.
In the state below a strand issues the word; a second group of its number, saved, waits at a SPLICE for its lower sibling, which
waits there too. When the word has parked the strand the two siblings merge, and every group of the upper one's number is
removed, the parked strand among them. -/

/-- A clause of one SPLICE, as a thread that waits there keeps it. -/
def spliceKept : Fetched := ⟨0x1000, fetchHeader, [(encode (.splice ⟨.always, ⟨.g, 1⟩, ⟨.g, 2⟩, 0⟩)).getD 0], false⟩

/-- A saved strand of one index that waits at the SPLICE, with one splice record. -/
def waitingStrand (id lo lane : Nat) : Group :=
  { newGroup id 1 false [{ fetchThread 0 with
      lo := lo, lane := lane, status := .splice 0 0, splices := [⟨1, 0⟩], kept := some spliceKept,
      regs := { fill := 0, cells := [] } }] with place := .saved }

/-- The strand of group 1 stands at its word; the siblings wait in another group of number 1, and in group 2. -/
def twinState : State :=
  { State.reset.placeWord 0 with
    cur := some 1, groups := [fetchGroup 0 0, waitingStrand 1 1 5, waitingStrand 2 0 0] }

theorem twinState_issues : Issues twinState (fetchGroup 0 0) (fetchRun 0) (fetchThread 0) :=
  ⟨rfl, rfl, rfl, fun _ => rfl, fun h => nomatch h⟩

/-- After the word no group of number 1 is left. -/
theorem twinState_loses : ∀ u, exec (.unassignedOpcode 0) twinState = .next u → (u.group 1).threads = [] := by
  have h : (match exec (.unassignedOpcode 0) twinState with | .next u => (u.group 1).threads | _ => []) = [] := by decide +kernel
  intro u hu
  rw [hu] at h
  exact h

theorem not_unassignedWordParks : ¬ Says.UnassignedWordParks := by
  intro h
  obtain ⟨u, p, hu, -, -, -, -, hthreads⟩ := h twinState (fetchGroup 0 0) (fetchRun 0) (fetchThread 0) 0 rfl twinState_issues
    (by decide) (by decide)
  exact absurd ((twinState_loses u hu).symm.trans hthreads) (List.cons_ne_nil _ _).symm

/-- Refutes O54: of two groups of one number, the one at an unassigned word is lost where the other merges at a SPLICE. -/
theorem not_clauseBoundaries : ¬ Obligations.ClauseBoundaries := by
  rintro ⟨-, -, -, -, h, -⟩
  exact not_unassignedWordParks h

end Sys2Proof.Machine
end

section
namespace Sys2Proof.Machine
set_option Elab.async false

/-! ### Numbers made of fields

A record is one number; its fields are laid out from bit 0 up, each with its width. -/

/-- The number of the fields given as width and value, the lowest first. -/
def packFields : List (Nat × Nat) → Nat
  | [] => 0
  | f :: l => f.2 + 2 ^ f.1 * packFields l

def fieldsWidth (l : List (Nat × Nat)) : Nat := (l.map Prod.fst).sum

theorem fieldsWidth_cons (f : Nat × Nat) (l : List (Nat × Nat)) : fieldsWidth (f :: l) = f.1 + fieldsWidth l := by
  rw [fieldsWidth, List.map_cons, List.sum_cons]; rfl

/-- Every field holds its value. -/
def FieldsFit (l : List (Nat × Nat)) : Prop := ∀ f ∈ l, f.2 < 2 ^ f.1

theorem packFields_append (a b : List (Nat × Nat)) : packFields (a ++ b) = packFields a + 2 ^ fieldsWidth a * packFields b := by
  induction a with
  | nil => simp [packFields, fieldsWidth]
  | cons f a ih =>
    rw [List.cons_append, packFields, packFields, ih, fieldsWidth_cons, pow_add]
    ring

theorem packFields_lt {l : List (Nat × Nat)} (h : FieldsFit l) : packFields l < 2 ^ fieldsWidth l := by
  induction l with
  | nil => exact Nat.one_pos
  | cons f l ih =>
    obtain ⟨hf, hl⟩ := List.forall_mem_cons.mp h
    have := ih hl
    rw [packFields, fieldsWidth_cons, pow_add]
    calc f.2 + 2 ^ f.1 * packFields l < 2 ^ f.1 + 2 ^ f.1 * packFields l := by omega
      _ = 2 ^ f.1 * (packFields l + 1) := by ring
      _ ≤ 2 ^ f.1 * 2 ^ fieldsWidth l := Nat.mul_le_mul_left _ this

theorem add_mul_div_mod {a b v c k w : Nat} (ha : a < 2 ^ k) (hv : v < 2 ^ w) (hb : b = a + 2 ^ k * (v + 2 ^ w * c)) : b / 2 ^ k % 2 ^ w = v := by
  rw [hb, Nat.add_mul_div_left _ _ (by positivity), Nat.div_eq_of_lt ha, Nat.zero_add, Nat.add_mul_mod_self_left, Nat.mod_eq_of_lt hv]

/-- Each field can be read where it lies. -/
theorem packFields_field {a b : List (Nat × Nat)} {f : Nat × Nat} (ha : FieldsFit a) (hf : f.2 < 2 ^ f.1) :
    packFields (a ++ f :: b) / 2 ^ fieldsWidth a % 2 ^ f.1 = f.2 :=
  add_mul_div_mod (packFields_lt ha) hf (packFields_append ..)

/-- A part of a field. -/
theorem subField {x V i w W : Nat} (o : Nat) (h : x / 2 ^ o % 2 ^ W = V) (hw : i + w ≤ W) : x / 2 ^ (o + i) % 2 ^ w = V / 2 ^ i % 2 ^ w := by
  obtain ⟨d, rfl⟩ := Nat.exists_eq_add_of_le hw
  rw [← h, pow_add 2 o i, ← Nat.div_div_eq_div_mul, pow_add, pow_add, mul_assoc, Nat.mod_mul_right_div_self, Nat.mod_mul_right_mod]

/-- The same fields of width w, one for each number below n. -/
def packRange (w n : Nat) (v : Nat → Nat) : Nat := ((List.range n).map (fun k => v k * 2 ^ (w * k))).sum

theorem packRange_succ (w n : Nat) (v : Nat → Nat) : packRange w (n + 1) v = packRange w n v + v n * 2 ^ (w * n) := by
  simp [packRange, List.range_succ]

section
variable {w n : Nat} {v : Nat → Nat}

theorem packRange_lt (h : ∀ k < n, v k < 2 ^ w) : packRange w n v < 2 ^ (w * n) := by
  induction n with
  | zero => exact Nat.one_pos
  | succ n ih =>
    have h1 := ih (fun k hk => h k (by omega))
    have h2 := h n (by omega)
    rw [packRange_succ, Nat.mul_succ, pow_add]
    calc packRange w n v + v n * 2 ^ (w * n) < 2 ^ (w * n) + v n * 2 ^ (w * n) := by omega
      _ = 2 ^ (w * n) * (v n + 1) := by ring
      _ ≤ 2 ^ (w * n) * 2 ^ w := Nat.mul_le_mul_left _ h2

theorem packRange_field (h : ∀ k < n, v k < 2 ^ w) {k : Nat} (hk : k < n) : packRange w n v / 2 ^ (w * k) % 2 ^ w = v k := by
  induction n with
  | zero => omega
  | succ n ih =>
    rw [packRange_succ]
    rcases Nat.lt_succ_iff_lt_or_eq.mp hk with hlt | rfl
    · obtain ⟨d, rfl⟩ := Nat.exists_eq_add_of_lt hlt
      have he : v (k + d + 1) * 2 ^ (w * (k + d + 1)) = 2 ^ (w * k) * (2 ^ w * (v (k + d + 1) * 2 ^ (w * d))) := by
        rw [show w * (k + d + 1) = w * k + w + w * d by ring, pow_add, pow_add]; ring
      rw [he, Nat.add_mul_div_left _ _ (by positivity), Nat.add_mul_mod_self_left]
      exact ih (fun j hj => h j (by omega)) (by omega)
    · exact add_mul_div_mod (c := 0) (packRange_lt (fun j hj => h j (by omega))) (h k hk) (by ring)

end

/-- A list mapped, split at one of its elements. -/
theorem map_split {α β : Type} (f : α → β) {l : List α} {i : Nat} (hi : i < l.length) :
    l.map f = (l.take i).map f ++ f l[i] :: (l.drop (i + 1)).map f := by
  rw [← List.map_cons, ← List.map_append, List.getElem_cons_drop, List.take_append_drop]

theorem pack_eq (w : Nat) (l : List Nat) : pack w l = packFields (l.map (fun x => (w, x % 2 ^ w))) := by
  induction l with
  | nil => rfl
  | cons x l ih => rw [pack, ih]; rfl

theorem pack_fit (w : Nat) (l : List Nat) : FieldsFit (l.map (fun x => (w, x % 2 ^ w))) := by
  intro f hf
  obtain ⟨x, -, rfl⟩ := List.mem_map.mp hf
  exact Nat.mod_lt _ (by positivity)

theorem pack_width (w : Nat) (l : List Nat) : fieldsWidth (l.map (fun x => (w, x % 2 ^ w))) = w * l.length := by
  rw [fieldsWidth, List.map_map]
  show (l.map (fun _ => w)).sum = _
  rw [List.map_const', List.sum_replicate, smul_eq_mul, Nat.mul_comm]

theorem pack_lt (w : Nat) (l : List Nat) : pack w l < 2 ^ (w * l.length) := by
  rw [pack_eq, ← pack_width]
  exact packFields_lt (pack_fit w l)

theorem pack_elem {w : Nat} {l : List Nat} {k : Nat} (hk : k < l.length) : pack w l / 2 ^ (w * k) % 2 ^ w = l[k] % 2 ^ w := by
  have hwid : fieldsWidth ((l.take k).map (fun x => (w, x % 2 ^ w))) = w * k := by
    rw [pack_width, List.length_take, Nat.min_eq_left (Nat.le_of_lt hk)]
  rw [pack_eq, map_split _ hk, ← hwid]
  exact packFields_field (f := (w, l[k] % 2 ^ w)) (pack_fit w _) (Nat.mod_lt _ (by positivity))

/-- A sum over the numbers of a list without repetition, each below n, is one over all numbers below n. -/
theorem sum_map_mem {n : Nat} {ls : List Nat} (hn : ls.Nodup) (hlt : ∀ k ∈ ls, k < n) (f : Nat → Nat) :
    (ls.map f).sum = ((List.range n).map (fun k => if k ∈ ls then f k else 0)).sum := by
  have hperm : ls.Perm ((List.range n).filter (fun k => k ∈ ls)) := by
    refine (List.perm_ext_iff_of_nodup hn (List.nodup_range.filter _)).mpr (fun k => ?_)
    rw [List.mem_filter, List.mem_range, decide_eq_true_eq]
    exact ⟨fun h => ⟨hlt k h, h⟩, fun h => h.2⟩
  have hsum : ∀ l : List Nat, ((l.filter (fun k => k ∈ ls)).map f).sum = (l.map (fun k => if k ∈ ls then f k else 0)).sum := by
    intro l
    induction l with
    | nil => rfl
    | cons k l ih =>
      by_cases hk : k ∈ ls
      · rw [List.filter_cons_of_pos (by simpa using hk), List.map_cons, List.sum_cons, List.map_cons, List.sum_cons, ih, if_pos hk]
      · rw [List.filter_cons_of_neg (by simpa using hk), List.map_cons, List.sum_cons, ih, if_neg hk, Nat.zero_add]
  rw [(hperm.map f).sum_eq, hsum]

/-- Fields of width w at some of the numbers below n; the others are 0. -/
theorem sum_fields {n w : Nat} {ls : List Nat} (hn : ls.Nodup) (hlt : ∀ k ∈ ls, k < n) (v : Nat → Nat) :
    (ls.map (fun k => v k * 2 ^ (w * k))).sum = packRange w n (fun k => if k ∈ ls then v k else 0) := by
  rw [sum_map_mem hn hlt, packRange]
  congr 1
  refine List.map_congr_left (fun k _ => ?_)
  split
  · rfl
  · exact (Nat.zero_mul _).symm

end Sys2Proof.Machine
end

section
namespace Sys2Proof.Machine
set_option Elab.async false

/-! ### The slots of a continuation record (R51, log 28) -/

/-- The body of a slot fits its bytes, and its code tells their number. -/
def SlotFits (form V len : Nat) : Prop := form < 3 ∧ len = slotLen form ∧ V < 2 ^ (8 * len)

theorem slotFits_short {form V : Nat} (hf : form < 2) (hV : V < 2 ^ 128) : SlotFits form V 16 :=
  ⟨by omega, (if_neg (by omega)).symm, hV⟩

theorem affineBody_lt (b st : W64) : b.toNat + 2 ^ 64 * st.toNat < 2 ^ 128 := by
  have := b.isLt; have := st.isLt; omega

theorem word_lt (v : W64) : v.toNat < 2 ^ 128 := v.isLt.trans_le (Nat.pow_le_pow_right (by omega) (by omega))

theorem strandSlot_fits (f : Form) : SlotFits (strandSlot f).1 (strandSlot f).2 16 := by
  cases f with
  | u v => exact slotFits_short Nat.two_pos (word_lt v)
  | a b st => exact slotFits_short Nat.one_lt_two (affineBody_lt b st)

/-- The value of lane k in a slot of a code, as a resumed thread reads it (R53). -/
def laneValue (form V k : Nat) : W64 :=
  match form with
  | 0 => BitVec.ofNat 64 (V % 2 ^ 64)
  | 1 => BitVec.ofNat 64 (V % 2 ^ 64 + V / 2 ^ 64 % 2 ^ 64 * k)
  | _ => BitVec.ofNat 64 (V / 2 ^ (64 * k) % 2 ^ 64)

theorem ofNat_word (v : W64) : BitVec.ofNat 64 v.toNat = v :=
  BitVec.eq_of_toNat_eq ((BitVec.toNat_ofNat ..).trans (Nat.mod_eq_of_lt v.isLt))

theorem laneValue_uniform (v : W64) (k : Nat) : laneValue 0 v.toNat k = v := by
  rw [laneValue, Nat.mod_eq_of_lt v.isLt, ofNat_word]

theorem laneValue_affine (b st : W64) (k : Nat) : laneValue 1 (b.toNat + 2 ^ 64 * st.toNat) k = b + st * BitVec.ofNat 64 k := by
  have h1 : (b.toNat + 2 ^ 64 * st.toNat) % 2 ^ 64 = b.toNat := by have := b.isLt; omega
  have h2 : (b.toNat + 2 ^ 64 * st.toNat) / 2 ^ 64 % 2 ^ 64 = st.toNat := by have := b.isLt; have := st.isLt; omega
  rw [laneValue, h1, h2]
  apply BitVec.eq_of_toNat_eq
  simp [BitVec.toNat_add, BitVec.toNat_mul, Nat.add_mod, Nat.mul_mod]

/-- The values of the lanes, one after another, as the longest code holds them. -/
def laneWords (seed : Nat) (vs : List (Nat × W64)) : List Nat :=
  (List.range 64).map (fun k => match vs.find? (fun p => p.1 == k) with | some p => p.2.toNat | none => (Config.freeReg seed k).toNat)

theorem laneWords_value {seed : Nat} {vs : List (Nat × W64)} (hn : (vs.map Prod.fst).Nodup) {k : Nat} {v : W64} (hv : (k, v) ∈ vs) (hk : k < 64) :
    laneValue 2 (pack 64 (laneWords seed vs)) k = v := by
  have hlen : k < (laneWords seed vs).length := by simpa [laneWords] using hk
  have hfind : vs.find? (fun p => p.1 == k) = some (k, v) := by
    cases hf : vs.find? (fun p => p.1 == k) with
    | none => simpa using List.find?_eq_none.mp hf (k, v) hv
    | some p =>
      have hp : p.1 = k := by simpa using List.find?_some (p := fun p : Nat × W64 => p.1 == k) hf
      exact congrArg some (List.inj_on_of_nodup_map hn (List.mem_of_find?_eq_some hf) hv hp)
  have hget : (laneWords seed vs)[k] = v.toNat := by
    simp only [laneWords, List.getElem_map, List.getElem_range, hfind]
  rw [laneValue, pack_elem hlen, hget, Nat.mod_eq_of_lt v.isLt]
  · exact ofNat_word v
  · exact nofun
  · exact nofun

/-- Whichever code a slot of lanes has, it fits, and a lane of it takes the value that it had. -/
theorem laneSlot_spec (seed : Nat) (vs : List (Nat × W64)) (hn : (vs.map Prod.fst).Nodup) (hlt : ∀ p ∈ vs, p.1 < 64) :
    SlotFits (laneSlot seed vs).1 (laneSlot seed vs).2.1 (laneSlot seed vs).2.2
      ∧ ∀ p ∈ vs, laneValue (laneSlot seed vs).1 (laneSlot seed vs).2.1 p.1 = p.2 := by
  unfold laneSlot
  split
  · exact ⟨slotFits_short Nat.two_pos (by positivity), nofun⟩
  next l0 v0 rest =>
    split
    next hall =>
      refine ⟨slotFits_short Nat.two_pos (word_lt v0), fun p hp => ?_⟩
      have hpv : p.2 = v0 := by
        rcases List.mem_cons.mp hp with rfl | hp
        · rfl
        · simpa using List.all_eq_true.mp hall p hp
      rw [hpv]
      exact laneValue_uniform v0 p.1
    · extract_lets st b
      split
      next hall =>
        refine ⟨slotFits_short Nat.one_lt_two (affineBody_lt b st), fun p hp => ?_⟩
        have hpv : p.2 = b + st * BitVec.ofNat 64 p.1 := by simpa using List.all_eq_true.mp hall p hp
        rw [hpv]
        exact laneValue_affine b st p.1
      · refine ⟨⟨Nat.lt_succ_self 2, rfl, ?_⟩, fun p hp => ?_⟩
        · have := pack_lt 64 (laneWords seed ((l0, v0) :: rest))
          rwa [show (laneWords seed ((l0, v0) :: rest)).length = 64 by simp [laneWords]] at this
        · exact laneWords_value hn hp (hlt p hp)

/-! ### The registers that CONT saves (R370) -/

/-- The positions of the registers that CONT saves. -/
def savedAt (x : FmtI) : List Nat := (List.range 16).filter (fun k => x.imm.getLsbD k)
/-- The register at a position. -/
def savedReg (x : FmtI) (k : Nat) : Nat := 16 * (x.imm.toNat / 0x10000 % 16) + k

theorem contRegs_eq (x : FmtI) : contRegs x = (savedAt x).map (fun k => (k, savedReg x k)) := by
  have h : ∀ l : List Nat, l.filterMap (fun k => if x.imm.getLsbD k then some (k, savedReg x k) else none)
      = (l.filter (fun k => x.imm.getLsbD k)).map (fun k => (k, savedReg x k)) := by
    intro l
    induction l with
    | nil => rfl
    | cons k l ih => cases hk : x.imm.getLsbD k <;> simp [hk, ih]
  exact h _

theorem savedAt_nodup (x : FmtI) : (savedAt x).Nodup := List.nodup_range.filter _
theorem savedAt_lt {x : FmtI} {k : Nat} (h : k ∈ savedAt x) : k < 16 := List.mem_range.mp (List.mem_of_mem_filter h)
theorem savedReg_lt {x : FmtI} {k : Nat} (h : k < 16) : savedReg x k < 256 := by unfold savedReg; omega

theorem saved_testBit (x : FmtI) {k : Nat} (h : k < 16) : (bits x.imm 15 0).toNat.testBit k = x.imm.getLsbD k := by
  rw [← BitVec.getLsbD, bits, BitVec.getLsbD_extractLsb]
  simp only [Nat.zero_add, Bool.and_eq_right_iff_imp, decide_eq_true_eq]
  omega

theorem savedAt_bits (x : FmtI) : (List.range 16).filter (fun k => (bits x.imm 15 0).toNat.testBit k) = savedAt x :=
  List.filter_congr (fun _ hk => saved_testBit x (List.mem_range.mp hk))

/-! ### The head of a record (R52) -/

/-- The fields of a record's head. -/
def contFields (pc lmask launch lo nm1 saved kind regs forms ctx dep : Nat) : List (Nat × Nat) :=
  [(64, pc), (64, lmask), (32, launch), (32, lo), (32, nm1), (16, saved), (16, kind), (128, regs), (32, forms), (32, ctx), (64, dep)]

section
variable {pc lmask launch lo nm1 saved kind regs forms ctx dep : Nat} {rest : List (Nat × Nat)}

theorem contFields_width : fieldsWidth (contFields pc lmask launch lo nm1 saved kind regs forms ctx dep) = 512 := by
  simp [fieldsWidth, contFields]

/-- A field of a head, in a number that begins with the head. -/
theorem packFields_read {l a b : List (Nat × Nat)} {f : Nat × Nat} {m o : Nat} (hfit : FieldsFit l) (hm : m = packFields (l ++ rest))
    (hl : l = a ++ f :: b) (ho : fieldsWidth a = o) : m / 2 ^ o % 2 ^ f.1 = f.2 := by
  subst hl ho
  rw [hm, List.append_assoc, List.cons_append]
  exact packFields_field (fun g hg => hfit g (List.mem_append_left _ hg)) (hfit f (List.mem_append_right _ List.mem_cons_self))

/-- The head of a record, and its counter's address, are its fields. -/
theorem contHead_fields (hfit : FieldsFit (contFields pc lmask launch lo nm1 saved kind regs forms ctx dep)) (hkind : kind < 4)
    {m : Nat} (hm : m = packFields (contFields pc lmask launch lo nm1 saved kind regs forms ctx dep ++ rest)) :
    contHead m = { pc := BitVec.ofNat 64 pc, lanes := decide (kind = 1), lmask := BitVec.ofNat 64 lmask, launch := launch, lo := lo, n := nm1 + 1
                   ctx := ctx, regs := regs, forms := forms, saved := saved } ∧ m / 2 ^ 448 % 2 ^ 64 = dep := by
  have read := fun {a b f o} => packFields_read (l := contFields pc lmask launch lo nm1 saved kind regs forms ctx dep)
    (a := a) (b := b) (f := f) (o := o) hfit hm
  have h0 : m / 2 ^ 0 % 2 ^ 64 = pc := read (a := []) rfl (by simp [fieldsWidth])
  have h1 : m / 2 ^ 64 % 2 ^ 64 = lmask := read (a := [_]) rfl (by simp [fieldsWidth])
  have h2 : m / 2 ^ 128 % 2 ^ 32 = launch := read (a := [_, _]) rfl (by simp [fieldsWidth])
  have h3 : m / 2 ^ 160 % 2 ^ 32 = lo := read (a := [_, _, _]) rfl (by simp [fieldsWidth])
  have h4 : m / 2 ^ 192 % 2 ^ 32 = nm1 := read (a := [_, _, _, _]) rfl (by simp [fieldsWidth])
  have h5 : m / 2 ^ 224 % 2 ^ 16 = saved := read (a := [_, _, _, _, _]) rfl (by simp [fieldsWidth])
  have h6 : m / 2 ^ 240 % 2 ^ 16 = kind := read (a := [_, _, _, _, _, _]) rfl (by simp [fieldsWidth])
  have h7 : m / 2 ^ 256 % 2 ^ 128 = regs := read (a := [_, _, _, _, _, _, _]) rfl (by simp [fieldsWidth])
  have h8 : m / 2 ^ 384 % 2 ^ 32 = forms := read (a := [_, _, _, _, _, _, _, _]) rfl (by simp [fieldsWidth])
  have h9 : m / 2 ^ 416 % 2 ^ 32 = ctx := read (a := [_, _, _, _, _, _, _, _, _]) rfl (by simp [fieldsWidth])
  have h10 : m / 2 ^ 448 % 2 ^ 64 = dep := read (a := [_, _, _, _, _, _, _, _, _, _]) rfl (by simp [fieldsWidth])
  have h6' : m / 2 ^ 240 % 2 ^ 2 = kind := by
    have := subField (i := 0) (w := 2) 240 h6 (by omega)
    rw [Nat.add_zero, pow_zero, Nat.div_one] at this
    exact this.trans (Nat.mod_eq_of_lt hkind)
  refine ⟨?_, h10⟩
  simp only [contHead, h0, h1, h2, h3, h4, h5, h6', h7, h8, h9]

end

end Sys2Proof.Machine
end

section
namespace Sys2Proof.Machine
set_option Elab.async false

/-! ### A record as its fields (R51, R52) -/

/-- A slot of a record: its code, its body and its bytes. -/
def contSlot (s : State) (e : Env) (ts : List Thread) (p : Nat × Nat) : Nat × Nat × Nat :=
  if e.strand then
    let q := strandSlot (((ts.head?).map (fun t => t.regs.get p.2)).getD (.u 0))
    (q.1, q.2, 16)
  else laneSlot (s.fresh + p.1) (ts.map (fun t => (t.lane, (t.regs.get p.2).val 0)))

/-- The index block: of lanes the index of each that is present. -/
def contIndex (e : Env) (ts : List Thread) : Nat × Nat :=
  if e.strand then (0, 0)
  else (256, pack 32 ((List.range 64).map (fun k => match ts.find? (·.lane == k) with | some t => t.lo | none => 0xFFFFFFFF)))

/-- The head of a record, as its fields at their bits. -/
theorem packFields_head (pc lmask launch lo nm1 saved kind regs forms ctx dep : Nat) :
    packFields (contFields pc lmask launch lo nm1 saved kind regs forms ctx dep)
      = dep * 2 ^ 448 + ctx * 2 ^ 416 + forms * 2 ^ 384 + regs * 2 ^ 256 + kind * 2 ^ 240 + saved * 2 ^ 224 + nm1 * 2 ^ 192 + lo * 2 ^ 160
        + launch * 2 ^ 128 + lmask * 2 ^ 64 + pc := by
  have hpow : ∀ k, 2 ^ (16 * k) = (2 ^ 16) ^ k := fun k => pow_mul 2 16 k
  have h32 := hpow 2; have h64 := hpow 4; have h128 := hpow 8; have h160 := hpow 10; have h192 := hpow 12; have h224 := hpow 14
  have h240 := hpow 15; have h256 := hpow 16; have h384 := hpow 24; have h416 := hpow 26; have h448 := hpow 28
  simp only [Nat.reduceMul] at h32 h64 h128 h160 h192 h224 h240 h256 h384 h416 h448
  simp only [packFields, contFields, h32, h64, h128, h160, h192, h224, h240, h256, h384, h416, h448]
  generalize (2 : Nat) ^ 16 = b
  ring

theorem foldl_fields (l : List (Nat × Nat)) (c h : Nat) :
    l.foldl (fun (acc : Nat × Nat) q => (acc.1 + q.1, acc.2 + q.2 * 2 ^ (8 * acc.1))) (c, h)
      = (c + (l.map Prod.fst).sum, h + 2 ^ (8 * c) * packFields (l.map (fun q => (8 * q.1, q.2)))) := by
  induction l generalizing c h with
  | nil => simp [packFields]
  | cons q l ih =>
    rw [List.foldl_cons, ih, List.map_cons, List.map_cons, List.sum_cons, packFields, Nat.mul_add, pow_add]
    refine Prod.ext ?_ ?_
    · show c + q.1 + _ = c + (q.1 + _)
      omega
    · show h + q.2 * 2 ^ (8 * c) + 2 ^ (8 * c) * 2 ^ (8 * q.1) * _ = h + 2 ^ (8 * c) * (q.2 + 2 ^ (8 * q.1) * _)
      ring

section
variable (s : State) (e : Env) (x : FmtI) (ts : List Thread) (d : W64)

/-- The codes, and the registers, of the slots of a record, as its head holds them. -/
def contForms : Nat := packRange 2 16 (fun k => if k ∈ savedAt x then (contSlot s e ts (k, savedReg x k)).1 else 0)
def contRegBytes : Nat := packRange 8 16 (fun k => if k ∈ savedAt x then savedReg x k else 0)

/-- The fields of the head of a record. -/
def contHeadOf : List (Nat × Nat) :=
  contFields (e.next.toNat % 2 ^ 56) (if e.strand then 0 else (ts.map (fun t => 2 ^ t.lane)).sum)
    (((ts.head?).map (fun t => (s.task t.task).launch)).getD 0 % 2 ^ 32)
    (if e.strand then (ts.head?.map Thread.lo).getD 0 else 0) (if e.strand then (ts.head?.map Thread.n).getD 0 - 1 else 0)
    (bits x.imm 15 0).toNat (if e.strand then 0 else 1) (contRegBytes x) (contForms s e x ts) (s.ctxOf e.pen % 2 ^ 32) d.toNat

/-- The slots behind the index block. -/
def contSlots : List (Nat × Nat) := (contRegs x).map (fun p => (8 * (contSlot s e ts p).2.2, (contSlot s e ts p).2.1))

/-- A record is its pieces laid behind its head, one after another. -/
theorem contRecord_foldl : contRecord s e x ts d
    = (contIndex e ts :: (contRegs x).map (fun p => ((contSlot s e ts p).2.2, (contSlot s e ts p).2.1))).foldl
        (fun (acc : Nat × Nat) q => (acc.1 + q.1, acc.2 + q.2 * 2 ^ (8 * acc.1))) (64, packFields (contHeadOf s e x ts d)) := by
  have hbody : (contRegs x).map (fun p =>
      if e.strand then
        let q := strandSlot (((ts.head?).map (fun t => t.regs.get p.2)).getD (.u 0))
        (p.1, p.2, q.1, q.2, 16)
      else
        let q := laneSlot (s.fresh + p.1) (ts.map (fun t => (t.lane, (t.regs.get p.2).val 0)))
        (p.1, p.2, q.1, q.2.1, q.2.2))
      = (contRegs x).map (fun p => (p.1, p.2, contSlot s e ts p)) := by
    refine List.map_congr_left (fun p _ => ?_)
    unfold contSlot
    split <;> rfl
  have hforms : ((contRegs x).map (fun p => (contSlot s e ts p).1 * 2 ^ (2 * p.1))).sum = contForms s e x ts := by
    rw [contRegs_eq, List.map_map]
    exact sum_fields (savedAt_nodup x) (fun _ => savedAt_lt) (fun k => (contSlot s e ts (k, savedReg x k)).1)
  have hregs : ((contRegs x).map (fun p => p.2 * 2 ^ (8 * p.1))).sum = contRegBytes x := by
    rw [contRegs_eq, List.map_map]
    exact sum_fields (savedAt_nodup x) (fun _ => savedAt_lt) (savedReg x)
  unfold contRecord
  dsimp only
  rw [hbody, List.map_map, List.map_map, List.map_map]
  simp only [Function.comp_def]
  rw [hforms, hregs]
  unfold contHeadOf contIndex
  generalize contForms s e x ts = forms
  generalize contRegBytes x = regs
  generalize (contRegs x).map (fun p => ((contSlot s e ts p).2.2, (contSlot s e ts p).2.1)) = rest
  have hhead : ∀ (lmask lo n kind : Nat) (i : Nat × Nat),
      ([(i.1, i.2)] ++ rest).foldl (fun (acc : Nat × Nat) q => (acc.1 + q.1, acc.2 + q.2 * 2 ^ (8 * acc.1)))
        (64, d.toNat * 2 ^ 448 + s.ctxOf e.pen % 2 ^ 32 * 2 ^ 416 + forms * 2 ^ 384 + regs * 2 ^ 256 + kind * 2 ^ 240
          + (bits x.imm 15 0).toNat * 2 ^ 224 + n * 2 ^ 192 + lo * 2 ^ 160
          + ((ts.head?).map (fun t => (s.task t.task).launch)).getD 0 % 2 ^ 32 * 2 ^ 128 + lmask * 2 ^ 64 + e.next.toNat % 2 ^ 56)
      = (i :: rest).foldl (fun (acc : Nat × Nat) q => (acc.1 + q.1, acc.2 + q.2 * 2 ^ (8 * acc.1)))
        (64, packFields (contFields (e.next.toNat % 2 ^ 56) lmask (((ts.head?).map (fun t => (s.task t.task).launch)).getD 0 % 2 ^ 32)
          lo n (bits x.imm 15 0).toNat kind regs forms (s.ctxOf e.pen % 2 ^ 32) d.toNat)) := by
    intro lmask lo n kind i
    refine congrArg (fun h => (i :: rest).foldl _ (64, h)) ?_
    exact (packFields_head ..).symm
  cases ts with
  | nil => cases e.strand with
    | false => exact hhead _ _ _ 1 _
    | true => exact hhead _ _ _ 0 _
  | cons t ts => cases e.strand with
    | false => exact hhead _ _ _ 1 _
    | true => exact hhead _ _ _ 0 _

theorem contRecord_eq : contRecord s e x ts d
    = (64 + (contIndex e ts).1 + ((contRegs x).map (fun p => (contSlot s e ts p).2.2)).sum,
       packFields (contHeadOf s e x ts d ++ ((8 * (contIndex e ts).1, (contIndex e ts).2) :: contSlots s e x ts))) := by
  rw [contRecord_foldl, foldl_fields, packFields_append, show fieldsWidth (contHeadOf s e x ts d) = 8 * 64 from contFields_width]
  rw [List.map_cons, List.sum_cons, List.map_map, List.map_cons, List.map_map, ← Nat.add_assoc]
  rfl

end
end Sys2Proof.Machine
end

section
namespace Sys2Proof.Machine
set_option Elab.async false

/-! ### Reading a record's slots (R51 to R54) -/

/-- The slots with their offsets, from an offset on. -/
def slotOffsets : Nat → List (Nat × Nat) → List (Nat × Nat × Nat)
  | _, [] => []
  | b, q :: l => (q.1, q.2, b) :: slotOffsets (b + slotLen q.2) l

theorem ContRec.offsets_eq (r : ContRec) : r.offsets = slotOffsets (if r.lanes then 320 else 64) r.slots := by
  have h : ∀ (l : List (Nat × Nat)) (acc : List (Nat × Nat × Nat)) (b : Nat),
      (l.foldl (fun (acc : List (Nat × Nat × Nat) × Nat) q => (acc.1 ++ [(q.1, q.2, acc.2)], acc.2 + slotLen q.2)) (acc, b)).1
        = acc ++ slotOffsets b l := by
    intro l
    induction l with
    | nil => exact fun acc b => (List.append_nil acc).symm
    | cons q l ih => exact fun acc b => (ih _ _).trans (List.append_assoc ..)
  exact h _ _ _

theorem ContRec.length_eq (r : ContRec) : r.length = (if r.lanes then 320 else 64) + (r.slots.map (fun q => slotLen q.2)).sum := by
  have h : ∀ (l : List Nat) (b : Nat), l.foldl (· + ·) b = b + l.sum := by
    intro l
    induction l with
    | nil => exact fun b => rfl
    | cons n l ih => exact fun b => (ih _).trans (by rw [List.sum_cons, Nat.add_assoc])
  exact h _ _

section
variable {m : Nat} {code body : Nat × Nat → Nat}

/-- A register written at an offset holds what is read there, where no other slot names the register. -/
theorem slotOffsets_get (f : Nat → Nat → Form) {ps : List (Nat × Nat)} {pre : List (Nat × Nat)} {b : Nat} (R : RegFile)
    (hm : m = packFields (pre ++ ps.map (fun p => (8 * slotLen (code p), body p)))) (hpre : fieldsWidth pre = 8 * b) (hfit : FieldsFit pre)
    (hbody : ∀ p ∈ ps, body p < 2 ^ (8 * slotLen (code p))) (hn : (ps.map Prod.snd).Nodup) :
    let w := (slotOffsets b (ps.map (fun p => (p.2, code p)))).foldl (fun (x : RegFile) q => x.set q.1 (f q.2.1 q.2.2)) R
    (∀ k, k ∉ ps.map Prod.snd → w.get k = R.get k)
      ∧ ∀ p ∈ ps, ∃ o, m / 2 ^ (8 * o) % 2 ^ (8 * slotLen (code p)) = body p ∧ w.get p.2 = f (code p) o := by
  induction ps generalizing pre b R with
  | nil => exact ⟨fun _ _ => rfl, nofun⟩
  | cons p ps ih =>
    obtain ⟨hp, hps⟩ := List.forall_mem_cons.mp hbody
    obtain ⟨hnp, hnps⟩ := List.nodup_cons.mp hn
    have hfit' : FieldsFit (pre ++ [(8 * slotLen (code p), body p)]) := fun q hq => by
      rcases List.mem_append.mp hq with h | h
      · exact hfit q h
      · rw [List.mem_singleton.mp h]; exact hp
    have hwidth : fieldsWidth (pre ++ [(8 * slotLen (code p), body p)]) = 8 * (b + slotLen (code p)) := by
      rw [fieldsWidth, List.map_append, List.sum_append, ← fieldsWidth, hpre, Nat.mul_add]; rfl
    obtain ⟨hother, hin⟩ := ih (R.set p.2 (f (code p) b)) (by rw [hm, List.map_cons, List.append_assoc]; rfl) hwidth hfit' hps hnps
    refine ⟨fun k hk => ?_, fun q hq => ?_⟩
    · obtain ⟨hkp, hkps⟩ := not_or.mp (List.mem_cons.not.mp hk)
      exact (hother k hkps).trans ((RegFile.get_set ..).trans (if_neg (Ne.symm hkp)))
    · rcases List.mem_cons.mp hq with rfl | hq
      · refine ⟨b, ?_, (hother _ hnp).trans ((RegFile.get_set ..).trans (if_pos rfl))⟩
        rw [hm, ← hpre]
        exact packFields_field hfit hp
      · exact hin q hq

end

/-! ### The head that CONT writes -/

section
variable {s : State} {e : Env} {x : FmtI} {ts : List Thread} {d : W64}

/-- Every slot fits. -/
def SlotsFit (s : State) (e : Env) (ts : List Thread) : Prop :=
  ∀ p, SlotFits (contSlot s e ts p).1 (contSlot s e ts p).2.1 (contSlot s e ts p).2.2

theorem slotsFit_strand (he : e.strand = true) : SlotsFit s e ts := fun p => by
  rw [contSlot, if_pos he]
  exact strandSlot_fits _

/-- What the lanes of a group have in a register. -/
def laneValues (ts : List Thread) (k : Nat) : List (Nat × W64) := ts.map (fun t => (t.lane, (t.regs.get k).val 0))

theorem laneValues_lanes (ts : List Thread) (k : Nat) : (laneValues ts k).map Prod.fst = ts.map Thread.lane := List.map_map

theorem slotsFit_lanes (he : e.strand = false) (hn : (ts.map Thread.lane).Nodup) (hlt : ∀ t ∈ ts, t.lane < 64) : SlotsFit s e ts := fun p => by
  rw [contSlot, if_neg (by simp [he])]
  refine (laneSlot_spec _ (laneValues ts p.2) (by rwa [laneValues_lanes]) (fun q hq => ?_)).1
  obtain ⟨t, ht, rfl⟩ := List.mem_map.mp hq
  exact hlt t ht

variable (hslots : SlotsFit s e ts)
include hslots

theorem contForms_lt : contForms s e x ts < 2 ^ 32 := packRange_lt (w := 2) (n := 16) (fun k _ => by
  have := (hslots (k, savedReg x k)).1
  split <;> omega)

theorem contForms_field {p : Nat × Nat} (hp : p ∈ contRegs x) : contForms s e x ts / 2 ^ (2 * p.1) % 4 = (contSlot s e ts p).1 := by
  rw [contRegs_eq] at hp
  obtain ⟨k, hk, rfl⟩ := List.mem_map.mp hp
  refine (packRange_field (w := 2) (n := 16) (fun j _ => ?_) (savedAt_lt hk)).trans (if_pos hk)
  have := (hslots (j, savedReg x j)).1
  split <;> omega

omit hslots in
theorem contRegBytes_lt : contRegBytes x < 2 ^ 128 := packRange_lt (w := 8) (n := 16) (fun k hk => by
  have := savedReg_lt (x := x) hk
  split <;> omega)

omit hslots in
theorem contRegBytes_field {p : Nat × Nat} (hp : p ∈ contRegs x) : contRegBytes x / 2 ^ (8 * p.1) % 256 = p.2 := by
  rw [contRegs_eq] at hp
  obtain ⟨k, hk, rfl⟩ := List.mem_map.mp hp
  refine (packRange_field (w := 8) (n := 16) (fun j hj => ?_) (savedAt_lt hk)).trans (if_pos hk)
  have := savedReg_lt (x := x) hj
  split <;> omega

omit hslots in
theorem contRegs_nodup : ((contRegs x).map Prod.snd).Nodup := by
  rw [contRegs_eq, List.map_map]
  refine (savedAt_nodup x).map (fun a b h => ?_)
  have h' : 16 * (x.imm.toNat / 0x10000 % 16) + a = 16 * (x.imm.toNat / 0x10000 % 16) + b := h
  omega

/-- The slots that a record names are those that CONT saved. -/
theorem contSlots_named {r : ContRec} (hs : r.saved = (bits x.imm 15 0).toNat) (hr : r.regs = contRegBytes x) (hf : r.forms = contForms s e x ts) :
    r.slots = (contRegs x).map (fun p => (p.2, (contSlot s e ts p).1)) := by
  rw [ContRec.slots, hs, hr, hf, savedAt_bits, contRegs_eq, List.map_map]
  refine List.map_congr_left (fun k hk => ?_)
  have hp : (k, savedReg x k) ∈ contRegs x := by rw [contRegs_eq]; exact List.mem_map_of_mem hk
  exact Prod.ext (contRegBytes_field hp) (contForms_field hslots hp)

/-- The slots of a record, with the bytes that their codes name. -/
theorem contSlots_len : contSlots s e x ts = (contRegs x).map (fun p => (8 * slotLen (contSlot s e ts p).1, (contSlot s e ts p).2.1)) :=
  List.map_congr_left (fun p _ => by rw [(hslots p).2.1])

end
end Sys2Proof.Machine
end

section
namespace Sys2Proof.Machine
set_option Elab.async false

/-! ### A record as it is read (R51 to R54) -/

/-- The fields of a record's header stand where R52 puts them. -/
theorem headerFields_holds (m : Nat) : headerFields m := by
  have hword : ∀ n : Nat, (BitVec.ofNat 64 (n % 2 ^ 64)).toNat = n % 2 ^ 64 := fun n =>
    (BitVec.toNat_ofNat ..).trans (Nat.mod_eq_of_lt (Nat.mod_lt _ (by positivity)))
  refine ⟨?_, hword _, rfl, rfl, rfl, rfl, decide_eq_true_iff, rfl, rfl, rfl⟩
  refine (hword (m / 2 ^ 0)).trans ?_
  rw [pow_zero, Nat.div_one]

section
variable (s : State) (e : Env) (x : FmtI) (ts : List Thread) (d : W64)

/-- The lanes of a record of lanes. -/
def contLanes : Nat := if e.strand then 0 else (ts.map (fun t => 2 ^ t.lane)).sum

/-- The head of the record that CONT makes. -/
def contHeadRec : ContRec :=
  { pc := BitVec.ofNat 64 (e.next.toNat % 2 ^ 56), lanes := !e.strand, lmask := BitVec.ofNat 64 (contLanes e ts)
    launch := ((ts.head?).map (fun t => (s.task t.task).launch)).getD 0 % 2 ^ 32
    lo := if e.strand then (ts.head?.map Thread.lo).getD 0 else 0, n := (if e.strand then (ts.head?.map Thread.n).getD 0 - 1 else 0) + 1
    ctx := s.ctxOf e.pen % 2 ^ 32, regs := contRegBytes x, forms := contForms s e x ts, saved := (bits x.imm 15 0).toNat }

variable {s e x ts d}
variable (hslots : SlotsFit s e ts) (hlanes : contLanes e ts < 2 ^ 64) (hlo : ∀ t ∈ ts, t.lo < 2 ^ 32)
  (hn : e.strand = true → ∀ t ∈ ts, t.n - 1 < 2 ^ 32)

include hslots hlanes hlo hn in
theorem contHeadOf_fit : FieldsFit (contHeadOf s e x ts d) := by
  have hhead : ∀ f : Thread → Nat, (∀ t ∈ ts, f t < 2 ^ 32) → (ts.head?.map f).getD 0 < 2 ^ 32 := by
    intro f hf
    cases ts with
    | nil => exact (by decide : 0 < 2 ^ 32)
    | cons t ts => exact hf t List.mem_cons_self
  have hlo' : (if e.strand then (ts.head?.map Thread.lo).getD 0 else 0) < 2 ^ 32 := by
    split
    · exact hhead _ hlo
    · decide
  have hn' : (if e.strand then (ts.head?.map Thread.n).getD 0 - 1 else 0) < 2 ^ 32 := by
    split
    next he =>
      cases ts with
      | nil => decide
      | cons t ts => exact hn he t List.mem_cons_self
    · decide
  have hkind : (if e.strand then 0 else 1) < 2 ^ 16 := by split <;> decide
  have hpc : e.next.toNat % 2 ^ 56 < 2 ^ 64 := (Nat.mod_lt _ (by decide)).trans (by decide)
  intro f hf
  simp only [contHeadOf, contFields, List.mem_cons, List.not_mem_nil, or_false] at hf
  rcases hf with rfl | rfl | rfl | rfl | rfl | rfl | rfl | rfl | rfl | rfl | rfl
  · exact hpc
  · exact hlanes
  · exact Nat.mod_lt _ (by decide)
  · exact hlo'
  · exact hn'
  · exact (bits x.imm 15 0).isLt
  · exact hkind
  · exact contRegBytes_lt
  · exact contForms_lt hslots
  · exact Nat.mod_lt _ (by decide)
  · exact d.isLt

include hslots hlanes hlo hn in
theorem contRecord_head : contHead (contRecord s e x ts d).2 = contHeadRec s e x ts ∧ (contRecord s e x ts d).2 / 2 ^ 448 % 2 ^ 64 = d.toNat := by
  have hkind : (if e.strand then 0 else 1) < 4 := by split <;> decide
  have hfit := contHeadOf_fit (d := d) (x := x) hslots hlanes hlo hn
  have hm := congrArg Prod.snd (contRecord_eq s e x ts d)
  unfold contHeadOf at hfit hm
  obtain ⟨hh, hd⟩ := contHead_fields hfit hkind hm
  refine ⟨hh.trans ?_, hd⟩
  unfold contHeadRec contLanes
  cases e.strand <;> rfl

theorem contIndex_lt : (contIndex e ts).2 < 2 ^ (8 * (contIndex e ts).1) := by
  unfold contIndex
  split
  · exact Nat.one_pos
  · refine (pack_lt 32 _).trans_le (Nat.pow_le_pow_right (by decide) ?_)
    rw [List.length_map, List.length_range]
    exact (by decide : 32 * 64 ≤ 8 * 256)

theorem contBase_eq : 64 + (contIndex e ts).1 = if (contHeadRec s e x ts).lanes then 320 else 64 := by
  unfold contIndex contHeadRec
  cases e.strand <;> rfl

include hslots in
theorem contHeadRec_slots : (contHeadRec s e x ts).slots = (contRegs x).map (fun p => (p.2, (contSlot s e ts p).1)) :=
  contSlots_named hslots rfl rfl rfl

include hslots in
theorem contHeadRec_length : (contHeadRec s e x ts).length = (contRecord s e x ts d).1 := by
  rw [ContRec.length_eq, ← contBase_eq, contHeadRec_slots hslots, contRecord_eq, List.map_map]
  refine congrArg (fun l => 64 + (contIndex e ts).1 + List.sum l) (List.map_congr_left (fun p _ => ?_))
  exact (hslots p).2.1.symm

/-- What stands before the slots of a record: its head and its index block. -/
def contFront (s : State) (e : Env) (x : FmtI) (ts : List Thread) (d : W64) : List (Nat × Nat) :=
  contHeadOf s e x ts d ++ [(8 * (contIndex e ts).1, (contIndex e ts).2)]

theorem contFront_width : fieldsWidth (contFront s e x ts d) = 8 * (64 + (contIndex e ts).1) := by
  rw [contFront, fieldsWidth, List.map_append, List.sum_append, ← fieldsWidth,
    show fieldsWidth (contHeadOf s e x ts d) = 8 * 64 from contFields_width, Nat.mul_add]
  rfl

include hslots hlanes hlo hn in
theorem contFront_fit : FieldsFit (contFront s e x ts d) := fun f hf => by
  rcases List.mem_append.mp hf with h | h
  · exact contHeadOf_fit hslots hlanes hlo hn f h
  · rw [List.mem_singleton.mp h]
    exact contIndex_lt

include hslots in
theorem contRecord_packed : (contRecord s e x ts d).2
    = packFields (contFront s e x ts d ++ (contRegs x).map (fun p => (8 * slotLen (contSlot s e ts p).1, (contSlot s e ts p).2.1))) := by
  rw [contRecord_eq, contSlots_len hslots, contFront, List.append_assoc]
  rfl

include hslots hlanes hlo hn in
/-- Each saved register of a thread resumed is what its slot tells. -/
theorem contRecord_regs (f : Nat → Nat → Form) (R : RegFile) {p : Nat × Nat} (hp : p ∈ contRegs x) :
    ∃ o, (contRecord s e x ts d).2 / 2 ^ (8 * o) % 2 ^ (8 * slotLen (contSlot s e ts p).1) = (contSlot s e ts p).2.1
      ∧ ((contHeadRec s e x ts).offsets.foldl (fun (x : RegFile) q => x.set q.1 (f q.2.1 q.2.2)) R).get p.2 = f (contSlot s e ts p).1 o := by
  have hbody : ∀ p ∈ contRegs x, (contSlot s e ts p).2.1 < 2 ^ (8 * slotLen (contSlot s e ts p).1) := fun p _ => by
    obtain ⟨-, hl, hV⟩ := hslots p
    rwa [← hl]
  rw [ContRec.offsets_eq, ← contBase_eq, contHeadRec_slots hslots]
  exact (slotOffsets_get (code := fun p => (contSlot s e ts p).1) (body := fun p => (contSlot s e ts p).2.1) f R (contRecord_packed hslots)
    contFront_width (contFront_fit hslots hlanes hlo hn) hbody contRegs_nodup).2 p hp

end
end Sys2Proof.Machine
end

section
namespace Sys2Proof.Machine
set_option Elab.async false

/-! ### Threads resumed from a record (R53, R54) -/

/-- The form of a slot of a strand, as a resumed thread reads it. -/
def strandForm (m form o : Nat) : Form :=
  if form = 0 then .u (BitVec.ofNat 64 (m / 2 ^ (8 * o) % 2 ^ (8 * 8)))
  else Form.mk (BitVec.ofNat 64 (m / 2 ^ (8 * o) % 2 ^ (8 * 8))) (BitVec.ofNat 64 (m / 2 ^ (8 * (o + 8)) % 2 ^ (8 * 8)))

/-- The form of lane k in a slot of lanes, as a resumed thread reads it. -/
def laneForm (m k form o : Nat) : Form :=
  .u (match form with
    | 0 => BitVec.ofNat 64 (m / 2 ^ (8 * o) % 2 ^ (8 * 8))
    | 1 => BitVec.ofNat 64 (m / 2 ^ (8 * o) % 2 ^ (8 * 8) + m / 2 ^ (8 * (o + 8)) % 2 ^ (8 * 8) * k)
    | _ => BitVec.ofNat 64 (m / 2 ^ (8 * (o + 8 * k)) % 2 ^ (8 * 8)))

/-- A word of a slot. -/
theorem slotWord {m o V len : Nat} (h : m / 2 ^ (8 * o) % 2 ^ (8 * len) = V) {j : Nat} (hj : j + 8 ≤ len) :
    m / 2 ^ (8 * (o + j)) % 2 ^ (8 * 8) = V / 2 ^ (8 * j) % 2 ^ 64 := by
  rw [Nat.mul_add]
  exact subField (w := 64) (8 * o) h (by omega)

theorem slotWord_zero {m o V len : Nat} (h : m / 2 ^ (8 * o) % 2 ^ (8 * len) = V) (hj : 8 ≤ len) :
    m / 2 ^ (8 * o) % 2 ^ (8 * 8) = V % 2 ^ 64 := by
  have := slotWord h (j := 0) (by omega)
  rwa [Nat.add_zero, Nat.mul_zero, pow_zero, Nat.div_one] at this

/-- A strand's slot gives back the value of every index, whichever form CONT chose. -/
theorem strandForm_val {m o : Nat} (f : Form) (h : m / 2 ^ (8 * o) % 2 ^ (8 * 16) = (strandSlot f).2) (j : Nat) :
    (strandForm m (strandSlot f).1 o).val j = f.val j := by
  have h0 := slotWord_zero h (by decide)
  have h1 := slotWord h (j := 8) (by decide)
  cases f with
  | u v =>
    have hv : v.toNat % 2 ^ 64 = v.toNat := Nat.mod_eq_of_lt v.isLt
    show (Form.u (BitVec.ofNat 64 (m / 2 ^ (8 * o) % 2 ^ (8 * 8)))).val j = v
    rw [h0, show (strandSlot (.u v)).2 = v.toNat from rfl, hv, ofNat_word]
    rfl
  | a b st =>
    have hb : (strandSlot (.a b st)).2 % 2 ^ 64 = b.toNat := by
      have := b.isLt
      show (b.toNat + 2 ^ 64 * st.toNat) % 2 ^ 64 = _
      omega
    have hs : (strandSlot (.a b st)).2 / 2 ^ (8 * 8) % 2 ^ 64 = st.toNat := by
      have := b.isLt; have := st.isLt
      show (b.toNat + 2 ^ 64 * st.toNat) / 2 ^ 64 % 2 ^ 64 = _
      omega
    show (Form.mk (BitVec.ofNat 64 (m / 2 ^ (8 * o) % 2 ^ (8 * 8))) (BitVec.ofNat 64 (m / 2 ^ (8 * (o + 8)) % 2 ^ (8 * 8)))).val j = _
    rw [h0, h1, hb, hs, ofNat_word, ofNat_word, Form.mk_val]
    rfl

/-- A slot of lanes gives lane k its value, as `laneValue` tells. -/
theorem laneForm_val {m o V form k : Nat} (hform : form < 3) (hk : k < 64) (h : m / 2 ^ (8 * o) % 2 ^ (8 * slotLen form) = V) :
    (laneForm m k form o).val 0 = laneValue form V k := by
  have h0 := slotWord_zero h (by unfold slotLen; split <;> decide)
  have h1 := fun j => slotWord (j := j) h
  clear h
  obtain rfl | rfl | rfl : form = 0 ∨ form = 1 ∨ form = 2 := by omega
  · exact congrArg (BitVec.ofNat 64) h0
  · exact congrArg₂ (fun a b => BitVec.ofNat 64 (a + b * k)) h0 (h1 8 (by decide))
  · have hj : 8 * k + 8 ≤ slotLen 2 := by show 8 * k + 8 ≤ 512; omega
    have h2 := h1 _ hj
    rw [← Nat.mul_assoc] at h2
    exact congrArg (BitVec.ofNat 64) h2

theorem contThreads_strand (l : Launch) (seed task : Nat) {r : ContRec} (m : Nat) (h : r.lanes = false) :
    contThreads l seed task r m
      = [{ newThread l (seed + 0) r.lo r.n 0 task r.pc true none with
           regs := r.offsets.foldl (fun (x : RegFile) q => x.set q.1 (strandForm m q.2.1 q.2.2)) (RegFile.free (seed + 0)) }] := by
  unfold contThreads
  rw [h]
  rfl

/-- The thread of lane k of a record of lanes. -/
def contLane (l : Launch) (seed task : Nat) (r : ContRec) (m k : Nat) : Thread :=
  { newThread l (seed + k) (m / 2 ^ (8 * (64 + 4 * k)) % 2 ^ (8 * 4)) 1 k task r.pc false none with
    regs := r.offsets.foldl (fun (x : RegFile) q => x.set q.1 (laneForm m k q.2.1 q.2.2)) (RegFile.free (seed + k)) }

theorem contThreads_lanes (l : Launch) (seed task : Nat) {r : ContRec} (m : Nat) (h : r.lanes = true) :
    contThreads l seed task r m = ((List.range 64).filter (fun k => r.lmask.getLsbD k)).map (contLane l seed task r m) := by
  unfold contThreads
  rw [h]
  rfl

/-! ### The record of a strand -/

section
variable {s : State} {e : Env} {x : FmtI} {t : Thread} {d : W64} (he : e.strand = true)
include he

theorem contSlot_strand (p : Nat × Nat) : contSlot s e [t] p = ((strandSlot (t.regs.get p.2)).1, (strandSlot (t.regs.get p.2)).2, 16) := if_pos he

theorem contFront_strand : fieldsWidth (contFront s e x [t] d) = 8 * 64 := by
  rw [contFront_width, contIndex, if_pos he]
  rfl

/-- The slots of a strand stand one after another, 16 bytes each. -/
theorem contRecord_slot (hfit : FieldsFit (contFront s e x [t] d)) {i : Nat} {p : Nat × Nat} (hp : (contRegs x)[i]? = some p) :
    (contRecord s e x [t] d).2 / 2 ^ (8 * (64 + 16 * i)) % 2 ^ 128 = (strandSlot (t.regs.get p.2)).2 := by
  obtain ⟨hi, rfl⟩ := List.getElem?_eq_some_iff.mp hp
  have hfield : ∀ p, (8 * slotLen (contSlot s e [t] p).1, (contSlot s e [t] p).2.1) = (128, (strandSlot (t.regs.get p.2)).2) := fun p => by
    rw [← (slotsFit_strand he p).2.1, contSlot_strand he]
    rfl
  have hfits : FieldsFit (((contRegs x).take i).map (fun p => (128, (strandSlot (t.regs.get p.2)).2))) := fun q hq => by
    obtain ⟨p, -, rfl⟩ := List.mem_map.mp hq
    exact (strandSlot_fits _).2.2
  have hwidth : fieldsWidth (((contRegs x).take i).map (fun p => (128, (strandSlot (t.regs.get p.2)).2))) = 128 * i := by
    rw [fieldsWidth, List.map_map]
    show (((contRegs x).take i).map (fun _ => 128)).sum = _
    rw [List.map_const', List.sum_replicate, List.length_take, Nat.min_eq_left hi.le, smul_eq_mul, Nat.mul_comm]
  have hall : FieldsFit (contFront s e x [t] d ++ ((contRegs x).take i).map (fun p => (128, (strandSlot (t.regs.get p.2)).2))) := fun q hq =>
    (List.mem_append.mp hq).elim (hfit q) (hfits q)
  have hoff : fieldsWidth (contFront s e x [t] d ++ ((contRegs x).take i).map (fun p => (128, (strandSlot (t.regs.get p.2)).2)))
      = 8 * (64 + 16 * i) := by
    rw [fieldsWidth, List.map_append, List.sum_append, ← fieldsWidth, ← fieldsWidth, contFront_strand he, hwidth]
    omega
  rw [contRecord_packed (slotsFit_strand he), List.map_congr_left (fun p _ => hfield p), map_split _ hi, ← List.append_assoc, ← hoff]
  exact packFields_field (f := (128, _)) hall (strandSlot_fits _).2.2

end

end Sys2Proof.Machine
end

section
namespace Sys2Proof.Machine
set_option Elab.async false

section
variable {s : State} {e : Env} {x : FmtI} {t : Thread} {d : W64}

/-- The record of a strand, as it is read and as it resumes (R51 to R54). -/
theorem strandRecord (he : e.strand = true) (hlo : t.lo < 2 ^ 32) (hn0 : 0 < t.n) (hn : t.n ≤ 2 ^ 32) :
    let k := contRecord s e x [t] d
    let h := contHead k.2
    k.2 / 2 ^ 448 % 2 ^ 64 = d.toNat ∧ h.ctx = s.ctxOf e.pen % 2 ^ 32 ∧ h.launch = (s.task t.task).launch % 2 ^ 32
      ∧ h.pc.toNat = e.next.toNat % 2 ^ 56 ∧ h.lanes = false ∧ h.lmask = 0 ∧ h.lo = t.lo ∧ h.n = t.n
      ∧ h.saved = (bits x.imm 15 0).toNat ∧ h.length = k.1
      ∧ (∀ i p, (contRegs x)[i]? = some p → h.regs / 2 ^ (8 * p.1) % 256 = p.2
          ∧ (h.forms / 2 ^ (2 * p.1) % 4, k.2 / 2 ^ (8 * (64 + 16 * i)) % 2 ^ 128)
            = match t.regs.get p.2 with | .u v => (0, v.toNat) | .a b st => (1, b.toNat + 2 ^ 64 * st.toNat))
      ∧ ∀ l seed task, ∃ w, contThreads l seed task h k.2 = [w] ∧ w.pc = h.pc ∧ w.lo = t.lo ∧ w.n = t.n ∧ w.task = task
          ∧ ∀ p ∈ contRegs x, ∀ j, (w.regs.get p.2).val j = (t.regs.get p.2).val j := by
  have hslots : SlotsFit s e [t] := slotsFit_strand he
  have hlanes0 : contLanes e [t] = 0 := if_pos he
  have hlanes : contLanes e [t] < 2 ^ 64 := by rw [hlanes0]; decide
  have hlo' : ∀ u ∈ [t], u.lo < 2 ^ 32 := by simpa using hlo
  have hn' : e.strand = true → ∀ u ∈ [t], u.n - 1 < 2 ^ 32 := fun _ u hu => by
    rw [List.mem_singleton.mp hu]; omega
  obtain ⟨hhead, hdep⟩ := contRecord_head (x := x) (d := d) hslots hlanes hlo' hn'
  intro k h
  have hr : h = contHeadRec s e x [t] := hhead
  have hln : h.lanes = false := by rw [hr, contHeadRec, he]; rfl
  have hlow : h.lo = t.lo := by rw [hr, contHeadRec, he]; rfl
  have hnum : h.n = t.n := by
    rw [hr, contHeadRec, he]
    exact (Nat.sub_add_cancel hn0 : t.n - 1 + 1 = t.n)
  refine ⟨hdep, by rw [hr]; rfl, by rw [hr]; rfl, ?_, hln, ?_, hlow, hnum, by rw [hr]; rfl, ?_, ?_, ?_⟩
  · rw [hr]
    refine (BitVec.toNat_ofNat ..).trans (Nat.mod_eq_of_lt ((Nat.mod_lt _ (by decide)).trans (by decide)))
  · rw [hr, contHeadRec, hlanes0]
    rfl
  · rw [hr]
    exact contHeadRec_length hslots
  · intro i p hp
    have hmem : p ∈ contRegs x := List.mem_of_getElem? hp
    have hcode : h.forms / 2 ^ (2 * p.1) % 4 = (strandSlot (t.regs.get p.2)).1 := by
      rw [hr]
      exact (contForms_field hslots hmem).trans (congrArg Prod.fst (contSlot_strand he p))
    rw [hcode, contRecord_slot he (contFront_fit hslots hlanes hlo' hn') hp, hr]
    refine ⟨contRegBytes_field hmem, ?_⟩
    unfold strandSlot
    cases t.regs.get p.2 <;> rfl
  · intro l seed task
    refine ⟨_, contThreads_strand l seed task k.2 hln, rfl, hlow, hnum, rfl, fun p hp j => ?_⟩
    obtain ⟨o, hbody, hget⟩ := contRecord_regs (x := x) (d := d) hslots hlanes hlo' hn' (strandForm k.2) (RegFile.free (seed + 0)) hp
    rw [hr]
    refine (congrArg (fun f => Form.val f j) hget).trans ?_
    rw [← (hslots p).2.1, contSlot_strand he] at hbody
    rw [contSlot_strand he]
    exact strandForm_val _ hbody j

end

/-! ### The record of lanes -/

section
variable {s : State} {e : Env} {x : FmtI} {ts : List Thread} {d : W64} (he : e.strand = false) (hnd : (ts.map Thread.lane).Nodup)
  (hlt : ∀ t ∈ ts, t.lane < 64) (hlo : ∀ t ∈ ts, t.lo < 2 ^ 32)

theorem find_lane {t : Thread} (hnd : (ts.map Thread.lane).Nodup) (ht : t ∈ ts) : ts.find? (·.lane == t.lane) = some t := by
  cases hf : ts.find? (·.lane == t.lane) with
  | none => simpa using List.find?_eq_none.mp hf t ht
  | some u =>
    have hu : u.lane = t.lane := by simpa using List.find?_some (p := fun u : Thread => u.lane == t.lane) hf
    exact congrArg some (List.inj_on_of_nodup_map hnd (List.mem_of_find?_eq_some hf) ht hu)

include hlt in
theorem lanes_lt : ∀ k ∈ ts.map Thread.lane, k < 64 := fun k hk => by
  obtain ⟨t, ht, rfl⟩ := List.mem_map.mp hk
  exact hlt t ht

include he hnd hlt in
theorem contLanes_eq : contLanes e ts = packRange 1 64 (fun k => if k ∈ ts.map Thread.lane then 1 else 0) := by
  rw [contLanes, if_neg (by simp [he]), ← sum_fields hnd (lanes_lt hlt) (fun _ => 1), List.map_map]
  simp only [Function.comp_def, Nat.one_mul]

include he hnd hlt in
theorem contLanes_lt : contLanes e ts < 2 ^ 64 := by
  rw [contLanes_eq he hnd hlt]
  exact packRange_lt (w := 1) (n := 64) (fun k _ => by split <;> decide)

include he hnd hlt in
theorem contLanes_bit {k : Nat} (hk : k < 64) : (BitVec.ofNat 64 (contLanes e ts)).getLsbD k = true ↔ k ∈ ts.map Thread.lane := by
  have hfield := packRange_field (w := 1) (n := 64) (v := fun k => if k ∈ ts.map Thread.lane then 1 else 0)
    (fun k _ => by split <;> decide) hk
  rw [← contLanes_eq he hnd hlt, Nat.one_mul, pow_one] at hfield
  rw [BitVec.getLsbD_ofNat, Nat.testBit_eq_decide_div_mod_eq, hfield]
  simp [hk]

theorem laneIndex_lt (hlo : ∀ t ∈ ts, t.lo < 2 ^ 32) (k : Nat) : ((ts.find? (·.lane == k)).map Thread.lo).getD 0xFFFFFFFF < 2 ^ 32 := by
  cases h : ts.find? (·.lane == k) with
  | none => decide
  | some t => exact hlo t (List.mem_of_find?_eq_some h)

include he hnd hlt hlo in
/-- The index block holds the index of each lane. -/
theorem contRecord_index {k : Nat} (hk : k < 64) :
    (contRecord s e x ts d).2 / 2 ^ (8 * (64 + 4 * k)) % 2 ^ 32 = ((ts.find? (·.lane == k)).map Thread.lo).getD 0xFFFFFFFF := by
  have hslots : SlotsFit s e ts := slotsFit_lanes he hnd hlt
  have hfit := contHeadOf_fit (x := x) (d := d) hslots (contLanes_lt he hnd hlt) hlo (by simp [he])
  have hblock : (contRecord s e x ts d).2 / 2 ^ 512 % 2 ^ (8 * (contIndex e ts).1) = (contIndex e ts).2 := by
    rw [contRecord_eq, ← show fieldsWidth (contHeadOf s e x ts d) = 512 from contFields_width]
    exact packFields_field (f := (8 * (contIndex e ts).1, _)) hfit contIndex_lt
  have hidx : contIndex e ts = (256, pack 32 ((List.range 64).map (fun k => ((ts.find? (·.lane == k)).map Thread.lo).getD 0xFFFFFFFF))) := by
    rw [contIndex, if_neg (by simp [he])]
    refine congrArg (fun l => (256, pack 32 l)) (List.map_congr_left (fun k _ => ?_))
    cases ts.find? (·.lane == k) <;> rfl
  rw [hidx] at hblock
  have hpart := subField (i := 32 * k) (w := 32) 512 hblock (by show 32 * k + 32 ≤ 8 * 256; omega)
  rw [show 8 * (64 + 4 * k) = 512 + 32 * k by ring, hpart, pack_elem (by simpa using hk), List.getElem_map, List.getElem_range]
  exact Nat.mod_eq_of_lt (laneIndex_lt hlo k)

include he in
theorem contSlot_lanes (p : Nat × Nat) : contSlot s e ts p = laneSlot (s.fresh + p.1) (laneValues ts p.2) := if_neg (by simp [he])

include he hnd hlt hlo in
/-- The record of lanes, as it is read and as it resumes (R51 to R54). -/
theorem lanesRecord :
    let k := contRecord s e x ts d
    let h := contHead k.2
    k.2 / 2 ^ 448 % 2 ^ 64 = d.toNat ∧ h.ctx = s.ctxOf e.pen % 2 ^ 32 ∧ h.pc.toNat = e.next.toNat % 2 ^ 56 ∧ h.lanes = true
      ∧ h.saved = (bits x.imm 15 0).toNat ∧ h.length = k.1
      ∧ (∀ n < 64, (h.lmask.getLsbD n = true ↔ n ∈ ts.map Thread.lane)
          ∧ k.2 / 2 ^ (8 * (64 + 4 * n)) % 2 ^ 32 = ((ts.find? (·.lane == n)).map Thread.lo).getD 0xFFFFFFFF)
      ∧ ∀ l seed task, (contThreads l seed task h k.2).map Thread.lane = (List.range 64).filter (fun n => n ∈ ts.map Thread.lane)
          ∧ ∀ w ∈ contThreads l seed task h k.2, w.pc = h.pc ∧ w.n = 1 ∧ w.task = task
            ∧ ∃ t ∈ ts, w.lane = t.lane ∧ w.lo = t.lo ∧ ∀ p ∈ contRegs x, (w.regs.get p.2).val 0 = (t.regs.get p.2).val 0 := by
  have hslots : SlotsFit s e ts := slotsFit_lanes he hnd hlt
  have hlanes := contLanes_lt he hnd hlt
  have hn : e.strand = true → ∀ u ∈ ts, u.n - 1 < 2 ^ 32 := by simp [he]
  obtain ⟨hhead, hdep⟩ := contRecord_head (x := x) (d := d) hslots hlanes hlo hn
  intro k h
  have hr : h = contHeadRec s e x ts := hhead
  have hln : h.lanes = true := by rw [hr, contHeadRec, he]; rfl
  have hbit : ∀ n < 64, (h.lmask.getLsbD n = true ↔ n ∈ ts.map Thread.lane) := fun n hk => by
    rw [hr]
    exact contLanes_bit he hnd hlt hk
  have hpresent : (List.range 64).filter (fun n => h.lmask.getLsbD n) = (List.range 64).filter (fun n => n ∈ ts.map Thread.lane) :=
    List.filter_congr (fun n hk => by rw [Bool.eq_iff_iff, decide_eq_true_eq]; exact hbit n (List.mem_range.mp hk))
  refine ⟨hdep, by rw [hr]; rfl, ?_, hln, by rw [hr]; rfl, ?_, fun n hk => ⟨hbit n hk, contRecord_index he hnd hlt hlo hk⟩,
    fun l seed task => ?_⟩
  · rw [hr]
    refine (BitVec.toNat_ofNat ..).trans (Nat.mod_eq_of_lt ((Nat.mod_lt _ (by decide)).trans (by decide)))
  · rw [hr]
    exact contHeadRec_length hslots
  rw [contThreads_lanes l seed task k.2 hln, hpresent]
  refine ⟨List.map_map.trans (List.map_id _), fun w hw => ?_⟩
  obtain ⟨n, hmem, rfl⟩ := List.mem_map.mp hw
  obtain ⟨hrange, hin⟩ := List.mem_filter.mp hmem
  have hn64 : n < 64 := List.mem_range.mp hrange
  obtain ⟨t, ht, rfl⟩ := List.mem_map.mp (of_decide_eq_true hin)
  have hfind : ts.find? (·.lane == t.lane) = some t := find_lane hnd ht
  refine ⟨rfl, rfl, rfl, t, ht, rfl, ?_, fun p hp => ?_⟩
  · refine (contRecord_index he hnd hlt hlo hn64).trans ?_
    rw [hfind]
    rfl
  · obtain ⟨o, hbody, hget⟩ := contRecord_regs (x := x) (d := d) hslots hlanes hlo hn (laneForm k.2 t.lane) (RegFile.free (seed + t.lane)) hp
    rw [hr]
    refine (congrArg (fun f => Form.val f 0) hget).trans ?_
    rw [laneForm_val (hslots p).1 hn64 hbody, contSlot_lanes he]
    refine (laneSlot_spec _ (laneValues ts p.2) (by rwa [laneValues_lanes]) (fun q hq => ?_)).2 (t.lane, (t.regs.get p.2).val 0)
      (List.mem_map_of_mem ht)
    obtain ⟨u, hu, rfl⟩ := List.mem_map.mp hq
    exact hlt u hu

end

theorem continuationRecord : Says.ContinuationRecord :=
  ⟨headerFields_holds, fun _ _ _ _ _ he hlo hn0 hn => strandRecord he hlo hn0 hn,
    fun _ _ _ _ _ he _ hnd hall => lanesRecord he hnd (fun t ht => (hall t ht).1) (fun t ht => (hall t ht).2)⟩

end Sys2Proof.Machine
end

section
namespace Sys2Proof.Machine
set_option Elab.async false

/-! ### Stores to memory -/

/-- The state differs in memory only, there in no byte at which `Out` holds. -/
structure MemOnly (Out : Nat → Prop) (s w : State) : Prop where
  frame : w = { s with mem := w.mem, writers := w.writers }
  form : Memory.wf s.mem = true → Memory.wf w.mem = true
  out : Memory.wf s.mem = true → ∀ b, Out b → Memory.get w.mem b = Memory.get s.mem b

section
variable {s w u : State} {Out Out' : Nat → Prop}

theorem MemOnly.refl : MemOnly Out s s := ⟨rfl, id, fun _ _ _ => rfl⟩

theorem MemOnly.trans (h : MemOnly Out s w) (h' : MemOnly Out w u) : MemOnly Out s u where
  frame := by rw [h'.frame, h.frame]
  form hm := h'.form (h.form hm)
  out hm b hb := (h'.out (h.form hm) b hb).trans (h.out hm b hb)

theorem MemOnly.mono (h : MemOnly Out s w) (hle : ∀ b, Out' b → Out b) : MemOnly Out' s w :=
  ⟨h.frame, h.form, fun hm b hb => h.out hm b (hle b hb)⟩

theorem MemOnly.conts (h : MemOnly Out s w) : w.conts = s.conts := by rw [h.frame]
theorem MemOnly.tasks (h : MemOnly Out s w) : w.tasks = s.tasks := by rw [h.frame]
theorem MemOnly.launches (h : MemOnly Out s w) : w.launches = s.launches := by rw [h.frame]

theorem State.writeLoc_memOnly (p n v : Nat) : MemOnly (fun b => b < p ∨ p + n ≤ b) s (s.writeLoc (.phys p) n v) :=
  ⟨rfl, fun hm => Memory.store_wf hm .., fun hm b hb => Memory.get_store_outside hm _ _ _ b hb⟩

theorem State.writeWords_memOnly {ls : List Loc} (hls : ∀ l ∈ ls, ∃ p, l = .phys p) (v : Nat) :
    MemOnly (fun b => ∀ p, .phys p ∈ ls → b < p ∨ p + 8 ≤ b) s (s.writeWords ls v) := by
  unfold State.writeWords
  induction ls generalizing s v with
  | nil => exact .refl
  | cons l ls ih =>
    obtain ⟨⟨p, rfl⟩, htail⟩ := List.forall_mem_cons.mp hls
    refine MemOnly.trans ((State.writeLoc_memOnly p 8 (v % 2 ^ 64)).mono (fun b hb => hb p List.mem_cons_self)) ?_
    exact (ih htail (v / 2 ^ 64)).mono (fun b hb q hq => hb q (List.mem_cons_of_mem _ hq))

end

/-! ### The places of a record (R370, R384) -/

theorem Gives.mapM {ε α : Type} {P : α → Prop} {xs : List (Except ε α)} (h : ∀ x ∈ xs, Gives P x) :
    Gives (fun ls => ∀ l ∈ ls, P l) (xs.mapM id) := by
  induction xs with
  | nil => exact .ok nofun
  | cons x xs ih =>
    obtain ⟨hx, hxs⟩ := List.forall_mem_cons.mp h
    rw [List.mapM_cons]
    exact .bindOf hx (fun a ha => .bindOf (ih hxs) (fun ls hls => .ok (List.forall_mem_cons.mpr ⟨ha, hls⟩)))

theorem gAccess_phys {s : State} {e : Env} {t : Thread} {a : W64} {n : Nat} {k : AccKind} {al : Nat} :
    Gives (fun l => ∃ p, l = .phys p) (gAccess s e t a n k al) := by
  show Gives _ (if _ then _ else _)
  exact .check State.globalLoc_phys

theorem contLocs_phys {s : State} {e : Env} {t : Thread} {a d : W64} {len : Nat} :
    Gives (fun q => (∀ l ∈ q.1, ∃ p, l = .phys p) ∧ ∃ p, q.2 = .phys p) (contLocs s e t a d len) := by
  unfold contLocs
  refine .guard (fun _ => .guard (fun _ => .bind (fun _ => .bindOf (.mapM (fun x hx => ?_))
    (fun ls hls => .bindOf gAccess_phys (fun l hl => .ok ⟨hls, hl⟩)))))
  obtain ⟨k, -, rfl⟩ := List.mem_map.mp hx
  exact gAccess_phys

/-! ### CONT by one thread (R51 to R54, R370) -/

/-- A counter that is not zero takes the action of resuming the record at a. -/
def contAwaited (w : State) (cl : Loc) (a : W64) : State :=
  if w.readLoc cl 8 = 0 then w else w.writeLoc (locAdd cl 8) 8 (2 ^ 62 + a.toNat % 2 ^ 56)
/-- The record as CONT leaves it. -/
def contWritten (s : State) (ls : List Loc) (cl : Loc) (v : Nat) (a : W64) : State := contAwaited (s.bump.writeWords ls v) cl a

/-- A byte apart from the record's words and from the action word of the counter at c. -/
def RecordApart (ls : List Loc) (c b : Nat) : Prop := (∀ p, .phys p ∈ ls → b < p ∨ p + 8 ≤ b) ∧ (b < c + 8 ∨ c + 16 ≤ b)

theorem contWritten_memOnly {s : State} {ls : List Loc} (hls : ∀ l ∈ ls, ∃ p, l = .phys p) (p v : Nat) (a : W64) :
    MemOnly (RecordApart ls p) s.bump (contWritten s ls (.phys p) v a) := by
  have hw := (State.writeWords_memOnly (s := s.bump) hls v).mono (Out' := RecordApart ls p) (fun b hb => hb.1)
  unfold contWritten contAwaited
  split
  · exact hw
  · exact hw.trans ((State.writeLoc_memOnly (p + 8) 8 _).mono (fun b hb => hb.2))

/-- The record that waits. -/
def contWaits (s : State) (g : Group) (t : Thread) (a : W64) (zero : Bool) : Cont :=
  ⟨s.ctxOf g.pen, a, (s.task t.task).launch, zero, (t.pend.map Pend.op).dedup,
    (t.pend.filterMap (fun p => p.queue.map (fun b => (p.op, b)))).dedup⟩

/-- The state in which the thread retires, from the one, w, in which the record is written. -/
def contDone (s w : State) (g : Group) (t : Thread) (a : W64) (zero : Bool) : State :=
  { w with
    conts := s.conts.filter (fun y => !(y.ctx == s.ctxOf g.pen && y.addr == a)) ++ [contWaits s g t a zero]
    tasks := s.tasks.map (fun x => if x.id = t.task then { x with contEnd := true } else x)
    launches := s.launches.map (fun y => if y.id = (s.task t.task).launch then { y with conts := y.conts.filter (· != a) ++ [a] } else y) }

section
variable {s : State} {g : Group} {r : Run} {t : Thread} {x : FmtI} {a d : W64} {ls : List Loc} {cl : Loc}
  (ha : t.reads g r .int x.a = .u a) (hd : t.reads g r .int x.d = .u d) (hiss : issuers s (envOf g r) t = [t]) (hguard : t.laneGuard x.gd = some true)
  (hpreds : t.preds = []) (hih : t.ih = false) (hkill : s.killed g.pen t = false)
  (hlocs : contLocs s (envOf g r) t a d (contRecord s (envOf g r) x [t] d).1 = .ok (ls, cl))
include ha hd hpreds hih hkill

theorem contBase_names : contBase s (envOf g r) x t = .names a d := by
  have hkill' : s.killed (envOf g r).pen t = false := hkill
  have ha' : qVal (envOf g r) t x.a = a := congrArg (fun f => Form.val f 0) ha
  have hd' : qVal (envOf g r) t x.d = d := congrArg (fun f => Form.val f 0) hd
  simp [contBase, hpreds, hih, hkill', ha', hd']

include hlocs in
theorem contCase_names : contCase s (envOf g r) x [t] t = .names a d := by
  have hbase := contBase_names ha hd hpreds hih hkill
  simp [contCase, hbase, hlocs]

include hiss hguard hlocs in
theorem contAct_done : contAct x s s (envOf g r) t
    = .ok { s := contDone s (contWritten s ls cl (contRecord s (envOf g r) x [t] d).2 a) g t a
                  (decide ((s.bump.writeWords ls (contRecord s (envOf g r) x [t] d).2).readLoc cl 8 = 0)), t := t.exit, flow := .leave } := by
  obtain ⟨hls, p, rfl⟩ := contLocs_phys _ hlocs
  have hbase := contBase_names ha hd hpreds hih hkill
  have hcase := contCase_names ha hd hpreds hih hkill hlocs
  unfold contAct
  extract_lets all upTo fin c l
  have hall : all = [t] := by simp [all, hiss, hguard]
  clear_value all
  subst hall
  split
  next h => exact nomatch hcase.symm.trans h
  next h => exact nomatch hcase.symm.trans h
  next a' d' h =>
  obtain ⟨rfl, rfl⟩ := ContCase.names.inj (h.symm.trans hcase)
  extract_lets mine rcd
  have hmine : mine = [t] := by simp [mine, upTo, hcase, hbase]
  clear_value mine
  subst hmine
  rw [if_neg (by simp)]
  split
  next hf => exact nomatch hlocs.symm.trans hf
  next ls' cl' hf =>
  obtain ⟨rfl, rfl⟩ := Prod.mk.inj (Except.ok.inj (hf.symm.trans hlocs))
  extract_lets s1 zero s2 k s3 s4
  have hk : k = contWaits s g t a' (decide (s1.readLoc (.phys p) 8 = 0)) := by
    simp only [k, List.flatMap_cons, List.flatMap_nil, List.append_nil]
    rfl
  have hs2 : s2 = contAwaited s1 (.phys p) a' := if_congr beq_iff_eq rfl rfl
  have hmem := contWritten_memOnly (s := s) hls p rcd.2 a'
  rw [contWritten, ← hs2] at hmem
  have hconts : s2.conts = s.conts := hmem.conts
  have htasks : s2.tasks = s.tasks := hmem.tasks
  have hlaunches : s2.launches = s.launches := hmem.launches
  clear_value s2 k
  subst hk hs2
  simp only [s4, s3, State.updTask, State.updLaunch, hconts, htasks, hlaunches, beq_iff_eq]
  rfl

end

end Sys2Proof.Machine
end

section
namespace Sys2Proof.Machine
set_option Elab.async false

/-! ### CONT, and a record that resumes (R51 to R54, R347, R370) -/

/-- Once memory is written, the records, the tasks and the launches are all that CONT changes. -/
theorem contDone_frame {Out : Nat → Prop} {s w u : State} (h : MemOnly Out s.bump w) {g : Group} {t : Thread} {a : W64} {zero : Bool}
    (hu : u = contDone s w g t a zero) :
    u = { s with conts := u.conts, tasks := u.tasks, launches := u.launches, mem := u.mem, writers := u.writers, fresh := u.fresh } := by
  have hfresh : w.fresh = s.bump.fresh := by rw [h.frame]
  have hfresh' : u.fresh = s.bump.fresh := by rw [hu]; exact hfresh
  have hmem : u.mem = w.mem := by rw [hu]; rfl
  have hwriters : u.writers = w.writers := by rw [hu]; rfl
  have hw : u = { w with conts := u.conts, tasks := u.tasks, launches := u.launches } := by rw [hu]; rfl
  refine (hw.trans (congrArg (fun y : State => ({ y with conts := u.conts, tasks := u.tasks, launches := u.launches } : State)) h.frame)).trans ?_
  rw [hfresh', hmem, hwriters]
  rfl

theorem contDone_mem {s w : State} {g : Group} {t : Thread} {a : W64} {zero : Bool} : (contDone s w g t a zero).mem = w.mem := rfl

theorem contDone_get {Out : Nat → Prop} {s w : State} (h : MemOnly Out s.bump w) {g : Group} {t : Thread} {a : W64} {zero : Bool}
    (hform : s.memForm = true) {b : Nat} (hb : Out b) : Memory.get (contDone s w g t a zero).mem b = Memory.get s.mem b := by
  rw [contDone_mem]
  exact h.out (State.formed_iff (s := s).mp hform).1 b hb

theorem contResume_go {s : State} {k : Cont} {pen : Nat} {l : Launch} {m whole : Nat}
    (hk : s.conts.find? (fun y => y.ctx == k.ctx && y.addr == k.addr && y.zero && y.ops.isEmpty) = some k) (hgoes : (s.ctx k.ctx).stopped = false)
    (hm : s.devRead k.ctx k.addr 64 = .ok m) (hbad : (contHead m).bad m k.ctx = false) (hword : s.resumeBad k.ctx (contHead m).pc = false)
    (hl : s.launches.find? (fun y => y.id % 2 ^ 32 == (contHead m).launch && y.ctx == k.ctx) = some l)
    (hwhole : s.devRead k.ctx k.addr (contHead m).length = .ok whole) (hpen : ∃ p ∈ s.pens, p.id = pen ∧ p.launch = l.id) :
    exec (.continuationResume k.ctx k.addr pen) s = .next (s.contGo k l pen (contHead m) whole) := by
  have hpens : s.pens.any (fun p => p.id == pen && p.launch == l.id) = true := by
    obtain ⟨p, hp, rfl, h⟩ := hpen
    exact List.any_eq_true.mpr ⟨p, hp, by simp [h]⟩
  have hresume : s.resumeCont k pen = s.contGo k l pen (contHead m) whole := by
    simp only [State.resumeCont, hm, hbad, hword, hl, hwhole, hpens, Bool.or_self, Bool.false_eq_true, if_false, if_true]
  show execContinuationResume k.ctx k.addr pen s = _
  unfold execContinuationResume
  rw [hk]
  show Host.Outcome.next (if (s.ctx k.ctx).stopped then s else s.resumeCont k pen) = _
  rw [hgoes, hresume]
  rfl

/-- A thread resumed goes on at the record's clause, for the new task. -/
theorem contThreads_start {l : Launch} {seed task : Nat} {r : ContRec} {m : Nat} {w : Thread} (hw : w ∈ contThreads l seed task r m) :
    w.pc = r.pc ∧ w.task = task := by
  cases h : r.lanes with
  | true =>
    rw [contThreads_lanes l seed task m h] at hw
    obtain ⟨k, -, rfl⟩ := List.mem_map.mp hw
    exact ⟨rfl, rfl⟩
  | false =>
    rw [contThreads_strand l seed task m h] at hw
    rw [List.mem_singleton.mp hw]
    exact ⟨rfl, rfl⟩

section
variable {s : State} {g : Group} {r : Run} {t : Thread} {x : FmtI} {a d : W64} {ls : List Loc} {cl : Loc}
  (ha : t.reads g r .int x.a = .u a) (hd : t.reads g r .int x.d = .u d) (hp : Performs s g r t (.cont x) x.gd) (hlast : r.pos + 1 = r.words.length)
  (hiss : issuers s (envOf g r) t = [t]) (hguard : t.laneGuard x.gd = some true)
  (hpreds : t.preds = []) (hih : t.ih = false) (hkill : s.killed g.pen t = false)
  (hlocs : contLocs s (envOf g r) t a d (contRecord s (envOf g r) x [t] d).1 = .ok (ls, cl))
include ha hd hp hlast hiss hguard hpreds hih hkill hlocs

theorem exec_cont : exec (.cont x) s
    = .next ((contDone s (contWritten s ls cl (contRecord s (envOf g r) x [t] d).2 a) g t a
        (decide ((s.bump.writeWords ls (contRecord s (envOf g r) x [t] d).2).readLoc cl 8 = 0))).performLeave g r t.exit) := by
  have ha' : baseForm (envOf g r) t x.a = .u a := ha
  have hd' : baseForm (envOf g r) t x.d = .u d := hd
  have hbad : (fun e : Env => !e.last) (envOf g r) = false := by simp [envOf, hlast]
  have hlay : srcA (envOf g r) t [x.a, x.d] = false := by simp [srcA, ha', hd', Form.isA]
  rw [show exec (.cont x) s = execCont x s from rfl, execCont]
  exact drive_leave (bad := fun e => !e.last) (m := { gd := x.gd, lay := fun _ e t => srcA e t [x.a, x.d], act := contAct x s })
    hp hbad rfl (fun _ => hlay) rfl
    (contAct_done ha hd hiss hguard hpreds hih hkill hlocs)

end

theorem contAwaited_eq (w : State) (cl : Loc) (a : W64) :
    contAwaited w cl a = if decide (w.readLoc cl 8 = 0) then w else w.writeLoc (locAdd cl 8) 8 (2 ^ 62 + a.toNat % 2 ^ 56) :=
  if_congr decide_eq_true_iff.symm rfl rfl

theorem contAndResume : Says.ContAndResume := by
  refine ⟨?_, ?_⟩
  · intro s g r t x a d ls cl ha hd hp hlast hiss hguard hpreds hih hkill rcd l w zero hlocs
    obtain ⟨hls, p, hcl⟩ := contLocs_phys _ hlocs
    dsimp only at hls hcl
    subst hcl
    have hmem := contWritten_memOnly (s := s) hls p rcd.2 a
    have hw : (contAwaited w (.phys p) a).mem = (if zero then w else w.writeLoc (locAdd (.phys p) 8) 8 (2 ^ 62 + a.toNat % 2 ^ 56)).mem :=
      congrArg State.mem (contAwaited_eq w (.phys p) a)
    refine ⟨contDone s (contWritten s ls (.phys p) rcd.2 a) g t a zero, exec_cont ha hd hp hlast hiss hguard hpreds hih hkill hlocs,
      rfl, rfl, rfl, contDone_mem.trans hw, contDone_frame hmem rfl, fun hform b hout hctr => contDone_get hmem hform ⟨hout, hctr p rfl⟩⟩
  · intro s k pen l m whole hk hgoes hm hbad hword hl hwhole hpen
    refine ⟨_, _, _, _, contResume_go hk hgoes hm hbad hword hl hwhole hpen, rfl, rfl, rfl, rfl, rfl, rfl, rfl, rfl,
      fun w hw => contThreads_start hw, fun w hw => ?_⟩
    obtain ⟨hin, hne⟩ := List.mem_filter.mp hw
    exact ⟨hin, fun h => by simp [h.1, h.2] at hne⟩

/-- Settles O42: the record that CONT writes is read back field by field, and the slots of a thread resumed give every value again. -/
theorem continuations : Obligations.Continuations := ⟨contAndResume, continuationRecord⟩

end Sys2Proof.Machine
end

section
namespace Sys2Proof
set_option Elab.async false

/-! ### Fields of a word: each field is read as a value exactly when its bits are the code of the value (R71 to R78) -/

theorem append_inj {m n : Nat} {a c : BitVec m} {b d : BitVec n} : a ++ b = c ++ d ↔ a = c ∧ b = d := by
  refine ⟨fun h => ⟨?_, ?_⟩, fun h => by rw [h.1, h.2]⟩
  · simpa only [BitVec.extractLsb'_append_eq_left] using congrArg (BitVec.extractLsb' n m) h
  · simpa only [BitVec.extractLsb'_append_eq_right] using congrArg (BitVec.extractLsb' 0 n) h

theorem bits_toNat {n : Nat} (w : BitVec n) (hi lo : Nat) : (bits w hi lo).toNat = w.toNat / 2 ^ lo % 2 ^ (hi - lo + 1) := by
  rw [bits, BitVec.extractLsb_toNat, Nat.shiftRight_eq_div_pow]

section
variable {y : BitVec 2}

theorem fileOf_eq_iff {f : File} : fileOf y = f ↔ y = f.code := by revert y; cases f <;> decide
theorem guardOf_eq_some_iff {g : Guard} : guardOf y = some g ↔ y = g.code := by revert y; cases g <;> decide
theorem modOf_eq_iff {m : Mod} : modOf y = m ↔ y = m.code := by revert y; cases m <;> decide
theorem clampOf_eq_iff {c : Clamp} : clampOf y = c ↔ y = c.code := by revert y; cases c <;> decide
theorem spaceOf_eq_some_iff {p : Space} : spaceOf y = some p ↔ y = p.code := by revert y; cases p <;> decide
theorem hintOf_eq_iff {h : Hint} : hintOf y = h ↔ y = h.code := by revert y; cases h <;> decide

end

theorem opdOf_eq_iff {y : BitVec 10} {o : Opd} : opdOf y = o ↔ y = o.code := by
  have hy : y.extractLsb' 8 2 ++ y.extractLsb' 0 8 = y := by
    simp only [BitVec.extractLsb'_append_extractLsb'_eq_extractLsb']
    exact BitVec.extractLsb'_eq_self
  obtain ⟨f, i⟩ := o
  show (⟨fileOf (y.extractLsb' 8 2), y.extractLsb' 0 8⟩ : Opd) = _ ↔ y = f.code ++ i
  rw [Opd.mk.injEq, fileOf_eq_iff, ← append_inj, hy]

theorem isSet_eq_iff {w : W64} {k : Nat} {b : Bool} : isSet w k = b ↔ w.extractLsb' k 1 = bit1 b := by
  have hk : w.extractLsb' k 1 = bit1 (isSet w k) := BitVec.eq_of_getLsbD_eq (fun i hi => by
    obtain rfl : i = 0 := by omega
    cases h : isSet w k <;> simpa [isSet, bit1] using h)
  rw [hk]
  cases isSet w k <;> cases b <;> decide

/-! ### The eight formats (R77): a word parses to fields exactly when its bits below the opcode are theirs

In each format the bits are split at the format's fields, and the fields compared one by one. -/

theorem parseM_eq_bind (w : W64) : parseM w =
    if bits w 8 0 == 0 then
      (guardOf (bits w 54 53)).bind fun gd => (spaceOf (bits w 12 11)).map fun sp =>
        { gd := gd, v := opdOf (bits w 52 43), base := opdOf (bits w 42 33), off := bits w 32 13, space := sp,
          hint := hintOf (bits w 10 9) }
    else none := by
  unfold parseM
  cases guardOf (bits w 54 53) <;> cases spaceOf (bits w 12 11) <;> rfl

section
variable {w : W64}

theorem parseA_eq_some_iff {x : FmtA} : parseA w = some x ↔ bits w 54 0 = x.bits := by
  obtain ⟨gd, d, a, b, c, ma, mb, mc, cl, sc⟩ := x
  have hw : w.extractLsb' 53 2 ++ w.extractLsb' 43 10 ++ w.extractLsb' 33 10 ++ w.extractLsb' 23 10
      ++ w.extractLsb' 13 10 ++ w.extractLsb' 11 2 ++ w.extractLsb' 9 2 ++ w.extractLsb' 7 2 ++ w.extractLsb' 5 2
      ++ w.extractLsb' 2 3 ++ w.extractLsb' 0 2 = bits w 54 0 := by
    simp only [BitVec.extractLsb'_append_extractLsb'_eq_extractLsb']; rfl
  rw [← hw, FmtA.bits]
  simp only [append_inj]
  simp only [parseA, bits, beq_iff_eq, Option.ite_none_right_eq_some, Option.map_eq_some_iff, FmtA.mk.injEq, ↓existsAndEq, true_and,
    and_assoc, guardOf_eq_some_iff, opdOf_eq_iff, modOf_eq_iff, clampOf_eq_iff]
  tauto

theorem parseI_eq_some_iff {x : FmtI} : parseI w = some x ↔ bits w 54 0 = x.bits := by
  obtain ⟨gd, d, a, imm⟩ := x
  have hw : w.extractLsb' 53 2 ++ w.extractLsb' 43 10 ++ w.extractLsb' 33 10 ++ w.extractLsb' 1 32
      ++ w.extractLsb' 0 1 = bits w 54 0 := by
    simp only [BitVec.extractLsb'_append_extractLsb'_eq_extractLsb']; rfl
  rw [← hw, FmtI.bits]
  simp only [append_inj]
  simp only [parseI, bits, beq_iff_eq, Option.ite_none_right_eq_some, Option.map_eq_some_iff, FmtI.mk.injEq, ↓existsAndEq, true_and,
    and_assoc, guardOf_eq_some_iff, opdOf_eq_iff]
  tauto

theorem parseM_eq_some_iff {x : FmtM} : parseM w = some x ↔ bits w 54 0 = x.bits := by
  obtain ⟨gd, v, base, off, sp, hint⟩ := x
  have hw : w.extractLsb' 53 2 ++ w.extractLsb' 43 10 ++ w.extractLsb' 33 10 ++ w.extractLsb' 13 20
      ++ w.extractLsb' 11 2 ++ w.extractLsb' 9 2 ++ w.extractLsb' 0 9 = bits w 54 0 := by
    simp only [BitVec.extractLsb'_append_extractLsb'_eq_extractLsb']; rfl
  rw [← hw, FmtM.bits]
  simp only [append_inj]
  simp only [parseM_eq_bind, bits, beq_iff_eq, Option.ite_none_right_eq_some, Option.map_eq_some_iff, FmtM.mk.injEq, ↓existsAndEq, true_and,
    and_assoc, guardOf_eq_some_iff, opdOf_eq_iff, Option.bind_eq_some_iff, spaceOf_eq_some_iff, hintOf_eq_iff]
  tauto

theorem parseG_eq_some_iff {x : FmtG} : parseG w = some x ↔ bits w 54 0 = x.bits := by
  obtain ⟨gd, v, base, idx, rmp, scl⟩ := x
  have hw : w.extractLsb' 53 2 ++ w.extractLsb' 43 10 ++ w.extractLsb' 33 10 ++ w.extractLsb' 23 10
      ++ w.extractLsb' 20 3 ++ w.extractLsb' 18 2 ++ w.extractLsb' 0 18 = bits w 54 0 := by
    simp only [BitVec.extractLsb'_append_extractLsb'_eq_extractLsb']; rfl
  rw [← hw, FmtG.bits]
  simp only [append_inj]
  simp only [parseG, bits, beq_iff_eq, Option.ite_none_right_eq_some, Option.map_eq_some_iff, FmtG.mk.injEq, ↓existsAndEq, true_and,
    and_assoc, guardOf_eq_some_iff, opdOf_eq_iff]
  tauto

theorem parseB_eq_some_iff {x : FmtB} : parseB w = some x ↔ bits w 54 0 = x.bits := by
  obtain ⟨gd, a, tgt, spl⟩ := x
  have hw : w.extractLsb' 53 2 ++ w.extractLsb' 43 10 ++ w.extractLsb' 17 26 ++ w.extractLsb' 1 16
      ++ w.extractLsb' 0 1 = bits w 54 0 := by
    simp only [BitVec.extractLsb'_append_extractLsb'_eq_extractLsb']; rfl
  rw [← hw, FmtB.bits]
  simp only [append_inj]
  simp only [parseB, bits, beq_iff_eq, Option.ite_none_right_eq_some, Option.map_eq_some_iff, FmtB.mk.injEq, ↓existsAndEq, true_and,
    and_assoc, guardOf_eq_some_iff, opdOf_eq_iff]
  tauto

theorem parseE_eq_some_iff {x : FmtE} : parseE w = some x ↔ bits w 54 0 = x.bits := by
  obtain ⟨gd, d, a, b, acc, pa, pb, zc, bsel, gng, spa, spb, flg⟩ := x
  have hw : w.extractLsb' 53 2 ++ w.extractLsb' 43 10 ++ w.extractLsb' 33 10 ++ w.extractLsb' 23 10
      ++ w.extractLsb' 18 5 ++ w.extractLsb' 15 3 ++ w.extractLsb' 12 3 ++ w.extractLsb' 11 1 ++ w.extractLsb' 9 2
      ++ w.extractLsb' 8 1 ++ w.extractLsb' 7 1 ++ w.extractLsb' 6 1 ++ w.extractLsb' 2 4 ++ w.extractLsb' 0 2
      = bits w 54 0 := by
    simp only [BitVec.extractLsb'_append_extractLsb'_eq_extractLsb']; rfl
  rw [← hw, FmtE.bits]
  simp only [append_inj]
  simp only [parseE, bits, beq_iff_eq, Option.ite_none_right_eq_some, Option.map_eq_some_iff, FmtE.mk.injEq, ↓existsAndEq, true_and,
    and_assoc, guardOf_eq_some_iff, opdOf_eq_iff, isSet_eq_iff]
  tauto

theorem parseS_eq_some_iff {x : FmtS} : parseS w = some x ↔ bits w 54 0 = x.bits := by
  obtain ⟨gd, d, a, srn⟩ := x
  have hw : w.extractLsb' 53 2 ++ w.extractLsb' 43 10 ++ w.extractLsb' 33 10 ++ w.extractLsb' 21 12
      ++ w.extractLsb' 0 21 = bits w 54 0 := by
    simp only [BitVec.extractLsb'_append_extractLsb'_eq_extractLsb']; rfl
  rw [← hw, FmtS.bits]
  simp only [append_inj]
  simp only [parseS, bits, beq_iff_eq, Option.ite_none_right_eq_some, Option.map_eq_some_iff, FmtS.mk.injEq, ↓existsAndEq, true_and,
    and_assoc, guardOf_eq_some_iff, opdOf_eq_iff]
  tauto

theorem parseQ_eq_some_iff {x : FmtQ} : parseQ w = some x ↔ bits w 54 0 = x.bits := by
  obtain ⟨gd, d, a, b, flg, wm⟩ := x
  have hw : w.extractLsb' 53 2 ++ w.extractLsb' 43 10 ++ w.extractLsb' 33 10 ++ w.extractLsb' 23 10
      ++ w.extractLsb' 19 4 ++ w.extractLsb' 17 2 ++ w.extractLsb' 0 17 = bits w 54 0 := by
    simp only [BitVec.extractLsb'_append_extractLsb'_eq_extractLsb']; rfl
  rw [← hw, FmtQ.bits]
  simp only [append_inj]
  simp only [parseQ, bits, beq_iff_eq, Option.ite_none_right_eq_some, Option.map_eq_some_iff, FmtQ.mk.injEq, ↓existsAndEq, true_and,
    and_assoc, guardOf_eq_some_iff, opdOf_eq_iff]
  tauto

/-- The row makes the instruction of the 55 bits below the opcode: they are those of the fields it is made from. -/
def Mk.Makes (m : Mk) (i : Instr) (b : BitVec 55) : Prop :=
  match m with
  | .A f => ∃ x, b = x.bits ∧ f x = i
  | .I f => ∃ x, b = x.bits ∧ f x = i
  | .M f => ∃ x, b = x.bits ∧ f x = i
  | .G f => ∃ x, b = x.bits ∧ f x = i
  | .B f => ∃ x, b = x.bits ∧ f x = i
  | .E f => ∃ x, b = x.bits ∧ f x = i
  | .S f => ∃ x, b = x.bits ∧ f x = i
  | .Q f => ∃ x, b = x.bits ∧ f x = i

theorem Mk.parse_eq_some_iff {m : Mk} {i : Instr} : m.parse w = some i ↔ m.Makes i (bits w 54 0) := by
  cases m <;> simp only [Mk.parse, Mk.Makes, Option.map_eq_some_iff, parseA_eq_some_iff, parseI_eq_some_iff, parseM_eq_some_iff,
    parseG_eq_some_iff, parseB_eq_some_iff, parseE_eq_some_iff, parseS_eq_some_iff, parseQ_eq_some_iff]

end

/-! ### The opcode map (R80) -/

theorem allRows_opcs : allRows.map Row.opc = List.range' 0 32 ++ List.range' 32 13 ++ List.range' 0x40 30 ++ List.range' 0x80 27
    ++ List.range' 0xC0 31 ++ List.range' 0x100 32 ++ List.range' 0x120 30 ++ List.range' 0x140 32 ++ List.range' 0x160 1
    ++ List.range' 0x180 29 ++ List.range' 0x1C0 31 := by
  simp only [allRows, List.map_append]
  rfl

/-- The assigned ranges of the grid. -/
theorem mem_allRows_opcs {opc : Nat} : opc ∈ allRows.map Row.opc ↔
    opc ≤ 0x02C ∨ (0x040 ≤ opc ∧ opc ≤ 0x05D) ∨ (0x080 ≤ opc ∧ opc ≤ 0x09A) ∨ (0x0C0 ≤ opc ∧ opc ≤ 0x0DE)
      ∨ (0x100 ≤ opc ∧ opc ≤ 0x13D) ∨ (0x140 ≤ opc ∧ opc ≤ 0x160) ∨ (0x180 ≤ opc ∧ opc ≤ 0x19C) ∨ (0x1C0 ≤ opc ∧ opc ≤ 0x1DE) := by
  rw [allRows_opcs]
  simp only [List.mem_append, List.mem_range'_1]
  omega

theorem rowOf_eq_none_iff {opc : Nat} : rowOf opc = none ↔ opc ∉ allRows.map Row.opc := by simp [rowOf]

theorem mem_of_rowOf {opc : Nat} {m : Mk} (h : rowOf opc = some m) : ⟨opc, m⟩ ∈ allRows := by
  obtain ⟨⟨o, k⟩, hr, rfl⟩ := Option.map_eq_some_iff.mp h
  obtain rfl : o = opc := by simpa using List.find?_some hr
  exact List.mem_of_find?_eq_some hr

theorem rowOf_lt {opc : Nat} {m : Mk} (h : rowOf opc = some m) : opc < 2 ^ 9 := by
  have hmem : opc ∈ allRows.map Row.opc := List.mem_map_of_mem (f := Row.opc) (mem_of_rowOf h)
  have := mem_allRows_opcs.mp hmem
  omega

/-! ### What a word decodes to, and what an instruction encodes to -/

section
variable {w : W64} {i : Instr}

theorem decodeWord_eq_illop_iff : decodeWord w = .illop ↔ rowOf (opcOf w).toNat = none := by
  unfold decodeWord
  cases rowOf (opcOf w).toNat with
  | none => simp
  | some m =>
    refine iff_of_false ?_ nofun
    dsimp only
    split
    · split <;> nofun
    · nofun

theorem decodeWord_eq_ok_iff : decodeWord w = .ok i ↔
    ∃ m, rowOf (opcOf w).toNat = some m ∧ m.Makes i (bits w 54 0) ∧ i.wf = true := by
  unfold decodeWord
  cases rowOf (opcOf w).toNat with
  | none => simp
  | some m =>
    simp only [Option.some.injEq, exists_eq_left', ← Mk.parse_eq_some_iff]
    cases m.parse w with
    | none => simp
    | some j =>
      have hj : (if j.wf then Decoded.ok j else .illfmt) = .ok i ↔ j.wf = true ∧ j = i := by split <;> simp [*]
      simp only [hj, Option.some.injEq]
      exact and_comm.trans (and_congr_right (fun h => h ▸ Iff.rfl))

theorem encode_eq_some_iff : encode i = some w ↔ ∃ opc, i.word? = some (opc, bits w 54 0) ∧ BitVec.ofNat 9 opc = opcOf w := by
  have hw : opcOf w ++ bits w 54 0 = w := by
    show w.extractLsb' 55 9 ++ w.extractLsb' 0 55 = w
    simp only [BitVec.extractLsb'_append_extractLsb'_eq_extractLsb']
    exact BitVec.extractLsb'_eq_self
  rw [encode, Option.map_eq_some_iff]
  constructor
  · rintro ⟨⟨opc, b⟩, h, he⟩
    obtain ⟨ho, rfl⟩ := append_inj.mp (he.trans hw.symm)
    exact ⟨opc, h, ho⟩
  · rintro ⟨opc, h, ho⟩
    exact ⟨_, h, by rw [ho]; exact hw⟩

end

/-! ### Each row against the encoder

First the opcodes that several instructions share: each of them has the opcode. -/

/-- The encoder gives the instructions of the row its opcode and their fields. -/
def Row.Encodes (r : Row) : Prop := ∀ i b, r.kind.Makes i b → i.word? = some (r.opc, b)

theorem mkRngcfg_encodes : Row.Encodes ⟨0x098, .Q mkRngcfg⟩ := by
  rintro _ _ ⟨x, rfl, rfl⟩; unfold mkRngcfg; split <;> rfl
theorem mkBar_encodes_pen : Row.Encodes ⟨0x0D2, .Q (mkBar .pen)⟩ := by
  rintro _ _ ⟨x, rfl, rfl⟩; unfold mkBar; split <;> rfl
theorem mkBar_encodes_yard : Row.Encodes ⟨0x0D3, .Q (mkBar .yard)⟩ := by
  rintro _ _ ⟨x, rfl, rfl⟩; unfold mkBar; split <;> rfl
theorem mkSpawn_encodes : Row.Encodes ⟨0x1C5, .Q mkSpawn⟩ := by
  rintro _ _ ⟨x, rfl, rfl⟩; unfold mkSpawn; split <;> rfl
theorem mkHistlatch_encodes : Row.Encodes ⟨0x1CC, .Q mkHistlatch⟩ := by
  rintro _ _ ⟨x, rfl, rfl⟩; unfold mkHistlatch; split <;> rfl
theorem mkIncrd_encodes : Row.Encodes ⟨0x1CF, .Q mkIncrd⟩ := by
  rintro _ _ ⟨x, rfl, rfl⟩; unfold mkIncrd; split <;> rfl
theorem mkTbset_encodes : Row.Encodes ⟨0x1D0, .Q mkTbset⟩ := by
  rintro _ _ ⟨x, rfl, rfl⟩; unfold mkTbset; repeat' split
  all_goals rfl
theorem mkEret_encodes : Row.Encodes ⟨0x1DA, .A mkEret⟩ := by
  rintro _ _ ⟨x, rfl, rfl⟩; unfold mkEret; split <;> rfl
theorem mkGovset_encodes : Row.Encodes ⟨0x1DD, .Q mkGovset⟩ := by
  rintro _ _ ⟨x, rfl, rfl⟩; unfold mkGovset; repeat' split
  all_goals rfl
theorem mkKillt_encodes : Row.Encodes ⟨0x1DE, .Q mkKillt⟩ := by
  rintro _ _ ⟨x, rfl, rfl⟩; unfold mkKillt; split <;> rfl

theorem allRows_encode : ∀ r ∈ allRows, r.Encodes := by
  simp only [allRows, rows0a, rows0b, rows1a, rows2a, rows3a, rows4a, rows4b, rows5a, rows5b, rows6a, rows7a, List.forall_mem_append,
    List.forall_mem_cons, List.not_mem_nil, false_implies, implies_true, mkRngcfg_encodes, mkBar_encodes_pen, mkBar_encodes_yard,
    mkSpawn_encodes, mkHistlatch_encodes, mkIncrd_encodes, mkTbset_encodes, mkEret_encodes, mkGovset_encodes, mkKillt_encodes, true_and,
    and_true]
  and_intros
  all_goals
    rintro _ _ ⟨x, rfl, rfl⟩
    rfl

/-! ### The encoder against the rows -/

/-- The opcode of the instruction has a row, which makes the instruction of its fields; an event has no opcode. -/
def Instr.HasRow (i : Instr) : Prop := ∀ opc b, i.word? = some (opc, b) → ∃ m, rowOf opc = some m ∧ m.Makes i b

theorem Instr.HasRow.intro {i : Instr} {opc : Nat} {b : BitVec 55} {m : Mk} (hi : i.word? = some (opc, b)) (hr : rowOf opc = some m)
    (hm : m.Makes i b) : i.HasRow := by
  intro _ _ h
  obtain ⟨rfl, rfl⟩ := Prod.mk.inj (Option.some.inj (hi.symm.trans h))
  exact ⟨m, hr, hm⟩

/-- A well-formed instruction of format Q meets its condition on WM, by which rows with one opcode are told apart. -/
theorem FmtQ.wm_of_ok {x : FmtQ} {d a b : Use} {flg wm gd0 : Bool} (h : x.ok d a b flg wm gd0 = true) : wm = true := by
  simp only [FmtQ.ok, Bool.and_eq_true] at h
  exact h.1.2

theorem Instr.hasRow {i : Instr} (h : i.wf = true) : i.HasRow := by
  cases i with
  | iabs x | and x | or x | xor x | not x | shl x | rot x | bfi x | popc x | clz x | ctz x | sel x | mov x | movi x
  | movhi x | lea x | addi x | bswap x | brev x | pand x | por x | pnot x | ppop x | ptest x | bra x | brx x | call x
  | callx x | ret x | splice x | exit x | loop x | nop x | movix x | range x | formq x | laydn x | yield x | kpoint x
  | pref x | rngwait x | rngfree x | rngfill x | rngclaim x | cpsIn x | cpsOut x | waita x | wake x | rmapset x
  | engfence x | frcp x | frsq x | fexp2 x | flog2 x | elect x | lmul x | lacc x | mmal x | mwait x | accz x
  | accld x | accst x | gangset x | hitch x | rpred x | rcheck x | rgath x | mprog x | mcancel x | qpush x | qpop x
  | copyD1 x | copyD2 x | copyGather x | cont x | depset x | depdec x | graphrun x | condw x | histadd x | wsdecl x
  | incupd x | trap x | assert x | syscall x | brk x | rdsr x | wrsr x | stage x | pflag x =>
    exact .intro rfl rfl ⟨x, rfl, rfl⟩
  | iadd v x | isub v x | imul v x | imulh v x | imad v x | idiv v x | irem v x | imin v x | imax v x | shr v x
  | bfx v x | iclamp v x | imulw v x | cmp v x | ld v x | st v x | lds v x | sts v x | atom v x | cas v x | atomf v x
  | bararv v x | gather v x | scatter v x | scata v x | fadd v x | fsub v x | fmul v x | fma v x | fdiv v x
  | fsqrt v x | fmin v x | fmax v x | cvt v x | red v x | scan v x | shfl v x | vote v x | bspack v x | bsunpk v x
  | bplane v x | qdot v x | mmap v x | mmaf v x | mmasp v x | drain v x | cycrd v x =>
    cases v <;> exact .intro rfl rfl ⟨x, rfl, rfl⟩
  | fcmp cc v x => cases cc <;> cases v <;> exact .intro rfl rfl ⟨x, rfl, rfl⟩
  | frnd m v x => cases m <;> cases v <;> exact .intro rfl rfl ⟨x, rfl, rfl⟩
  | barArriveWait v x | barWait v x => cases v <;> exact .intro rfl rfl ⟨x, rfl, by simp [mkBar, eq_of_beq (FmtQ.wm_of_ok h)]⟩
  | rngcfgConfigure x | rngcfgQuery x => exact .intro rfl rfl ⟨x, rfl, by simp [mkRngcfg, eq_of_beq (FmtQ.wm_of_ok h)]⟩
  | spawnRange x | spawnSingle x => exact .intro rfl rfl ⟨x, rfl, by simp [mkSpawn, eq_of_beq (FmtQ.wm_of_ok h)]⟩
  | histlatchLatch x | histlatchConfigure x => exact .intro rfl rfl ⟨x, rfl, by simp [mkHistlatch, eq_of_beq (FmtQ.wm_of_ok h)]⟩
  | incrdKey x | incrdCounters x => exact .intro rfl rfl ⟨x, rfl, by simp [mkIncrd, eq_of_beq (FmtQ.wm_of_ok h)]⟩
  | tbsetNextTask x | tbsetOwnTask x | tbsetNextCounter x => exact .intro rfl rfl ⟨x, rfl, by simp [mkTbset, eq_of_beq (FmtQ.wm_of_ok h)]⟩
  | govsetQueue x | govsetThresholds x | govsetControl x => exact .intro rfl rfl ⟨x, rfl, by simp [mkGovset, eq_of_beq (FmtQ.wm_of_ok h)]⟩
  | killtParked x | killtSelf x => exact .intro rfl rfl ⟨x, rfl, by simp [mkKillt, eq_of_beq (FmtQ.wm_of_ok h)]⟩
  | eretHandler x => exact .intro rfl rfl ⟨x, rfl, if_pos (Bool.and_eq_true_iff.mp h).2⟩
  | eretResume x => exact .intro rfl rfl ⟨x, rfl, if_neg (by simpa using (Bool.and_eq_true_iff.mp h).2)⟩
  | _ => exact fun _ _ h => nomatch h

/-! ### Encoding and decoding agree -/

/-- Settles O1: the opcode that the encoder gives has the row that makes the instruction (`Instr.hasRow`), and the word parses in
the row's format to the fields it was made from. -/
theorem decodeOfEncode : Obligations.DecodeOfEncode := by
  intro i w hwf he
  obtain ⟨opc, hword, hopc⟩ := encode_eq_some_iff.mp he
  obtain ⟨m, hrow, hm⟩ := Instr.hasRow hwf opc _ hword
  refine decodeWord_eq_ok_iff.mpr ⟨m, ?_, hm, hwf⟩
  rw [← hopc, BitVec.toNat_ofNat, Nat.mod_eq_of_lt (rowOf_lt hrow), hrow]

/-- Settles O2: each row gives its instructions the opcode under which they were found (`allRows_encode`). -/
theorem encodeOfDecode : Obligations.EncodeOfDecode := by
  intro w i h
  obtain ⟨m, hrow, hm, hwf⟩ := decodeWord_eq_ok_iff.mp h
  have hword : i.word? = some ((opcOf w).toNat, bits w 54 0) := allRows_encode _ (mem_of_rowOf hrow) i _ hm
  exact ⟨encode_eq_some_iff.mpr ⟨_, hword, by rw [BitVec.ofNat_toNat, BitVec.setWidth_eq]⟩, hwf⟩

/-- Settles O4: ILLOP is the answer where no row has the opcode, and the rows' opcodes are the grid's ranges. -/
theorem unassignedOpcodes : Obligations.UnassignedOpcodes := fun _ =>
  decodeWord_eq_illop_iff.trans (rowOf_eq_none_iff.trans (not_congr mem_allRows_opcs))

/-- Settles O3: each word is the encoding of its instruction, which is well formed. -/
theorem decodedWords : Obligations.DecodedWords := by
  refine ⟨?_, ?_, ?_, ?_, ?_, ?_, ?_, ?_, ?_, ?_⟩
  all_goals exact decodeOfEncode _ _ (by decide) (by decide)

/-! ### Clause headers (R62) -/

/-- The fields of a header word. -/
def headerOf (w : W64) : Header :=
  { ecl := bits w 59 57, cnt := bits w 56 53, wait := bits w 52 41, seta := bits w 40 37, setb := bits w 36 33, yld := isSet w 32,
    lit := bits w 31 0 }

theorem decodeHeader_eq (w : W64) : decodeHeader w =
    if bits w 63 60 == 0xC && decide ((bits w 59 57).toNat ≤ 5) && hdrFlagOk (bits w 40 37) && hdrFlagOk (bits w 36 33)
    then some (headerOf w) else none := rfl

theorem headerOf_encode {w : W64} (h : bits w 63 60 = 0xC) : (headerOf w).encode = w := by
  have hw : w.extractLsb' 60 4 ++ w.extractLsb' 57 3 ++ w.extractLsb' 53 4 ++ w.extractLsb' 41 12 ++ w.extractLsb' 37 4
      ++ w.extractLsb' 33 4 ++ w.extractLsb' 32 1 ++ w.extractLsb' 0 32 = w := by
    simp only [BitVec.extractLsb'_append_extractLsb'_eq_extractLsb']
    exact BitVec.extractLsb'_eq_self
  have h60 : w.extractLsb' 60 4 = 0xC := h
  rw [h60, isSet_eq_iff.mp rfl] at hw
  exact hw

theorem hdrFlagOk_iff {x : BitVec 4} : hdrFlagOk x = true ↔ x.toNat ≤ 11 ∨ x.toNat = 15 := by
  rw [hdrFlagOk, Bool.or_eq_true, decide_eq_true_eq, beq_iff_eq, ← BitVec.toNat_inj]
  rfl

theorem headerChecks_iff {w : W64} :
    (bits w 63 60 == 0xC && decide ((bits w 59 57).toNat ≤ 5) && hdrFlagOk (bits w 40 37) && hdrFlagOk (bits w 36 33)) = true ↔
      w.toNat / 2 ^ 60 = 12 ∧ w.toNat / 2 ^ 57 % 8 ≤ 5
        ∧ (w.toNat / 2 ^ 37 % 16 ≤ 11 ∨ w.toNat / 2 ^ 37 % 16 = 15) ∧ (w.toNat / 2 ^ 33 % 16 ≤ 11 ∨ w.toNat / 2 ^ 33 % 16 = 15) := by
  have h60 : bits w 63 60 = 0xC ↔ w.toNat / 2 ^ 60 = 12 := by
    have hlt := w.isLt
    rw [← BitVec.toNat_inj, bits_toNat, Nat.mod_eq_of_lt (by omega)]
    rfl
  simp only [Bool.and_eq_true, beq_iff_eq, decide_eq_true_eq, hdrFlagOk_iff, bits_toNat, h60, and_assoc]
  rfl

/-- Settles O5: the checks are those of R62 on the word's fields, and the fields side by side are the word. -/
theorem clauseHeaders : Obligations.ClauseHeaders := by
  intro w
  rw [decodeHeader_eq, ← headerChecks_iff]
  refine ⟨Option.isSome_ite, fun h hh => ?_⟩
  obtain ⟨hc, rfl⟩ : _ ∧ headerOf w = h := by simpa only [Option.ite_none_right_eq_some, Option.some.injEq] using hh
  simp only [Bool.and_eq_true, beq_iff_eq, and_assoc] at hc
  refine ⟨headerOf_encode hc.1, bits_toNat .., bits_toNat .., fun k hk => ?_, bits_toNat .., bits_toNat .., rfl, ?_⟩
  · show (w.extractLsb' 41 12).getLsbD k = _
    rw [BitVec.getLsbD_extractLsb', decide_eq_true hk, Bool.true_and]
  · exact (bits_toNat w 31 0).trans (by rw [Nat.pow_zero, Nat.div_one])

end Sys2Proof
end

section
namespace Sys2Proof.Machine
set_option Elab.async false

/-! ### What settling leaves of the groups of other pens (R39, R42) -/

/-- The groups numbered k are of pen p, if there are any. -/
def State.Owns (s : State) (p k : Nat) : Prop := ∀ y ∈ s.groups, y.id = k → y.pen = p

/-- No group of another pen has the number of a group of pen p. -/
def State.Apart (s : State) (p : Nat) : Prop := ∀ x ∈ s.groups, x.pen = p → s.Owns p x.id

/-- Every group of another pen is as it was, and each group there is has the number and the pen of one that there was. -/
structure Spares (p : Nat) (s u : State) : Prop where
  kept : ∀ y ∈ s.groups, y.pen ≠ p → y ∈ u.groups
  origin : ∀ y ∈ u.groups, ∃ x ∈ s.groups, x.id = y.id ∧ x.pen = y.pen

section
variable {s u w : State} {p k : Nat}

theorem Spares.refl (p : Nat) (s : State) : Spares p s s := ⟨fun _ h _ => h, fun y h => ⟨y, h, rfl, rfl⟩⟩

theorem Spares.trans (h : Spares p s u) (h' : Spares p u w) : Spares p s w where
  kept y hy hp := h'.kept y (h.kept y hy hp) hp
  origin y hy := by
    obtain ⟨x, hx, hid, hpen⟩ := h'.origin y hy
    obtain ⟨z, hz, hid', hpen'⟩ := h.origin x hx
    exact ⟨z, hz, hid'.trans hid, hpen'.trans hpen⟩

theorem Spares.owns (h : Spares p s u) (hk : s.Owns p k) : u.Owns p k := fun y hy hid => by
  obtain ⟨x, hx, hxid, hxpen⟩ := h.origin y hy
  exact hxpen ▸ hk x hx (hxid.trans hid)

theorem Spares.apart (h : Spares p s u) (ha : s.Apart p) : u.Apart p := fun y hy hpen => by
  obtain ⟨x, hx, hxid, hxpen⟩ := h.origin y hy
  exact hxid ▸ h.owns (ha x hx (hxpen.trans hpen))

theorem State.apart_of_nodup (h : (s.groups.map Group.id).Nodup) (p : Nat) : s.Apart p := fun _ hx hpen _ hy hid =>
  List.inj_on_of_nodup_map h hy hx hid ▸ hpen

theorem Spares.foldl {α : Type} {f : State → α → State} {l : List α}
    (h : ∀ x, Spares p s x → ∀ a ∈ l, Spares p x (f x a)) : Spares p s (l.foldl f s) := by
  suffices ∀ (m : List α) (x : State), Spares p s x → (∀ a ∈ m, a ∈ l) → Spares p s (m.foldl f x) from
    this l s (.refl p s) (fun _ ha => ha)
  intro m
  induction m with
  | nil => exact fun x hx _ => hx
  | cons a m ih =>
    intro x hx hm
    exact ih _ (hx.trans (h x hx a (hm a List.mem_cons_self))) (fun b hb => hm b (List.mem_cons_of_mem a hb))

/-- A change of each group that leaves number and pen, and other pens' groups whole. -/
theorem Spares.map {f : Group → Group} (hg : u.groups = s.groups.map f) (hid : ∀ x, (f x).id = x.id) (hpen : ∀ x, (f x).pen = x.pen)
    (hf : ∀ x ∈ s.groups, x.pen ≠ p → f x = x) : Spares p s u where
  kept y hy hp := hg ▸ List.mem_map.mpr ⟨y, hy, hf y hy hp⟩
  origin y hy := by
    obtain ⟨x, hx, rfl⟩ := List.mem_map.mp (hg ▸ hy)
    exact ⟨x, hx, (hid x).symm, (hpen x).symm⟩

theorem Spares.filter {f : Group → Bool} (hg : u.groups = s.groups.filter f) (hf : ∀ x ∈ s.groups, x.pen ≠ p → f x = true) :
    Spares p s u where
  kept y hy hp := hg ▸ List.mem_filter.mpr ⟨hy, hf y hy hp⟩
  origin y hy := ⟨y, (List.mem_filter.mp (hg ▸ hy)).1, rfl, rfl⟩

theorem Spares.updGroup {f : Group → Group} (hk : s.Owns p k) (hid : ∀ x, (f x).id = x.id := by intro _; rfl)
    (hpen : ∀ x, (f x).pen = x.pen := by intro _; rfl) : Spares p s (s.updGroup k f) := by
  refine .map rfl (fun x => ?_) (fun x => ?_) (fun x hx hp => ?_)
  · split; exacts [hid x, rfl]
  · split; exacts [hpen x, rfl]
  · exact if_neg (fun h => hp (hk x hx (by simpa using h)))

theorem Spares.updThread {l : Nat} {f : Thread → Thread} (hk : s.Owns p k) : Spares p s (s.updThread k l f) := .updGroup hk

theorem State.group_mem {t : Thread} (h : t ∈ (s.group k).threads) : s.group k ∈ s.groups ∧ (s.group k).id = k := by
  unfold State.group at h ⊢
  cases hf : s.groups.find? (fun x => x.id == k) with
  | none => rw [hf] at h; cases h
  | some x => exact ⟨List.mem_of_find?_eq_some hf, by simpa using List.find?_some (p := fun x : Group => x.id == k) hf⟩

theorem settleSplice_spares {live : List Nat} (hs : s.Apart p) (hk : s.Owns p k) : Spares p s (s.settleSplice k live) := by
  unfold State.settleSplice
  extract_lets g
  split
  next t ht =>
    obtain ⟨hg, hgid⟩ := State.group_mem (k := k) (t := t) (s := s) (ht ▸ List.mem_singleton_self t)
    have hgpen : g.pen = p := hk g hg hgid
    split
    · exact .refl p s
    extract_lets sib
    split
    · exact .updThread hk
    split
    · exact .refl p s
    next x hx =>
      have hsib : x ∈ s.groups ∧ x.pen = g.pen := by
        have hin := List.mem_of_find?_eq_some hx
        simp only [sib, State.siblings, List.mem_filter, Bool.and_eq_true, beq_iff_eq] at hin
        obtain ⟨hmem, ⟨⟨-, hpen⟩, -⟩, -⟩ := hin
        exact ⟨hmem, hpen⟩
      have hxk : s.Owns p x.id := hs x hsib.1 (hsib.2.trans hgpen)
      split
      next u hu =>
        have hboth : ∀ q : Thread × Thread × Group × Group, q = (if t.lo < u.lo then (t, u, g, x) else (u, t, x, g)) →
            s.Owns p q.2.2.1.id ∧ s.Owns p q.2.2.2.id := by
          rintro q rfl
          split
          · exact ⟨hgid.symm ▸ hk, hxk⟩
          · exact ⟨hxk, hgid.symm ▸ hk⟩
        split
        next a b ga gb hq =>
        obtain ⟨hga, hgb⟩ := hboth _ hq.symm
        split
        · exact .trans (.updThread hk) (.updThread (Spares.owns (.updThread hk) hxk))
        · extract_lets s1 m1 s2
          have h1 : Spares p s s1 := .filter rfl (fun y hy hp => by simpa using fun h => hp (hgb y hy h))
          have h2 : Spares p s s2 := h1.trans (.updGroup (h1.owns hga))
          split
          · exact h2.trans (.updThread (h2.owns hga))
          · exact h2
      · exact .refl p s
  · exact .refl p s

theorem settleOnce_spares (hs : s.Apart p) : Spares p s (s.settleOnce p) := by
  refine .foldl (fun x hx g hg => ?_)
  obtain ⟨hgs, hgp⟩ := List.mem_filter.mp hg
  have hk : x.Owns p g.id := hx.owns (hs g hgs (by simpa using hgp))
  split
  · split
    · split
      · exact settleSplice_spares (hx.apart hs) hk
      · exact .refl p x
    · exact .refl p x
  · exact .refl p x

theorem passLate_spares : Spares p s (s.passLate p) := by
  refine .map rfl (fun _ => rfl) (fun _ => rfl) (fun x _ hp => ?_)
  have hx : (x.pen == p) = false := by simpa using hp
  simp only [hx, Bool.false_and, Bool.false_eq_true, if_false, List.map_id']

theorem settlePen_spares (hs : s.Apart p) : Spares p s (s.settlePen p) :=
  passLate_spares.trans (.foldl (fun _ hx _ _ => settleOnce_spares (hx.apart (passLate_spares.apart hs))))

theorem settle_spares (hs : s.Apart p) : Spares p s (s.settle p) := by
  unfold State.settle
  extract_lets live tidy
  have h1 : Spares p s { s with groups := live } := .filter rfl (fun x _ hp => by simp [hp])
  have h2 : Spares p { s with groups := live } { s with groups := live.map tidy } :=
    .map rfl (fun x => by unfold tidy; split <;> rfl) (fun x => by unfold tidy; split <;> rfl) (fun x _ hp => by simp [tidy, hp])
  exact (h1.trans h2).trans (settlePen_spares ((h1.trans h2).apart hs))

/-! ### The frame of performing an instruction (R69, R72) -/

theorem State.mem_updGroup {f : Group → Group} {y : Group} (hy : y ∈ s.groups) (hk : y.id ≠ k) : y ∈ (s.updGroup k f).groups :=
  List.mem_map.mpr ⟨y, hy, if_neg (by simpa using hk)⟩

theorem State.updGroup_ids {f : Group → Group} (hf : ∀ x, (f x).id = x.id) :
    (s.updGroup k f).groups.map Group.id = s.groups.map Group.id := by
  unfold State.updGroup
  rw [List.map_map]
  exact List.map_congr_left (fun x _ => by dsimp only [Function.comp]; split; exacts [hf x, rfl])

theorem State.advance_ids (s : State) (e : Env) (go : List Nat) : (s.advance e go).groups.map Group.id = s.groups.map Group.id := by
  refine State.updGroup_ids (fun x => ?_)
  split
  · rfl
  · split
    · rfl
    · split <;> rfl

end

/-- Thread t of group g is changed, the group goes on behind the word or leaves the clause, and its pen is settled: memory, the
pens and other pens' groups are as they were. -/
theorem performed_frame {s : State} {g : Group} {lane : Nat} {e : Env} (he : e.gid = g.id) (hn : (s.groups.map Group.id).Nodup)
    (f : Thread → Thread) (go : List Nat) {u : State} (hu : u = ((s.updThread g.id lane f).advance e go).settle g.pen) :
    u = { s with groups := u.groups, fresh := u.fresh } ∧ (∀ l n, u.readLoc l n = s.readLoc l n)
      ∧ ∀ y ∈ s.groups, y.id ≠ g.id → y.pen ≠ g.pen → y ∈ u.groups := by
  have hsame : u = { s with groups := u.groups, fresh := u.fresh } := hu ▸ settle_same ((s.updThread g.id lane f).advance e go) g.pen
  refine ⟨hsame, fun l n => ?_, fun y hy hid hpen => ?_⟩
  · rw [hsame]; rfl
  · have hids : ((s.updThread g.id lane f).advance e go).groups.map Group.id = s.groups.map Group.id :=
      (State.advance_ids ..).trans (State.updGroup_ids (fun _ => rfl))
    rw [hu]
    refine (settle_spares (State.apart_of_nodup (hids ▸ hn) g.pen)).kept y ?_ hpen
    exact State.mem_updGroup (State.mem_updGroup hy hid) (he ▸ hid)

theorem Thread.result_eq (t : Thread) (d : Opd) (f : Form) : t.result d f
    = { t with regs := if d.file = .special then t.regs else t.regs.set (Opd.key d) f, hist := t.hist.push f } := by
  unfold Thread.result Thread.write
  cases d.file <;> rfl

/-- Settles O9: only groups of the pen are settled (`settle_spares`), and the result is the register, the history and $fpx. -/
theorem frameOfPerforming : Obligations.FrameOfPerforming := by
  intro s g r t d f fl hn v
  have hv : v = { t with regs := if d.file = .special then t.regs else t.regs.set (Opd.key d) f
                         hist := t.hist.push f
                         fpx := t.fpx ||| fl } :=
    congrArg (Thread.orFpx · fl) (t.result_eq d f)
  refine ⟨?_, ?_, fun k hk => ?_, fun hd => ?_, fun hd => ?_⟩
  · intro u hu
    rcases List.mem_pair.mp hu with hu | hu
    · exact performed_frame rfl hn _ _ hu
    · exact performed_frame rfl hn _ _ hu
  · rw [hv]
  · rw [hv]
    dsimp only
    split
    · rfl
    · rw [RegFile.get_set, if_neg hk.symm]
  · rw [hv]; exact if_pos hd
  · rw [hv]
    dsimp only
    rw [if_neg hd, RegFile.get_set, if_pos rfl]

end Sys2Proof.Machine
end

section
namespace Sys2Proof.Machine
set_option Elab.async false

/-! ### Loads (R166 to R173) and the delivery of their results (R66 to R68) -/

theorem ofNat_mod_word (m : Nat) : BitVec.ofNat 64 (m % 2 ^ 64) = BitVec.ofNat 64 m :=
  BitVec.eq_of_toNat_eq (by rw [BitVec.toNat_ofNat, BitVec.toNat_ofNat, Nat.mod_mod])

/-- The values of R171: sign extension is the reading as a signed number. -/
theorem LdV.values_eq (v : LdV) (m : Nat) : LdV.values v m = loadedValue v m := by
  have hs : ∀ w, 1 ≤ w → word64 (sextN m w) = (BitVec.ofNat w m).signExtend 64 := fun w hw => by
    rw [word64, sextN_eq_bmod m hw, BitVec.signExtend, BitVec.toInt_ofNat']
  cases v with
  | s8 => exact congrArg (fun a => [Form.u a]) (hs 8 (by decide))
  | s16 => exact congrArg (fun a => [Form.u a]) (hs 16 (by decide))
  | s32 => exact congrArg (fun a => [Form.u a]) (hs 32 (by decide))
  | b128 => exact congrArg (fun a => [Form.u a, .u (BitVec.ofNat 64 (m / 2 ^ 64))]) (ofNat_mod_word m).symm
  | _ => rfl

theorem goForms_values (d : Opd) (fs : List Form) : (goForms d fs).map Prod.snd = fs := by
  rw [goForms, List.map_map]
  exact List.map_snd_zip (by simp)

theorem goForms_keys (d : Opd) (fs : List Form) :
    (goForms d fs).map Prod.fst = (List.range (goForms d fs).length).map (fun k => Opd.key d + k) := by
  have hlen : (goForms d fs).length = fs.length := by rw [← List.length_map Prod.snd, goForms_values]
  have hzip : ((List.range fs.length).zip fs).map Prod.fst = List.range fs.length := List.map_fst_zip (by simp)
  rw [hlen, goForms, List.map_map, ← hzip, List.map_map, hzip]
  rfl

/-- A hint touches the context of the pen, and the counter, and nothing else; HINT shed alone does (R199). -/
theorem State.hinted_same (s : State) (e : Env) (h : Hint) (l : Loc) :
    s.hinted e h l = { s with ctxs := (s.hinted e h l).ctxs, fresh := (s.hinted e h l).fresh } := by
  unfold State.hinted
  split
  · unfold State.placeShed
    extract_lets
    split <;> rfl
  · rfl

theorem State.hinted_of_ne {s : State} {e : Env} {h : Hint} {l : Loc} (hh : h ≠ .shed) : s.hinted e h l = s := by
  unfold State.hinted
  split
  · exact absurd rfl hh
  · rfl

theorem State.drawn_with (s : State) (g : Group) (c : List Context) (f : Nat) :
    { s.drawn g with ctxs := c, fresh := f } = { s with ctxs := c, fresh := f } := by
  unfold State.drawn
  split <;> rfl

@[simp] theorem State.drawn_readLoc (s : State) (g : Group) (l : Loc) (n : Nat) : (s.drawn g).readLoc l n = s.readLoc l n := by
  unfold State.drawn
  split <;> rfl

section
variable (t : Thread) (p : Pend) (seed : Nat)

theorem Thread.setFlag_eq (f : Nat) : t.setFlag f = { t with flags := (t.setFlag f).flags } := by
  unfold Thread.setFlag
  split <;> rfl

theorem Thread.setFlag_set {f : Nat} (h : f < 12) : (t.setFlag f).flags.getLsbD f = true := by
  rw [Thread.setFlag, if_pos h, BitVec.getLsbD_or, BitVec.getLsbD_ofNat, Nat.testBit_two_pow_self, decide_eq_true h]
  simp

/-- A thread that owes results changes its flags and its registers, and holds the operation. -/
theorem Thread.owe_eq :
    t.owe p seed = { t with pend := t.pend ++ [p], flags := (t.setFlag p.flag).flags, regs := (t.owe p seed).regs } := by
  unfold Thread.owe
  rw [t.setFlag_eq]

theorem RegFile.sameAt_foldl_land {seed k : Nat} {f : RegFile → Nat × Form → Form} {fl : RegFile → Nat × Form → List Nat}
    {ws : List (Nat × Form)} (h : k ∉ ws.map Prod.fst) (r : RegFile) :
    SameAt k r (ws.foldl (fun r w => r.land w.1 (f r w) (fl r w) seed) r) := by
  induction ws generalizing r with
  | nil => exact ⟨rfl, rfl⟩
  | cons w ws ih =>
    obtain ⟨hw, hws⟩ := not_or.mp (List.mem_cons.not.mp h)
    exact (sameAt_land (Ne.symm hw)).trans (ih hws _)

theorem Thread.owe_get {k : Nat} (h : k ∉ p.writes.map Prod.fst) : (t.owe p seed).regs.get k = t.regs.get k := by
  have hr := (RegFile.sameAt_foldl_land (seed := seed) (f := fun _ w => .u (Config.freeReg seed w.1)) (fl := fun r w => r.lateKeys w.1) h
    (t.setFlag p.flag).regs).1
  have hregs : (t.setFlag p.flag).regs = t.regs := by rw [t.setFlag_eq]
  exact hr.trans (congrArg (RegFile.get · k) hregs)

end

/-- A check that is passed answers its value, with which the instruction goes on. -/
theorem asStop_bind {α β : Type} {y : Except FaultInfo α} {c : α} (h : y = .ok c) (f : α → Except Stop β) :
    (asStop y >>= f) = f c := by
  rw [h]; rfl

section
variable {s : State} {g : Group} {r : Run} {t : Thread} {x : FmtM} {a : W64} {l : Loc}
  (ha : t.reads g r .int x.base = .u a)
include ha

theorem base_val : (baseForm (envOf g r) t x.base).val 0 = a := congrArg (Form.val · 0) ha

theorem srcA_u : srcA (envOf g r) t [x.base] = false := by
  have hbase : baseForm (envOf g r) t x.base = .u a := ha
  simp [srcA, hbase, Form.isA]

/-- LD: the operation started, whose results are owed (R66, R171; log 6). -/
theorem exec_ld {v : LdV} (hp : Performs s g r t (.ld v x) x.gd) (hl : Reaches s g r t x.space (eaM a x.off) (LdV.size v) accRead none l) :
    exec (.ld v x) s = .next (((s.drawn g).hinted (envOf g r) x.hint l).bump.perform g r
      (t.owing ((s.drawn g).hinted (envOf g r) x.hint l) g r 15 (goForms x.v (loadedValue v (s.readLoc l (LdV.size v)))))) := by
  obtain ⟨⟨l0, h0⟩, h1⟩ := hl
  rw [← base_val ha] at h0 h1
  rw [show exec (.ld v x) s = execLd v x s from rfl, execLd, ← LdV.values_eq, ← s.drawn_readLoc g]
  exact drive_nextAny hp rfl rfl (fun _ => srcA_u ha) rfl ⟨_, asStop_bind h0 _⟩ (asStop_bind h1 _) (by rw [Thread.owing, Thread.owe_eq])

/-- LDS: the value is given at once (R173). -/
theorem exec_lds {v : LdsV} {l0 : Loc} {m : Nat} (hp : Performs s g r t (.lds v x) x.gd)
    (h0 : s.teamLoc g.pen (eaM a x.off) (LdsV.size v) accRead = .ok l0)
    (h1 : (s.drawn g).teamLoc g.pen (eaM a x.off) (LdsV.size v) accRead = .ok l) (hm : s.readLoc l (LdsV.size v) = m) :
    exec (.lds v x) s = .next ((s.drawn g).perform g r
      (if v == .b128 then { t.result x.v (.u (BitVec.ofNat 64 m)) with
          regs := (t.result x.v (.u (BitVec.ofNat 64 m))).regs.set (Opd.key x.v + 1) (.u (BitVec.ofNat 64 (m / 2 ^ 64))) }
        else t.result x.v (.u (BitVec.ofNat 64 m)))) := by
  subst hm
  rw [← base_val ha] at h0 h1
  rw [show exec (.lds v x) s = execLds v x s from rfl, execLds, ← s.drawn_readLoc g]
  exact drive_nextAny hp rfl rfl (fun _ => srcA_u ha) rfl ⟨_, asStop_bind h0 _⟩ (asStop_bind h1 _)
    (by split <;> exact Thread.result_lane ..)

end

theorem loads : Says.Loads := by
  intro s g r t x a ha
  refine ⟨fun v l hp hl => ?_, fun v l hv hp h0 hl => ?_, fun l hp h0 hl => ?_⟩
  · let w := (s.drawn g).hinted (envOf g r) x.hint l
    have hw : w = { s with ctxs := w.ctxs, fresh := w.fresh } := (State.hinted_same ..).trans (s.drawn_with g _ _)
    let p : Pend := { op := w.fresh, flag := namedFlag 15 r.head.seta, writes := goForms x.v (loadedValue v (s.readLoc l (LdV.size v))),
                      fpx := 0, engine := false, queue := none, pc := (envOf g r).wpc }
    refine ⟨w, p, t.owe p w.fresh, exec_ld ha hp hl, hw, State.hinted_of_ne, rfl, rfl, rfl, goForms_values .., goForms_keys .., ?_,
      fun h => ?_, ?_, fun k hk => t.owe_get p _ hk⟩
    · rw [t.owe_eq]
    · rw [t.owe_eq]; exact t.setFlag_set h
    · rw [t.owe_eq]
  · obtain ⟨l0, h0⟩ := h0
    rw [exec_lds ha hp h0 hl rfl, if_neg (by simpa using hv)]
  · obtain ⟨l0, h0⟩ := h0
    rw [exec_lds ha hp h0 hl rfl, ofNat_mod_word]
    rfl

theorem memoryCompletion : Says.MemoryCompletion := by
  intro s g t p hg hmem ht hlanes hp hops heng hqueue hwait hop hconts hlost
  refine ⟨s.memComplete p.op, ?_, memComplete_delivers hg hmem ht hlanes hp hops heng hqueue hwait hop hconts hlost⟩
  have hnone : s.lostPops.find? (fun q => q.op == p.op) = none := List.find?_eq_none.mpr (fun q hq => by simpa using hlost q hq)
  show Host.Outcome.next _ = _
  rw [hnone]

/-- Settles O21: a load's access is made at its issue and its value owed (`exec_ld`); a completion delivers it (`memComplete_delivers`). -/
theorem loadsAndCompletion : Obligations.LoadsAndCompletion := ⟨loads, memoryCompletion⟩

end Sys2Proof.Machine
end

section
namespace Sys2Proof.Machine
set_option Elab.async false

/-! ### Nearest integers, ties to even -/

/-- r is the integer nearest to y, of two the even one. -/
def NearestEven (y : ℝ) (r : Nat) : Prop := |(r : ℝ) - y| ≤ 1 / 2 ∧ (|(r : ℝ) - y| = 1 / 2 → r % 2 = 0)

theorem NearestEven.refl (r : Nat) : NearestEven r r := by simp [NearestEven]

section
variable {y : ℝ} {r : Nat}

/-- No integer is nearer, and another one that is as near leaves the even one. -/
theorem NearestEven.le (h : NearestEven y r) (j : ℤ) :
    |(r : ℝ) - y| ≤ |(j : ℝ) - y| ∧ (|(r : ℝ) - y| = |(j : ℝ) - y| → j ≠ r → r % 2 = 0) := by
  obtain ⟨hhalf, heven⟩ := h
  by_cases hj : j = r
  · subst hj; simp
  · have hone : (1 : ℝ) ≤ |(j : ℝ) - r| := by
      have : 1 ≤ |j - (r : ℤ)| := Int.one_le_abs (sub_ne_zero.mpr hj)
      exact_mod_cast this
    have htri := abs_sub_le (j : ℝ) y r
    rw [abs_sub_comm y] at htri
    exact ⟨by linarith, fun he _ => heven (by linarith)⟩

theorem NearestEven.ge (h : NearestEven y r) {k : Nat} (hk : (k : ℝ) ≤ y) : k ≤ r := by
  have habs := abs_le.mp h.1
  have : (k : ℝ) < r + 1 := by linarith
  exact Nat.lt_succ_iff.mp (by exact_mod_cast this)

theorem NearestEven.le_of_lt (h : NearestEven y r) {k : Nat} (hk : y < k) : r ≤ k := by
  have habs := abs_le.mp h.1
  have : (r : ℝ) < k + 1 := by linarith
  exact Nat.lt_succ_iff.mp (by exact_mod_cast this)

/-- The nearest integer is beyond N from N + 1/2 on, and at N + 1/2 itself where N is odd. -/
theorem NearestEven.lt_iff (h : NearestEven y r) (N : Nat) : N < r ↔ (N : ℝ) + 1 / 2 < y ∨ (N : ℝ) + 1 / 2 = y ∧ N % 2 = 1 := by
  obtain ⟨hhalf, heven⟩ := h
  have habs := abs_le.mp hhalf
  constructor
  · intro hN
    have hr : (N : ℝ) + 1 ≤ r := by exact_mod_cast hN
    rcases lt_or_eq_of_le (show (N : ℝ) + 1 / 2 ≤ y by linarith) with hlt | heq
    · exact .inl hlt
    · have hrN : (r : ℝ) = N + 1 := by linarith
      have hrN' : r = N + 1 := by exact_mod_cast hrN
      have : r % 2 = 0 := heven (by rw [hrN, ← heq]; norm_num)
      exact .inr ⟨heq, by omega⟩
  · rintro (hlt | ⟨heq, hodd⟩)
    · have : (N : ℝ) < r := by linarith
      exact_mod_cast this
    · have hge : (N : ℝ) ≤ r := by linarith
      rcases Nat.lt_or_eq_of_le (show N ≤ r by exact_mod_cast hge) with hlt | rfl
      · exact hlt
      · have : N % 2 = 0 := heven (by rw [← heq]; norm_num)
        omega

/-- A power of two is reached from below half a unit before it. -/
theorem NearestEven.eq_two_pow_iff (h : NearestEven y r) {k : Nat} (hy : y < 2 ^ (k + 1)) : r = 2 ^ (k + 1) ↔ (2 : ℝ) ^ (k + 1) - 1 / 2 ≤ y := by
  have hpos : 0 < 2 ^ k := by positivity
  have hle : r ≤ 2 ^ (k + 1) := h.le_of_lt (by exact_mod_cast hy)
  have hodd : (2 ^ (k + 1) - 1) % 2 = 1 := by rw [pow_succ]; omega
  have hiff := h.lt_iff (2 ^ (k + 1) - 1)
  rw [Nat.cast_sub Nat.one_le_two_pow, Nat.cast_pow, Nat.cast_ofNat, Nat.cast_one] at hiff
  simp only [hodd, and_true, ← le_iff_lt_or_eq] at hiff
  rw [show (2 : ℝ) ^ (k + 1) - 1 / 2 = 2 ^ (k + 1) - 1 + 1 / 2 by ring, ← hiff]
  omega
end

theorem rneShift_nearest (m sh : Nat) : NearestEven ((m : ℝ) / 2 ^ sh) (rneShift m sh) := by
  rcases sh with _ | k
  · simpa [rneShift] using NearestEven.refl m
  · have hlt : m % 2 ^ (k + 1) < 2 ^ (k + 1) := Nat.mod_lt _ (by positivity)
    have hdiv : 2 ^ (k + 1) * (m / 2 ^ (k + 1)) + m % 2 ^ (k + 1) = m := Nat.div_add_mod ..
    have hhalf : 2 ^ (k + 1) / 2 = 2 ^ k := by rw [pow_succ, Nat.mul_div_cancel _ two_pos]
    simp only [rneShift, hhalf, Nat.succ_ne_zero, if_false]
    generalize m / 2 ^ (k + 1) = q at *
    generalize m % 2 ^ (k + 1) = t at *
    have hy : (m : ℝ) / 2 ^ (k + 1) = q + t / 2 ^ (k + 1) := by
      rw [← hdiv]; push_cast; field_simp
    have hP : (0 : ℝ) < 2 ^ k := by positivity
    have hT : (t : ℝ) / 2 ^ (k + 1) = t / 2 ^ k / 2 := by rw [pow_succ]; field_simp
    have htie : (t : ℝ) / 2 ^ k = 1 → t = 2 ^ k := fun h => by
      rw [div_eq_one_iff_eq hP.ne'] at h
      exact_mod_cast h
    have h0 : (0 : ℝ) ≤ t / 2 ^ k := by positivity
    rw [hy, hT]
    split
    next hup =>
      have h1 : (1 : ℝ) ≤ t / 2 ^ k := (one_le_div hP).mpr (by exact_mod_cast (show 2 ^ k ≤ t by omega))
      have h2 : (t : ℝ) / 2 ^ k < 2 := (div_lt_iff₀ hP).mpr (by rw [← pow_succ']; exact_mod_cast hlt)
      rw [NearestEven, Nat.cast_succ]
      refine ⟨abs_le.mpr ⟨by linarith, by linarith⟩, fun he => ?_⟩
      rw [abs_of_nonneg (by linarith)] at he
      have := htie (by linarith)
      omega
    next hdown =>
      have h1 : (t : ℝ) / 2 ^ k ≤ 1 := (div_le_one hP).mpr (by exact_mod_cast (show t ≤ 2 ^ k by omega))
      refine ⟨abs_le.mpr ⟨by linarith, by linarith⟩, fun he => ?_⟩
      rw [abs_of_nonpos (by linarith)] at he
      have := htie (by linarith)
      omega

theorem rneScale_nearest (m : Nat) (d : Int) : NearestEven ((m : ℝ) * 2 ^ d) (rneScale m d) := by
  obtain ⟨n, rfl | rfl⟩ := Int.eq_nat_or_neg d
  · simpa [rneScale] using NearestEven.refl (m * 2 ^ n)
  · by_cases hn : n = 0
    · subst hn; simpa [rneScale] using NearestEven.refl m
    · simpa [rneScale, show ¬ (n : Int) ≤ 0 by omega, hn, div_eq_mul_inv] using rneShift_nearest m n

/-- Nothing is lost where no bit below the unit is set. -/
theorem rneScale_eq_iff (m : Nat) (d : Int) : (rneScale m d : ℝ) = m * 2 ^ d ↔ ¬ (d < 0 ∧ m % 2 ^ (-d).toNat ≠ 0) := by
  obtain ⟨n, rfl | rfl⟩ := Int.eq_nat_or_neg d
  · simp [rneScale]
  · have hnear := rneScale_nearest m (-n)
    simp only [zpow_neg, zpow_natCast, ← div_eq_mul_inv] at hnear ⊢
    have hP : (0 : ℝ) < 2 ^ n := by positivity
    simp only [neg_neg, Int.toNat_natCast]
    constructor
    · rintro he ⟨-, hm⟩
      rw [eq_div_iff hP.ne'] at he
      have he' : rneScale m (-n) * 2 ^ n = m := by exact_mod_cast he
      exact hm (by rw [← he']; exact Nat.mul_mod_left ..)
    · intro h
      have hm : m % 2 ^ n = 0 := by
        by_cases hn : n = 0
        · subst hn; exact Nat.mod_one m
        · by_contra hm; exact h ⟨by omega, hm⟩
      obtain ⟨j, rfl⟩ := Nat.dvd_of_mod_eq_zero hm
      rw [Nat.cast_mul, Nat.cast_pow, Nat.cast_ofNat, mul_div_cancel_left₀ _ hP.ne'] at hnear ⊢
      have := (hnear.le j).1
      rw [Int.cast_natCast, sub_self, abs_zero, abs_nonpos_iff, sub_eq_zero] at this
      exact this

end Sys2Proof.Machine
end

section
namespace Sys2Proof.Machine
set_option Elab.async false

/-! ### Numbers (−1)^s · m · 2^e as reals -/

theorem ratOf_real (s : Bool) (m : Nat) (e : Int) : ((ratOf s m e : ℚ) : ℝ) = (if s then -1 else 1) * (m * 2 ^ e) := by
  cases s <;> simp [ratOf]

theorem abs_ratOf_real (s : Bool) (m : Nat) (e : Int) : |((ratOf s m e : ℚ) : ℝ)| = m * 2 ^ e := by
  have h : (0 : ℝ) ≤ m * 2 ^ e := by positivity
  rw [ratOf_real]; cases s <;> simp [abs_of_nonneg h]

/-- Of two numbers of one sign the distance is that of their magnitudes. -/
theorem abs_ratOf_sub (s : Bool) (m n : Nat) (e q : Int) :
    |((ratOf s n q : ℚ) : ℝ) - ((ratOf s m e : ℚ) : ℝ)| = |(n : ℝ) * 2 ^ q - m * 2 ^ e| := by
  rw [ratOf_real, ratOf_real, ← mul_sub, abs_mul]; cases s <;> simp

theorem ratOf_eq_zero {s : Bool} {m : Nat} {e : Int} : ratOf s m e = 0 ↔ m = 0 := by
  cases s <;> simp [ratOf, zpow_ne_zero]

theorem ratOf_neg_iff {s : Bool} {m : Nat} {e : Int} (hm : m ≠ 0) : ratOf s m e < 0 ↔ s = true := by
  have h : (0 : ℚ) < m * 2 ^ e := by positivity
  cases s
  · simpa [ratOf] using h.le
  · simpa [ratOf] using h

/-! ### The codes of a format (R104 to R106, R109) -/

/-- The codes up to the largest finite one are those of the finite magnitudes, and it is a normal value's. -/
structure FFmt.Sound (f : FFmt) : Prop where
  fraction : 1 ≤ f.mw
  normal : 2 ^ f.mw ≤ f.maxCode
  belowSign : f.maxCode < f.signBit
  belowInf : f.hasInf = true → f.maxCode < f.inf

theorem FFmt.sound_of_mem {f : FFmt} (h : f ∈ [F64, F32, F16, BF16, E4M3, E5M2, E2M1]) : f.Sound := by
  simp only [List.mem_cons, List.not_mem_nil, or_false] at h
  rcases h with rfl | rfl | rfl | rfl | rfl | rfl | rfl <;> constructor <;> decide

section
variable {f : FFmt}

theorem FFmt.two_pow_width (f : FFmt) : 2 ^ f.width = 2 * f.signBit := by
  rw [FFmt.width, FFmt.signBit, add_assoc, pow_add, pow_one]

theorem FFmt.withSign_lt {s : Bool} {c : Nat} (hc : c < f.signBit) : withSign f s c < 2 ^ f.width := by
  rw [f.two_pow_width]; cases s <;> simp only [withSign] <;> split <;> omega

/-- A code up to the largest finite one, with its sign. -/
theorem FFmt.Sound.decode_withSign (hf : f.Sound) (s : Bool) {c : Nat} (hc : c ≤ f.maxCode) :
    f.decode (withSign f s c) = if c / 2 ^ f.mw = 0 then .fin s (c % 2 ^ f.mw) f.qmin
      else .fin s (2 ^ f.mw + c % 2 ^ f.mw) (f.qmin + (c / 2 ^ f.mw - 1 : Nat)) := by
  have hlt : c < f.signBit := hc.trans_lt hf.belowSign
  have hinf : (f.hasInf && c == f.inf) = false := by
    cases h : f.hasInf
    · rfl
    · have := hf.belowInf h
      simp; omega
  have hnan : (f.hasNan && decide (f.maxCode < c)) = false := by simp [hc]
  have hdiv : decide (withSign f s c / f.signBit = 1) = s := by
    cases s
    · simp [withSign, Nat.div_eq_of_lt hlt]
    · simp [withSign, Nat.add_div_left _ (show 0 < f.signBit by omega), Nat.div_eq_of_lt hlt]
  have hmod : withSign f s c % f.signBit = c := by cases s <;> simp [withSign, Nat.mod_eq_of_lt hlt]
  simp only [FFmt.decode, Nat.mod_eq_of_lt (FFmt.withSign_lt hlt), hdiv, hmod, gt_iff_lt, hinf, hnan, Bool.false_eq_true, if_false]

/-- What every finite code stands for has a significand of mw + 1 bits and no bit below the smallest subnormal. -/
theorem FFmt.decode_fin {c : Nat} {t : Bool} {k : Nat} {p : Int} (h : f.decode c = .fin t k p) : k < 2 ^ (f.mw + 1) ∧ f.qmin ≤ p := by
  have hfr : c % 2 ^ f.width % f.signBit % 2 ^ f.mw < 2 ^ f.mw := Nat.mod_lt _ (by positivity)
  unfold FFmt.decode at h
  extract_lets c' s' mag x fr at h
  split at h
  · cases h
  split at h
  · cases h
  have h2 : 2 ^ (f.mw + 1) = 2 * 2 ^ f.mw := pow_succ' ..
  split at h <;> injection h with _ hk hp <;> subst hk hp <;> exact ⟨by omega, by omega⟩

end

end Sys2Proof.Machine
end

section
namespace Sys2Proof.Machine
set_option Elab.async false

/-! ### A magnitude cut to the unit of a format (R110) -/

/-- The code, less its sign, of r units of 2^q. -/
def FFmt.codeAt (f : FFmt) (r : Nat) (q : Int) : Nat := r + (q - f.qmin).toNat * 2 ^ f.mw

/-- The magnitude a is r units of 2^q once it is rounded: 2^q is the unit of the format at a, or that of the subnormals. -/
structure FFmt.InUnits (f : FFmt) (a : ℝ) (q : Int) (r : Nat) : Prop where
  qmin_le : f.qmin ≤ q
  near : NearestEven (a / 2 ^ q) r
  lt : a < 2 ^ (f.mw + 1) * 2 ^ q
  ge : f.qmin < q → 2 ^ f.mw * 2 ^ q ≤ a

theorem two_zpow_double {p q : Int} (h : p < q) : (2 : ℝ) * 2 ^ p ≤ 2 ^ q := by
  rw [← zpow_one_add₀ two_ne_zero]; exact zpow_le_zpow_right₀ one_le_two (by omega)

section
variable {f : FFmt} {a : ℝ} {q : Int} {r : Nat}

theorem FFmt.InUnits.le (h : f.InUnits a q r) : r ≤ 2 ^ (f.mw + 1) := by
  refine h.near.le_of_lt ?_
  rw [div_lt_iff₀ (by positivity)]; exact_mod_cast h.lt

theorem FFmt.InUnits.le_units (h : f.InUnits a q r) (hq : f.qmin < q) : 2 ^ f.mw ≤ r := by
  refine h.near.ge ?_
  rw [le_div_iff₀ (by positivity)]; exact_mod_cast h.ge hq

/-- The distance in units. -/
theorem abs_units_sub (v a : ℝ) (q : Int) : |v * 2 ^ q - a| = |v - a / 2 ^ q| * 2 ^ q := by
  have hq : (0 : ℝ) < 2 ^ q := by positivity
  rw [← abs_of_pos hq, ← abs_mul, abs_of_pos hq, sub_mul, div_mul_cancel₀ _ hq.ne']

/-- No value whose significand has mw + 1 bits is nearer to a than the r units, and one that is as near leaves r even. -/
theorem FFmt.InUnits.nearest (h : f.InUnits a q r) {v : ℝ} {k : Nat} {p : Int} (hv : v = k * 2 ^ p ∨ v = -(k * 2 ^ p)) (hk : k < 2 ^ (f.mw + 1))
    (hp : f.qmin ≤ p) : |(r : ℝ) * 2 ^ q - a| ≤ |v - a| ∧ (|(r : ℝ) * 2 ^ q - a| = |v - a| → v ≠ r * 2 ^ q → r % 2 = 0) := by
  have hU : (0 : ℝ) < 2 ^ q := by positivity
  have hgrid : ∀ j : ℤ, |(r : ℝ) * 2 ^ q - a| ≤ |(j : ℝ) * 2 ^ q - a|
      ∧ (|(r : ℝ) * 2 ^ q - a| = |(j : ℝ) * 2 ^ q - a| → (j : ℝ) * 2 ^ q ≠ r * 2 ^ q → r % 2 = 0) := fun j => by
    obtain ⟨hle, heven⟩ := h.near.le j
    rw [abs_units_sub, abs_units_sub]
    refine ⟨mul_le_mul_of_nonneg_right hle hU.le, fun he hne => heven (mul_right_cancel₀ hU.ne' he) (fun hj => hne ?_)⟩
    rw [hj, Int.cast_natCast]
  rcases le_or_gt q p with hqp | hpq
  · -- v is a whole number of units
    obtain ⟨n, rfl⟩ := Int.le.dest hqp
    have hshift : (k : ℝ) * 2 ^ (q + n) = (k * 2 ^ n : ℤ) * 2 ^ q := by push_cast; rw [zpow_add₀ two_ne_zero, zpow_natCast]; ring
    rcases hv with rfl | rfl
    · rw [hshift]; exact hgrid _
    · rw [hshift, ← neg_mul, ← Int.cast_neg]; exact hgrid _
  · -- v is below 2^mw units, which are at most a
    have hbase := h.ge (by omega)
    have hsmall : (k : ℝ) * 2 ^ p < 2 ^ f.mw * 2 ^ q := calc
      (k : ℝ) * 2 ^ p < 2 ^ (f.mw + 1) * 2 ^ p := mul_lt_mul_of_pos_right (by exact_mod_cast hk) (by positivity)
      _ = 2 ^ f.mw * (2 * 2 ^ p) := by ring
      _ ≤ 2 ^ f.mw * 2 ^ q := mul_le_mul_of_nonneg_left (two_zpow_double hpq) (by positivity)
    have hv' : v < 2 ^ f.mw * 2 ^ q := by
      rcases hv with rfl | rfl
      · exact hsmall
      · have : (0 : ℝ) ≤ k * 2 ^ p := by positivity
        linarith
    have hle := (hgrid (2 ^ f.mw)).1
    push_cast at hle
    rw [abs_of_nonpos (sub_nonpos.mpr hbase)] at hle
    have hfar : |(r : ℝ) * 2 ^ q - a| < |v - a| := by
      rw [abs_of_neg (sub_neg.mpr (hv'.trans_le hbase))]; linarith
    exact ⟨hfar.le, fun he => absurd he hfar.ne⟩

/-- The code of r units is that of a value as large, whose significand is even when r is. -/
theorem FFmt.InUnits.decode (hf : f.Sound) (h : f.InUnits a q r) (s : Bool) (hc : f.codeAt r q ≤ f.maxCode) :
    ∃ n p, f.decode (withSign f s (f.codeAt r q)) = .fin s n p ∧ (n : ℝ) * 2 ^ p = r * 2 ^ q ∧ n % 2 = r % 2 := by
  have hM : 0 < 2 ^ f.mw := by positivity
  have hmw := hf.fraction
  have heven : 2 ^ f.mw % 2 = 0 := by
    obtain ⟨w, hw⟩ := Nat.exists_eq_add_of_le hmw
    rw [hw, pow_add, pow_one]; exact Nat.mul_mod_right ..
  have h2 : 2 ^ (f.mw + 1) = 2 * 2 ^ f.mw := pow_succ' ..
  have hle := h.le
  obtain ⟨i, rfl⟩ := Int.le.dest h.qmin_le
  have hi : (f.qmin + i - f.qmin).toNat = i := by omega
  rw [hf.decode_withSign s hc]
  simp only [FFmt.codeAt, hi, Nat.add_mul_div_right _ _ hM, Nat.add_mul_mod_self_right]
  rcases Nat.lt_or_ge r (2 ^ f.mw) with hr | hr
  · have hi0 : i = 0 := by
      by_contra hne
      exact absurd (h.le_units (by omega)) (by omega)
    subst hi0
    rw [Nat.div_eq_of_lt hr, Nat.mod_eq_of_lt hr, if_pos rfl]
    exact ⟨_, _, rfl, by simp, rfl⟩
  rcases Nat.lt_or_ge r (2 ^ (f.mw + 1)) with hr2 | hr2
  · have hdiv : r / 2 ^ f.mw = 1 := Nat.div_eq_of_lt_le (by omega) (by omega)
    have hmod := Nat.mod_add_div r (2 ^ f.mw)
    rw [hdiv, Nat.mul_one] at hmod
    rw [hdiv, if_neg (by omega), Nat.add_comm (2 ^ f.mw), hmod, show 1 + i - 1 = i by omega]
    exact ⟨_, _, rfl, rfl, rfl⟩
  · obtain rfl : r = 2 * 2 ^ f.mw := by omega
    rw [Nat.mul_div_cancel _ hM, Nat.mul_mod_left, if_neg (by omega), show 2 + i - 1 = i + 1 by omega]
    refine ⟨_, _, rfl, ?_, by omega⟩
    push_cast
    rw [← add_assoc, zpow_add_one₀ two_ne_zero]; ring

/-- The largest finite code is the code of its value. -/
theorem FFmt.Sound.maxCode_eq (hf : f.Sound) {N : Nat} {Q : Int} (hN : f.decode f.maxCode = .fin false N Q) :
    f.maxCode = f.codeAt N Q ∧ f.qmin ≤ Q ∧ 2 ^ f.mw ≤ N ∧ N < 2 ^ (f.mw + 1) := by
  have hM : 0 < 2 ^ f.mw := by positivity
  have hlarge : 1 ≤ f.maxCode / 2 ^ f.mw := (Nat.one_le_div_iff hM).mpr hf.normal
  have hd := hf.decode_withSign false le_rfl
  rw [if_neg (by omega), withSign, if_neg Bool.false_ne_true, hN] at hd
  injection hd with _ hn hq
  have hfr := Nat.mod_lt f.maxCode hM
  have hsplit := Nat.mod_add_div f.maxCode (2 ^ f.mw)
  have h2 : 2 ^ (f.mw + 1) = 2 * 2 ^ f.mw := pow_succ' ..
  obtain ⟨x, hx⟩ := Nat.exists_eq_add_of_le' hlarge
  rw [hx] at hq hsplit
  refine ⟨?_, by omega, by omega, by omega⟩
  have hiQ : (Q - f.qmin).toNat = x := by omega
  rw [FFmt.codeAt, hiQ, hn]; linarith

/-- The code is past the largest finite one just where a is past half a unit above that one's value, or there with an odd N. -/
theorem FFmt.InUnits.maxCode_lt_iff (hf : f.Sound) (h : f.InUnits a q r) {N : Nat} {Q : Int} (hN : f.decode f.maxCode = .fin false N Q) :
    f.maxCode < f.codeAt r q ↔ ((N : ℝ) + 1 / 2) * 2 ^ Q < a ∨ ((N : ℝ) + 1 / 2) * 2 ^ Q = a ∧ N % 2 = 1 := by
  obtain ⟨hmax, hQ, hlo, hhi⟩ := hf.maxCode_eq hN
  have h2 : 2 ^ (f.mw + 1) = 2 * 2 ^ f.mw := pow_succ' ..
  have hle := h.le
  have hloR : (2 : ℝ) ^ f.mw ≤ N := by exact_mod_cast hlo
  have hhiR : (N : ℝ) + 1 ≤ 2 ^ (f.mw + 1) := by exact_mod_cast hhi
  have hqmin := h.qmin_le
  have hUQ : (0 : ℝ) < 2 ^ Q := by positivity
  rw [hmax, FFmt.codeAt, FFmt.codeAt]
  rcases lt_trichotomy q Q with hlt | rfl | hgt
  · have hi : (q - f.qmin).toNat + 1 ≤ (Q - f.qmin).toNat := by omega
    have hcode := Nat.mul_le_mul_right (2 ^ f.mw) hi
    have ha : a < N * 2 ^ Q := calc
      a < 2 ^ (f.mw + 1) * 2 ^ q := h.lt
      _ = 2 ^ f.mw * (2 * 2 ^ q) := by ring
      _ ≤ N * 2 ^ Q := mul_le_mul hloR (two_zpow_double hlt) (by positivity) (by positivity)
    refine iff_of_false (by rw [Nat.add_mul] at hcode; omega) ?_
    rintro (h | ⟨h, -⟩) <;> nlinarith
  · rw [Nat.add_lt_add_iff_right, h.near.lt_iff, lt_div_iff₀ hUQ, eq_div_iff hUQ.ne']
  · have hi : (Q - f.qmin).toNat + 1 ≤ (q - f.qmin).toNat := by omega
    have hcode := Nat.mul_le_mul_right (2 ^ f.mw) hi
    have hr := h.le_units (by omega)
    refine iff_of_true (by rw [Nat.add_mul] at hcode; omega) (.inl ?_)
    calc ((N : ℝ) + 1 / 2) * 2 ^ Q < 2 ^ (f.mw + 1) * 2 ^ Q := mul_lt_mul_of_pos_right (by linarith) hUQ
      _ = 2 ^ f.mw * (2 * 2 ^ Q) := by ring
      _ ≤ 2 ^ f.mw * 2 ^ q := mul_le_mul_of_nonneg_left (two_zpow_double hgt) (by positivity)
      _ ≤ a := h.ge (by omega)

end

end Sys2Proof.Machine
end

section
namespace Sys2Proof.Machine
set_option Elab.async false

/-! ### `FFmt.round` (R104, R110 to R112, R126) -/

/-- The unit in which `FFmt.round` counts m · 2^e. -/
def FFmt.unit (f : FFmt) (m : Nat) (e : Int) : Int := if m = 0 then f.qmin else max (e + (blen m : Int) - 1 - f.mw) f.qmin

/-- The highest bit of m · 2^e is that of 2^(e + blen m − 1). -/
theorem blen_bounds {m : Nat} (hm : m ≠ 0) (e : Int) :
    (2 : ℝ) ^ (e + (blen m : Int) - 1) ≤ m * 2 ^ e ∧ (m : ℝ) * 2 ^ e < 2 ^ (e + (blen m : Int)) := by
  have he : (0 : ℝ) < 2 ^ e := by positivity
  have hlo := Nat.log2_self_le hm
  have hhi := Nat.lt_log2_self (n := m)
  rw [blen, if_neg hm, Nat.cast_succ, show e + ((m.log2 : Int) + 1) - 1 = m.log2 + e by ring,
    show e + ((m.log2 : Int) + 1) = (m.log2 + 1 : Nat) + e by push_cast; ring, zpow_add₀ two_ne_zero, zpow_add₀ two_ne_zero,
    zpow_natCast, zpow_natCast]
  exact ⟨mul_le_mul_of_nonneg_right (by exact_mod_cast hlo) he.le, mul_lt_mul_of_pos_right (by exact_mod_cast hhi) he⟩

theorem mul_zpow_sub_eq_div (m : Nat) (e q : Int) : (m : ℝ) * 2 ^ (e - q) = m * 2 ^ e / 2 ^ q := by
  rw [zpow_sub₀ two_ne_zero, mul_div_assoc]

section
variable {f : FFmt} {m : Nat} {e : Int}

theorem FFmt.inUnits_unit (f : FFmt) (m : Nat) (e : Int) : f.InUnits (m * 2 ^ e) (f.unit m e) (rneScale m (e - f.unit m e)) := by
  refine ⟨?_, mul_zpow_sub_eq_div m e _ ▸ rneScale_nearest m _, ?_, fun hq => ?_⟩
  · rw [FFmt.unit]; split <;> omega
  · by_cases hm : m = 0
    · rw [hm, Nat.cast_zero, zero_mul]; positivity
    · rw [FFmt.unit, if_neg hm, ← zpow_natCast, ← zpow_add₀ two_ne_zero]
      exact (blen_bounds hm e).2.trans_le (zpow_le_zpow_right₀ one_le_two (by push_cast; omega))
  · have hm : m ≠ 0 := by rintro rfl; simp [FFmt.unit] at hq
    rw [FFmt.unit, if_neg hm] at hq ⊢
    rw [← zpow_natCast, ← zpow_add₀ two_ne_zero]
    exact (zpow_le_zpow_right₀ one_le_two (by omega)).trans (blen_bounds hm e).1

/-- Below the smallest normal value, with an unbounded exponent: half a unit below it the rounding reaches it (R112). -/
def FFmt.tiny (f : FFmt) (m : Nat) (e : Int) : Bool :=
  let top : Int := e + (blen m : Int) - 1
  let emin : Int := 1 - f.bias
  decide (top < emin) && !(decide (top = emin - 1) && decide (rneScale m (e - (top - f.mw)) = 2 ^ (f.mw + 1)))

theorem FFmt.tiny_iff (f : FFmt) (hm : m ≠ 0) (e : Int) : f.tiny m e = true ↔ (m : ℝ) * 2 ^ e < (2 ^ (f.mw + 2) - 1) * 2 ^ (f.qmin - 2) := by
  obtain ⟨hlo, hhi⟩ := blen_bounds hm e
  have hemin : 1 - f.bias = f.qmin + f.mw := by rw [FFmt.qmin]; ring
  have hV : (0 : ℝ) < 2 ^ (f.qmin - 2) := by positivity
  have hscale : ∀ j : Nat, (2 : ℝ) ^ (f.qmin - 2 + j) = 2 ^ j * 2 ^ (f.qmin - 2) := fun j => by
    rw [zpow_add₀ two_ne_zero, zpow_natCast, mul_comm]
  have h2 : (2 : ℝ) ^ (f.mw + 2) = 2 * 2 ^ (f.mw + 1) := pow_succ' ..
  have hone : (1 : ℝ) ≤ 2 ^ (f.mw + 1) := one_le_pow₀ one_le_two
  simp only [FFmt.tiny, hemin]
  generalize htop : e + (blen m : Int) - 1 = top at hlo ⊢
  rw [show e + (blen m : Int) = top + 1 by omega] at hhi
  rcases lt_trichotomy top (f.qmin + f.mw - 1) with hlt | heq | hgt
  · -- the value is below half of the smallest normal one
    rw [decide_eq_true (by omega), decide_eq_false (by omega)]
    refine iff_of_true rfl (hhi.trans_le ?_)
    calc (2 : ℝ) ^ (top + 1) ≤ 2 ^ (f.qmin - 2 + (f.mw + 1 : Nat)) := zpow_le_zpow_right₀ one_le_two (by push_cast; omega)
      _ = 2 ^ (f.mw + 1) * 2 ^ (f.qmin - 2) := hscale _
      _ ≤ _ := mul_le_mul_of_nonneg_right (by linarith) hV.le
  · -- one binade below: it rounds up to the smallest normal value or not
    have hunit : top - f.mw = f.qmin - 1 := by omega
    have hU : (0 : ℝ) < 2 ^ (f.qmin - 1) := by positivity
    have hUV : (2 : ℝ) ^ (f.qmin - 1) = 2 * 2 ^ (f.qmin - 2) := by
      rw [show f.qmin - 1 = f.qmin - 2 + (1 : Nat) by push_cast; ring, hscale, pow_one]
    have hbelow : (m : ℝ) * 2 ^ (e - (f.qmin - 1)) < 2 ^ (f.mw + 1) := by
      rw [mul_zpow_sub_eq_div, div_lt_iff₀ hU, ← zpow_natCast, ← zpow_add₀ two_ne_zero]
      exact hhi.trans_le (zpow_le_zpow_right₀ one_le_two (by push_cast; omega))
    have hcmp : rneScale m (e - (f.qmin - 1)) = 2 ^ (f.mw + 1) ↔ (2 ^ (f.mw + 2) - 1) * 2 ^ (f.qmin - 2) ≤ (m : ℝ) * 2 ^ e := by
      rw [(rneScale_nearest m _).eq_two_pow_iff hbelow, mul_zpow_sub_eq_div, le_div_iff₀ hU, hUV, h2]
      rw [show ((2 : ℝ) ^ (f.mw + 1) - 1 / 2) * (2 * 2 ^ (f.qmin - 2)) = (2 * 2 ^ (f.mw + 1) - 1) * 2 ^ (f.qmin - 2) by ring]
    rw [decide_eq_true (show top < f.qmin + f.mw by omega), decide_eq_true heq, hunit, Bool.true_and, Bool.true_and, Bool.not_eq_true',
      decide_eq_false_iff_not, hcmp, not_le]
  · rw [decide_eq_false (by omega)]
    refine iff_of_false (by simp) (not_lt.mpr (le_trans ?_ hlo))
    calc _ ≤ 2 ^ (f.mw + 2) * (2 : ℝ) ^ (f.qmin - 2) := mul_le_mul_of_nonneg_right (by linarith) hV.le
      _ = 2 ^ (f.qmin - 2 + (f.mw + 2 : Nat)) := (hscale _).symm
      _ ≤ 2 ^ top := zpow_le_zpow_right₀ one_le_two (by push_cast; omega)

/-- Some bit of m · 2^e is below its unit. -/
def FFmt.inexact (f : FFmt) (m : Nat) (e : Int) : Bool :=
  decide (e < f.unit m e) && decide (m % 2 ^ (f.unit m e - e).toNat ≠ 0)

theorem FFmt.inexact_eq_false_iff (f : FFmt) (m : Nat) (e : Int) :
    f.inexact m e = false ↔ (rneScale m (e - f.unit m e) : ℝ) * 2 ^ f.unit m e = m * 2 ^ e := by
  have hU : (2 : ℝ) ^ f.unit m e ≠ 0 := by positivity
  rw [← eq_div_iff hU, ← mul_zpow_sub_eq_div, rneScale_eq_iff, neg_sub, sub_neg, FFmt.inexact, ← Bool.not_eq_true, Bool.and_eq_true,
    decide_eq_true_eq, decide_eq_true_eq]

/-- What `FFmt.round` gives: the code of the rounded units with the sign, or the largest that the format has; and the flags. -/
theorem FFmt.round_eq (f : FFmt) (s : Bool) (m : Nat) (e : Int) : f.round s m e =
    if f.maxCode < f.codeAt (rneScale m (e - f.unit m e)) (f.unit m e) then
      (withSign f s (if f.hasInf then f.inf else f.maxCode), fxOF ||| fxNX)
    else (withSign f s (f.codeAt (rneScale m (e - f.unit m e)) (f.unit m e)),
      fxIf (f.inexact m e) fxNX ||| fxIf (f.tiny m e && f.inexact m e) fxUF) := by
  by_cases hm : m = 0
  · subst hm
    have hr : rneScale 0 (e - f.qmin) = 0 := by
      unfold rneScale rneShift; simp
    simp [FFmt.round, FFmt.unit, FFmt.inexact, FFmt.codeAt, hr, fxIf]
  · simp only [FFmt.round, FFmt.inexact, FFmt.tiny, FFmt.unit, FFmt.codeAt, if_neg hm, gt_iff_lt]

/-- The rounded value, with its sign, is nearest to the number with that sign. -/
theorem FFmt.InUnits.nearest_ratOf {q p h : Int} {r n k : Nat} {s t : Bool} (hc : f.InUnits (m * 2 ^ e) q r) (hn : (n : ℝ) * 2 ^ p = r * 2 ^ q)
    (hk : k < 2 ^ (f.mw + 1)) (hh : f.qmin ≤ h) :
    let d := |((ratOf s n p : ℚ) : ℝ) - ((ratOf s m e : ℚ) : ℝ)|
    d ≤ |((ratOf t k h : ℚ) : ℝ) - ((ratOf s m e : ℚ) : ℝ)|
      ∧ (d = |((ratOf t k h : ℚ) : ℝ) - ((ratOf s m e : ℚ) : ℝ)| → ratOf t k h ≠ ratOf s n p → r % 2 = 0) := by
  have hother : |((ratOf t k h : ℚ) : ℝ) - ((ratOf s m e : ℚ) : ℝ)| = |((ratOf (s != t) k h : ℚ) : ℝ) - m * 2 ^ e| := by
    rw [ratOf_real, ratOf_real, ratOf_real]
    cases s
    · simp
    · rw [← abs_neg]; congr 1; cases t <;> simp <;> ring
  have hsigned : ((ratOf (s != t) k h : ℚ) : ℝ) = k * 2 ^ h ∨ ((ratOf (s != t) k h : ℚ) : ℝ) = -(k * 2 ^ h) := by
    rw [ratOf_real]; cases s != t <;> simp
  obtain ⟨hle, heven⟩ := hc.nearest hsigned hk hh
  rw [hother, abs_ratOf_sub, hn]
  refine ⟨hle, fun he hne => heven he fun hv => hne ?_⟩
  rw [← hn, ratOf_real] at hv
  have hv' : ((ratOf t k h : ℚ) : ℝ) = ((ratOf s n p : ℚ) : ℝ) := by
    rw [ratOf_real, ratOf_real]
    cases s <;> cases t <;> simp at hv ⊢ <;> linarith
  exact_mod_cast hv'

/-- One rounding of ±m · 2^e is that of its real value (R104, R110 to R112, R126). -/
theorem FFmt.Sound.round_roundsTo (hf : f.Sound) (s : Bool) (m : Nat) (e : Int) : RoundsTo f s ((ratOf s m e : ℚ) : ℝ) (f.round s m e) := by
  have hN := hf.decode_withSign false le_rfl
  rw [if_neg (Nat.div_ne_zero_iff.mpr ⟨by positivity, hf.normal⟩)] at hN
  have hunits := f.inUnits_unit m e
  refine ⟨s, _, _, ?_, hN, ?_⟩
  · rw [Rat.cast_lt_zero, Rat.cast_eq_zero, ratOf_eq_zero]
    by_cases hm : m = 0
    · simp [hm, ratOf]
    · simp [hm, ratOf_neg_iff]
  · have hmax := hunits.maxCode_lt_iff hf hN
    rw [f.round_eq]
    generalize 2 ^ f.mw + f.maxCode % 2 ^ f.mw = N at hmax ⊢
    generalize f.qmin + ((f.maxCode / 2 ^ f.mw - 1 : Nat) : Int) = Q at hmax ⊢
    have hedge : ((ratOf false (2 * N + 1) (Q - 1) : ℚ) : ℝ) = ((N : ℝ) + 1 / 2) * 2 ^ Q := by
      rw [ratOf_real, zpow_sub_one₀ two_ne_zero]; push_cast; simp; ring
    have htiny : |((ratOf s m e : ℚ) : ℝ)| < ((ratOf false (2 ^ (f.mw + 2) - 1) (f.qmin - 2) : ℚ) : ℝ)
        ↔ (m : ℝ) * 2 ^ e < (2 ^ (f.mw + 2) - 1) * 2 ^ (f.qmin - 2) := by
      rw [abs_ratOf_real, ratOf_real, Nat.cast_sub Nat.one_le_two_pow]; simp
    intro edge beyond tiny
    have hbeyond : beyond ↔ f.maxCode < f.codeAt (rneScale m (e - f.unit m e)) (f.unit m e) := by
      rw [hmax, ← hedge, ← abs_ratOf_real s]
    refine ⟨fun hb => if_pos (hbeyond.mp hb), fun hb => ?_⟩
    rw [hbeyond] at hb
    rw [if_neg hb]
    have hle := not_lt.mp hb
    obtain ⟨n, p, hdec, hval, hpar⟩ := hunits.decode hf s hle
    have hd : |((ratOf s n p : ℚ) : ℝ) - ((ratOf s m e : ℚ) : ℝ)| = |(rneScale m (e - f.unit m e) : ℝ) * 2 ^ f.unit m e - m * 2 ^ e| := by
      rw [abs_ratOf_sub, hval]
    refine ⟨FFmt.withSign_lt (hle.trans_lt hf.belowSign), n, p, hdec, fun c t k h hc => ?_, fun h0 => ?_, fun h0 => ?_⟩
    · obtain ⟨hk, hh⟩ := FFmt.decode_fin hc
      rw [hpar]
      exact hunits.nearest_ratOf hval hk hh
    · rw [hd, abs_eq_zero, sub_eq_zero, ← f.inexact_eq_false_iff] at h0
      rw [h0, Bool.and_false]; rfl
    · rw [hd, ne_eq, abs_eq_zero, sub_eq_zero, ← f.inexact_eq_false_iff, Bool.not_eq_false] at h0
      have hm : m ≠ 0 := by rintro rfl; simp [FFmt.inexact] at h0
      rw [h0, Bool.and_true]
      refine ⟨fun ht => ?_, fun ht => ?_⟩
      · rw [(f.tiny_iff hm e).mpr (htiny.mp ht)]; rfl
      · rw [Bool.eq_false_iff.mpr (fun h => ht (htiny.mpr ((f.tiny_iff hm e).mp h)))]; rfl

end

/-- Settles O31: the magnitude is rounded to a whole number of units of the format (`FFmt.inUnits_unit`), to which no finite value is nearer
(`FFmt.InUnits.nearest`), and the codes of every format are those of such numbers (`FFmt.sound_of_mem`). -/
theorem roundsToNearestEven : Obligations.RoundsToNearestEven :=
  fun _ hf s m e => (FFmt.sound_of_mem hf).round_roundsTo s m e

end Sys2Proof.Machine
end

section
namespace Sys2Proof.Machine
set_option Elab.async false

/-! ### Integers of bit planes (R115, R292) -/

/-- The number whose bits below p are those of b. -/
def bitSum (b : Nat → Bool) (p : Nat) : Nat := ((List.range p).map (fun j => if b j then 2 ^ j else 0)).sum

theorem bitSum_succ (b : Nat → Bool) (p : Nat) : bitSum b (p + 1) = bitSum b p + if b p then 2 ^ p else 0 := by
  rw [bitSum, List.range_succ, List.map_append, List.sum_append, List.map_singleton, List.sum_singleton, bitSum]

theorem bitSum_lt (b : Nat → Bool) (p : Nat) : bitSum b p < 2 ^ p := by
  induction p with
  | zero => simp [bitSum]
  | succ p ih => rw [bitSum_succ, pow_succ]; split <;> omega

theorem testBit_bitSum (b : Nat → Bool) {p j : Nat} (hj : j < p) : (bitSum b p).testBit j = b j := by
  induction p with
  | zero => omega
  | succ p ih =>
    have hlt := bitSum_lt b p
    rw [bitSum_succ]
    rcases Nat.lt_or_eq_of_le (Nat.lt_succ_iff.mp hj) with hjp | rfl
    · cases b p
      · simpa using ih hjp
      · rw [if_pos rfl, Nat.add_comm, Nat.testBit_two_pow_add_gt hjp, ih hjp]
    · cases hb : b j
      · simpa using Nat.testBit_lt_two_pow hlt
      · rw [if_pos rfl, Nat.add_comm, Nat.testBit_two_pow_add_eq, Nat.testBit_lt_two_pow hlt]; rfl

theorem planeElem_eq (p : Nat) (signed : Bool) (slice r : Nat) : planeElem p signed slice r =
    if signed then sextN (bitSum (fun j => slice.testBit (64 * j + r)) p) p else (bitSum (fun j => slice.testBit (64 * j + r)) p : Nat) := rfl

theorem planeElements : Says.PlaneElements := by
  intro p signed slice r hp _ v
  have hlt := bitSum_lt (fun j => slice.testBit (64 * j + r)) p
  have hbit : ∀ j < p, _ := fun j hj => testBit_bitSum (fun j => slice.testBit (64 * j + r)) hj
  have hv : v = _ := planeElem_eq p signed slice r
  generalize bitSum (fun j => slice.testBit (64 * j + r)) p = w at *
  have hcast : ((2 ^ p : Nat) : Int) = 2 ^ p := by push_cast; rfl
  have hw : ((w : Int) % 2 ^ p).toNat = w := by
    rw [Int.emod_eq_of_lt (by omega) (by omega), Int.toNat_natCast]
  cases signed with
  | false =>
    rw [if_neg Bool.false_ne_true] at hv
    simp only [hv, hw, Bool.false_eq_true, if_false]
    exact ⟨⟨by omega, by omega⟩, hbit⟩
  | true =>
    have hhalf : (2 : Int) ^ p = 2 * 2 ^ (p - 1) := by rw [← pow_succ', Nat.sub_add_cancel hp]
    rw [if_pos rfl, sextN_eq_bmod w hp] at hv
    have hmod : v % 2 ^ p = (w : Int) % 2 ^ p := by rw [hv, ← hcast]; exact Int.bmod_emod
    have hlo := Int.le_bmod (x := w) (m := 2 ^ p) (by positivity)
    have hhi := Int.bmod_lt (x := w) (m := 2 ^ p) (by positivity)
    rw [← hv, hcast] at hlo hhi
    simp only [if_true, hmod, hw]
    exact ⟨⟨by omega, by omega⟩, hbit⟩

/-! ### Exact values of the model as rationals (R120, R262) -/

theorem alignTo_value (s : Bool) (m : Nat) {e q : Int} (h : q ≤ e) : (alignTo s m e q : ℚ) * 2 ^ q = ratOf s m e := by
  obtain ⟨n, rfl⟩ := Int.le.dest h
  have hn : (q + n - q).toNat = n := by omega
  rw [alignTo, hn, ratOf, zpow_add₀ two_ne_zero, zpow_natCast]
  cases s <;> simp <;> ring

/-- The exact result g is the value x. -/
def Ex.Is : Ex → ExactSum → Prop
  | .nan _, .nan => True
  | .inf s _, .inf t => s = t
  | .num s m e, .num x => ratOf s m e = x
  | _, _ => False

/-- An integer of units is its value, and a zero has the sign given. -/
theorem exOfInt_value (v q : Int) (z : Bool) : ∃ s m, exOfInt v q z = .num s m q ∧ ratOf s m q = v * 2 ^ q ∧ (v = 0 → s = z) := by
  by_cases hv : v = 0
  · exact ⟨z, 0, by rw [exOfInt, if_pos hv], by simp [ratOf, hv], fun _ => rfl⟩
  · refine ⟨_, _, by rw [exOfInt, if_neg hv], ?_, fun h => absurd h hv⟩
    rcases lt_or_gt_of_ne hv with hneg | hpos
    · have : ((v.natAbs : Nat) : ℚ) = -v := by rw [Nat.cast_natAbs, abs_of_neg hneg]; push_cast; rfl
      simp [ratOf, hneg, this]
    · have : ((v.natAbs : Nat) : ℚ) = v := by rw [Nat.cast_natAbs, abs_of_pos hpos]
      simp [ratOf, not_lt.mpr hpos.le, this]

theorem exOfInt_is {v q : Int} {z : Bool} {x : ℚ} (h : (v : ℚ) * 2 ^ q = x) : (exOfInt v q z).Is (.num x) := by
  obtain ⟨s, m, he, hval, -⟩ := exOfInt_value v q z
  rw [he]; exact hval.trans h

/-- The sum of two finite values; a zero sum has a minus only of two. -/
theorem exAdd_fin_value (s t : Bool) (m n : Nat) (e g : Int) : ∃ z k q, exAdd (.fin s m e) (.fin t n g) = .num z k q
    ∧ ratOf z k q = ratOf s m e + ratOf t n g ∧ (ratOf z k q = 0 → z = (s && t)) := by
  obtain ⟨z, k, he, hval, hz⟩ := exOfInt_value (alignTo s m e (min e g) + alignTo t n g (min e g)) (min e g) (s && t)
  refine ⟨z, k, _, he, ?_, fun h0 => hz ?_⟩
  · rw [hval, Int.cast_add, add_mul, alignTo_value _ _ (min_le_left ..), alignTo_value _ _ (min_le_right ..)]
  · rw [hval, mul_eq_zero, or_iff_left (by positivity)] at h0
    exact_mod_cast h0

/-! ### One rounding of an element plus a sum (R119, R120, R122, R124) -/

/-- The sign of a zero matters at zero alone. -/
theorem RoundsTo.of_sign {f : FFmt} {z w : Bool} {x : ℝ} {y : Nat × Fpx} (h : RoundsTo f z x y) (hw : x = 0 → z = w) : RoundsTo f w x y := by
  obtain ⟨s, N, Q, hs, hN⟩ := h
  exact ⟨s, N, Q, hs.trans (or_congr_right (and_congr_right fun h => by rw [hw h])), hN⟩

theorem FFmt.Sound.round_lt {f : FFmt} (hf : f.Sound) (hinf : f.inf < f.signBit) (s : Bool) (m : Nat) (e : Int) : (f.round s m e).1 < 2 ^ f.width := by
  rw [f.round_eq]
  split
  · refine FFmt.withSign_lt ?_
    split
    · exact hinf
    · exact hf.belowSign
  · next h => exact FFmt.withSign_lt ((not_lt.mp h).trans_lt hf.belowSign)

theorem f32_sound : F32.Sound := FFmt.sound_of_mem (by simp)

/-- The code of an infinity (R106). -/
theorem f32_code_of_inf {c : W32} {s : Bool} (h : F32.decode c.toNat = .inf s) : c = BitVec.ofNat 32 (withSign F32 s F32.inf) := by
  have hc : c.toNat < 2 ^ 32 := c.isLt
  refine BitVec.eq_of_toNat_eq ?_
  simp only [FFmt.decode, show F32.width = 32 from rfl, show F32.signBit = 2 ^ 31 by decide, show F32.inf = 0x7F800000 by decide,
    show F32.hasInf = true from rfl, Nat.mod_eq_of_lt hc, Bool.true_and, beq_iff_eq] at h
  split at h
  · next hm =>
    injection h with hs
    rw [BitVec.toNat_ofNat, ← hs, withSign, show F32.signBit = 2 ^ 31 by decide, show F32.inf = 0x7F800000 by decide]
    simp only [decide_eq_true_eq]
    split <;> omega
  · split at h
    · cases h
    · split at h <;> cases h

theorem accAdd_addsTo (c : W32) {g : Ex} {x : ExactSum} (h : g.Is x) : AddsTo c x (accAdd c g) := by
  cases g with
  | nan fl =>
    cases x with
    | nan => rfl
    | inf _ => exact h.elim
    | num _ => exact h.elim
  | inf s fl =>
    cases x with
    | nan => exact h.elim
    | num _ => exact h.elim
    | inf t =>
      obtain rfl : s = t := h
      simp only [AddsTo, accAdd]
      cases hc : F32.decode c.toNat with
      | nan q => rfl
      | inf r =>
        by_cases hrs : r = s
        · subst hrs
          simp [exAdd, Ex.finish, FFmt.clamp, f32_code_of_inf hc]
        · simp only [exAdd, hrs, if_false]; rfl
      | fin r m e => cases s <;> rfl
  | num s m e =>
    cases x with
    | nan => exact h.elim
    | inf _ => exact h.elim
    | num x =>
      obtain rfl : ratOf s m e = x := h
      simp only [AddsTo, accAdd, ratOf_eq_zero]
      split
      · rfl
      next hm =>
      cases hc : F32.decode c.toNat with
      | nan q => rfl
      | inf r => exact (f32_code_of_inf hc).symm
      | fin r n g =>
        obtain ⟨z, k, q, hsum, hval, hz⟩ := exAdd_fin_value r s n m g e
        have hfin : ((Ex.num z k q).finish F32 0 .none).1 = (F32.round z k q).1 := by simp [Ex.finish, FFmt.clamp, scOf]
        have hlt : (F32.round z k q).1 < 2 ^ 32 := f32_sound.round_lt (by decide) z k q
        refine ⟨(F32.round z k q).2, ?_⟩
        rw [hsum, hfin, BitVec.toNat_ofNat, Nat.mod_eq_of_lt hlt, ← hval]
        refine RoundsTo.of_sign (f32_sound.round_roundsTo z k q) fun h0 => ?_
        have h0' : ratOf z k q = 0 := by exact_mod_cast h0
        rw [hz h0']
        cases r
        · rfl
        cases s
        · rfl
        · -- two negative numbers, the second not 0, have no sum 0
          have h1 : ratOf true n g ≤ 0 := by
            have : (0 : ℚ) ≤ n * 2 ^ g := by positivity
            simp [ratOf]; linarith
          have h2 : ratOf true m e < 0 := (ratOf_neg_iff hm).mpr rfl
          linarith

end Sys2Proof.Machine
end

section
namespace Sys2Proof.Machine
set_option Elab.async false

/-! ### Sums of products (R120) -/

/-- The kinds of an element, and its sign. -/
def FVal.isInf : FVal → Bool | .inf _ => true | _ => false
def FVal.isZero : FVal → Bool | .fin _ 0 _ => true | _ => false
def FVal.sign : FVal → Bool | .inf s | .fin s _ _ => s | _ => false
/-- A pair whose product is NaN, and one whose product, unless it is NaN, is the infinity of sign s. -/
def pairVoid (p : FVal × FVal) : Bool := p.1.isNan || p.2.isNan || (p.1.isInf && p.2.isZero) || (p.1.isZero && p.2.isInf)
def pairInf (s : Bool) (p : FVal × FVal) : Bool := (p.1.isInf || p.2.isInf) && (p.1.sign != p.2.sign) == s

theorem totalOf_eq (l : List (FVal × FVal)) : totalOf l =
    if l.any pairVoid || (l.any (pairInf true) && l.any (pairInf false)) then .nan
    else if l.any (pairInf true) then .inf true
    else if l.any (pairInf false) then .inf false
    else .num (l.map (fun p => valOf p.1 * valOf p.2)).sum := rfl

/-- The kinds of an exact result. -/
def Ex.isNan : Ex → Bool | .nan _ => true | _ => false
def Ex.isInf (b : Bool) : Ex → Bool | .inf s _ => s == b | _ => false
/-- The units of 2^q of an exact number. -/
def Ex.units (q : Int) : Ex → Int | .num s m e => alignTo s m e q | _ => 0

theorem exSum_eq (q : Int) (l : List Ex) : exSum q l =
    if l.any Ex.isNan || (l.any (Ex.isInf true) && l.any (Ex.isInf false)) then .nan 0
    else if l.any (Ex.isInf true) then .inf true 0
    else if l.any (Ex.isInf false) then .inf false 0
    else exOfInt (l.map (Ex.units q)).sum q false := rfl

/-- The exact product of two elements, times 2^ex. -/
def scaledProduct (ex : Int) (p : FVal × FVal) : Ex := match exMul p.1 p.2 with | .num s n e => .num s n (e + ex) | x => x

/-- The products that are NaN or infinite, by the kinds of the two elements (R262). -/
theorem scaledProduct_isNan (ex : Int) (p : FVal × FVal) : (scaledProduct ex p).isNan = pairVoid p := by
  obtain ⟨_ | _ | ⟨_, _ | _, _⟩, _ | _ | ⟨_, _ | _, _⟩⟩ := p <;> rfl
theorem scaledProduct_isInf (ex : Int) (b : Bool) (p : FVal × FVal) : (scaledProduct ex p).isInf b = (!pairVoid p && pairInf b p) := by
  obtain ⟨_ | _ | ⟨_, _ | _, _⟩, _ | _ | ⟨_, _ | _, _⟩⟩ := p <;> rfl

/-- Any other product is of two finite elements. -/
theorem fin_of_pair {p : FVal × FVal} (hv : pairVoid p = false) (hi : ∀ b, pairInf b p = false) :
    ∃ s m e t n g, p = (.fin s m e, .fin t n g) := by
  have hfin : ∀ x : FVal, x.isNan = false → x.isInf = false → ∃ s m e, x = .fin s m e := fun x hn hx => by
    cases x with
    | nan => cases hn
    | inf => cases hx
    | fin s m e => exact ⟨s, m, e, rfl⟩
  have hinf : (p.1.isInf || p.2.isInf) = false := by simpa [pairInf] using hi (p.1.sign != p.2.sign)
  simp only [pairVoid, Bool.or_eq_false_iff] at hv hinf
  obtain ⟨s, m, e, h1⟩ := hfin p.1 hv.1.1.1 hinf.1
  obtain ⟨t, n, g, h2⟩ := hfin p.2 hv.1.1.2 hinf.2
  exact ⟨s, m, e, t, n, g, Prod.ext h1 h2⟩

theorem ratOf_mul (s t : Bool) (m n : Nat) (e g : Int) : ratOf (s != t) (m * n) (e + g) = ratOf s m e * ratOf t n g := by
  rw [ratOf, ratOf, ratOf, zpow_add₀ two_ne_zero]
  cases s <;> cases t <;> simp <;> ring

/-- A finite product as a whole number of units of 2^q below it. -/
theorem scaledProduct_units {ex q : Int} {p : FVal × FVal} (hv : pairVoid p = false) (hi : ∀ b, pairInf b p = false)
    (hq : ∀ s m e t n g, p = (.fin s m e, .fin t n g) → q ≤ e + g + ex) :
    ((scaledProduct ex p).units q : ℚ) * 2 ^ q = valOf p.1 * valOf p.2 * 2 ^ ex := by
  obtain ⟨s, m, e, t, n, g, rfl⟩ := fin_of_pair hv hi
  show (alignTo (s != t) (m * n) (e + g + ex) q : ℚ) * 2 ^ q = ratOf s m e * ratOf t n g * 2 ^ ex
  rw [alignTo_value _ _ (hq _ _ _ _ _ _ rfl), ← ratOf_mul, ratOf, ratOf, zpow_add₀ two_ne_zero (e + g)]
  ring

/-- A sum of integers times a unit. -/
theorem cast_sum_mul {α : Type} {f : α → Int} {g : α → ℚ} {c d : ℚ} {l : List α} (h : ∀ x ∈ l, (f x : ℚ) * c = g x * d) :
    ((l.map f).sum : ℚ) * c = (l.map g).sum * d := by
  induction l with
  | nil => simp
  | cons x l ih =>
    obtain ⟨hx, hl⟩ := List.forall_mem_cons.mp h
    rw [List.map_cons, List.map_cons, List.sum_cons, List.sum_cons, Int.cast_add, add_mul, add_mul, hx, ih hl]

/-- A sum of products, scaled. -/
def scaleSum (c : ℚ) (x : ExactSum) : ExactSum := match x with | .num x => .num (x * c) | y => y

theorem exSum_is {ex q : Int} {l : List (FVal × FVal)} (hq : ∀ s m e t n g, (FVal.fin s m e, FVal.fin t n g) ∈ l → q ≤ e + g + ex) :
    (exSum q (l.map (scaledProduct ex))).Is (scaleSum (2 ^ ex) (totalOf l)) := by
  have hnan : (l.map (scaledProduct ex)).any Ex.isNan = l.any pairVoid := by
    rw [List.any_map]; congr 1; funext p; exact scaledProduct_isNan ex p
  rw [exSum_eq, totalOf_eq, hnan]
  cases hvoid : l.any pairVoid with
  | true => trivial
  | false =>
    have hv : ∀ p ∈ l, pairVoid p = false := fun p hp => by simpa using List.any_eq_false.mp hvoid p hp
    have hinf : ∀ b, (l.map (scaledProduct ex)).any (Ex.isInf b) = l.any (pairInf b) := fun b => by
      rw [List.any_map, Bool.eq_iff_iff, List.any_eq_true, List.any_eq_true]
      refine exists_congr fun p => and_congr_right fun hp => ?_
      rw [Function.comp, scaledProduct_isInf, hv p hp]; rfl
    rw [hinf, hinf, Bool.false_or]
    split
    · trivial
    split
    · rfl
    split
    · rfl
    next h1 h0 =>
      refine exOfInt_is ?_
      rw [List.map_map]
      refine cast_sum_mul fun p hp => scaledProduct_units (hv p hp) (fun b => ?_) (fun s m e t n g h => hq s m e t n g (h ▸ hp))
      have hnone : l.any (pairInf b) = false := by
        cases b
        · exact Bool.eq_false_iff.mpr h0
        · exact Bool.eq_false_iff.mpr h1
      simpa using List.any_eq_false.mp hnone p hp

end Sys2Proof.Machine
end

section
namespace Sys2Proof.Machine
set_option Elab.async false

/-! ### The pairs and elements of a unit (R116 to R118, R121) -/

theorem pairOf_eq (w : W64) (bsel j : Nat) : pairOf w bsel j = (scaleExp w (bsel + j), scaleZero w (bsel + j)) := by
  have h16 : (2 : Nat) ^ 16 = 2 ^ 8 * 256 := by norm_num
  simp only [pairOf, scaleExp, scaleZero, sextN_eq_bmod _ (show 1 ≤ 8 by decide), BitVec.toInt_ofNat']
  generalize w.toNat = v
  have hlow : v / 2 ^ (16 * (bsel + j)) % 2 ^ 16 % 256 = v / 2 ^ (16 * (bsel + j)) % 256 := Nat.mod_mod_of_dvd _ ⟨256, h16⟩
  have hhigh : v / 2 ^ (16 * (bsel + j)) % 2 ^ 16 / 256 = v / 2 ^ (16 * (bsel + j) + 8) % 2 ^ 8 := by
    rw [h16, Nat.mod_mul_left_div_self, show 256 = 2 ^ 8 by norm_num, Nat.div_div_eq_div_mul, ← pow_add]
  rw [hlow, hhigh, Int.natCast_mod]
  exact congrArg _ (Int.emod_bmod ..)

/-- The exact product of two lns6 codes counts 2^−23 (R121). -/
theorem lnsProd_eq (a b : Nat) : (lnsProd a b : ℚ) = logProduct a b * 2 ^ 23 := by
  unfold lnsProd logProduct
  extract_lets ma mb e i tab v e'
  have he : e' = e := by simp only [e', e, ma, mb]; push_cast; rfl
  rw [he]
  by_cases h0 : ma = 0 ∨ mb = 0
  · rw [if_pos h0, if_pos h0]; simp
  · rw [if_neg h0, if_neg h0]
    have hsum : 2 ≤ ma + mb := by omega
    have hi : (((i + 8).toNat : Nat) : Int) = e / 4 + 8 := by
      rw [Int.toNat_of_nonneg (by simp only [i, e]; omega)]
    have hscale : (2 : ℚ) ^ (i + 8).toNat = 2 ^ (e / 4) * 2 ^ (8 : Nat) := by
      rw [← zpow_natCast, hi, zpow_add₀ two_ne_zero]; rfl
    have htab : (tab : ℚ) = (([0x8000, 0x9838, 0xB505, 0xD745] : List Nat).getD (e % 4).toNat 0 : Nat) := by
      have hlt : (e % 4).toNat < 4 := by omega
      simp only [tab]
      interval_cases (e % 4).toNat <;> rfl
    have hv : (v : ℚ) = tab * (2 ^ (e / 4) * 2 ^ (8 : Nat)) := by simp only [v]; push_cast; rw [hscale]
    have hsign : ((a / 32 % 2 == 1) != (b / 32 % 2 == 1)) = !decide (a / 32 % 2 = b / 32 % 2) := by
      rcases Nat.mod_two_eq_zero_or_one (a / 32) with h | h <;> rcases Nat.mod_two_eq_zero_or_one (b / 32) with h' | h' <;> rw [h, h'] <;> rfl
    split
    next hs =>
      rw [hsign, Bool.not_eq_true', decide_eq_false_iff_not] at hs
      rw [if_neg hs, Int.cast_neg, hv, ← htab]; ring
    next hs =>
      rw [hsign, Bool.not_eq_true', decide_eq_false_iff_not, not_not] at hs
      rw [if_pos hs, hv, ← htab]; ring

/-- The k of a unit at which both elements are present. -/
theorem Mma.both_unit (m : Mma) (u r c : Nat) : m.both (m.stepSet.filter (fun k => k / m.path.unit = u)) r c
    = (List.range m.k).filter (fun k => k / m.path.unit == u
      && (m.bitsA.getD k 0xFFFFFFFFFFFFFFFF).getLsbD r && (m.bitsB.getD k 0xFFFFFFFFFFFFFFFF).getLsbD c) := by
  have hne : ∀ {w : W64} {j : Nat}, w.getLsbD j = true → (w != 0) = true := fun {w j} h => by
    rw [bne_iff_ne]; rintro rfl; simp at h
  rw [Mma.both, Mma.stepSet, List.filter_filter, List.filter_filter]
  refine List.filter_congr fun k _ => ?_
  rw [Bool.eq_iff_iff]
  simp only [Bool.and_eq_true, beq_iff_eq, decide_eq_true_eq, and_assoc]
  constructor
  · rintro ⟨ha, hb, hu, -, -⟩; exact ⟨hu, ha, hb⟩
  · rintro ⟨hu, ha, hb⟩; exact ⟨ha, hb, hu, hne ha, hne hb⟩

/-- The sum of products less their zero points, multiplied out (R120). -/
theorem sum_less_zeros {α : Type} (l : List α) (f g : α → Int) (z w : Int) :
    (l.map (fun k => f k * g k)).sum - z * (l.map g).sum - w * (l.map f).sum + z * w * l.length = (l.map (fun k => (f k - z) * (g k - w))).sum := by
  induction l with
  | nil => simp
  | cons x l ih =>
    simp only [List.map_cons, List.sum_cons, List.length_cons, Nat.cast_succ, ← ih]
    ring

/-- The block whose pairs govern unit u (R118, R120). -/
def Mma.block (m : Mma) (u : Nat) : Nat := m.bsel + match m.path with | .float _ => u / 2 | _ => u
/-- The exponent of the scale of a unit, of the pairs of row r and column c. -/
def Mma.scaleOf (m : Mma) (u r c : Nat) : Int :=
  (scaleExp (m.scaleA.getD r 0) (m.block u) : Int) + scaleExp (m.scaleB.getD c 0) (m.block u) - 254
/-- One of the two pairs has E = 0xFF. -/
def Mma.Void (m : Mma) (u r c : Nat) : Prop :=
  scaleExp (m.scaleA.getD r 0) (m.block u) = 255 ∨ scaleExp (m.scaleB.getD c 0) (m.block u) = 255

section
variable {m : Mma} {u r c : Nat} {ks : List Nat}

theorem Mma.unitSum_void (h : m.Void u r c) : m.unitSum u ks r c = .nan 0 := by
  simp only [Mma.unitSum, pairOf_eq]; exact if_pos h

/-- What a unit sums where no pair makes it NaN: integers of steps of the scale, products of elements, or lns products. -/
theorem Mma.unitSum_eq (h : ¬ m.Void u r c) : m.unitSum u ks r c = match m.path with
    | .plane pa pb na nb =>
      let a := fun k => planeElem pa na (m.slicesA.getD k 0) r
      let b := fun k => planeElem pb nb (m.slicesB.getD k 0) c
      let za := scaleZero (m.scaleA.getD r 0) (m.block u)
      let zb := scaleZero (m.scaleB.getD c 0) (m.block u)
      let s := ((m.both ks r c).map (fun k => a k * b k)).sum
      exOfInt (if m.zc then s - za * ((m.both ks r c).map b).sum - zb * ((m.both ks r c).map a).sum + za * zb * (m.both ks r c).length else s)
        (m.scaleOf u r c) false
    | .float f => exSum sumQ (((m.both ks r c).map (fun k => ((EFmt.f f).decode (elem (EFmt.bits f) r (m.slicesA.getD k 0)),
        (EFmt.f f).decode (elem (EFmt.bits f) c (m.slicesB.getD k 0))))).map (scaledProduct (m.scaleOf u r c)))
    | .lns => exOfInt ((m.both ks r c).map (fun k => lnsProd (elem 8 r (m.slicesA.getD k 0)) (elem 8 c (m.slicesB.getD k 0)))).sum
        (m.scaleOf u r c - 23) false := by
  simp only [Mma.unitSum, pairOf_eq, List.map_map]
  exact if_neg h

theorem Mma.unitSum_plane {pa pb : Nat} {na nb : Bool} (hp : m.path = .plane pa pb na nb) (h : ¬ m.Void u r c) :
    (m.unitSum u ks r c).Is (.num ((((m.both ks r c).map (fun k =>
      (planeElem pa na (m.slicesA.getD k 0) r - if m.zc then scaleZero (m.scaleA.getD r 0) (m.block u) else 0)
        * (planeElem pb nb (m.slicesB.getD k 0) c - if m.zc then scaleZero (m.scaleB.getD c 0) (m.block u) else 0))).sum : Int)
      * 2 ^ m.scaleOf u r c)) := by
  rw [Mma.unitSum_eq h, hp]
  refine exOfInt_is (congrArg (fun v : Int => (v : ℚ) * _) ?_)
  cases m.zc with
  | false => simp
  | true => exact sum_less_zeros ..

/-- Every element's exponent is −133 at least, and the scale's −254. -/
theorem Mma.unitSum_float {f : EFmt} (hp : m.path = .float f) (h : ¬ m.Void u r c) :
    (m.unitSum u ks r c).Is (scaleSum (2 ^ m.scaleOf u r c) (totalOf ((m.both ks r c).map (fun k =>
      ((EFmt.f f).decode (elem (EFmt.bits f) r (m.slicesA.getD k 0)), (EFmt.f f).decode (elem (EFmt.bits f) c (m.slicesB.getD k 0))))))) := by
  rw [Mma.unitSum_eq h, hp]
  refine exSum_is fun s x e t n g hmem => ?_
  obtain ⟨k, -, hk⟩ := List.mem_map.mp hmem
  obtain ⟨ha, hb⟩ := Prod.ext_iff.mp hk
  have hq : -133 ≤ (EFmt.f f).qmin := by cases f <;> decide
  have he := (FFmt.decode_fin ha).2
  have hg := (FFmt.decode_fin hb).2
  simp only [Mma.scaleOf, sumQ]
  omega

theorem Mma.unitSum_lns (hp : m.path = .lns) (h : ¬ m.Void u r c) :
    (m.unitSum u ks r c).Is (.num (((m.both ks r c).map (fun k =>
      logProduct (elem 8 r (m.slicesA.getD k 0)) (elem 8 c (m.slicesB.getD k 0)))).sum * 2 ^ m.scaleOf u r c)) := by
  rw [Mma.unitSum_eq h, hp]
  refine exOfInt_is (cast_sum_mul fun k _ => ?_)
  rw [lnsProd_eq, zpow_sub₀ two_ne_zero, mul_assoc]
  congr 1
  exact mul_div_cancel₀ _ (by positivity)

end

theorem unitSums : Says.UnitSums := by
  intro m u i t _ r c block ks wa wb ea eb scale sa sb
  have hks : ks = m.both (m.stepSet.filter (fun k => k / m.path.unit = u)) r c := (m.both_unit u r c).symm
  have hfold : m.fold u t i = accAdd (t i) (m.unitSum u (m.stepSet.filter (fun k => k / m.path.unit = u)) r c) := rfl
  generalize m.stepSet.filter (fun k => k / m.path.unit = u) = l at hks hfold
  rw [hfold]
  clear_value ks
  subst hks
  split
  next h => rw [Mma.unitSum_void (show m.Void u r c from h)]; rfl
  next h =>
    have h' : ¬ m.Void u r c := h
    cases hp : m.path with
    | plane pa pb na nb => exact accAdd_addsTo _ (Mma.unitSum_plane hp h')
    | float f => exact accAdd_addsTo _ (Mma.unitSum_float hp h')
    | lns => exact accAdd_addsTo _ (Mma.unitSum_lns hp h')

end Sys2Proof.Machine
end

section
namespace Sys2Proof.Machine
set_option Elab.async false

/-! ### Reading a tile that was written (R288) -/

theorem tileGet_append (l₁ l₂ : List (Nat × W32)) (x : Nat) :
    tileGet (l₁ ++ l₂) x = if x ∈ l₁.map Prod.fst then tileGet l₁ x else tileGet l₂ x := by
  induction l₁ with
  | nil => rfl
  | cons q l ih =>
    by_cases hq : q.1 = x
    · simp [tileGet, hq]
    · simp [tileGet, hq, ih, Ne.symm hq]

theorem tileGet_of_not_mem {l : List (Nat × W32)} {x : Nat} (h : x ∉ l.map Prod.fst) : tileGet l x = 0 := by
  induction l with
  | nil => rfl
  | cons q l ih =>
    rw [List.map_cons, List.mem_cons, not_or] at h
    simp [tileGet, Ne.symm h.1, ih h.2]

theorem tileGet_append_left {l₁ l₂ : List (Nat × W32)} {x : Nat} (h : x ∉ l₂.map Prod.fst) : tileGet (l₁ ++ l₂) x = tileGet l₁ x := by
  rw [tileGet_append]
  split
  · rfl
  · next h₁ => rw [tileGet_of_not_mem h, tileGet_of_not_mem h₁]

theorem tileGet_append_right {l₁ l₂ : List (Nat × W32)} {x : Nat} (h : x ∉ l₁.map Prod.fst) : tileGet (l₁ ++ l₂) x = tileGet l₂ x := by
  rw [tileGet_append, if_neg h]

/-- A selection by the keys. -/
theorem tileGet_filter (b : Nat → Bool) (l : List (Nat × W32)) (x : Nat) : tileGet (l.filter (fun q => b q.1)) x = if b x then tileGet l x else 0 := by
  induction l with
  | nil => simp [tileGet]
  | cons q l ih =>
    by_cases hq : q.1 = x
    · subst hq
      cases hb : b q.1 <;> simp [hb, tileGet] at ih ⊢
      exact ih
    · cases hb : b q.1 <;> simp [hb, tileGet, hq, ih]

/-- The elements that `Pen.setTile` lists. -/
def tileEntries (t : Nat) (f : Nat → W32) (n : Nat) : List (Nat × W32) :=
  (List.range n).filterMap (fun i => let v := f i; if v = 0 then none else some (4096 * t + i, v))

theorem mem_tileEntries {t n x : Nat} {f : Nat → W32} (h : x ∈ (tileEntries t f n).map Prod.fst) : 4096 * t ≤ x ∧ x < 4096 * t + n := by
  obtain ⟨q, hq, rfl⟩ := List.mem_map.mp h
  obtain ⟨i, hi, he⟩ := List.mem_filterMap.mp hq
  have hin := List.mem_range.mp hi
  dsimp only at he
  split at he
  · cases he
  · cases he; exact ⟨by omega, by omega⟩

theorem tileGet_tileEntries (t : Nat) (f : Nat → W32) {n i : Nat} (hi : i < n) : tileGet (tileEntries t f n) (4096 * t + i) = f i := by
  induction n with
  | zero => omega
  | succ n ih =>
    have hsplit : tileEntries t f (n + 1) = tileEntries t f n ++ (if f n = 0 then [] else [(4096 * t + n, f n)]) := by
      rw [tileEntries, List.range_succ, List.filterMap_append, tileEntries]
      congr 1
      by_cases h0 : f n = 0 <;> simp only [List.filterMap_cons, List.filterMap_nil, h0, if_true, if_false]
    rw [hsplit]
    rcases Nat.lt_or_eq_of_le (Nat.lt_succ_iff.mp hi) with hin | rfl
    · rw [tileGet_append_left, ih hin]
      split <;> simp; omega
    · rw [tileGet_append_right (fun h => by have := mem_tileEntries h; omega)]
      by_cases h0 : f i = 0 <;> simp only [h0, if_true, if_false, tileGet]

theorem Pen.tile_setTile (x : Pen) (t : Nat) (f : Nat → W32) (k : Nat) {i : Nat} (hi : i < 4096) :
    (x.setTile t f).tile k i = if k = t then f i else x.tile k i := by
  show tileGet (x.tiles.filter (fun q => decide (q.1 < 4096 * t)) ++ tileEntries t f 4096
    ++ x.tiles.filter (fun q => decide (4096 * (t + 1) ≤ q.1))) (4096 * k + i) = _
  have hbelow := tileGet_filter (fun y => decide (y < 4096 * t)) x.tiles (4096 * k + i)
  have habove := tileGet_filter (fun y => decide (4096 * (t + 1) ≤ y)) x.tiles (4096 * k + i)
  have hnotBelow : 4096 * t ≤ 4096 * k + i → 4096 * k + i ∉ (x.tiles.filter (fun q => decide (q.1 < 4096 * t))).map Prod.fst := fun h hm => by
    obtain ⟨q, hq, he⟩ := List.mem_map.mp hm
    have := of_decide_eq_true (List.mem_filter.mp hq).2
    omega
  have hnotAbove : 4096 * k + i < 4096 * (t + 1) → 4096 * k + i ∉ (x.tiles.filter (fun q => decide (4096 * (t + 1) ≤ q.1))).map Prod.fst :=
    fun h hm => by
      obtain ⟨q, hq, he⟩ := List.mem_map.mp hm
      have := of_decide_eq_true (List.mem_filter.mp hq).2
      omega
  rcases lt_trichotomy k t with hlt | rfl | hgt
  · rw [tileGet_append_left (hnotAbove (by omega)), tileGet_append_left (fun h => by have := mem_tileEntries h; omega), hbelow,
      if_pos (decide_eq_true (by omega)), if_neg (by omega)]
    rfl
  · rw [tileGet_append_left (hnotAbove (by omega)), tileGet_append_right (hnotBelow (by omega)), tileGet_tileEntries _ _ hi, if_pos rfl]
  · rw [List.append_assoc, tileGet_append_right (hnotBelow (by omega)), tileGet_append_right (fun h => by have := mem_tileEntries h; omega), habove,
      if_pos (decide_eq_true (by omega)), if_neg (by omega)]
    rfl

/-! ### The units that fold (R294) -/

/-- The units whose last step is among the steps ks, in order. -/
def unitsOf (w : Nat) (ks : List Nat) : List Nat := (ks.map (· / w)).dedup

theorem unitsOf_cons {w k : Nat} {ks : List Nat} : unitsOf w (k :: ks) = if k / w ∈ ks.map (· / w) then unitsOf w ks else k / w :: unitsOf w ks := by
  rw [unitsOf, List.map_cons]
  split
  next h => rw [List.dedup_cons_of_mem h]; rfl
  next h => rw [List.dedup_cons_of_notMem h]; rfl

/-- Of ascending steps a unit goes on just where the next step is one of its own. -/
theorem mem_units_iff_head {w k : Nat} {ks : List Nat} (h : (k :: ks).Pairwise (· < ·)) : k / w ∈ ks.map (· / w) ↔ ks.head?.map (· / w) = some (k / w) := by
  cases ks with
  | nil => simp
  | cons j ks =>
    obtain ⟨hk, hks⟩ := List.pairwise_cons.mp h
    have hkj := Nat.div_le_div_right (c := w) (hk j (by simp)).le
    constructor
    · intro hm
      obtain ⟨y, hy, he⟩ := List.mem_map.mp hm
      have hjy : j / w ≤ y / w := Nat.div_le_div_right (by
        rcases List.mem_cons.mp hy with rfl | hy
        · exact le_rfl
        · exact ((List.pairwise_cons.mp hks).1 y hy).le)
      simp only [List.head?_cons, Option.map_some, Option.some.injEq]
      omega
    · intro he
      simp only [List.head?_cons, Option.map_some, Option.some.injEq] at he
      exact List.mem_map.mpr ⟨j, by simp, he⟩

/-- Ascending, they are those of the numbers below n that have a step. -/
theorem unitsOf_eq_filter {w n : Nat} {ks : List Nat} (h : ks.Pairwise (· < ·)) (hn : ∀ k ∈ ks, k / w < n) :
    unitsOf w ks = (List.range n).filter (fun u => ks.any (fun k => k / w == u)) := by
  have hle : (unitsOf w ks).Pairwise (· ≤ ·) :=
    List.Pairwise.sublist (List.dedup_sublist _) (List.pairwise_map.mpr (h.imp fun hab => Nat.div_le_div_right hab.le))
  have hlt : (unitsOf w ks).Pairwise (· < ·) :=
    (hle.and (List.nodup_dedup (ks.map (· / w)))).imp fun h => lt_of_le_of_ne h.1 h.2
  refine List.Pairwise.eq_of_mem_iff hlt (List.Pairwise.filter _ List.pairwise_lt_range) fun u => ?_
  simp only [unitsOf, List.mem_dedup, List.mem_map, List.mem_filter, List.mem_range, List.any_eq_true, beq_iff_eq]
  constructor
  · rintro ⟨k, hk, rfl⟩; exact ⟨hn k hk, k, hk, rfl⟩
  · rintro ⟨-, h⟩; exact h

theorem Mma.stepSet_sorted (m : Mma) : m.stepSet.Pairwise (· < ·) := List.Pairwise.filter _ List.pairwise_lt_range

theorem Path.unit_pos (p : Path) : 0 < p.unit := by cases p <;> exact Nat.succ_pos _

theorem Mma.unit_lt (m : Mma) {k : Nat} (hk : k ∈ m.stepSet) : k / m.path.unit < (m.k + m.path.unit - 1) / m.path.unit := by
  have hw := m.path.unit_pos
  have hlt : k < m.k := List.mem_range.mp (List.mem_filter.mp hk).1
  rw [Nat.div_lt_iff_lt_mul hw]
  have := Nat.div_add_mod (m.k + m.path.unit - 1) m.path.unit
  have := Nat.mod_lt (m.k + m.path.unit - 1) hw
  rw [Nat.mul_comm]
  omega

end Sys2Proof.Machine
end

section
namespace Sys2Proof.Machine
set_option Elab.async false

/-! ### Steps of an MMA operation (R294) -/

/-- The state u is s but for its operations and tile t of pen p. -/
structure OnlyTile (s u : State) (p t : Nat) : Prop where
  same : u = { s with ops := u.ops, pens := u.pens }
  ids : u.pens.map Pen.id = s.pens.map Pen.id
  pen : ∀ q, u.pen q = { s.pen q with tiles := (u.pen q).tiles }
  other : ∀ k ≠ t, ∀ i < 4096, (u.pen p).tile k i = (s.pen p).tile k i

section
variable {s u v : State} {o : EngOp} {m : Mma} {p t : Nat}

theorem OnlyTile.refl (s : State) (p t : Nat) : OnlyTile s s p t := ⟨rfl, rfl, fun _ => rfl, fun _ _ _ _ => rfl⟩

theorem OnlyTile.trans (h : OnlyTile s u p t) (k : OnlyTile u v p t) : OnlyTile s v p t where
  same := by rw [k.same, h.same]
  ids := k.ids.trans h.ids
  pen q := by rw [k.pen, h.pen]
  other j hj i hi := (k.other j hj i hi).trans (h.other j hj i hi)

theorem OnlyTile.updOp (s : State) (p t id : Nat) (f : EngOp → EngOp) : OnlyTile s (s.updOp id f) p t := ⟨rfl, rfl, fun _ => rfl, fun _ _ _ _ => rfl⟩

theorem State.tile_setTile (hp : p ∈ s.pens.map Pen.id) (f : Pen → Nat → W32) (k : Nat) {i : Nat} (hi : i < 4096) :
    ((s.updPen p (fun x => x.setTile t (f x))).pen p).tile k i = if k = t then f (s.pen p) i else (s.pen p).tile k i := by
  rw [State.pen_updPen (f := fun x => x.setTile t (f x)) (fun _ => rfl) hp, if_pos rfl, Pen.tile_setTile _ _ _ _ hi]

theorem OnlyTile.setTile (hp : p ∈ s.pens.map Pen.id) (f : Pen → Nat → W32) : OnlyTile s (s.updPen p (fun x => x.setTile t (f x))) p t where
  same := rfl
  ids := State.updPen_ids fun _ => rfl
  pen q := by
    rw [State.pen_updPen (f := fun x => x.setTile t (f x)) (fun _ => rfl) hp]
    split <;> rfl
  other k hk i hi := by rw [State.tile_setTile hp f k hi, if_neg hk]

/-- The pens keep their launches, their places and their clocks. -/
theorem OnlyTile.engResident (h : OnlyTile s u p t) (hk : o.kind.isMatrix = true) (hpen : o.pen = some p) : u.engResident o = s.engResident o := by
  have hdie : u.die = s.die := by rw [h.same]; rfl
  have hcore : (u.pen p).core = (s.pen p).core := by rw [h.pen p]
  have hsaved : (u.pen p).saved = (s.pen p).saved := by rw [h.pen p]
  simp only [State.engResident, hk, hpen, State.clocked, State.penDie, hdie, hcore, hsaved]

theorem State.find_updOp {id : Nat} {f : EngOp → EngOp} (hf : ∀ q, (f q).id = q.id) (h : s.ops.find? (·.id == id) = some o) :
    (s.updOp id f).ops.find? (·.id == id) = some (f o) := by
  have hid : o.id = id := by simpa using List.find?_some h
  have hcomp : ((fun q : EngOp => q.id == id) ∘ fun q => if q.id == id then f q else q) = fun q => q.id == id := by
    funext q; simp only [Function.comp]; split <;> simp [hf]
  rw [State.updOp, List.find?_map, hcomp, h]
  simp [hid]

/-- The operation o is an MMA m on tile t of pen p that is alone, has started, and may step. -/
structure Running (s : State) (o : EngOp) (m : Mma) (p t : Nat) : Prop where
  found : s.ops.find? (·.id == o.id) = some o
  kind : o.kind = .mma m
  joint : o.joint = none
  started : o.started = true
  cancelled : o.cancelled = false
  resident : s.engResident o = true
  pen : o.pen = some p
  tile : o.tile = some t
  known : p ∈ s.pens.map Pen.id

/-- The same operation after n more steps. -/
def stepped (o : EngOp) (m : Mma) (n : Nat) : EngOp := { o with kind := .mma { m with steps := m.steps + n } }

theorem Running.jointOps (h : Running s o m p t) : s.jointOps o = [o] := by rw [State.jointOps, h.joint]

theorem Running.engStep (h : Running s o m p t) : s.engStep o.id = s.mmaStep o := by
  simp [State.engStep, h.found, h.started, h.cancelled, h.kind, h.jointOps, h.resident]

theorem Running.next (h : Running s o m p t) (hu : OnlyTile s u p t) {n : Nat} (hf : u.ops.find? (·.id == o.id) = some (stepped o m n)) :
    Running u (stepped o m n) { m with steps := m.steps + n } p t where
  found := hf
  kind := rfl
  joint := h.joint
  started := h.started
  cancelled := h.cancelled
  resident := by
    rw [hu.engResident (o := stepped o m n) rfl h.pen, ← h.resident]
    simp only [State.engResident, stepped, h.kind]
    rfl
  pen := h.pen
  tile := h.tile
  known := hu.ids ▸ h.known

/-- A step folds its unit into the tile where it is the last one of the unit. -/
theorem Running.mmaStep (h : Running s o m p t) {k : Nat} (hk : m.stepSet[m.steps]? = some k) :
    OnlyTile s (s.mmaStep o) p t ∧ (s.mmaStep o).ops.find? (·.id == o.id) = some (stepped o m 1)
      ∧ ∀ i < 4096, ((s.mmaStep o).pen p).tile t i = if (m.stepSet[m.steps + 1]?).map (· / m.path.unit) = some (k / m.path.unit)
        then (s.pen p).tile t i else m.fold (k / m.path.unit) (fun _ => (s.pen p).tile t i) i := by
  have hfound := State.find_updOp (f := fun q => { q with kind := .mma { m with steps := m.steps + 1 } }) (fun _ => rfl) h.found
  simp only [State.mmaStep, h.kind, hk, h.pen, h.tile, Option.getD_some]
  split
  · exact ⟨OnlyTile.updOp .., hfound, fun _ _ => rfl⟩
  · refine ⟨(OnlyTile.updOp ..).trans (OnlyTile.setTile (s := s.updOp o.id _) h.known _), hfound, fun i hi => ?_⟩
    exact (State.tile_setTile (s := s.updOp o.id _) h.known (fun x => m.fold (k / m.path.unit) (x.tile t)) t hi).trans (if_pos rfl)

/-- The steps that are left fold their units in order (R294). -/
theorem Running.engAdvance {n : Nat} (h : Running s o m p t) (hn : m.steps + n = m.stepSet.length) :
    OnlyTile s (s.engAdvance o.id n) p t ∧ (s.engAdvance o.id n).ops.find? (·.id == o.id) = some (stepped o m n)
      ∧ ∀ i < 4096, ((s.engAdvance o.id n).pen p).tile t i
        = (unitsOf m.path.unit (m.stepSet.drop m.steps)).foldl (fun c v => m.fold v (fun _ => c) i) ((s.pen p).tile t i) := by
  induction n generalizing s o m with
  | zero =>
    refine ⟨OnlyTile.refl .., ?_, fun i _ => ?_⟩
    · rw [State.engAdvance, h.found, stepped, Nat.add_zero, ← h.kind]
    · rw [List.drop_eq_nil_of_le (by omega)]; rfl
  | succ n ih =>
    have hlt : m.steps < m.stepSet.length := by omega
    obtain ⟨hstep, hfound, htile⟩ := h.mmaStep (List.getElem?_eq_getElem hlt)
    obtain ⟨hrest, hlast, hfold⟩ := ih (h.next hstep hfound) (show m.steps + 1 + n = m.stepSet.length by omega)
    have hrun : s.engAdvance o.id (n + 1) = (s.mmaStep o).engAdvance (stepped o m 1).id n := by rw [State.engAdvance, h.engStep]; rfl
    rw [hrun]
    refine ⟨hstep.trans hrest, ?_, fun i hi => ?_⟩
    · refine hlast.trans ?_
      simp only [stepped, Nat.add_assoc, Nat.add_comm 1]
    · have hsorted : (m.stepSet[m.steps] :: m.stepSet.drop (m.steps + 1)).Pairwise (· < ·) := by
        rw [← List.drop_eq_getElem_cons hlt]; exact m.stepSet_sorted.sublist (List.drop_sublist ..)
      refine (hfold i hi).trans ?_
      rw [htile i hi, List.drop_eq_getElem_cons hlt, unitsOf_cons]
      simp only [mem_units_iff_head hsorted, List.head?_drop]
      split <;> rfl

end

end Sys2Proof.Machine
end

section
namespace Sys2Proof.Machine
set_option Elab.async false

/-! ### The completion of an MMA operation (R123, R213, R224; log 7, 25) -/

section
variable {s u v : State} {o : EngOp} {m : Mma} {p t : Nat}

/-- Without a step a unit's sum is 0, or NaN where a pair has E = 0xFF. -/
theorem Mma.unitSum_nil (m : Mma) (u r c : Nat) : (m.unitSum u [] r c).isNan
    = (scaleExp (m.scaleA.getD r 0) (m.block u) == 255 || scaleExp (m.scaleB.getD c 0) (m.block u) == 255) := by
  rw [Bool.eq_iff_iff, Bool.or_eq_true, beq_iff_eq, beq_iff_eq]
  by_cases h : m.Void u r c
  · exact iff_of_true (by rw [Mma.unitSum_void h]; rfl) h
  · refine iff_of_false ?_ h
    rw [Mma.unitSum_eq h]
    cases m.path <;> cases m.zc <;> simp [Mma.both, exSum, exOfInt, Ex.isNan]

/-- An operation that has read no bad line has computed no element from one (R224). -/
theorem Mma.spoiled_of_sound (hmap : m.badMap = []) (hbad : ∀ w ∈ m.badA ++ m.badB, w = 0) (all : Bool) (r c : Nat) : m.spoiled all r c = false := by
  have hget : ∀ l : List W64, (∀ w ∈ l, w = 0) → ∀ k, l.getD k 0 = 0 := fun l hl k => by
    rw [List.getD_eq_getElem?_getD]
    cases hk : l[k]? with
    | none => rfl
    | some w => exact hl w (List.mem_of_getElem? hk)
  obtain ⟨hA, hB⟩ := List.forall_mem_append.mp hbad
  rw [Mma.spoiled, hmap, List.any_nil, Bool.false_or, List.any_eq_false]
  intro k _
  rw [hget _ hA, hget _ hB]
  simp

/-- What an operation that has read no bad line writes: NaN where a unit without a step has E = 0xFF. -/
theorem State.engWrites_mma (hk : o.kind = .mma m) (hc : o.cancelled = false) (hpen : o.pen = some p) (ht : o.tile = some t)
    (hp : p ∈ s.pens.map Pen.id) (hmap : m.badMap = []) (hbad : ∀ w ∈ m.badA ++ m.badB, w = 0) :
    ∃ u, s.engWrites o = (u, none) ∧ OnlyTile s u p t
      ∧ ∀ i < 4096, (u.pen p).tile t i = if m.voids m.idleUnits (i / 64) (i % 64) then 0x7FC00000 else (s.pen p).tile t i := by
  simp only [State.engWrites, hc, hk, hpen, ht, hmap, Mma.spoiled_of_sound hmap hbad, Option.getD_some, Bool.false_and, Bool.false_eq_true, if_false]
  split
  · exact ⟨_, rfl, OnlyTile.setTile hp _, fun i hi => (State.tile_setTile hp _ t hi).trans (if_pos rfl)⟩
  next hno =>
    have hidle : m.idleUnits = [] := by
      cases h : m.idleUnits with
      | nil => rfl
      | cons x l => simp [h] at hno
    exact ⟨s, rfl, OnlyTile.refl .., fun i _ => by rw [hidle]; rfl⟩

/-- The pen of an MMA operation that has ended well (R296). -/
def endPen (t : Nat) (x : Pen) : Pen := { x with last := setAssoc x.last t 1 }

/-- The state v is u after the operation has ended, which an MMA of tile t of pen p did well. -/
structure MmaEnded (u v : State) (id p t : Nat) : Prop where
  ops : v.ops = u.ops.filter (fun q => q.id != id)
  mem : v.mem = u.mem
  ids : v.pens.map Pen.id = u.pens.map Pen.id
  pen : ∀ q, v.pen q = if q = p then endPen t (u.pen q) else u.pen q
  threads : ∃ f : Thread → Thread, (∀ y, y.status ≠ .exited → (f y).status ≠ .exited)
    ∧ v.groups = u.groups.map (fun g => { g with threads := g.threads.map f })

theorem Running.ended (h : Running s o m p t) (hb : o.bad = none) (hw : s.engWrites o = (u, none)) (hp : p ∈ u.pens.map Pen.id) :
    MmaEnded u (s.completeOp o.id) o.id p t := by
  have hdone : ∃ writes, s.completeOp o.id = { u.updPen p (endPen t) with
      fresh := u.fresh + 1
      groups := u.groups.map (fun g => { g with threads := g.threads.map (fun y => (y.deliver o.id writes).opDone o.id false) })
      ops := u.ops.filter (fun q => q.id != o.id), conts := u.conts.map (fun c => { c with ops := c.ops.filter (· != o.id) }) } := by
    refine ⟨match o.dest with | some d => [(d, Form.u (o.value s.fresh false))] | none => [], ?_⟩
    simp only [State.completeOp, h.found, hw, hb, h.tile, h.pen, h.cancelled, h.kind]
    simp only [Option.orElse_none, Option.isSome_none, Bool.or_false, Bool.false_and, Bool.false_eq_true, if_false]
    simp only [State.updPen, State.mapThreads, State.bump, List.map_map]
    congr 1
    refine List.map_congr_left (fun x _ => ?_)
    simp only [Function.comp]
    by_cases hx : x.id = p
    · simp [hx, endPen]
    · simp [hx]
  obtain ⟨writes, hdone⟩ := hdone
  rw [hdone]
  exact ⟨rfl, rfl, State.updPen_ids fun _ => rfl, fun q => State.pen_updPen (f := endPen t) (fun _ => rfl) hp,
    _, fun y hy => Thread.opDone_exited (by rw [Thread.deliver_status]; exact hy), rfl⟩

/-- A launch that has a thread left goes on. -/
theorem MmaEnded.tryFinish {id l : Nat} (h : MmaEnded u v id p t) (hsu : OnlyTile s u p t)
    (hlive : ∃ g ∈ s.groups, g.pen ∈ s.pens.map Pen.id ∧ (s.pen g.pen).launch = l ∧ ∃ y ∈ g.threads, y.status ≠ .exited) : v.tryFinish l = v := by
  obtain ⟨g, hg, hgp, hgl, y, hy, hys⟩ := hlive
  obtain ⟨f, hf, hgroups⟩ := h.threads
  have hsame : u.groups = s.groups := by rw [hsu.same]
  rw [hsame] at hgroups
  refine State.tryFinish_of_thread ⟨{ g with threads := g.threads.map f }, ?_, ?_, ?_, _, List.mem_map_of_mem hy, hf y hys⟩
  · rw [hgroups]
    exact List.mem_map_of_mem (f := fun g : Group => { g with threads := g.threads.map f }) hg
  · rw [h.ids, hsu.ids]; exact hgp
  · have hlaunch : (u.pen g.pen).launch = (s.pen g.pen).launch := by rw [hsu.pen g.pen]
    rw [h.pen]
    split <;> exact hlaunch.trans hgl

/-- The state after the last step is the one that completes. -/
theorem Running.complete (h : Running s o m p t) :
    s.complete o.id = (s.engAdvance o.id (m.stepSet.length - m.steps)).completeOp o.id := by
  have hcan : s.canComplete o = true := by
    simp [State.canComplete, h.cancelled, h.kind, h.jointOps, h.started, h.resident]
  simp [State.complete, h.found, hcan, h.cancelled, h.kind, h.jointOps]

end

theorem unitsFold : Says.UnitsFold := by
  intro s o m p t hk hf hj hst hc hres hb hmap hbad hpen ht hp hsteps hlive all left idle block void
  have hrun : Running s o m p t := ⟨hf, hk, hj, hst, hc, hres, hpen, ht, hp⟩
  obtain ⟨hadv, hfound, hfold⟩ := hrun.engAdvance (n := m.stepSet.length - m.steps) (by omega)
  have hcomplete := hrun.complete
  generalize m.stepSet.length - m.steps = n at hadv hfound hfold hcomplete
  generalize s.engAdvance o.id n = a at hadv hfound hfold hcomplete
  have hend := hrun.next hadv hfound
  obtain ⟨u, hw, honly, htile⟩ := State.engWrites_mma (s := a) hend.kind hend.cancelled hend.pen hend.tile hend.known hmap hbad
  have hsu := hadv.trans honly
  have hdone : MmaEnded u (a.completeOp o.id) o.id p t := hend.ended hb hw (hsu.ids ▸ hp)
  have hpenp : (a.completeOp o.id).pen p = endPen t (u.pen p) := (hdone.pen p).trans (if_pos rfl)
  refine ⟨a.completeOp o.id, ?_, ?_, ?_, ?_, ?_, fun i hi => ?_, fun k hk i hi => ?_⟩
  · show Host.Outcome.next _ = _
    rw [hf]
    show Host.Outcome.next ((s.complete o.id).tryFinish o.launch) = _
    rw [hcomplete, hdone.tryFinish hsu hlive]
  · rw [hdone.ops]; simp
  · rw [hdone.mem, hsu.same]
  · rw [hpenp]
    exact List.mem_append_right _ (List.mem_singleton.mpr rfl)
  · rw [hpenp]
    show (u.pen p).scratch = _
    rw [hsu.pen p]
  · have hvoid : m.voids m.idleUnits (i / 64) (i % 64) = void i :=
      congrArg m.idleUnits.any (funext fun v => m.unitSum_nil v (i / 64) (i % 64))
    have hleft : unitsOf m.path.unit (m.stepSet.drop m.steps) = left :=
      unitsOf_eq_filter (m.stepSet_sorted.sublist (List.drop_sublist ..)) fun k hk => m.unit_lt (List.mem_of_mem_drop hk)
    rw [hpenp]
    refine (htile i hi).trans ?_
    rw [hfold i hi, hleft]
    exact if_congr (Bool.eq_iff_iff.mp hvoid) rfl rfl
  · rw [hpenp]
    exact hsu.other k hk i hi

/-- Settles O38: the elements of planes (`planeElements`), the exact sum of a unit on each path (`Mma.unitSum_plane`, `Mma.unitSum_float`,
`Mma.unitSum_lns`) and its one rounding (`accAdd_addsTo`), and the steps left at the completion (`Running.engAdvance`). -/
theorem matrixSums : Obligations.MatrixSums := ⟨planeElements, unitSums, unitsFold⟩

end Sys2Proof.Machine
end

section
namespace Sys2Proof.Machine
set_option Elab.async false

/-! ### Integer source modifiers, and sums, differences and products that are bounded or wrap (R75, R138) -/

theorem sextN_setWidth (a : W64) {w : Nat} (hw : 1 ≤ w) : sextN a.toNat w = (a.setWidth w).toInt := by
  rw [sextN_eq_bmod _ hw, BitVec.toInt_eq_toNat_bmod, BitVec.toNat_setWidth]
  push_cast
  exact (Int.emod_bmod _ _).symm

theorem abs_toInt {w : Nat} (v : BitVec w) : |v.toInt| = if v.msb then -v.toInt else v.toInt := by
  cases h : v.msb with
  | true => exact abs_of_neg (BitVec.toInt_neg_of_msb_true h)
  | false => exact abs_of_nonneg (BitVec.toInt_nonneg_of_msb_false h)

theorem sourceModifiers : Says.SourceModifiers := by
  intro w a hw _
  have hread (y : Int) : sextN (y % 2 ^ w).toNat w = y.bmod (2 ^ w) := sextN_emod y hw
  have hself : (a.setWidth w).toInt.bmod (2 ^ w) = (a.setWidth w).toInt := BitVec.toInt_bmod_cancel _
  have hneg : (-(a.setWidth w).toInt).bmod (2 ^ w) = (-(a.setWidth w)).toInt := BitVec.toInt_neg.symm
  simp only [modInt, sextN_setWidth a hw, hread, abs_toInt]
  refine ⟨hself, hneg, ?_, ?_⟩
  · cases (a.setWidth w).msb with
    | true => exact hneg
    | false => exact hself
  · cases (a.setWidth w).msb with
    | true => simp
    | false => exact hneg

theorem toInt_word64 {y : Int} (h1 : -2 ^ 63 ≤ y) (h2 : y < 2 ^ 63) : (word64 y).toInt = y := by
  rw [word64, BitVec.toInt_ofInt]
  exact Int.bmod_eq_of_le (by omega) (by omega)

/-- What .sat leaves of an exact result is its own reading at the width (R138). -/
theorem narrowInt_sat_toInt (w : IntW) (y : Int) :
    (narrowInt (IntW.bits w) true y).toInt = max (-(2 ^ (IntW.bits w - 1))) (min y (2 ^ (IntW.bits w - 1) - 1)) := by
  have hnarrow : narrowInt (IntW.bits w) true y = narrowInt (IntW.bits w) false (satInt (IntW.bits w) y) := rfl
  have hsat : satInt (IntW.bits w) y = max (-(2 ^ (IntW.bits w - 1))) (min y (2 ^ (IntW.bits w - 1) - 1)) := by
    cases w <;> simp only [satInt, IntW.bits] <;> omega
  rw [hnarrow, narrowInt_toInt, hsat]
  cases w <;> exact Int.bmod_eq_of_le (by simp only [IntW.bits]; omega) (by simp only [IntW.bits]; omega)

theorem arith_narrowed (w : IntW) (x : FmtA) (f : Int → Int → Int → Int) (vs : List W64) :
    Narrowed (IntW.bits w) x.cl (arith (IntW.bits w) x f vs)
      (f (modInt (IntW.bits w) x.ma (arg vs 0)) (modInt (IntW.bits w) x.mb (arg vs 1)) (modInt (IntW.bits w) x.mc (arg vs 2))) := by
  unfold Narrowed arith
  split
  next h => rw [h]; exact narrowInt_sat_toInt w _
  next h => rw [beq_false_of_ne h]; exact narrowInt_toInt w _

/-- R138: |a| is not negative, so that .sat bounds it from above alone. -/
theorem abs_narrowed (x : FmtA) {y : Int} (hy : -2 ^ 63 ≤ y ∧ y < 2 ^ 63) :
    Narrowed 64 x.cl (word64 (if x.cl == .sat then min |y| (2 ^ 63 - 1) else |y|)) |y| := by
  obtain ⟨hlow, hhigh⟩ := hy
  have habs : 0 ≤ |y| := abs_nonneg y
  unfold Narrowed
  by_cases h : x.cl = .sat
  · simp only [h, beq_self_eq_true, if_true]
    rw [toInt_word64 (by omega) (by omega)]
    omega
  · rw [if_neg h, if_neg (by simpa using h)]
    exact BitVec.toInt_ofInt _

theorem modInt_range (m : Mod) (a : W64) : -2 ^ 63 ≤ modInt 64 m a ∧ modInt 64 m a < 2 ^ 63 := by
  unfold modInt
  dsimp only
  rw [sextN_emod _ (by decide)]
  exact ⟨Int.le_bmod (by decide), Int.bmod_lt (by decide)⟩

section
variable {s : State} {g : Group} {r : Run} {t : Thread} {i : Instr}

/-- A sum or product on sources in U form, in a strand or a lane thread (R138). -/
theorem arithI_gives {w : IntW} {x : FmtA} {srcs : List (STy × Opd)} {f : Int → Int → Int → Int} {bad : List Form → Bool} (vs : List W64)
    (h : Performs s g r t i x.gd) (hf : (arithI w x srcs f bad).forms (envOf g r) t = vs.map Form.u) :
    ∃ v, regOp i (arithI w x srcs f bad) s = s.gives g r t x.d v ∧ Narrowed (IntW.bits w) x.cl v
      (f (modInt (IntW.bits w) x.ma (arg vs 0)) (modInt (IntW.bits w) x.mb (arg vs 1)) (modInt (IntW.bits w) x.mc (arg vs 2))) :=
  ⟨_, regOp_gives vs h hf (fun n f f64 f32 => arithRule_u w x bad vs n f f64 f32), arith_narrowed w x f vs⟩

section
variable {x : FmtA} {a b c v : W64} {fl : Fpx} {q : RegI}

theorem forms_reads1 (hq : q.srcs = int1 x) (hs : t.reads g r .int x.a = .u a) : q.forms (envOf g r) t = [a].map Form.u := by
  rw [RegI.forms, hq]
  exact congrArg (fun f => [f]) hs

theorem forms_reads2 (hq : q.srcs = int2 x) (hs : t.reads2 g r .int x a b) : q.forms (envOf g r) t = [a, b].map Form.u := by
  obtain ⟨ha, hb⟩ := hs
  rw [RegI.forms, hq]
  exact congrArg₂ (fun f f' => [f, f']) ha hb

theorem forms_reads3 (hq : q.srcs = int3 x) (hs : t.reads3 g r .int x a b c) : q.forms (envOf g r) t = [a, b, c].map Form.u := by
  obtain ⟨⟨ha, hb⟩, hc⟩ := hs
  rw [RegI.forms, hq]
  exact congrArg₂ (fun f fs => f :: fs) ha (congrArg₂ (fun f f' => [f, f']) hb hc)

/-! An instruction of class E on sources in U form gives its operation's value, in a strand or a lane thread (R17). -/

theorem regOp_eClass (hr : q.rule = eClass) (vs : List W64) (h : Performs s g r t i q.gd) (hf : q.forms (envOf g r) t = vs.map Form.u) :
    regOp i q s = s.gives g r t q.d (q.op vs).1 (q.op vs).2 :=
  regOp_gives vs h hf (by rw [hr]; exact eClass_u vs)

theorem regOp_e1 (hq : q.srcs = int1 x) (hr : q.rule = eClass) (h : Performs s g r t i q.gd) (hs : t.reads g r .int x.a = .u a)
    (hv : q.op [a] = (v, fl)) : regOp i q s = s.gives g r t q.d v fl := by
  rw [regOp_eClass hr [a] h (forms_reads1 hq hs), hv]

theorem regOp_e2 (hq : q.srcs = int2 x) (hr : q.rule = eClass) (h : Performs s g r t i q.gd) (hs : t.reads2 g r .int x a b)
    (hv : q.op [a, b] = (v, fl)) : regOp i q s = s.gives g r t q.d v fl := by
  rw [regOp_eClass hr [a, b] h (forms_reads2 hq hs), hv]

theorem regOp_e3 (hq : q.srcs = int3 x) (hr : q.rule = eClass) (h : Performs s g r t i q.gd) (hs : t.reads3 g r .int x a b c)
    (hv : q.op [a, b, c] = (v, fl)) : regOp i q s = s.gives g r t q.d v fl := by
  rw [regOp_eClass hr [a, b, c] h (forms_reads3 hq hs), hv]

end

theorem integerArithmetic : Says.IntegerArithmetic := by
  intro s g r t w x a b c
  refine ⟨fun hs h => ?_, fun hs h => ?_, fun hs h => ?_, fun hs h => ?_, fun hs h => ?_⟩
  · exact arithI_gives (f := fun a b _ => a + b) [a, b] h (forms_reads2 rfl hs)
  · exact arithI_gives (f := fun a b _ => a - b) [a, b] h (forms_reads2 rfl hs)
  · exact arithI_gives (f := fun a b _ => a * b) [a, b] h (forms_reads2 rfl hs)
  · exact arithI_gives (f := fun a b c => a * b + c) [a, b, c] h (forms_reads3 rfl hs)
  · exact ⟨_, regOp_e1 rfl rfl h hs rfl, abs_narrowed x (modInt_range x.ma a)⟩

end

/-- Settles O13: modifiers and results are read as integers modulo 2^w (`sextN_emod`), or bounded (`narrowInt_sat_toInt`). -/
theorem integerSums : Obligations.IntegerSums := ⟨sourceModifiers, integerArithmetic⟩

end Sys2Proof.Machine
end

section
namespace Sys2Proof.Machine
set_option Elab.async false

/-! ### High products, quotients, choices, moves and addresses (R137, R139, R143, R144) -/

theorem readInt_eq_reads (v : Sgn) (m : Mod) (a : W64) : readInt v m a = Reads v m a := by
  cases v <;> rfl

/-- R139: a quotient truncated toward zero, or all ones and IDZ. -/
theorem divOp_eq (v : Sgn) (x : FmtA) (a b : W64) : divOp v x [a, b] = if Reads v x.mb b = 0 then (allOnes64, fxIDZ)
    else (BitVec.ofInt 64 (if x.cl = .sat then min ((Reads v x.ma a).tdiv (Reads v x.mb b)) (2 ^ 63 - 1)
      else (Reads v x.ma a).tdiv (Reads v x.mb b)), 0) := by
  simp only [divOp, arg, List.getD_cons_zero, List.getD_cons_succ, readInt_eq_reads, word64, beq_iff_eq]

/-- R139: the remainder has the sign of the dividend. -/
theorem remOp_eq (v : Sgn) (x : FmtA) (a b : W64) : remOp v x [a, b] = if Reads v x.mb b = 0 then (allOnes64, fxIDZ)
    else (BitVec.ofInt 64 ((Reads v x.ma a).tmod (Reads v x.mb b)), 0) := by
  simp only [remOp, arg, List.getD_cons_zero, List.getD_cons_succ, readInt_eq_reads, word64, Int.tmod_def]

section
variable {s : State} {g : Group} {r : Run} {t : Thread} {x : FmtA} {y : FmtI} {a b c : W64} {v : Sgn}

theorem ite_gives {c : Prop} [Decidable c] (d : Opd) (p q : W64 × Fpx) :
    s.gives g r t d (if c then p else q).1 (if c then p else q).2 = if c then s.gives g r t d p.1 p.2 else s.gives g r t d q.1 q.2 := by
  split <;> rfl

/-- R144: the low half is the instruction's result, the high half goes to the register's successor. -/
theorem exec_imulw (hs : t.reads2 g r .int x a b) (h : Performs s g r t (.imulw v x) x.gd) :
    exec (.imulw v x) s = s.makes g r
      { t.result x.d (.u ((BitVec.ofInt 128 (Reads v x.ma a * Reads v x.mb b)).extractLsb' 0 64)) with
        regs := (t.result x.d (.u ((BitVec.ofInt 128 (Reads v x.ma a * Reads v x.mb b)).extractLsb' 0 64))).regs.set
          (Opd.key x.d + 1) (.u ((BitVec.ofInt 128 (Reads v x.ma a * Reads v x.mb b)).extractLsb' 64 64)) } := by
  obtain ⟨ha, hb⟩ := hs
  have hfs : (int2 x).map (fun p => t.src (envOf g r).strand (envOf g r).lit p.1 p.2) = [.u a, .u b] := congrArg₂ (fun f f' => [f, f']) ha hb
  rw [show exec (.imulw v x) s = execImulw v x s from rfl, execImulw]
  refine drive_next h rfl rfl (fun _ => ?_) rfl ?_ (Thread.result_lane ..)
  · simp only [hfs, List.any_cons, List.any_nil, Form.isA, Bool.or_self, Bool.and_false]
  · simp only [hfs, readInt_eq_reads]
    rfl

theorem productsAndDivision : Says.ProductsAndDivision := by
  intro s g r t v x a b
  refine ⟨fun hs h => ?_, fun hs h => ?_, fun hs h => ?_, exec_imulw⟩
  · exact regOp_e2 rfl rfl h hs (by simp only [pure2, readInt_eq_reads, word64]; rfl)
  · refine (regOp_e2 rfl rfl h hs rfl).trans ?_
    dsimp only
    rw [divOp_eq, ite_gives]
  · refine (regOp_e2 rfl rfl h hs rfl).trans ?_
    dsimp only
    rw [remOp_eq, ite_gives]

/-- The concatenation is the number made of the two halves (R137). -/
theorem movhiOp_eq (imm : W32) (d : W64) : movhiOp imm d = BitVec.ofNat 64 (imm.toNat * 2 ^ 32 + d.toNat % 2 ^ 32) := by
  refine BitVec.eq_of_toNat_eq ?_
  have hlow : (bits d 31 0).toNat = d.toNat % 2 ^ 32 := by simp [bits_toNat]
  have himm := imm.isLt
  rw [movhiOp, BitVec.toNat_append, hlow, ← Nat.shiftLeft_add_eq_or_of_lt (Nat.mod_lt _ (by decide)), Nat.shiftLeft_eq, BitVec.toNat_ofNat]
  omega

theorem leaOp_eq (x : FmtA) (a b c : W64) : leaOp x a b c = BitVec.ofInt 64 (modInt 64 x.ma a
    + if c.toNat < 64 then modInt 64 x.mb b * 2 ^ c.toNat else 0) := by
  rw [leaOp, modBits_shift, modBits, word64, ← BitVec.ofInt_add]

theorem selectMoveAddress : Says.SelectMoveAddress := by
  intro s g r t v x y a b c d
  refine ⟨fun hs h => ?_, fun hs h => ?_, fun hs h => ?_, fun hs h => ?_, fun hs h => ?_, fun h => ?_, fun hs h => ?_, fun hs h => ?_,
    fun hs h => ?_⟩
  · exact regOp_e2 rfl rfl h hs (by simp only [pure2, readInt_eq_reads, word64]; rfl)
  · exact regOp_e2 rfl rfl h hs (by simp only [pure2, readInt_eq_reads, word64]; rfl)
  · exact regOp_e3 rfl rfl h hs (by simp only [pure3, readInt_eq_reads, word64]; rfl)
  · refine regOp_e3 rfl rfl h hs ?_
    simp only [pure3, arg, List.getD_cons_zero, List.getD_cons_succ, ne_eq, ite_not]
  · exact regOp_gives [a] h (forms_reads1 rfl hs) (uOrAff_u [a])
  · exact regOp_gives [] h rfl (eClass_u [])
  · rw [← movhiOp_eq]
    exact regOp_gives [d] h (congrArg (fun f => [f]) hs) (eClass_u [d])
  · exact regOp_gives [d] h (congrArg (fun f => [f]) hs) (uOrAff_u [d])
  · rw [← leaOp_eq]
    exact regOp_gives [a, b, c] h (forms_reads3 rfl hs) (fun _ _ _ _ => rfl)

end

/-- Settles O14: sources read as `Reads` says, results as numbers modulo 2^64 (`divOp_eq`, `remOp_eq`, `movhiOp_eq`, `leaOp_eq`). -/
theorem integerChoices : Obligations.IntegerChoices := ⟨productsAndDivision, selectMoveAddress⟩

end Sys2Proof.Machine
end

section
namespace Sys2Proof.Machine
set_option Elab.async false

/-! ### Shifts by the whole amount (R140) -/

theorem shlOp_toNat (a b : W64) : shlOp a b = BitVec.ofNat 64 (a.toNat * 2 ^ b.toNat) := by
  rw [shlOp_eq]
  exact BitVec.eq_of_toNat_eq (by simp [BitVec.toNat_mul])

theorem shrOp_n (a b : W64) : shrOp .n a b = BitVec.ofNat 64 (a.toNat / 2 ^ b.toNat) := by
  refine BitVec.eq_of_toNat_eq ?_
  have hlt := a.isLt
  simp only [shrOp]
  split
  · rw [BitVec.toNat_ushiftRight, Nat.shiftRight_eq_div_pow, BitVec.toNat_ofNat, Nat.mod_eq_of_lt]
    exact (Nat.div_le_self ..).trans_lt hlt
  · next h =>
    rw [Nat.div_eq_of_lt (hlt.trans_le (Nat.pow_le_pow_right (by decide) (by omega)))]
    rfl

theorem shrOp_s (a b : W64) : shrOp .s a b = BitVec.ofInt 64 (a.toInt / 2 ^ b.toNat) := by
  simp only [shrOp]
  split
  · show BitVec.ofInt 64 (a.toInt >>> b.toNat) = _
    rw [Int.shiftRight_eq_div_pow, Nat.cast_pow, Nat.cast_ofNat]
  · next h =>
    have hpow : (2 : Int) ^ 64 ≤ 2 ^ b.toNat := by exact_mod_cast Nat.pow_le_pow_right (by decide : 0 < 2) (by omega)
    have hlt : a.toInt < 2 ^ 63 := BitVec.toInt_lt
    have hle : -2 ^ 63 ≤ a.toInt := a.le_toInt
    have hsign : isSet a 63 = a.msb := (BitVec.msb_eq_getLsbD_last a).symm
    rw [hsign]
    cases hmsb : a.msb with
    | true =>
      rw [Int.ediv_eq_neg_one_of_neg_of_le (BitVec.toInt_neg_of_msb_true hmsb) (by omega)]
      rfl
    | false =>
      rw [Int.ediv_eq_zero_of_lt (BitVec.toInt_nonneg_of_msb_false hmsb) (by omega)]
      rfl

/-! ### Bit fields (R141) -/

theorem fieldPos_eq (d : W64) : fieldPos d = d.toNat % 64 := by simp [fieldPos, bits_toNat]
theorem fieldLen_eq (d : W64) : fieldLen d = min (d.toNat / 256 % 128) (64 - d.toNat % 64) := by
  simp [fieldLen, fieldPos_eq, bits_toNat]

theorem fieldLen_le (d : W64) : fieldLen d ≤ 64 := by rw [fieldLen_eq]; omega

theorem bfxOp_n (a d : W64) : (bfxOp .n a d).toNat = a.toNat / 2 ^ fieldPos d % 2 ^ fieldLen d := by
  refine Nat.mod_eq_of_lt ((Nat.mod_lt _ (by positivity)).trans_le ?_)
  exact Nat.pow_le_pow_right (by decide) (fieldLen_le d)

theorem bfxOp_s (a d : W64) : (bfxOp .s a d).toInt
    = if fieldLen d = 0 then 0 else ((a.toNat / 2 ^ fieldPos d : Nat) : Int).bmod (2 ^ fieldLen d) := by
  simp only [bfxOp]
  split
  · rfl
  · have hpow : 2 ^ fieldLen d ≤ 2 ^ 64 := Nat.pow_le_pow_right (by decide) (fieldLen_le d)
    have hpos : 0 < 2 ^ fieldLen d := by positivity
    have h1 := Int.le_bmod (x := ((a.toNat / 2 ^ fieldPos d : Nat) : Int)) hpos
    have h2 := Int.bmod_lt (x := ((a.toNat / 2 ^ fieldPos d : Nat) : Int)) hpos
    rw [sextN_eq_bmod _ (by omega), Int.natCast_mod, Int.emod_bmod]
    exact toInt_word64 (by omega) (by omega)

theorem bfiOp_bit (a b d : W64) {k : Nat} (hk : k < 64) : (bfiOp a b d).getLsbD k
    = if fieldPos d ≤ k ∧ k < fieldPos d + fieldLen d then a.getLsbD (k - fieldPos d) else b.getLsbD k := by
  have hmask : (BitVec.ofNat 64 ((2 ^ fieldLen d - 1) * 2 ^ fieldPos d)).getLsbD k = decide (fieldPos d ≤ k ∧ k < fieldPos d + fieldLen d) := by
    rw [BitVec.getLsbD_ofNat, Nat.testBit_mul_two_pow, Nat.testBit_two_pow_sub_one, ← Bool.decide_and, ← Bool.decide_and]
    exact decide_eq_decide.mpr (by omega)
  simp only [bfiOp, BitVec.getLsbD_or, BitVec.getLsbD_and, BitVec.getLsbD_not, BitVec.getLsbD_shiftLeft, hmask, hk]
  by_cases h : fieldPos d ≤ k ∧ k < fieldPos d + fieldLen d
  · simp [h]
  · simp [h]

/-! ### Counts and reversals (R142) -/

theorem popcOp_toNat (a : W64) : (popcOp a).toNat = ((List.range 64).filter (fun k => a.getLsbD k)).length := by
  refine Nat.mod_eq_of_lt ?_
  have h := List.length_filter_le (isSet a) (List.range 64)
  rw [List.length_range] at h
  omega

theorem exists_bit {a : W64} (h : a ≠ 0) : ∃ k < 64, a.getLsbD k = true := by
  by_contra hno
  push Not at hno
  exact h (BitVec.eq_of_getLsbD_eq (fun k hk => by simpa using hno k hk))

theorem ctzOp_spec (a : W64) : if a = 0 then ctzOp a = 64
    else (ctzOp a).toNat < 64 ∧ a.getLsbD (ctzOp a).toNat = true ∧ ∀ k < (ctzOp a).toNat, a.getLsbD k = false := by
  split
  next h => subst h; decide
  next h =>
    obtain ⟨j, hj, hbit⟩ := exists_bit h
    cases hf : (List.range 64).find? (isSet a) with
    | none =>
      have hno := List.find?_range_eq_none.mp hf j hj
      rw [isSet, hbit] at hno
      cases hno
    | some m =>
      obtain ⟨hm, hlt, hbelow⟩ := List.find?_range_eq_some.mp hf
      have hlt : m < 64 := List.mem_range.mp hlt
      have hv : (ctzOp a).toNat = m := by
        rw [ctzOp, hf]
        exact Nat.mod_eq_of_lt (by show m < 2 ^ 64; omega)
      rw [hv]
      exact ⟨hlt, hm, fun k hk => by simpa [isSet] using hbelow k hk⟩

theorem clzOp_spec (a : W64) : if a = 0 then clzOp a = 64
    else (clzOp a).toNat < 64 ∧ a.getLsbD (63 - (clzOp a).toNat) = true ∧ ∀ k < 64, 63 - (clzOp a).toNat < k → a.getLsbD k = false := by
  split
  next h => subst h; decide
  next h =>
    have h0 : a.toNat ≠ 0 := fun h0 => h (BitVec.eq_of_toNat_eq h0)
    have hlog : a.toNat.log2 < 64 := (Nat.log2_lt h0).mpr a.isLt
    have hv : (clzOp a).toNat = 63 - a.toNat.log2 := by
      rw [clzOp, blen, if_neg h0, BitVec.toNat_ofNat]
      omega
    have htop : 63 - (clzOp a).toNat = a.toNat.log2 := by omega
    rw [htop]
    refine ⟨by omega, ?_, fun k _ hk => ?_⟩
    · rw [← BitVec.testBit_toNat]
      exact Nat.testBit_log2 h0
    · rw [← BitVec.testBit_toNat]
      exact Nat.testBit_lt_two_pow (Nat.lt_log2_self.trans_le (Nat.pow_le_pow_right (by decide) hk))

/-- Element k of n elements packed from element 0 up (R108). -/
theorem pack_range_elem {w n k : Nat} (f : Nat → Nat) (hk : k < n) :
    pack w ((List.range n).map f) / 2 ^ (w * k) % 2 ^ w = f k % 2 ^ w := by
  rw [pack_elem (by simpa using hk)]
  simp

theorem bswapOp_byte (a : W64) {k : Nat} (hk : k < 8) : (bswapOp a).toNat / 256 ^ k % 256 = a.toNat / 256 ^ (7 - k) % 256 := by
  have h256 (j : Nat) : 256 ^ j = 2 ^ (8 * j) := (Nat.pow_mul 2 8 j).symm
  have hval : (bswapOp a).toNat = pack 8 ((List.range 8).map (fun k => elem 8 (7 - k) a.toNat)) := Nat.mod_eq_of_lt (pack_lt 8 _)
  rw [hval, h256, h256]
  exact (pack_range_elem _ hk).trans (Nat.mod_mod ..)

theorem brevOp_bit (a : W64) {k : Nat} (hk : k < 64) : (brevOp a).getLsbD k = a.getLsbD (63 - k) := by
  have hval : (brevOp a).toNat = pack 1 ((List.range 64).map (fun k => elem 1 (63 - k) a.toNat)) := Nat.mod_eq_of_lt (pack_lt 1 _)
  have helem := pack_range_elem (w := 1) (fun k => elem 1 (63 - k) a.toNat) hk
  simp only [elem, Nat.one_mul, pow_one, Nat.mod_mod] at helem
  rw [← BitVec.testBit_toNat, ← BitVec.testBit_toNat, hval, Nat.testBit_eq_decide_div_mod_eq, Nat.testBit_eq_decide_div_mod_eq]
  simp only [elem, Nat.one_mul, pow_one, helem]

theorem logicShiftsFields : Says.LogicShiftsFields := by
  intro s g r t x a b c
  refine ⟨fun hs h => ?_, fun hs h => ?_, fun hs h => ?_, fun hs h => ?_, fun hs h => ?_, fun hs h => ?_, fun hs h => ?_, fun hs h => ?_,
    fun hs h => ?_, fun hs h => ?_, fun hs h => ?_⟩
  · exact regOp_e2 rfl rfl h hs rfl
  · exact regOp_e2 rfl rfl h hs rfl
  · exact regOp_e2 rfl rfl h hs rfl
  · exact regOp_gives [a] h (forms_reads1 rfl hs) (uOrAff_u [a])
  · rw [← shlOp_toNat]
    exact regOp_gives [a, b] h (forms_reads2 rfl hs) (fun _ _ _ _ => rfl)
  · rw [← shrOp_n]
    exact regOp_e2 rfl rfl h hs rfl
  · rw [← shrOp_s]
    exact regOp_e2 rfl rfl h hs rfl
  · exact regOp_e2 rfl rfl h hs rfl
  · rw [← fieldLen_eq, ← fieldPos_eq]
    exact ⟨_, regOp_e2 rfl rfl h hs rfl, bfxOp_n a b⟩
  · rw [← fieldLen_eq, ← fieldPos_eq]
    exact ⟨_, regOp_e2 rfl rfl h hs rfl, bfxOp_s a b⟩
  · rw [← fieldLen_eq, ← fieldPos_eq]
    exact ⟨_, regOp_e3 rfl rfl h hs rfl, fun k hk => bfiOp_bit a b c hk⟩

theorem bitCountsReversals : Says.BitCountsReversals := by
  intro s g r t x a hs
  refine ⟨fun h => ?_, fun h => ?_, fun h => ?_, fun h => ?_, fun h => ?_⟩
  · exact ⟨_, regOp_e1 rfl rfl h hs rfl, popcOp_toNat a⟩
  · exact ⟨_, regOp_e1 rfl rfl h hs rfl, clzOp_spec a⟩
  · exact ⟨_, regOp_e1 rfl rfl h hs rfl, ctzOp_spec a⟩
  · exact ⟨_, regOp_e1 rfl rfl h hs rfl, fun k hk => bswapOp_byte a hk⟩
  · exact ⟨_, regOp_e1 rfl rfl h hs rfl, fun k hk => brevOp_bit a hk⟩

/-- Settles O15: shifts as products and quotients (`shlOp_toNat`, `shrOp_n`, `shrOp_s`), fields, counts and reversals bit by bit. -/
theorem bitOperations : Obligations.BitOperations := ⟨logicShiftsFields, bitCountsReversals⟩

end Sys2Proof.Machine
end

section
namespace Sys2Proof.Machine
set_option Elab.async false

/-! ### The checks of an access (R166, R168, R384) -/

theorem State.scratchLoc_beyond {s : State} {pen off n : Nat} {ea : W64} {k : AccKind} (h : (s.pen pen).scsz < off + n) :
    s.scratchLoc pen off n ea k = .error ⟨cPERM, ea, 0, k.acc, none⟩ := if_pos h

/-- No address of more than 56 bits translates (R200). -/
theorem State.translate_wide {s : State} {c : Nat} {va : W64} (h : 2 ^ 56 ≤ va.toNat) : s.translate c va = none := if_pos h

theorem State.globalLoc_wide {s : State} {c n : Nat} {va : W64} {k : AccKind} (h : 2 ^ 56 ≤ va.toNat) :
    s.globalLoc c va n k = .error ⟨cXLATE, va, 0, k.acc, none⟩ := by
  rw [State.globalLoc, State.translate_wide h]

/-- Settles O20: the cause at each check that comes first of those that fail. -/
theorem accessChecks : Obligations.AccessChecks := by
  intro s pen i hwm sp ea n k _
  refine ⟨fun h => ?_, fun h hsz => ?_, fun h hwide => ?_, fun h hwide => ?_⟩
  · cases sp <;> exact ⟨_, if_pos h, rfl, rfl⟩
  · exact ⟨_, (if_neg (not_not.mpr h)).trans (State.scratchLoc_beyond hsz), rfl⟩
  · exact ⟨_, (if_neg (not_not.mpr h)).trans (State.globalLoc_wide hwide), rfl⟩
  · exact ⟨_, (if_neg (not_not.mpr h)).trans (if_pos hwide), rfl⟩

end Sys2Proof.Machine
end

section
namespace Sys2Proof.Machine
set_option Elab.async false

/-! ### Branches that are taken, and LOOP (R149, R150, R153) -/

section
variable {s : State} {g : Group} {r : Run} {t : Thread} {i : Instr} {x : FmtB} {a : W64}

/-- The register of a branch, where it reads one, is in U form. -/
theorem branch_lay {gd : Guard} {spl : BitVec 16} {reg : Option Opd} {tgt : Env → Thread → W64} {link : Bool}
    (hreg : ∀ o ∈ reg, ∃ a, t.reads g r .int o = .u a) (hl : g.lanes = false) :
    (branchMeaning gd spl reg tgt link).lay s (envOf g r) t = false := by
  cases reg with
  | none => rfl
  | some o =>
    obtain ⟨a, ha⟩ := hreg o rfl
    have hu : t.src true (envOf g r).lit .int o = .u a := by rw [← ha, Thread.reads, hl]; rfl
    simp only [branchMeaning, hu, Form.isA, Bool.and_false]

/-- The thread with the link that a call writes (R150). -/
def Thread.linked (t : Thread) (r : Run) : Thread := { t with regs := t.regs.set 254 (.u (nextClause r)) }

theorem branch_jumps {gd : Guard} {spl : BitVec 16} {reg : Option Opd} {tgt : Env → Thread → W64} {link : Bool}
    (hreg : ∀ o ∈ reg, ∃ a, t.reads g r .int o = .u a) (h : Performs s g r t i gd) (ha : tgt (envOf g r) t = a)
    (hok : s.checkTarget (s.ctxOf g.pen) a = .ok ()) :
    drive i (fun _ => false) (branchMeaning gd spl reg tgt link) s
      = .next (s.performLeave g r ((if link then t.linked r else t).goTo a)) := by
  subst ha
  refine drive_jump (m := branchMeaning gd spl reg tgt link) h rfl rfl (branch_lay hreg) rfl ?_
  have hpen : (envOf g r).pen = g.pen := rfl
  simp only [branchMeaning, hpen, hok]
  rfl

theorem loop_lay (ha : t.reads g r .int x.a = .u a) (hl : g.lanes = false) :
    ((envOf g r).strand && (t.src true (envOf g r).lit .int x.a).isA) = false := by
  have hu : t.src true (envOf g r).lit .int x.a = .u a := by rw [← ha, Thread.reads, hl]; rfl
  rw [hu]
  exact Bool.and_false _

theorem regTarget_eq (ha : t.reads g r .int x.a = .u a) : regTarget x (envOf g r) t = a := congrArg (Form.val · 0) ha

/-- The counter as LOOP leaves it (R153). -/
theorem loop_count (ha : t.reads g r .int x.a = .u a) : (t.src (envOf g r).strand (envOf g r).lit .int x.a).val 0 - 1 = a - 1 :=
  congrArg (Form.val · 0 - 1) ha

theorem exec_loop_last (h : Performs s g r t (.loop x) x.gd) (ha : t.reads g r .int x.a = .u 1) :
    exec (.loop x) s = s.makes g r (t.result x.a (.u 0)) := by
  rw [show exec (.loop x) s = execLoop x s from rfl, execLoop]
  exact drive_next h rfl rfl (loop_lay ha) rfl (by simp only [loop_count ha]; rfl) (Thread.result_lane ..)

theorem exec_loop_jumps (h : Performs s g r t (.loop x) x.gd) (ha : t.reads g r .int x.a = .u a) (hne : a ≠ 1)
    (hok : s.checkTarget (s.ctxOf g.pen) (branchTarget (branchOrigin r) x.tgt) = .ok ()) :
    exec (.loop x) s = .next (s.performLeave g r ((t.result x.a (.u (a - 1))).goTo (branchTarget (branchOrigin r) x.tgt))) := by
  have hne : a - 1 ≠ 0 := fun h0 => hne (sub_eq_zero.mp h0)
  have horigin : (envOf g r).origin = branchOrigin r := rfl
  have hpen : (envOf g r).pen = g.pen := rfl
  rw [show exec (.loop x) s = execLoop x s from rfl, execLoop]
  exact drive_jump h rfl rfl (loop_lay ha) rfl (by simp only [loop_count ha, if_neg hne, horigin, hpen, hok])

theorem branches : Says.Branches := by
  intro s g r t x a rel
  have hreg (ha : t.reads g r .int x.a = .u a) : ∀ o ∈ some x.a, ∃ a, t.reads g r .int o = .u a := by
    rintro _ ⟨⟩
    exact ⟨a, ha⟩
  refine ⟨fun h hok => ?_, fun h hok => ?_, fun ha hok => ⟨fun h => ?_, fun h => ?_, fun h => ?_⟩, fun h ha => ⟨fun h1 => ?_, fun hne hok => ?_⟩⟩
  · exact branch_jumps (link := false) nofun h rfl hok
  · exact branch_jumps (link := true) nofun h rfl hok
  · exact branch_jumps (link := false) (hreg ha) h (regTarget_eq ha) hok
  · exact branch_jumps (link := false) (hreg ha) h (regTarget_eq ha) hok
  · exact branch_jumps (link := true) (hreg ha) h (regTarget_eq ha) hok
  · exact exec_loop_last h (by rw [ha, h1])
  · exact exec_loop_jumps h ha hne hok

end

/-! ### Records of the faults of a strand: what else they change (R390 to R393) -/

theorem State.group_updGroup_threads {s : State} {k : Nat} {f : Group → Group} {t : Thread} {ts : List Thread}
    (h : (s.group k).threads = t :: ts) (hf : ∀ x, (f x).id = x.id) : (s.updGroup k f).group k = f (s.group k) := by
  unfold State.updGroup State.group at *
  have hmap : ((fun x : Group => x.id == k) ∘ fun x => if x.id == k then f x else x) = fun x => x.id == k := by
    funext x; simp only [Function.comp]; split <;> simp [hf]
  rw [List.find?_map, hmap]
  cases hx : s.groups.find? (fun x => x.id == k) with
  | none => rw [hx] at h; cases h
  | some x =>
    have hid : x.id = k := by simpa using List.find?_some (p := fun x : Group => x.id == k) hx
    simp [hid]

/-- The one thread of a strand, after a change of it. -/
theorem State.threads_updThread {s : State} {k : Nat} {f : Thread → Thread} {t : Thread} (h : (s.group k).threads = [t]) :
    ((s.updThread k t.lane f).group k).threads = [f t] := by
  rw [State.updThread, State.group_updGroup_threads (f := fun y => y.mapLanes [t.lane] f) h (fun _ => rfl)]
  simp [Group.mapLanes, h]

theorem State.threads_mapGroups {s u : State} {F : Group → Group} {k : Nat} (hu : u.groups = s.groups.map F) (hid : ∀ x, (F x).id = x.id)
    (ht : (F (s.group k)).threads = (s.group k).threads) : (u.group k).threads = (s.group k).threads := by
  have hmap : ((fun x : Group => x.id == k) ∘ F) = fun x => x.id == k := by
    funext x; simp only [Function.comp, hid]
  unfold State.group at *
  rw [hu, List.find?_map, hmap]
  cases hx : s.groups.find? (fun x => x.id == k) with
  | none => rfl
  | some x => rw [hx] at ht; exact ht

/-- What is parked is as it was, and the threads of group k are, where none of them has a QPOP that waits. -/
def State.KeepsParked (k : Nat) (s s' : State) : Prop :=
  s'.parked = s.parked ∧ ((∀ t ∈ (s.group k).threads, ∀ p ∈ t.pend, p.queue = none) → (s'.group k).threads = (s.group k).threads)

namespace State.KeepsParked
variable {k : Nat} {s a b : State}

theorem refl : KeepsParked k s s := ⟨rfl, fun _ => rfl⟩

theorem trans (h : KeepsParked k s a) (h' : KeepsParked k a b) : KeepsParked k s b := by
  obtain ⟨hp, ht⟩ := h
  obtain ⟨hp', ht'⟩ := h'
  exact ⟨hp'.trans hp, fun hq => (ht' (by rwa [ht hq])).trans (ht hq)⟩

theorem foldl {α : Type} {f : State → α → State} {l : List α} (hf : ∀ x y, KeepsParked k x (f x y)) : KeepsParked k s (l.foldl f s) := by
  induction l generalizing s with
  | nil => exact refl
  | cons y l ih => exact (hf s y).trans ih

theorem writeLoc {l : Loc} {n v : Nat} : KeepsParked k s (s.writeLoc l n v) := by
  cases l <;> exact ⟨rfl, fun _ => rfl⟩

theorem setIdx {q : QView} {w r : W64} : KeepsParked k s (s.setIdx q w r) := writeLoc.trans writeLoc

theorem readyGroup {j : Nat} : KeepsParked k s (s.readyGroup j) := by
  unfold State.readyGroup
  extract_lets g
  split
  · refine ⟨rfl, fun _ => State.threads_mapGroups (s := s) rfl (fun x => ?_) ?_⟩ <;> split <;> rfl
  · exact refl

theorem setTether {t : Tether} : KeepsParked k s (s.setTether t) := by
  unfold State.setTether
  extract_lets others s1 hd
  split
  · exact (show KeepsParked k s s1 from ⟨rfl, fun _ => rfl⟩).trans (writeLoc.trans writeLoc)
  · exact ⟨rfl, fun _ => rfl⟩

/-- A packet reaches no thread that waits for none. -/
theorem popDone {op : Nat} {pkt : BitVec 512} : KeepsParked k s (s.popDone op pkt) := by
  refine ⟨rfl, fun hq => State.threads_mapGroups (s := s) rfl (fun _ => rfl) ?_⟩
  refine (List.map_congr_left fun t ht => ?_).trans (List.map_id _)
  have hnone : t.pend.find? (fun p => p.op == op && p.queue.isSome) = none := List.find?_eq_none.mpr (fun p hp => by simp [hq t ht p hp])
  show t.takePkt op pkt = t
  unfold Thread.takePkt
  rw [hnone]

theorem handPop {t : Tether} {pkt : BitVec 512} : KeepsParked k s (s.handPop t pkt) := by
  unfold State.handPop
  split
  · exact setTether
  · exact (popDone.trans setTether).trans (foldl (fun _ _ => readyGroup))

theorem pushTo {q : QView} {pkt : BitVec 512} : Holds (fun u => KeepsParked k s u.1) (s.pushTo q pkt) := by
  unfold State.pushTo
  extract_lets poppers s1
  clear_value poppers
  split
  · exact .some ((writeLoc.trans setIdx).trans handPop)
  · split
    · exact .none
    · exact .some (writeLoc.trans setIdx)

theorem actFor {c : Nat} {f : State → State} (h : KeepsParked k { s with actor := c } (f { s with actor := c })) :
    KeepsParked k s (s.actFor c f) := h

theorem logRecord {c : Nat} {r : BitVec 512} : KeepsParked k s (s.logRecord c r) := by
  unfold State.logRecord
  extract_lets fail
  have hfail : KeepsParked k s fail := ⟨rfl, fun _ => rfl⟩
  split
  · exact hfail
  split
  · exact hfail
  next q hq =>
    refine actFor (s := s) ?_
    split
    next u _ he => exact pushTo _ he
    · exact hfail

end State.KeepsParked

/-! ### A strand whose instruction faults parks at it (R385, R387 to R391) -/

/-- R391: a fault record field by field. -/
theorem mkRecord_fields (va aux lmask pc : W64) (slot handle ctx launch first npm1 time vcore lane acc kind : Nat) (dbl : Bool) (cause : Nat) :
    let w := mkRecord va aux lmask pc slot handle ctx launch first npm1 time vcore lane acc kind dbl cause
    bits w 7 0 = BitVec.ofNat 8 cause ∧ bits w 511 448 = va ∧ bits w 319 264 = bits pc 55 0 ∧ bits w 159 128 = BitVec.ofNat 32 first
      ∧ bits w 127 96 = BitVec.ofNat 32 npm1 := by
  intro w
  have hw : w.extractLsb' 448 64 ++ w.extractLsb' 384 64 ++ w.extractLsb' 320 64 ++ w.extractLsb' 264 56 ++ w.extractLsb' 256 8
      ++ w.extractLsb' 224 32 ++ w.extractLsb' 192 32 ++ w.extractLsb' 160 32 ++ w.extractLsb' 128 32 ++ w.extractLsb' 96 32
      ++ w.extractLsb' 48 48 ++ w.extractLsb' 32 16 ++ w.extractLsb' 24 8 ++ w.extractLsb' 20 4 ++ w.extractLsb' 16 4
      ++ w.extractLsb' 9 7 ++ w.extractLsb' 8 1 ++ w.extractLsb' 0 8
      = mkRecord va aux lmask pc slot handle ctx launch first npm1 time vcore lane acc kind dbl cause := by
    simp only [BitVec.extractLsb'_append_extractLsb'_eq_extractLsb']
    exact BitVec.extractLsb'_eq_self
  unfold mkRecord at hw
  simp only [append_inj] at hw
  obtain ⟨⟨⟨⟨⟨⟨⟨⟨⟨⟨⟨⟨⟨⟨⟨⟨⟨hva, -⟩, -⟩, hpc⟩, -⟩, -⟩, -⟩, -⟩, hfirst⟩, hnpm1⟩, -⟩, -⟩, -⟩, -⟩, -⟩, -⟩, -⟩, hcause⟩ := hw
  exact ⟨hcause, hva, hpc, hfirst, hnpm1⟩

/-- What the record p of a strand that has parked says: its group and lane, and the fields of its record. -/
structure Parked.Records (p : Parked) (gid lane : Nat) (f : FaultInfo) (pc : W64) (first npm1 : Nat) : Prop where
  gid : p.gid = gid
  lanes : p.lanes = [lane]
  cause : bits p.record 7 0 = BitVec.ofNat 8 f.cause
  va : bits p.record 511 448 = f.va
  pc : bits p.record 319 264 = bits pc 55 0
  first : bits p.record 159 128 = BitVec.ofNat 32 first
  npm1 : bits p.record 127 96 = BitVec.ofNat 32 npm1

/-- A strand outside a handler parks: a record is appended, and of the thread its status alone changes (R387, R391). -/
theorem State.park_strand {s : State} {gid : Nat} {t : Thread} {pc : W64} {first npm1 slot : Nat} {f : FaultInfo}
    (ht : (s.group gid).threads = [t]) (hih : t.ih = false) (hpop : turjoFirst f.cause = true ∨ ∀ p ∈ t.pend, p.queue = none) :
    ∃ p, (s.park gid [t.lane] pc first npm1 slot f).parked = s.parked ++ [p] ∧ p.Records gid t.lane f pc first npm1
      ∧ ((s.park gid [t.lane] pc first npm1 slot f).group gid).threads = [{ t with status := .parked p.handle }] := by
  unfold State.park
  extract_lets g p l handle low dbl ec lmask rcd s1 held s2 s3
  have hlow : low = some t := by simp [low, g, Group.thread, ht]
  have hdbl : dbl = false := by simp [dbl, hlow, hih]
  have h1 : (s1.group gid).threads = [{ t with status := .parked handle }] :=
    State.threads_updThread (s := s.bump (handle + 1 - s.fresh)) ht
  have h3 : s3.parked = s2.parked ∧ (s3.group gid).threads = (s2.group gid).threads := by
    by_cases hheld : held = true
    · rw [show s3 = s2 from if_pos hheld]
      exact ⟨rfl, rfl⟩
    · have hq : ∀ p ∈ t.pend, p.queue = none := hpop.resolve_left (fun hc => hheld (by simp [held, hc, hdbl]))
      rw [show s3 = s2.logRecord l.ctx rcd from if_neg hheld]
      obtain ⟨hp, hth⟩ := State.KeepsParked.logRecord (k := gid) (s := s2) (c := l.ctx) (r := rcd)
      refine ⟨hp, hth (fun u hu => ?_)⟩
      obtain rfl : u = { t with status := .parked handle } := by simpa [h1] using (show u ∈ (s1.group gid).threads from hu)
      exact hq
  obtain ⟨hparked, hthreads⟩ := h3
  rw [hdbl, if_neg Bool.false_ne_true]
  obtain ⟨hcause, hva, hpc, hfirst, hnpm1⟩ := mkRecord_fields f.va (if dbl then ec else f.aux) lmask pc slot handle l.ctx l.id first npm1 s.now p.vcore
    (if g.lanes then [t.lane].headD 0 else 0) f.acc (if g.lanes then 1 else 0) dbl f.cause
  exact ⟨_, hparked, ⟨rfl, rfl, hcause, hva, hpc, hfirst, hnpm1⟩, hthreads.trans h1⟩

section
variable {s : State} {g : Group} {r : Run} {t : Thread} {i : Instr} {m : Meaning} {bad : Env → Bool} {f : FaultInfo}

/-- The strand as it stands at the word at which it parks (R59, R98). -/
def Thread.stopped (t : Thread) (r : Run) : Thread :=
  { t with pc := r.hdr + 8 + 8 * BitVec.ofNat 64 r.pos, hdr := if r.dz2 then r.hdr + 8 + 8 * BitVec.ofNat 64 r.pos else r.hdr, cps := none }

/-- The outcome of an instruction at which the strand parks whole, with nothing of it performed: a record is appended, and the thread
is as it was, but that it stands there, parked. -/
def Parks (s : State) (g : Group) (r : Run) (t : Thread) (f : FaultInfo) (o : Host.Outcome State Fault Refusal) : Prop :=
  ∃ u p, o = .next (State.settle u g.pen) ∧ u.parked = s.parked ++ [p]
    ∧ p.Records g.id t.lane f (r.hdr + 8 + 8 * BitVec.ofNat 64 r.pos) t.lo (t.n - 1)
    ∧ (u.group g.id).threads = [{ t.stopped r with status := .parked p.handle }]

/-- A fault that a strand's own action meets, outside a handler (R385, R387). -/
theorem drive_parks (h : Performs s g r t i m.gd) (hl : g.lanes = false) (hb : bad (envOf g r) = false) (he : m.each = none)
    (hlay : m.lay s (envOf g r) t = false) (ha : m.act s (envOf g r) t = .error (.fault f)) (hih : t.ih = false)
    (hpop : turjoFirst f.cause = true ∨ ∀ p ∈ t.pend, p.queue = none) : Parks s g r t f (drive i bad m s) := by
  have hgid : (envOf g r).gid = g.id := rfl
  have hth : (s.group g.id).threads = [t] := by rw [h.grp, h.strand hl]
  let s0 := s.updThread g.id t.lane (fun x => { x with cps := none })
  have h0 : (s0.group g.id).threads = [{ t with cps := none }] := State.threads_updThread hth
  have hat : ({ t with cps := none } : Thread).at' (envOf g r) = t.stopped r := rfl
  let stop := fun y : Group => { y.mapLanes [t.lane] (fun u => u.at' (envOf g r)) with run := none }
  have h1 : ((s0.updGroup g.id stop).group g.id).threads = [t.stopped r] := by
    rw [State.group_updGroup_threads (f := stop) h0 (fun _ => rfl)]
    simp [stop, Group.mapLanes, h0, hat]
  obtain ⟨p, hparked, hrec, hthreads⟩ := State.park_strand (pc := (envOf g r).wpc) (first := t.lo) (npm1 := t.n - 1)
    (slot := (s0.group g.id).slotNum) h1 hih hpop
  refine ⟨_, p, ?_, hparked, hrec, hthreads⟩
  rw [drive_eq h.toIssues h.regs hb, if_neg (by rw [hl]; exact Bool.false_ne_true), driveStrand_once h.guardRuns he hlay]
  unfold State.actOnce
  rw [hgid, hth]
  simp only [ha]
  rfl

variable {x : FmtB} {a : W64}

theorem branch_parks {gd : Guard} {spl : BitVec 16} {reg : Option Opd} {tgt : Env → Thread → W64} {link : Bool}
    (hreg : ∀ o ∈ reg, ∃ a, t.reads g r .int o = .u a) (h : Performs s g r t i gd) (hl : g.lanes = false) (ha : tgt (envOf g r) t = a)
    (hbad : s.checkTarget (s.ctxOf g.pen) a = .error f) (hih : t.ih = false)
    (hpop : turjoFirst f.cause = true ∨ ∀ p ∈ t.pend, p.queue = none) :
    Parks s g r t f (drive i (fun _ => false) (branchMeaning gd spl reg tgt link) s) := by
  subst ha
  have hpen : (envOf g r).pen = g.pen := rfl
  exact drive_parks (m := branchMeaning gd spl reg tgt link) h hl rfl rfl (branch_lay hreg hl)
    (by simp only [branchMeaning, hpen, hbad]) hih hpop

theorem loop_parks (h : Performs s g r t (.loop x) x.gd) (hl : g.lanes = false) (ha : t.reads g r .int x.a = .u a) (hne : a ≠ 1)
    (hbad : s.checkTarget (s.ctxOf g.pen) (branchTarget (branchOrigin r) x.tgt) = .error f) (hih : t.ih = false)
    (hpop : turjoFirst f.cause = true ∨ ∀ p ∈ t.pend, p.queue = none) : Parks s g r t f (exec (.loop x) s) := by
  have hne : a - 1 ≠ 0 := fun h0 => hne (sub_eq_zero.mp h0)
  have horigin : (envOf g r).origin = branchOrigin r := rfl
  have hpen : (envOf g r).pen = g.pen := rfl
  rw [show exec (.loop x) s = execLoop x s from rfl, execLoop]
  exact drive_parks h hl rfl rfl (loop_lay ha hl) (by simp only [loop_count ha, if_neg hne, horigin, hpen, hbad]) hih hpop

/-- R60, R151, R153: whatever the form of the branch, its target is checked before it does anything. -/
theorem branchForms_park (hl : g.lanes = false) (ha : t.reads g r .int x.a = .u a) (hih : t.ih = false)
    (hpop : turjoFirst f.cause = true ∨ ∀ p ∈ t.pend, p.queue = none) {b : Instr × W64} (hb : b ∈ branchForms r x a)
    (h : Performs s g r t b.1 x.gd) (hloop : b.1 = .loop x → a ≠ 1) (hbad : s.checkTarget (s.ctxOf g.pen) b.2 = .error f) :
    Parks s g r t f (exec b.1 s) := by
  have hreg : ∀ o ∈ some x.a, ∃ a, t.reads g r .int o = .u a := by
    rintro _ ⟨⟩
    exact ⟨a, ha⟩
  simp only [branchForms, List.mem_cons, List.not_mem_nil, or_false] at hb
  rcases hb with rfl | rfl | rfl | rfl | rfl | rfl
  · exact branch_parks nofun h hl rfl hbad hih hpop
  · exact branch_parks nofun h hl rfl hbad hih hpop
  · exact loop_parks h hl ha (hloop rfl) hbad hih hpop
  · exact branch_parks hreg h hl (regTarget_eq ha) hbad hih hpop
  · exact branch_parks hreg h hl (regTarget_eq ha) hbad hih hpop
  · exact branch_parks hreg h hl (regTarget_eq ha) hbad hih hpop

end

theorem branchToBadTarget : Says.BranchToBadTarget := by
  intro s g r t x a f hl ha hih hpop b hb h hloop hbad
  obtain ⟨u, p, hexec, hparked, hrec, hthreads⟩ := branchForms_park hl ha hih hpop hb h hloop hbad
  exact ⟨u, p, hexec, hparked, hrec.gid, hrec.lanes, hrec.cause, hrec.va, hrec.pc, hrec.first, hrec.npm1, hthreads⟩

/-- Settles O17: a target that passes is jumped to (`branch_jumps`, `exec_loop_jumps`), one that fails parks the strand
(`branchForms_park`), where the record's log changes no thread of it (`KeepsParked.logRecord`). -/
theorem branchesAndTargets : Obligations.BranchesAndTargets := ⟨branches, branchToBadTarget⟩

end Sys2Proof.Machine
end

section
namespace Sys2Proof.Machine
set_option Elab.async false

/-! ### SPLICE, EXIT, NOP, kill points and YIELD (R41, R156 to R165, R338, R363) -/

section
variable {s : State} {g : Group} {r : Run} {t : Thread} {x : FmtI}

theorem envOf_first (h : r.pos = 0) : (!(envOf g r).first) = false := by simp [envOf, h]
theorem envOf_last (h : r.pos + 1 = r.words.length) : (!(envOf g r).last) = false := by simp [envOf, h]

/-- A strand passes a SPLICE that its top record does not name (R156). -/
theorem splice_passes (h : Performs s g r t (.splice x) .always) (h0 : r.pos = 0) (hl : g.lanes = false)
    (htop : ∀ q ∈ t.splices.head?, q.addr ≠ r.hdr) : exec (.splice x) s = s.makes g r t := by
  have hstrand : (envOf g r).strand = true := by simp [envOf, hl]
  have hhdr : (envOf g r).hdr = r.hdr := rfl
  rw [show exec (.splice x) s = execSplice x s from rfl, execSplice]
  refine drive_next h (envOf_first h0) rfl (fun _ => rfl) rfl ?_ rfl
  simp only [hstrand, if_true, hhdr]
  split
  next q _ hq => rw [if_neg (htop q (by rw [hq]; rfl))]
  next => rfl

/-- A thread arrives at its SPLICE and waits (R37, R41). -/
theorem splice_arrives (h : Performs s g r t (.splice x) .always) (h0 : r.pos = 0)
    (hwait : (g.lanes = false ∧ ∃ q ∈ t.splices.head?, q.addr = r.hdr) ∨ (g.lanes = true ∧ g.foldFailed r.hdr = false)) :
    exec (.splice x) s
      = .next (s.performLeave g r { t with pc := r.hdr, hdr := r.hdr, status := .splice (s.cycles (s.penDie g.pen)) s.draw }) := by
  have hhdr : (envOf g r).hdr = r.hdr := rfl
  have hgid : (envOf g r).gid = g.id := rfl
  rw [show exec (.splice x) s = execSplice x s from rfl, execSplice]
  refine drive_leave h (envOf_first h0) rfl (fun _ => rfl) rfl ?_
  rcases hwait with ⟨hl, q, hq, haddr⟩ | ⟨hl, hfold⟩
  · have hstrand : (envOf g r).strand = true := by simp [envOf, hl]
    obtain ⟨rest, hq⟩ : ∃ rest, t.splices = q :: rest := by
      cases hs : t.splices with
      | nil => rw [hs] at hq; cases hq
      | cons p rest => rw [hs] at hq; cases hq; exact ⟨rest, rfl⟩
    simp only [hstrand, if_true, hq, hhdr, haddr]
    rfl
  · have hstrand : (envOf g r).strand = false := by simp [envOf, hl]
    simp only [hstrand, Bool.false_eq_true, if_false, hgid, h.grp, hhdr, hfold]
    rfl

/-- A lane thread passes where the fold has failed (R41). -/
theorem splice_passes_failed (h : Performs s g r t (.splice x) .always) (h0 : r.pos = 0) (hl : g.lanes = true)
    (hfold : g.foldFailed r.hdr = true) :
    exec (.splice x) s = (s.updGroup g.id (fun y => y.passFold r.hdr [t.lane])).makes g r t := by
  have hhdr : (envOf g r).hdr = r.hdr := rfl
  have hgid : (envOf g r).gid = g.id := rfl
  have hstrand : (envOf g r).strand = false := by simp [envOf, hl]
  rw [show exec (.splice x) s = execSplice x s from rfl, execSplice]
  refine drive_next h (envOf_first h0) rfl (fun _ => rfl) rfl ?_ rfl
  simp only [hstrand, Bool.false_eq_true, if_false, hgid, h.grp, hhdr, hfold, if_true]

end

theorem splice : Says.Splice := fun _ _ _ _ _ h h0 =>
  ⟨splice_passes h h0, splice_arrives h h0, splice_passes_failed h h0⟩

section
variable {s : State} {g : Group} {r : Run} {t : Thread} {x : FmtA}

/-- The kill test of a thread of a bounded task (R363). -/
theorem State.killed_iff {pen : Nat} : s.killed pen t = true ↔ (s.task t.task).cell.v = true
    ∧ ((s.cell (s.task t.task).cell.cell.toNat).localKey s.now (.core ((s.pen pen).core.getD 0))).toInt
        ≤ (s.task t.task).cell.bound.toInt := by
  rw [State.killed, Bool.and_eq_true, decide_eq_true_iff]

theorem exec_exit (h : Performs s g r t (.exit x) x.gd) : exec (.exit x) s = .next ((endedIn s g.pen t).performLeave g r (exited t)) := by
  rw [show exec (.exit x) s = execExit x s from rfl, execExit]
  exact drive_leave h rfl rfl (fun _ => rfl) rfl rfl

theorem exec_nop (h : Performs s g r t (.nop x) x.gd) : exec (.nop x) s = s.makes g r t := by
  rw [show exec (.nop x) s = execNop x s from rfl, execNop]
  exact drive_next h rfl rfl (fun _ => rfl) rfl rfl rfl

theorem exec_laydn_lane (h : Performs s g r t (.laydn x) .always) (hl : g.lanes = true) : exec (.laydn x) s = s.makes g r t := by
  rw [show exec (.laydn x) s = execLaydn x s from rfl, execLaydn]
  exact drive_next h rfl rfl (fun hs => absurd hl (by rw [hs]; decide)) rfl rfl rfl

theorem exec_kpoint_killed (h : Performs s g r t (.kpoint x) .always) (hk : s.killed g.pen t = true) :
    exec (.kpoint x) s = .next ((endedIn (s.noteKill t.task true) g.pen t).performLeave g r (exited t)) := by
  have hpen : (envOf g r).pen = g.pen := rfl
  rw [show exec (.kpoint x) s = execKpoint x s from rfl, execKpoint]
  exact drive_leave h rfl rfl (fun _ => rfl) rfl (by simp only [hpen, hk, if_true]; rfl)

theorem exec_kpoint_lives (h : Performs s g r t (.kpoint x) .always) (hk : s.killed g.pen t = false) :
    exec (.kpoint x) s = s.makes g r t := by
  have hpen : (envOf g r).pen = g.pen := rfl
  rw [show exec (.kpoint x) s = execKpoint x s from rfl, execKpoint]
  exact drive_next h rfl rfl (fun _ => rfl) rfl (by simp only [hpen, hk, Bool.false_eq_true, if_false]) rfl

/-- YIELD ends as its word does, and the group may be evicted then (R164, R338). -/
theorem exec_yield {u : State} (h : Issues s g r t) (hu : yieldWord x s = .next u) : exec (.yield x) s = .next (u.yieldEvict g.id) := by
  rw [show exec (.yield x) s = execYield x s from rfl, execYield, hu, h.cur]

theorem yieldWord_killed (h : Performs s g r t (.yield x) .always) (hlast : r.pos + 1 = r.words.length) (hk : s.killed g.pen t = true) :
    yieldWord x s = .next ((endedIn (s.noteKill t.task true) g.pen t).performLeave g r (exited t)) := by
  have hpen : (envOf g r).pen = g.pen := rfl
  exact drive_leave h (envOf_last hlast) rfl (fun _ => rfl) rfl (by simp only [hpen, hk, if_true]; rfl)

theorem yieldWord_lives (h : Performs s g r t (.yield x) .always) (hlast : r.pos + 1 = r.words.length) (hk : s.killed g.pen t = false) :
    yieldWord x s = .next ((s.updGroup g.id (fun y => { y with yielded := true })).perform g r
      { t with role := roleOf (s.launchOf g.pen) (s.pen g.pen) }) := by
  have hpen : (envOf g r).pen = g.pen := rfl
  exact drive_next h (envOf_last hlast) rfl (fun _ => rfl) rfl (by simp only [hpen, hk, Bool.false_eq_true, if_false]; rfl) rfl

/-- With no ready member, nothing presses the group to leave (R338). -/
theorem State.yieldEvict_cases (v : State) (gid : Nat) : (v.yieldEvict gid = v ∨ v.yieldEvict gid = v.enlist.evict gid)
    ∧ (v.enlist.members = [] → v.yieldEvict gid = v) := by
  unfold State.yieldEvict
  extract_lets s g core presses
  refine ⟨?_, fun hm => ?_⟩
  · split
    · exact .inr rfl
    · exact .inl rfl
  · have hnone : s.members.any presses = false := by rw [show s.members = [] from hm]; rfl
    rw [hnone, Bool.and_false]
    rfl

theorem exitNopYield : Says.ExitNopYield := by
  intro s g r t x bounded killed
  have hlives (hb : ¬bounded) : s.killed g.pen t = false := Bool.eq_false_iff.mpr (fun hk => hb (State.killed_iff.mp hk))
  have hkilled (hb : bounded) : s.killed g.pen t = true := State.killed_iff.mpr hb
  refine ⟨exec_exit, exec_nop, exec_laydn_lane, fun h => ⟨fun hb => ?_, fun hb => ?_⟩, fun h hlast => ⟨fun hb => ?_, fun hb => ?_⟩,
    fun v => v.yieldEvict_cases g.id⟩
  · exact exec_kpoint_lives h (hlives hb)
  · exact exec_kpoint_killed h (hkilled hb)
  · exact exec_yield h.toIssues (yieldWord_killed h hlast (hkilled hb))
  · exact exec_yield h.toIssues (yieldWord_lives h hlast (hlives hb))

end

/-- Settles O18: one lemma for each outcome of SPLICE and of a kill point (`State.killed_iff` is the test), and of the eviction. -/
theorem spliceExitYield : Obligations.SpliceExitYield := ⟨splice, exitNopYield⟩

end Sys2Proof.Machine
end

section
namespace Sys2Proof.Machine
set_option Elab.async false

/-! ### Rings: the status word and the configuration (R178, R180) -/

/-- R178: four fields of a status word, each in its place. -/
theorem Ring.status_toNat (q : Ring) (hlen : q.slots.length ≤ 4096) (hhead : q.head < 4096) (htail : q.tail < 4096) :
    q.status.toNat = (q.slots.filter (· == .free)).length + 2 ^ 16 * (q.slots.filter (· == .filled)).length
      + 2 ^ 32 * q.head + 2 ^ 48 * q.tail := by
  have hcount (p : Slot → Bool) : (q.slots.filter p).length < 2 ^ 13 := (List.length_filter_le ..).trans_lt (by omega)
  have hfree := hcount (· == .free)
  have hfilled := hcount (· == .filled)
  have happ {m n : Nat} (a : BitVec m) (b : BitVec n) : (a ++ b).toNat = a.toNat * 2 ^ n + b.toNat := by
    rw [BitVec.toNat_append, ← Nat.shiftLeft_add_eq_or_of_lt b.isLt, Nat.shiftLeft_eq]
  simp only [Ring.status, Ring.count, happ, BitVec.ofNat_eq_ofNat, BitVec.toNat_ofNat]
  omega

section
variable {s : State} {g : Group} {r : Run} {t : Thread} {x : FmtQ} {n b : W64}

theorem ringNum_eq (ha : t.reads g r .int x.a = .u n) : ringNum (envOf g r) t x.a = n.toNat % 8 :=
  congrArg (fun f => (Form.val f 0).toNat % 8) ha

theorem srcA_reads1 (ha : t.reads g r .int x.a = .u n) : srcA (envOf g r) t [x.a] = false := by
  have ha : baseForm (envOf g r) t x.a = .u n := ha
  simp [srcA, ha, Form.isA]

theorem srcA_reads2 (ha : t.reads g r .int x.a = .u n) (hb : t.reads g r .int x.b = .u b) : srcA (envOf g r) t [x.a, x.b] = false := by
  have ha : baseForm (envOf g r) t x.a = .u n := ha
  have hb : baseForm (envOf g r) t x.b = .u b := hb
  simp [srcA, ha, hb, Form.isA]

/-- R180: a configuration that passes the checks. -/
theorem ringCfgBad_none {scsz : Nat} (h63 : bits b 63 45 = 0) (h31 : bits b 31 28 = 0) (h23 : bits b 23 21 = 0)
    (hlow : 6 ≤ (bits b 27 24).toNat) (hhigh : (bits b 27 24).toNat ≤ 16) (hcnt : (bits b 44 32).toNat ≤ 4096)
    (hbase : (bits b 20 0).toNat % 64 = 0)
    (hfit : (bits b 44 32).toNat = 0 ∨ (bits b 20 0).toNat + (bits b 44 32).toNat * 2 ^ (bits b 27 24).toNat ≤ scsz) :
    ringCfgBad b scsz = none := by
  unfold ringCfgBad
  extract_lets lsz
  rw [if_neg, if_neg]
  · rintro ⟨hne, hlt⟩
    have hle := hfit.resolve_left hne
    simp only [ringBase, ringCnt, ringSize] at hlt
    omega
  · have h4096 : decide (4096 < ringCnt b) = false := decide_eq_false (Nat.not_lt.mpr hcnt)
    simp [h63, h31, h23, ringBase, hbase, lsz, hlow, hhigh, h4096]

theorem exec_rngcfgQuery (ha : t.reads g r .int x.a = .u n) (hb : t.reads g r .int x.b = .u b)
    (h : Performs s g r t (.rngcfgQuery x) x.gd) :
    exec (.rngcfgQuery x) s = s.gives g r t x.d (s.ring g.pen (n.toNat % 8)).status := by
  rw [show exec (.rngcfgQuery x) s = execRngcfgQuery x s from rfl, execRngcfgQuery, State.gives, orFpx_zero]
  exact drive_next h rfl rfl (fun _ => srcA_reads2 ha hb) rfl (by simp only [ringNum_eq ha]; rfl) (Thread.result_lane ..)

theorem exec_rngcfgConfigure (ha : t.reads g r .int x.a = .u n) (hb : t.reads g r .int x.b = .u b)
    (h : Performs s g r t (.rngcfgConfigure x) x.gd) (hok : ringCfgBad b (s.pen g.pen).scsz = none)
    (hheld : s.ringHeld g.pen (n.toNat % 8) = false) :
    exec (.rngcfgConfigure x) s = .next ((s.setRing g.pen (n.toNat % 8)
      { cfg := b, head := 0, tail := 0, slots := List.replicate (bits b 44 32).toNat .free }).perform g r
        (t.result x.d (.u (s.ring g.pen (n.toNat % 8)).status))) := by
  have hpen : (envOf g r).pen = g.pen := rfl
  have hval : (baseForm (envOf g r) t x.b).val 0 = b := congrArg (Form.val · 0) hb
  rw [show exec (.rngcfgConfigure x) s = execRngcfgConfigure x s from rfl, execRngcfgConfigure]
  refine drive_next h rfl rfl (fun _ => srcA_reads2 ha hb) rfl ?_ (Thread.result_lane ..)
  simp only [ringNum_eq ha, hval, hpen, hok, hheld, Bool.false_eq_true, if_false]
  rfl

theorem ringSetUp : Says.RingSetUp := by
  refine ⟨Ring.status_toNat, fun s g r t x n b ha hb => ⟨exec_rngcfgQuery ha hb, ?_⟩⟩
  intro h h63 h31 h23 hlow hhigh hcnt hbase hfit hheld
  exact exec_rngcfgConfigure ha hb h (ringCfgBad_none h63 h31 h23 hlow hhigh hcnt hbase hfit) hheld

/-! ### Claims and takes (R181, R183, R184) -/

/-- What a test of a ring by a claim, or by a take, gives: the slot's offset and the ring it leaves, where the slot is ready. -/
def Ring.tests (q : Ring) (claim : Bool) : Option (W64 × Ring) := if claim then q.claim else q.take

theorem ringWait_bad (hx : x.wm = 1 ∨ r.pos = 0 ∧ x.wm = 0) : (x.wm == 0 && !(envOf g r).first) = false := by
  rcases hx with hwm | ⟨hpos, hwm⟩
  · rw [hwm]; rfl
  · rw [envOf_first hpos, Bool.and_false]

variable {claim : Bool} {i : Instr}

/-- A claim or a take of a thread: the slot, all ones, or a wait at the first instruction of its clause. -/
theorem ringWait_drive (ha : t.reads g r .int x.a = .u n) (hx : x.wm = 1 ∨ r.pos = 0 ∧ x.wm = 0) (h : Performs s g r t i x.gd)
    (hcnt : ringCnt (s.ring g.pen (n.toNat % 8)).cfg ≠ 0) :
    drive i (fun e => x.wm == 0 && !e.first) (ringWait claim x) s = match (s.ring g.pen (n.toNat % 8)).tests claim with
      | some p => .next ((s.setRing g.pen (n.toNat % 8) p.2).perform g r (t.result x.d (.u p.1)))
      | none => if x.wm = 1 then s.gives g r t x.d allOnes64
        else .next (s.performLeave g r { t with pc := r.hdr, hdr := r.hdr, status := .ring (n.toNat % 8) claim x.d }) := by
  have hpen : (envOf g r).pen = g.pen := rfl
  have hlay : (ringWait claim x).lay s (envOf g r) t = false := srcA_reads1 ha
  cases htest : (s.ring g.pen (n.toNat % 8)).tests claim with
  | some p =>
    refine drive_next (m := ringWait claim x) h (ringWait_bad hx) rfl (fun _ => hlay) rfl ?_ (Thread.result_lane ..)
    rw [Ring.tests] at htest
    simp only [ringWait, ringNum_eq ha, hpen, if_neg hcnt, htest]
  | none =>
    rw [Ring.tests] at htest
    dsimp only
    split
    next hwm =>
      rw [State.gives, orFpx_zero]
      refine drive_next (m := ringWait claim x) h (ringWait_bad hx) rfl (fun _ => hlay) rfl ?_ (Thread.result_lane ..)
      simp only [ringWait, ringNum_eq ha, hpen, if_neg hcnt, htest, hwm, beq_self_eq_true, if_true]
    next hwm =>
      refine drive_leave (m := ringWait claim x) h (ringWait_bad hx) rfl (fun _ => hlay) rfl ?_
      simp only [ringWait, ringNum_eq ha, hpen, if_neg hcnt, htest, beq_false_of_ne hwm, Bool.false_eq_true, if_false]
      rfl

end

theorem Ring.tests_claim (q : Ring) : q.tests true = if q.slots.getD q.tail .claimed = .free then
    some (BitVec.ofNat 64 ((bits q.cfg 20 0).toNat + q.tail * 2 ^ (bits q.cfg 27 24).toNat),
      { q with slots := q.slots.set q.tail .claimed, tail := (q.tail + 1) % (bits q.cfg 44 32).toNat }) else none := by
  simp only [Ring.tests, if_true, Ring.claim, beq_iff_eq]
  rfl

theorem Ring.tests_take (q : Ring) : q.tests false = if q.slots.getD q.head .free = .filled then
    some (BitVec.ofNat 64 ((bits q.cfg 20 0).toNat + q.head * 2 ^ (bits q.cfg 27 24).toNat),
      { q with slots := q.slots.set q.head .taken, head := (q.head + 1) % (bits q.cfg 44 32).toNat }) else none := by
  simp only [Ring.tests, Bool.false_eq_true, if_false, Ring.take, beq_iff_eq]
  rfl

/-- A waiting thread tests again, at its own ring, as it did at the instruction (R181, R183). -/
theorem State.retestRing_eq {s : State} {gid lane k : Nat} {u : Thread} {c : Bool} {d : Opd} (hu : (s.group gid).thread lane = some u)
    (hst : u.status = .ring k c d) (hres : (s.group gid).resident s = true) (hcnt : ringCnt (s.ring (s.group gid).pen k).cfg ≠ 0) :
    s.retestRing gid lane = match (s.ring (s.group gid).pen k).tests c with
      | some p => (s.setRing (s.group gid).pen k p.2).updThread gid lane (fun v => v.resumeWith d p.1)
      | none => s := by
  unfold State.retestRing
  simp only [hu, hst, hres, Bool.not_true, Bool.false_eq_true, if_false, if_neg hcnt]
  cases htest : (s.ring (s.group gid).pen k).tests c with
  | some p => rw [Ring.tests] at htest; simp only [htest]
  | none => rw [Ring.tests] at htest; simp only [htest]

theorem ringClaimsAndTakes : Says.RingClaimsAndTakes := by
  intro s g r t x n
  dsimp only
  intro ha hx hcnt
  have hclaim := Ring.tests_claim (s.ring g.pen (n.toNat % 8))
  have htake := Ring.tests_take (s.ring g.pen (n.toNat % 8))
  refine ⟨fun h => ?_, fun h => ?_, fun gid lane u c d hpen hu hst hres => ?_⟩
  · rw [show exec (.rngclaim x) s = execRngclaim x s from rfl, execRngclaim, ringWait_drive ha hx h hcnt, hclaim]
    by_cases hready : (s.ring g.pen (n.toNat % 8)).slots.getD (s.ring g.pen (n.toNat % 8)).tail .claimed = .free
    · rw [if_pos hready, if_pos hready]
    · rw [if_neg hready, if_neg hready]
  · rw [show exec (.rngwait x) s = execRngwait x s from rfl, execRngwait, ringWait_drive ha hx h hcnt, htake]
    by_cases hready : (s.ring g.pen (n.toNat % 8)).slots.getD (s.ring g.pen (n.toNat % 8)).head .free = .filled
    · rw [if_pos hready, if_pos hready]
    · rw [if_neg hready, if_neg hready]
  · have hretest := State.retestRing_eq hu hst hres (by rw [hpen]; exact hcnt)
    rw [hpen] at hretest
    refine congrArg Host.Outcome.next (hretest.trans ?_)
    cases c with
    | true =>
      rw [hclaim, if_pos rfl]
      by_cases hready : (s.ring g.pen (n.toNat % 8)).slots.getD (s.ring g.pen (n.toNat % 8)).tail .claimed = .free
      · rw [if_pos hready, if_pos hready]
      · rw [if_neg hready, if_neg hready]
    | false =>
      rw [htake, if_neg Bool.false_ne_true]
      by_cases hready : (s.ring g.pen (n.toNat % 8)).slots.getD (s.ring g.pen (n.toNat % 8)).head .free = .filled
      · rw [if_pos hready, if_pos hready]
      · rw [if_neg hready, if_neg hready]

/-! ### Marks (R182) -/

/-- The slot of an offset in the ring. -/
theorem Ring.slotOf_offset (q : Ring) {m : Nat} (hm : m < ringCnt q.cfg) : q.slotOf (q.offset m) = some m := by
  have hsize : 0 < ringSize q.cfg := Nat.two_pow_pos _
  have hoff : (q.offset m).toNat = ringBase q.cfg + m * ringSize q.cfg := by
    refine Nat.mod_eq_of_lt ?_
    have hbase : ringBase q.cfg < 2 ^ 21 := (bits q.cfg 20 0).isLt
    have hcnt : ringCnt q.cfg < 2 ^ 13 := (bits q.cfg 44 32).isLt
    have hsz : ringSize q.cfg ≤ 2 ^ 15 := Nat.pow_le_pow_right (by decide) (Nat.le_of_lt_succ (bits q.cfg 27 24).isLt)
    have hmul : m * ringSize q.cfg ≤ 2 ^ 13 * 2 ^ 15 := Nat.mul_le_mul (by omega) hsz
    omega
  have hdiv : ((q.offset m).toNat - ringBase q.cfg) / ringSize q.cfg = m := by
    rw [hoff, Nat.add_sub_cancel_left, Nat.mul_div_cancel _ hsize]
  unfold Ring.slotOf
  rw [hdiv]
  exact if_pos ⟨by omega, hm, rfl⟩

/-- A mark of a slot of an enabled ring that is in the state wanted. -/
theorem ringMark_drive {s : State} {g : Group} {r : Run} {t : Thread} {i : Instr} {x : FmtQ} {n : W64} {m : Nat} {want : Slot → Bool} {new : Slot}
    (ha : t.reads g r .int x.a = .u n) (hm : m < ringCnt (s.ring g.pen (n.toNat % 8)).cfg)
    (hb : t.reads g r .int x.b = .u ((s.ring g.pen (n.toNat % 8)).offset m)) (h : Performs s g r t i x.gd)
    (hw : want ((s.ring g.pen (n.toNat % 8)).slots.getD m .free) = true) :
    drive i (fun _ => false) (ringMark want new x) s = .next ((s.setRing g.pen (n.toNat % 8)
      { s.ring g.pen (n.toNat % 8) with slots := (s.ring g.pen (n.toNat % 8)).slots.set m new }).perform g r t) := by
  have hpen : (envOf g r).pen = g.pen := rfl
  have hcnt : ringCnt (s.ring g.pen (n.toNat % 8)).cfg ≠ 0 := by omega
  have hval : (baseForm (envOf g r) t x.b).val 0 = (s.ring g.pen (n.toNat % 8)).offset m := congrArg (Form.val · 0) hb
  refine drive_next (m := ringMark want new x) h rfl rfl (fun _ => srcA_reads2 ha hb) rfl ?_ rfl
  simp only [ringMark, ringNum_eq ha, hpen, if_neg hcnt, hval, Ring.slotOf_offset _ hm, hw, if_true]

theorem ringMarks : Says.RingMarks := by
  intro s g r t x n m q ha hm hb
  refine ⟨fun h hslot => ?_, fun h hslot => ?_⟩
  · refine ringMark_drive (want := Slot.isClaimed) ha hm hb h ?_
    rcases hslot with hc | ⟨op, hc⟩
    · rw [hc]; rfl
    · rw [hc]; rfl
  · exact ringMark_drive (want := (· == .taken)) ha hm hb h (by rw [hslot]; rfl)

/-- Settles O28: RNGCFG (`ringCfgBad_none`), the test of a claim or a take, at the instruction and again (`ringWait_drive`,
`State.retestRing_eq`), and the slot that an offset names (`Ring.slotOf_offset`). -/
theorem rings : Obligations.Rings := ⟨ringSetUp, ringClaimsAndTakes, ringMarks⟩

end Sys2Proof.Machine
end

section
namespace Sys2Proof.Machine
set_option Elab.async false

/-! ### Where an allowed access reaches (R166, R168, R173) -/

/-- A location in a scratch is in that of a pen that there is. -/
def Loc.Within (s : State) (l : Loc) : Prop := ∀ p o, l = .scr p o → p ∈ s.pens.map Pen.id

section
variable {s : State} {p q n v : Nat}

theorem Loc.within_phys {a : Nat} : (Loc.phys a).Within s := nofun

theorem Loc.within_scr {o : Nat} (h : p ∈ s.pens.map Pen.id) : (Loc.scr p o).Within s := by rintro _ _ ⟨⟩; exact h

/-- No access passes the limit of the scratch of a pen that there is not: it has no bytes. -/
theorem State.mem_pens_of_scsz (h : 0 < (s.pen p).scsz) : p ∈ s.pens.map Pen.id := by
  unfold State.pen at h
  cases hq : s.pens.find? (fun x => x.id == p) with
  | none => rw [hq] at h; exact absurd h (by decide)
  | some x => exact List.mem_map.mpr ⟨x, List.mem_of_find?_eq_some hq, by simpa using List.find?_some hq⟩

theorem State.scratchLoc_scr {off : Nat} {ea : W64} {k : AccKind} (hn : 0 < n) :
    Gives (fun l => l = .scr p off ∧ p ∈ s.pens.map Pen.id) (s.scratchLoc p off n ea k) := by
  unfold State.scratchLoc
  by_cases h : (s.pen p).scsz < off + n
  · rw [if_pos h]; exact .error
  · rw [if_neg h]; exact .check (.check (.ok ⟨rfl, State.mem_pens_of_scsz (by omega)⟩))

theorem State.scratchLoc_within {off : Nat} {ea : W64} {k : AccKind} (hn : 0 < n) : Gives (Loc.Within s) (s.scratchLoc p off n ea k) := by
  intro l hl
  obtain ⟨rfl, hp⟩ := State.scratchLoc_scr hn l hl
  exact Loc.within_scr hp

theorem State.globalLoc_within {c : Nat} {va : W64} {k : AccKind} : Gives (Loc.Within s) (s.globalLoc c va n k) := by
  intro l hl
  obtain ⟨a, rfl⟩ := State.globalLoc_phys l hl
  exact Loc.within_phys

theorem State.threadAccess_within {e : Env} {t : Thread} {sp : Space} {ea : W64} {k : AccKind} {idx : Option Nat} {align : Nat}
    (hn : 0 < n) : Gives (Loc.Within s) (s.threadAccess e t sp ea n k idx align) := by
  unfold State.threadAccess State.accessOf
  cases sp with
  | global => exact .check State.globalLoc_within
  | scratch => exact .check (State.scratchLoc_within hn)
  | priv => exact .check (.check (.check State.globalLoc_within))

theorem State.teamLoc_scr {ea : W64} {k : AccKind} (hn : 0 < n) :
    Gives (fun l => ∃ m o, l = .scr m o ∧ m ∈ s.pens.map Pen.id) (s.teamLoc p ea n k) := by
  unfold State.teamLoc
  refine .check (.check ?_)
  split
  next => exact .error
  next y _ => exact fun l hl => ⟨_, _, State.scratchLoc_scr hn l hl⟩

/-! ### What a store leaves of the other bytes (R170, R172) -/

/-- Between s and u, nothing but the n bytes at l of the memory that holds them has changed. -/
def OnlyBytes (s u : State) (l : Loc) (n : Nat) : Prop :=
  match l with
  | .phys a => u.pens = s.pens ∧ ∀ b, b < a ∨ a + n ≤ b → Memory.get u.mem b = Memory.get s.mem b
  | .scr p o => u.mem = s.mem ∧ (∀ q, q ≠ p → u.pen q = s.pen q)
     ∧ u.pen p = { s.pen p with scratch := (u.pen p).scratch }
     ∧ ∀ b, b < o ∨ o + n ≤ b → Memory.get (u.pen p).scratch b = Memory.get (s.pen p).scratch b

/-- The pens after a write to a scratch. -/
theorem State.pen_writeScr {o : Nat} (hp : p ∈ s.pens.map Pen.id) : (s.writeLoc (.scr p o) n v).pen q
    = if q = p then { s.pen q with scratch := Memory.store (s.pen q).scratch o n v } else s.pen q :=
  State.pen_updPen (f := fun x => { x with scratch := Memory.store x.scratch o n v }) (fun _ => rfl) hp

theorem State.Formed.onlyBytes_writeLoc {l : Loc} (h : s.Formed) (hl : l.Within s) : OnlyBytes s (s.writeLoc l n v) l n := by
  cases l with
  | phys a => exact ⟨rfl, fun b hb => Memory.get_store_outside (State.formed_iff.mp h).1 a n v b hb⟩
  | scr p o =>
    have hp : p ∈ s.pens.map Pen.id := hl p o rfl
    refine ⟨rfl, fun q hq => ?_, ?_, fun b hb => ?_⟩
    · rw [State.pen_writeScr hp, if_neg hq]
    · rw [State.pen_writeScr hp, if_pos rfl]
    · rw [State.pen_writeScr hp, if_pos rfl]
      exact Memory.get_store_outside h.penScratch o n v b hb

/-- What the memory and the pens are says which bytes have changed. -/
theorem OnlyBytes.congr {u w : State} {l : Loc} (h : OnlyBytes s u l n) (hm : w.mem = u.mem) (hp : w.pens = u.pens) : OnlyBytes s w l n := by
  have hpen : w.pen = u.pen := by funext q; unfold State.pen; rw [hp]
  cases l with
  | phys a => exact ⟨hp.trans h.1, by rw [hm]; exact h.2⟩
  | scr p o =>
    simp only [OnlyBytes, hm, hpen]
    exact h

end

@[simp] theorem State.hinted_mem (s : State) (e : Env) (h : Hint) (l : Loc) : (s.hinted e h l).mem = s.mem := by rw [State.hinted_same]
@[simp] theorem State.hinted_pens (s : State) (e : Env) (h : Hint) (l : Loc) : (s.hinted e h l).pens = s.pens := by rw [State.hinted_same]
@[simp] theorem State.hinted_readLoc (s : State) (e : Env) (h : Hint) (l k : Loc) (n : Nat) : (s.hinted e h l).readLoc k n = s.readLoc k n := by
  rw [State.hinted_same]; rfl

/-! ### Stores by one index (R166 to R173) -/

/-- The value that a store writes fits its bytes. -/
theorem storeValue_lt (e : Env) (t : Thread) (o : Opd) (n k : Nat) : storeValue e t o n k < 2 ^ (8 * n) := by
  unfold storeValue
  dsimp only
  split
  next h =>
    subst h
    have hlo := ((baseForm e t o).val k).isLt
    have hhi := ((t.regs.get (Opd.key o + 1)).val k).isLt
    omega
  next => exact Nat.mod_lt _ (Nat.two_pow_pos _)

theorem StV.size_pos (v : StV) : 0 < StV.size v := by cases v <;> decide
theorem LdsV.size_pos (v : LdsV) : 0 < LdsV.size v := by cases v <;> decide

section
variable {s : State} {g : Group} {r : Run} {t : Thread} {x : FmtM} {l : Loc}

theorem exec_st {v : StV} (hn : t.n = 1) (h : Performs s g r t (.st v x) x.gd) (h0 : ∃ l0, stLoc v x s (envOf g r) t 0 = .ok l0)
    (hl : stLoc v x s.bump (envOf g r) t 0 = .ok l) :
    exec (.st v x) s = .next (((s.bump.writeLoc l (StV.size v) (storeValue (envOf g r) t x.v (StV.size v) 0)).hinted
      (envOf g r) x.hint l).perform g r t) := by
  obtain ⟨l0, h0⟩ := h0
  rw [show exec (.st v x) s = execSt v x s from rfl, execSt]
  exact drive_each h rfl rfl (fun _ => rfl) rfl hn ⟨_, asStop_bind h0 _⟩ (asStop_bind hl _) rfl

theorem exec_sts {v : LdsV} (hn : t.n = 1) (h : Performs s g r t (.sts v x) x.gd) (h0 : ∃ l0, stsLoc v x s (envOf g r) t 0 = .ok l0)
    (hl : stsLoc v x s.bump (envOf g r) t 0 = .ok l) :
    exec (.sts v x) s = .next ((s.bump.writeLoc l (LdsV.size v) (storeValue (envOf g r) t x.v (LdsV.size v) 0)).perform g r t) := by
  obtain ⟨l0, h0⟩ := h0
  rw [show exec (.sts v x) s = execSts v x s from rfl, execSts]
  exact drive_each h rfl rfl (fun _ => rfl) rfl hn ⟨_, asStop_bind h0 _⟩ (asStop_bind hl _) rfl

/-- The value of a store, read where it has been written. -/
theorem State.Formed.readLoc_stored {e : Env} {o : Opd} {n k : Nat} (h : s.Formed) (hl : l.Within s) :
    (s.bump.writeLoc l n (storeValue e t o n k)).readLoc l n = storeValue e t o n k := by
  rw [State.Formed.readLoc_writeLoc (s := s.bump) h hl, Nat.mod_eq_of_lt (storeValue_lt ..)]

end

theorem storesOfOne : Says.StoresOfOne := by
  intro s g r t x l (hs : s.Formed) hn
  refine ⟨fun v h h0 hl => ?_, fun v h h0 hl => ?_⟩
  · have hin : l.Within s := State.threadAccess_within (s := s.bump) (StV.size_pos v) l hl
    refine ⟨_, exec_st hn h h0 hl, ?_, fun hx => ?_, ?_, ?_⟩
    · rw [State.hinted_same, State.writeLoc_frame]; rfl
    · rw [State.hinted_of_ne hx, State.writeLoc_frame]; rfl
    · rw [State.hinted_readLoc]; exact hs.readLoc_stored hin
    · exact (State.Formed.onlyBytes_writeLoc (s := s.bump) hs hin).congr (State.hinted_mem ..) (State.hinted_pens ..)
  · obtain ⟨p, o, rfl, hp⟩ := State.teamLoc_scr (s := s.bump) (LdsV.size_pos v) l hl
    have hin : (Loc.scr p o).Within s := Loc.within_scr hp
    obtain ⟨-, hpens, hpen, hbytes⟩ := State.Formed.onlyBytes_writeLoc (s := s.bump) (n := LdsV.size v)
      (v := storeValue (envOf g r) t x.v (LdsV.size v) 0) hs hin
    exact ⟨_, exec_sts hn h h0 hl, rfl, hs.readLoc_stored hin, p, o, rfl, hpens, hpen, hbytes⟩

end Sys2Proof.Machine
end

section
namespace Sys2Proof.Machine
set_option Elab.async false

/-! ### Many stores into one memory (R169, R170) -/

/-- Stores of n bytes, for each number of a list the value of its own at the address of its own. -/
def Memory.stores (n : Nat) (o val : Nat → Nat) (ks : List Nat) (m : Memory) : Memory := ks.foldl (fun m k => Memory.store m (o k) n (val k)) m

section
variable {m : Memory} {n : Nat} {o val : Nat → Nat} {ks : List Nat}

theorem Memory.get_stores_outside {b : Nat} (hm : Memory.wf m = true) (hb : ∀ k ∈ ks, b < o k ∨ o k + n ≤ b) :
    Memory.get (Memory.stores n o val ks m) b = Memory.get m b := by
  induction ks generalizing m with
  | nil => rfl
  | cons k ks ih =>
    obtain ⟨hk, hks⟩ := List.forall_mem_cons.mp hb
    exact (ih (Memory.store_wf hm ..) hks).trans (Memory.get_store_outside hm (o k) n (val k) b hk)

/-- Whatever the order, the bytes of k, which meet those of no other, hold the value of k. -/
theorem Memory.load_stores {k : Nat} (hm : Memory.wf m = true) (hk : k ∈ ks) (hap : ∀ j ∈ ks, j ≠ k → o j + n ≤ o k ∨ o k + n ≤ o j) :
    Memory.load (Memory.stores n o val ks m) (o k) n = val k % 256 ^ n := by
  induction ks generalizing m with
  | nil => cases hk
  | cons j ks ih =>
    have hw : Memory.wf (Memory.store m (o j) n (val j)) = true := Memory.store_wf hm ..
    obtain ⟨-, hks⟩ := List.forall_mem_cons.mp hap
    by_cases hin : k ∈ ks
    · exact ih hw hin hks
    · obtain rfl : k = j := (List.mem_cons.mp hk).resolve_right hin
      have hlater : Memory.load (Memory.stores n o val ks (Memory.store m (o k) n (val k))) (o k) n
          = Memory.load (Memory.store m (o k) n (val k)) (o k) n :=
        Memory.load_congr _ _ fun i hi => Memory.get_stores_outside hw fun j hj => by
          have := hks j hj (ne_of_mem_of_not_mem hj hin)
          omega
      exact hlater.trans (Memory.load_store hm (o k) n (val k))

end

/-- The same stores into the scratch of a pen. -/
def State.writes (s : State) (p n : Nat) (o val : Nat → Nat) (ks : List Nat) : State :=
  ks.foldl (fun w k => w.writeLoc (.scr p (o k)) n (val k)) s

section
variable {s w : State} {p n : Nat} {o val : Nat → Nat} {ks : List Nat}

theorem State.writes_frame : s.writes p n o val ks = { s with pens := (s.writes p n o val ks).pens } := by
  induction ks generalizing s with
  | nil => rfl
  | cons k ks ih => exact ih

theorem State.writes_ids : (s.writes p n o val ks).pens.map Pen.id = s.pens.map Pen.id := by
  induction ks generalizing s with
  | nil => rfl
  | cons k ks ih => exact ih.trans (State.updPen_ids fun _ => rfl)

/-- The pens after the stores. -/
theorem State.pen_writes {q : Nat} (hp : ks ≠ [] → p ∈ s.pens.map Pen.id) : (s.writes p n o val ks).pen q
    = if q = p then { s.pen q with scratch := Memory.stores n o val ks (s.pen q).scratch } else s.pen q := by
  induction ks generalizing s with
  | nil => exact (ite_self _).symm
  | cons k ks ih =>
    have hps : p ∈ s.pens.map Pen.id := hp (List.cons_ne_nil _ _)
    have hids : (s.writeLoc (.scr p (o k)) n (val k)).pens.map Pen.id = s.pens.map Pen.id := State.updPen_ids fun _ => rfl
    refine (ih (s := s.writeLoc (.scr p (o k)) n (val k)) fun _ => hids ▸ hps).trans ?_
    rw [State.pen_writeScr hps]
    split <;> rfl

/-- The checks of a scratch access ask for no byte of the scratch. -/
theorem State.scratchLoc_congr {off : Nat} {ea : W64} {k : AccKind} (hops : w.ops = s.ops) (hpen : (w.pen p).bare = (s.pen p).bare) :
    w.scratchLoc p off n ea k = s.scratchLoc p off n ea k := by
  have hscsz : (w.pen p).scsz = (s.pen p).scsz := (congrArg Pen.scsz hpen :)
  have hrings : (w.pen p).rings = (s.pen p).rings := (congrArg Pen.rings hpen :)
  have hbad : (w.pen p).bad = (s.pen p).bad := (congrArg Pen.bad hpen :)
  have hlocked : w.locked (.scr p off) n k.writes = s.locked (.scr p off) n k.writes := by
    unfold State.locked
    rw [hops]
    dsimp only
    rw [hrings]
  unfold State.scratchLoc Pen.sound
  rw [hscsz, hbad, hlocked]

theorem State.hinted_scr {e : Env} {h : Hint} : s.hinted e h (.scr p n) = s := by cases h <;> rfl

end

/-! ### What acts for each index of a strand (R169, R170, R441) -/

section
variable {s : State} {g : Group} {r : Run} {t : Thread}

/-- A strand in which each index may act stays whole, and its indices act in an order drawn for them. -/
theorem drive_strandEach {u : State} {t1 : Thread} {i : Instr} {m : Meaning} {bad : Env → Bool}
    {f : State → Env → Thread → Nat → Except Stop Res} (h : Performs s g r t i m.gd) (hl : g.lanes = false) (hb : bad (envOf g r) = false)
    (he : m.each = some f) (hlay : m.lay s (envOf g r) t = false) (hok : ∀ k < t.n, ∃ r0, f s (envOf g r) t k = .ok r0)
    (hrun : eachLoop f (envOf g r) (sortBy (fun k => Config.freeKey s.fresh k) (List.range t.n)) s.bump t = (u, t1))
    (ht : t1.lane = t.lane) : drive i bad m s = .next (u.perform g r t1) := by
  have hgid : (envOf g r).gid = g.id := rfl
  have hks : (List.range t.n).filter (runTrue [(0, t.n, true)]) = List.range t.n :=
    List.filter_eq_self.mpr fun k hk => by simpa [runTrue] using hk
  have hnone : ∀ p : Nat → Bool, (∀ k < t.n, p k = false) → (List.range t.n).find? p = none := fun p hp =>
    List.find?_eq_none.mpr fun k hk => by simp [hp k (List.mem_range.mp hk)]
  rw [drive_eq h.toIssues h.regs hb, hl, if_neg (by decide)]
  unfold State.driveStrand
  simp only [h.guardRuns, List.any_cons, List.any_nil, Bool.or_false, Bool.not_true, Bool.false_and, Bool.false_eq_true, if_false, hlay, he]
  unfold State.actEach State.perform
  simp only [hks]
  rw [hnone]
  · simp only [hrun, hgid, ht]
  · intro k hk
    obtain ⟨r0, h0⟩ := hok k hk
    rw [h0]

variable {v : StV} {x : FmtM} {o : Nat → Nat}

theorem stLoc_congr {w : State} (hsp : x.space = .scratch) (hops : w.ops = s.ops) (hpen : (w.pen g.pen).bare = (s.pen g.pen).bare) (k : Nat) :
    stLoc v x w (envOf g r) t k = stLoc v x s (envOf g r) t k := by
  have hgp : (envOf g r).pen = g.pen := rfl
  simp only [stLoc, State.threadAccess, State.accessOf, hsp, hgp, State.scratchLoc_congr hops hpen]

/-- A scratch store by each of some indices, all of them allowed, in the order given. -/
theorem eachLoop_st {w : State} {ks : List Nat} {f : State → Env → Thread → Nat → Except Stop Res}
    (hf : ∀ w k, f w (envOf g r) t k = (do
      let l ← asStop (stLoc v x w (envOf g r) t k)
      return { s := (w.writeLoc l (StV.size v) (storeValue (envOf g r) t x.v (StV.size v) k)).hinted (envOf g r) x.hint l, t := t }))
    (hsp : x.space = .scratch) (hloc : ∀ k ∈ ks, stLoc v x s (envOf g r) t k = .ok (.scr g.pen (o k)))
    (hp : ks ≠ [] → g.pen ∈ w.pens.map Pen.id) (hops : w.ops = s.ops) (hpen : (w.pen g.pen).bare = (s.pen g.pen).bare) :
    eachLoop f (envOf g r) ks w t = (w.writes g.pen (StV.size v) o (storeValue (envOf g r) t x.v (StV.size v)) ks, t) := by
  induction ks generalizing w with
  | nil => rfl
  | cons k ks ih =>
    obtain ⟨hk, hks⟩ := List.forall_mem_cons.mp hloc
    have hpw : g.pen ∈ w.pens.map Pen.id := hp (List.cons_ne_nil _ _)
    have hids : (w.writeLoc (.scr g.pen (o k)) (StV.size v) (storeValue (envOf g r) t x.v (StV.size v) k)).pens.map Pen.id = w.pens.map Pen.id :=
      State.updPen_ids fun _ => rfl
    rw [eachLoop, hf, asStop_bind ((stLoc_congr hsp hops hpen k).trans hk), State.hinted_scr]
    refine ih hks (fun _ => hids ▸ hpw) hops ?_
    rw [State.pen_writeScr hpw, if_pos rfl]
    exact hpen

theorem exec_st_strand (hl : g.lanes = false) (hsp : x.space = .scratch) (h : Performs s g r t (.st v x) x.gd)
    (hloc : ∀ k < t.n, stLoc v x s (envOf g r) t k = .ok (.scr g.pen (o k))) :
    exec (.st v x) s = .next ((s.bump.writes g.pen (StV.size v) o (storeValue (envOf g r) t x.v (StV.size v))
      (sortBy (fun k => Config.freeKey s.fresh k) (List.range t.n))).perform g r t) := by
  rw [show exec (.st v x) s = execSt v x s from rfl, execSt]
  refine drive_strandEach h hl rfl rfl rfl (fun k hk => ⟨_, asStop_bind (hloc k hk) _⟩)
    (eachLoop_st (fun _ _ => rfl) hsp (fun k hk => hloc k ?_) (fun hne => ?_) rfl rfl) rfl
  · exact List.mem_range.mp (mem_sortBy.mp hk)
  · obtain ⟨k, hk⟩ := List.exists_mem_of_ne_nil _ hne
    exact State.threadAccess_within (StV.size_pos v) _ (hloc k (List.mem_range.mp (mem_sortBy.mp hk))) _ _ rfl

end

theorem blockStore : Says.BlockStore := by
  intro s g r t v x o (hs : s.Formed) hl hsp h hloc
  have hks : ∀ k, k ∈ sortBy (fun k => Config.freeKey s.fresh k) (List.range t.n) ↔ k < t.n := fun k => mem_sortBy.trans List.mem_range
  have hp : sortBy (fun k => Config.freeKey s.fresh k) (List.range t.n) ≠ [] → g.pen ∈ s.bump.pens.map Pen.id := fun hne => by
    obtain ⟨k, hk⟩ := List.exists_mem_of_ne_nil _ hne
    exact State.threadAccess_within (StV.size_pos v) _ (hloc k ((hks k).mp hk)) _ _ rfl
  refine ⟨_, exec_st_strand hl hsp h hloc, ?_, fun q hq => ?_, State.writes_ids, ?_, fun b hb => ?_, fun k hk hap => ?_⟩
  · rw [State.writes_frame]; rfl
  · rw [State.pen_writes hp, if_neg hq]; rfl
  · rw [State.pen_writes hp, if_pos rfl]; rfl
  · rw [State.pen_writes hp, if_pos rfl]
    exact Memory.get_stores_outside hs.penScratch fun k hk => hb k ((hks k).mp hk)
  · rw [State.pen_writes hp, if_pos rfl]
    refine (Memory.load_stores hs.penScratch ((hks k).mpr hk) fun j hj => hap j ((hks j).mp hj)).trans ?_
    rw [show 256 ^ StV.size v = 2 ^ (8 * StV.size v) from (Nat.pow_mul 2 8 _).symm, Nat.mod_eq_of_lt (storeValue_lt ..)]

/-- Settles O22: the store is one write, or the writes of the indices one after another; the bytes of each are those of `Memory.store`. -/
theorem storesAndBlocks : Obligations.StoresAndBlocks := ⟨storesOfOne, blockStore⟩

end Sys2Proof.Machine
end

section
namespace Sys2Proof.Machine
set_option Elab.async false

/-! ### PREF, and the shed (R174, R199) -/

section
variable {s : State} {c : Nat}

theorem State.ctx_updCtx {f : Context → Context} (hf : ∀ y, (f y).id = y.id) (hc : c ∈ s.ctxs.map Context.id) :
    (s.updCtx c f).ctx c = f (s.ctx c) := by
  have hmap : ((fun y : Context => y.id == c) ∘ fun y => if y.id == c then f y else y) = fun y => y.id == c := by
    funext y; simp only [Function.comp]; split <;> simp [hf]
  unfold State.ctx State.updCtx
  simp only [List.find?_map, hmap]
  cases hq : s.ctxs.find? (fun y => y.id == c) with
  | none =>
    obtain ⟨y, hy, hid⟩ := List.mem_map.mp hc
    exact absurd (beq_iff_eq.mpr hid) (List.find?_eq_none.mp hq y hy)
  | some y =>
    have hid : y.id = c := by simpa using List.find?_some hq
    simp [hid]

/-- A line placed in the shed of a die where the context holds ways there is kept there. -/
theorem State.mem_placeShed {die line : Nat} (hc : c ∈ s.ctxs.map Context.id) (hways : 0 < (s.ctx c).shed.getD die 0) :
    (die, line) ∈ ((s.placeShed c die line).ctx c).shedLines := by
  unfold State.placeShed
  dsimp only
  by_cases h : (s.ctx c).shed.getD die 0 = 0 ∨ (s.ctx c).shedLines.contains (die, line)
  · rw [if_pos h]
    exact List.contains_iff_mem.mp (h.resolve_left (by omega))
  · rw [if_neg h, State.ctx_updCtx]
    · exact List.mem_cons_self
    · exact fun _ => rfl
    · exact hc

end

section
variable {s : State} {g : Group} {r : Run} {t : Thread} {x : FmtM}

theorem State.prefetch_same {e : Env} {k : Nat} :
    s.prefetch e x t k = { s with ctxs := (s.prefetch e x t k).ctxs, fresh := (s.prefetch e x t k).fresh } := by
  unfold State.prefetch
  split
  · exact State.hinted_same ..
  · rfl

theorem State.prefetch_of_ne {e : Env} {k : Nat} (hx : x.hint ≠ .shed) : s.prefetch e x t k = s := by
  unfold State.prefetch
  split
  · exact State.hinted_of_ne hx
  · rfl

/-- The prefetch of an address that translates to readable memory, with HINT shed. -/
theorem State.prefetch_shed {pa : Nat} (hx : x.hint = .shed) (hsp : x.space = .global)
    (hpa : s.globalLoc (s.ctxOf g.pen) (((t.reads g r .int x.base).val 0) + x.off.signExtend 64) 1 accRead.device = .ok (.phys pa)) :
    s.prefetch (envOf g r) x t 0 = s.placeShed (s.ctxOf g.pen) (s.penDie g.pen) (pa / 128) := by
  have hloc : s.threadAccess (envOf g r) t x.space (eaM ((baseForm (envOf g r) t x.base).val 0) x.off) 1 accRead.device (some 0)
      = .ok (.phys pa) := by
    rw [hsp]
    exact (if_neg (not_not_intro (Nat.mod_one _))).trans hpa
  unfold State.prefetch
  rw [hloc]
  show s.hinted (envOf g r) x.hint (.phys pa) = _
  rw [hx]
  rfl

/-- The one lane that acts does so from the state in which the instruction starts, where lanes act in ascending order. -/
theorem drive_laneEach {s1 : State} {t1 : Thread} {i : Instr} {m : Meaning} {bad : Env → Bool}
    {f : State → Env → Thread → Nat → Except Stop Res} (h : Performs s g r t i m.gd) (hl : g.lanes = true) (hb : bad (envOf g r) = false)
    (he : m.each = some f) (hasc : m.asc = true) (ha : f s (envOf g r) t 0 = .ok { s := s1, t := t1 }) (ht : t1.lane = t.lane) :
    drive i bad m s = .next (s1.perform g r t1) := by
  have hg := h.guard
  rw [GuardTrue, hl, if_pos rfl] at hg
  rw [drive_eq h.toIssues h.regs hb, if_pos hl, driveLanes_asc h.toIssues hl hasc (by rw [lane_each f hg he]; exact ha), commit_next ht]

/-- PREF: lane threads act in ascending order, a strand's one index after the order has been drawn (log 5). -/
theorem exec_pref (hn : t.n = 1) (h : Performs s g r t (.pref x) x.gd) :
    exec (.pref x) s = .next (((if g.lanes then s else s.bump).prefetch (envOf g r) x t 0).perform g r t) := by
  rw [show exec (.pref x) s = execPref x s from rfl, execPref]
  cases hl : g.lanes with
  | true => exact drive_laneEach h hl rfl rfl rfl rfl rfl
  | false =>
    refine drive_strandEach h hl rfl rfl rfl (fun _ _ => ⟨_, rfl⟩) ?_ rfl
    rw [hn]
    rfl

end

theorem prefetch : Says.Prefetch := by
  intro s g r t x hn h
  have hw : ∀ w : State, w = s ∨ w = s.bump → w.prefetch (envOf g r) x t 0
        = { s with ctxs := (w.prefetch (envOf g r) x t 0).ctxs, fresh := (w.prefetch (envOf g r) x t 0).fresh }
      ∧ (x.hint ≠ .shed → (w.prefetch (envOf g r) x t 0).ctxs = s.ctxs)
      ∧ ∀ pa, x.hint = .shed → x.space = .global → s.ctxOf g.pen ∈ s.ctxs.map Context.id →
          0 < (s.ctx (s.ctxOf g.pen)).shed.getD (s.penDie g.pen) 0 →
          s.globalLoc (s.ctxOf g.pen) (((t.reads g r .int x.base).val 0) + x.off.signExtend 64) 1 accRead.device = .ok (.phys pa) →
          (s.penDie g.pen, pa / 128) ∈ ((w.prefetch (envOf g r) x t 0).ctx (s.ctxOf g.pen)).shedLines := by
    rintro w (rfl | rfl)
    · refine ⟨State.prefetch_same, fun hx => by rw [State.prefetch_of_ne hx], fun pa hx hsp hc hways hpa => ?_⟩
      rw [State.prefetch_shed hx hsp hpa]
      exact State.mem_placeShed hc hways
    · refine ⟨State.prefetch_same (s := s.bump), fun hx => by rw [State.prefetch_of_ne hx]; rfl, fun pa hx hsp hc hways hpa => ?_⟩
      rw [State.prefetch_shed (s := s.bump) hx hsp hpa]
      exact State.mem_placeShed (s := s.bump) hc hways
  refine ⟨_, exec_pref hn h, hw _ ?_⟩
  cases g.lanes
  · exact .inr rfl
  · exact .inl rfl

end Sys2Proof.Machine
end

section
namespace Sys2Proof.Machine
set_option Elab.async false

/-! ### A line copied word by word (R175) -/

/-- A byte of the bytes that a load reads. -/
theorem Memory.get_of_load {m : Memory} {a n i : Nat} (hi : i < n) : Memory.get m (a + i) = BitVec.ofNat 8 (Memory.load m a n / 256 ^ i) := by
  induction n generalizing a i with
  | zero => omega
  | succ n ih =>
    have hb : (Memory.get m a).toNat < 256 := (Memory.get m a).isLt
    rw [Memory.load]
    cases i with
    | zero =>
      rw [Nat.pow_zero, Nat.div_one]
      refine BitVec.eq_of_toNat_eq ?_
      rw [BitVec.toNat_ofNat, Nat.add_zero]
      omega
    | succ i =>
      have hdiv : ((Memory.get m a).toNat + 256 * Memory.load m (a + 1) n) / 256 = Memory.load m (a + 1) n := by omega
      rw [Nat.pow_succ', ← Nat.div_div_eq_div_mul, hdiv, ← ih (by omega), show a + (i + 1) = a + 1 + i by omega]

/-- The 16 words of a line, stored one after another, give its 128 bytes. -/
theorem Memory.get_lineCopied {m : Memory} {src : Memory} {a d k : Nat} (hm : Memory.wf m = true) (hk : k < 128) :
    Memory.get (Memory.stores 8 (fun j => d + 8 * j) (fun j => Memory.load src (a + 8 * j) 8) (List.range 16) m) (d + k)
      = Memory.get src (a + k) := by
  have hword : Memory.load (Memory.stores 8 (fun j => d + 8 * j) (fun j => Memory.load src (a + 8 * j) 8) (List.range 16) m) (d + 8 * (k / 8)) 8
      = Memory.load src (a + 8 * (k / 8)) 8 := by
    refine (Memory.load_stores hm (List.mem_range.mpr (by omega)) fun j _ hj => by omega).trans ?_
    exact Nat.mod_eq_of_lt (Memory.load_lt ..)
  have hi : k % 8 < 8 := Nat.mod_lt _ (by decide)
  rw [show d + k = d + 8 * (k / 8) + k % 8 by omega, show a + k = a + 8 * (k / 8) + k % 8 by omega,
    Memory.get_of_load hi, Memory.get_of_load hi, hword]

theorem Memory.get_lineCopied_outside {m : Memory} {d b : Nat} {val : Nat → Nat} (hm : Memory.wf m = true) (hb : b < d ∨ d + 128 ≤ b) :
    Memory.get (Memory.stores 8 (fun j => d + 8 * j) val (List.range 16) m) b = Memory.get m b :=
  Memory.get_stores_outside hm fun j hj => by
    have := List.mem_range.mp hj
    omega

theorem State.readLoc_lt (s : State) (l : Loc) (n : Nat) : s.readLoc l n < 256 ^ n := by
  cases l <;> exact Memory.load_lt ..

/-- Each of the 16 words read in s, stored in turn. -/
def State.copied (s : State) (ld st : Nat → Loc) : State :=
  (List.range 16).foldl (fun w j => w.writeLoc (st j) 8 (s.readLoc (ld j) 8)) s

theorem State.writeLoc_ctxs (s : State) (l : Loc) (n v : Nat) : (s.writeLoc l n v).ctxs = s.ctxs := by cases l <;> rfl

theorem State.copied_ctxs (s : State) (ld st : Nat → Loc) : (s.copied ld st).ctxs = s.ctxs := by
  unfold State.copied
  generalize s.readLoc = val
  generalize List.range 16 = ks
  induction ks generalizing s with
  | nil => rfl
  | cons k ks ih => exact (ih _).trans (State.writeLoc_ctxs ..)

section
variable {s : State} {n : Nat} {a val : Nat → Nat} {ks : List Nat}

theorem State.foldl_writePhys : ks.foldl (fun w k => w.writeLoc (.phys (a k)) n (val k)) s
    = { s with mem := Memory.stores n a val ks s.mem
               writers := (ks.foldl (fun w k => w.writeLoc (.phys (a k)) n (val k)) s).writers } := by
  induction ks generalizing s with
  | nil => rfl
  | cons k ks ih => exact ih

/-! ### What a CPS does, all of whose accesses are allowed -/

theorem goodPrefix_ok {α : Type} (f : α → Loc) (l : List α) : goodPrefix (l.map fun a => .ok (f a)) = l.map f := by
  induction l with
  | nil => rfl
  | cons a l ih => exact congrArg (f a :: ·) ih

theorem firstCause_ok {α : Type} {rs : List (Except FaultInfo α)} (h : ∀ y ∈ rs, ∃ a, y = .ok a) : firstCause rs = .ok () := by
  induction rs with
  | nil => rfl
  | cons y rs ih =>
    obtain ⟨⟨a, rfl⟩, hrs⟩ := List.forall_mem_cons.mp h
    exact ih hrs

end

section
variable {s : State} {g : Group} {r : Run} {t : Thread} {x : FmtM} {ld st : Nat → Loc}

theorem cpsAt_within {e : Env} {glob w : Bool} {k j : Nat} : Gives (Loc.Within s) (cpsAt glob w x s e t k j) := by
  unfold cpsAt
  dsimp only
  split
  · exact State.threadAccess_within (n := 8) (by decide)
  · exact .check (State.threadAccess_within (n := 8) (by decide))

/-- The line is copied; HINT shed may then place the line of the effective address (R199); a CPS.in owes its completion. -/
theorem cpsAct_copies {e : Env} {out : Bool} (hc : t.cps = none) (hld : ∀ j < 16, cpsAt (!out) false x s e t 0 j = .ok (ld j))
    (hst : ∀ j < 16, cpsAt out true x s e t 0 j = .ok (st j)) :
    ∃ w : State, cpsAct out x s e t 0 = (if out then .ok { s := w, t := t } else .ok (oweOnce w e t))
      ∧ w = { s.copied ld st with ctxs := w.ctxs, fresh := w.fresh } ∧ (x.hint ≠ .shed → w = s.copied ld st) := by
  have hloads : (List.range cpsWords).map (cpsAt (!out) false x s e t 0) = (List.range 16).map fun j => .ok (ld j) :=
    List.map_congr_left fun j hj => hld j (List.mem_range.mp hj)
  have hstores : (List.range cpsWords).map (cpsAt out true x s e t 0) = (List.range 16).map fun j => .ok (st j) :=
    List.map_congr_left fun j hj => hst j (List.mem_range.mp hj)
  have hcause : firstCause (((List.range 16).map fun j => (.ok (ld j) : Except FaultInfo Loc)) ++ (List.range 16).map fun j => .ok (st j)) = .ok () := by
    refine firstCause_ok fun y hy => ?_
    rcases List.mem_append.mp hy with h | h <;> obtain ⟨j, -, rfl⟩ := List.mem_map.mp h <;> exact ⟨_, rfl⟩
  have hthread : { t with cps := none } = t := by rw [← hc]
  have happly : CpsDone.apply s (some ⟨⟨[], 0⟩, ((List.range 16).map st).zip ((List.range 16).map fun j => BitVec.ofNat 64 (s.readLoc (ld j) 8))⟩)
      = s.copied ld st := by
    unfold CpsDone.apply State.copied
    dsimp only
    rw [List.zip_map', List.foldl_map]
    congr
    funext w j
    exact congrArg (w.writeLoc (st j) 8) (Nat.mod_eq_of_lt (s.readLoc_lt (ld j) 8))
  unfold cpsAct
  rw [hc]
  simp only [if_true, Option.getD_none, List.length_nil, List.drop_zero, hloads, hstores, goodPrefix_ok, List.nil_append, hcause, List.map_map, Function.comp_def, hthread]
  simp only [List.length_map, List.length_range, cpsWords, Nat.lt_irrefl, if_false, happly]
  refine ⟨_, rfl, ?_⟩
  split
  next l _ => exact ⟨State.hinted_same .., State.hinted_of_ne⟩
  next => exact ⟨rfl, fun _ => rfl⟩

/-- A CPS.in owes a completion, and no result. -/
theorem oweOnce_eq (s : State) (e : Env) (t : Thread) :
    ∃ (n : Nat) (t' : Thread), oweOnce s e t = { s := { s with fresh := n }, t := t' } ∧ t' = { t with flags := t'.flags, pend := t'.pend } := by
  unfold oweOnce
  split
  · exact ⟨_, _, rfl, rfl⟩
  · refine ⟨_, _, rfl, ?_⟩
    unfold Thread.owe
    rw [Thread.setFlag_eq]
    rfl

/-! ### Each way (R175) -/

theorem exec_cpsOut (hn : t.n = 1) (hc : t.cps = none) (h : Performs s g r t (.cpsOut x) x.gd)
    (hld : ∀ j < 16, cpsAt false false x s (envOf g r) t 0 j = .ok (ld j)) (hst : ∀ j < 16, cpsAt true true x s (envOf g r) t 0 j = .ok (st j)) :
    ∃ (c : List Context) (n : Nat), exec (.cpsOut x) s = .next ({ s.bump.copied ld st with ctxs := c, fresh := n }.perform g r t)
      ∧ (x.hint ≠ .shed → c = s.ctxs) := by
  obtain ⟨w0, h0, -⟩ := cpsAct_copies (out := true) hc hld hst
  obtain ⟨w, h1, hw, hx⟩ := cpsAct_copies (s := s.bump) (out := true) hc hld hst
  refine ⟨w.ctxs, w.fresh, ?_, fun hh => by rw [hx hh, State.copied_ctxs]; rfl⟩
  rw [← hw, show exec (.cpsOut x) s = execCpsOut x s from rfl, execCpsOut]
  exact drive_each h rfl rfl (fun _ => rfl) rfl hn ⟨_, h0⟩ h1 rfl

theorem exec_cpsIn (hn : t.n = 1) (hc : t.cps = none) (h : Performs s g r t (.cpsIn x) x.gd)
    (hld : ∀ j < 16, cpsAt true false x s (envOf g r) t 0 j = .ok (ld j)) (hst : ∀ j < 16, cpsAt false true x s (envOf g r) t 0 j = .ok (st j)) :
    ∃ (c : List Context) (n : Nat) (t' : Thread), exec (.cpsIn x) s = .next ({ s.bump.copied ld st with ctxs := c, fresh := n }.perform g r t')
      ∧ (x.hint ≠ .shed → c = s.ctxs) ∧ t' = { t with flags := t'.flags, pend := t'.pend } := by
  obtain ⟨w0, h0, -⟩ := cpsAct_copies (out := false) hc hld hst
  obtain ⟨w, h1, hw, hx⟩ := cpsAct_copies (s := s.bump) (out := false) hc hld hst
  obtain ⟨n, t', howe, ht'⟩ := oweOnce_eq w (envOf g r) t
  have hw' : { s.bump.copied ld st with ctxs := w.ctxs, fresh := n } = { w with fresh := n } := by rw [hw]
  refine ⟨w.ctxs, n, t', ?_, fun hh => by rw [hx hh, State.copied_ctxs]; rfl, ht'⟩
  rw [hw', show exec (.cpsIn x) s = execCpsIn x s from rfl, execCpsIn]
  exact drive_each h rfl rfl (fun _ => rfl) rfl hn ⟨_, h0⟩ (h1.trans (congrArg Except.ok howe)) (by rw [ht'])

end

section
variable {s : State} {p a o : Nat}

/-- A scratch line copied to memory. -/
theorem State.Formed.copied_toMemory (h : s.Formed) : ∃ (m : Memory) (ws : List (Nat × Nat)),
    s.copied (fun j => .scr p (o + 8 * j)) (fun j => .phys (a + 8 * j)) = { s with mem := m, writers := ws }
      ∧ (∀ k < 128, Memory.get m (a + k) = Memory.get (s.pen p).scratch (o + k))
      ∧ ∀ b, b < a ∨ a + 128 ≤ b → Memory.get m b = Memory.get s.mem b := by
  have hwf : Memory.wf s.mem = true := (State.formed_iff.mp h).1
  exact ⟨_, _, State.foldl_writePhys, fun _ => Memory.get_lineCopied hwf, fun _ => Memory.get_lineCopied_outside hwf⟩

/-- A line of memory copied to a scratch. -/
theorem State.Formed.copied_toScratch (h : s.Formed) (hp : p ∈ s.pens.map Pen.id) : ∃ u : State,
    s.copied (fun j => .phys (a + 8 * j)) (fun j => .scr p (o + 8 * j)) = u ∧ u = { s with pens := u.pens }
      ∧ (∀ k < 128, Memory.get (u.pen p).scratch (o + k) = Memory.get s.mem (a + k))
      ∧ ∀ b, b < o ∨ o + 128 ≤ b → Memory.get (u.pen p).scratch b = Memory.get (s.pen p).scratch b := by
  have hscr : ((s.writes p 8 (fun j => o + 8 * j) (fun j => Memory.load s.mem (a + 8 * j) 8) (List.range 16)).pen p).scratch
      = Memory.stores 8 (fun j => o + 8 * j) (fun j => Memory.load s.mem (a + 8 * j) 8) (List.range 16) (s.pen p).scratch := by
    rw [State.pen_writes fun _ => hp, if_pos rfl]
  refine ⟨_, rfl, State.writes_frame (s := s) (p := p), fun k hk => ?_, fun b hb => ?_⟩
  · exact (congrArg (Memory.get · (o + k)) hscr).trans (Memory.get_lineCopied h.penScratch hk)
  · exact (congrArg (Memory.get · b) hscr).trans (Memory.get_lineCopied_outside h.penScratch hb)

end

theorem lineCopies : Says.LineCopies := by
  intro s g r t x pa o (hs : s.Formed) hn hc
  refine ⟨fun h ⟨hmem, hscr⟩ => ?_, fun h ⟨hmem, hscr⟩ => ?_⟩
  · obtain ⟨c, n, hexec, hctxs⟩ := exec_cpsOut hn hc h hscr hmem
    obtain ⟨m, ws, hcopied, hline, hrest⟩ := State.Formed.copied_toMemory (s := s.bump) (p := g.pen) (a := pa) (o := o) hs
    rw [hcopied] at hexec
    exact ⟨_, hexec, rfl, hctxs, hline, hrest⟩
  · obtain ⟨c, n, t', hexec, hctxs, ht'⟩ := exec_cpsIn hn hc h hmem hscr
    have hp : g.pen ∈ s.pens.map Pen.id := cpsAt_within _ (hscr 0 (by decide)) _ _ rfl
    obtain ⟨u, hcopied, hu, hline, hrest⟩ := State.Formed.copied_toScratch (s := s.bump) (a := pa) (o := o) hs hp
    rw [hcopied, hu] at hexec
    exact ⟨_, t', hexec, rfl, hctxs, ht', hline, hrest⟩

/-- Settles O23: a PREF at most places a line in the shed; the 16 words of a CPS, stored one after another, are the line's 128 bytes. -/
theorem prefetchAndLines : Obligations.PrefetchAndLines := ⟨prefetch, lineCopies⟩

end Sys2Proof.Machine
end

section
namespace Sys2Proof.Machine
set_option Elab.async false

/-! ### SPAWN: the action of R365, the pen of a task and the threads that begin (R189, R192, R335, R365) -/

section
variable {s u : State} {g : Group} {r : Run} {t t1 : Thread} {x : FmtQ} {a b d : W64}

theorem qVal_reads {o : Opd} (h : t.reads g r .int o = .u a) : qVal (envOf g r) t o = a := congrArg (Form.val · 0) h

theorem srcA_reads3 (ha : t.reads g r .int x.a = .u a) (hb : t.reads g r .int x.b = .u b) (hd : t.reads g r .int x.d = .u d) :
    srcA (envOf g r) t [x.d, x.a, x.b] = false := by
  have ha : baseForm (envOf g r) t x.a = .u a := ha
  have hb : baseForm (envOf g r) t x.b = .u b := hb
  have hd : baseForm (envOf g r) t x.d = .u d := hd
  simp [srcA, ha, hb, hd, Form.isA]

/-- An instruction of three sources in U form, in the shape of R365, does what its action answers. -/
theorem drive_qMeaning3 {i : Instr} {act : Act} (ha : t.reads g r .int x.a = .u a) (hb : t.reads g r .int x.b = .u b)
    (hd : t.reads g r .int x.d = .u d) (h : Performs s g r t i x.gd) (hact : act s (envOf g r) t = .ok { s := u, t := t1 })
    (ht : t1.lane = t.lane) :
    drive i (fun _ => false) (qMeaning x.gd [x.d, x.a, x.b] none act) s = .next (u.perform g r t1) :=
  drive_next h rfl rfl (fun _ => srcA_reads3 ha hb hd) rfl hact ht

end

section
variable {s : State} {c launch pen : Nat} {decls : List Decl}

/-- The pen of the issuer, where it is one of the launch, is kept by a task without declarations (log 18). -/
theorem State.taskPen_own (h : ∃ p ∈ s.pens, p.id = pen ∧ p.launch = launch) : s.taskPen c launch pen [] = pen := by
  obtain ⟨p, hp, hid, hl⟩ := h
  have hmem : ((s.pens.filter (fun p => p.launch == launch)).map Pen.id).contains pen = true :=
    List.contains_iff_mem.mpr (List.mem_map.mpr ⟨p, List.mem_filter.mpr ⟨hp, beq_iff_eq.mpr hl⟩, hid⟩)
  exact if_pos hmem

/-- A task joins a pen of its launch, where that has one. -/
theorem State.taskPen_launch (h : ∃ p ∈ s.pens, p.launch = launch) :
    ∃ p ∈ s.pens, p.id = s.taskPen c launch pen decls ∧ p.launch = launch := by
  obtain ⟨p, hp, hl⟩ := h
  suffices s.taskPen c launch pen decls ∈ (s.pens.filter (fun p => p.launch == launch)).map Pen.id by
    obtain ⟨q, hq, hid⟩ := List.mem_map.mp this
    obtain ⟨hq, hql⟩ := List.mem_filter.mp hq
    exact ⟨q, hq, hid, beq_iff_eq.mp hql⟩
  have hpid : p.id ∈ (s.pens.filter (fun p => p.launch == launch)).map Pen.id :=
    List.mem_map.mpr ⟨p, List.mem_filter.mpr ⟨hp, beq_iff_eq.mpr hl⟩, rfl⟩
  unfold State.taskPen
  extract_lets ps own
  have hown : own ∈ ps := by
    unfold own
    split
    next h => exact List.contains_iff_mem.mp h
    next =>
      have hne : ps ≠ [] := List.ne_nil_of_mem hpid
      rw [List.headD_eq_head?_getD, List.head?_eq_some_head hne]
      exact List.head_mem hne
  split
  · exact hown
  · cases hf : (own :: ps).find? (fun p => (s.pen p).core.map dieOfCore == some (s.stagingDie c)) with
    | none => exact hown
    | some q =>
      rcases List.mem_cons.mp (List.mem_of_find?_eq_some hf) with rfl | hq
      · exact hown
      · exact hq

end

/-- R189: sp of the index at offset j of a strand's range. -/
theorem spForm_strand (l : Launch) (lo n j : Nat) :
    (spForm l lo n true).val j = BitVec.ofNat 64 (l.stk.toNat + (lo + j + 1) * l.z) := by
  have hmk : spForm l lo n true = Form.mk (BitVec.ofNat 64 (l.stk.toNat + (lo + 1) * l.z)) (BitVec.ofNat 64 l.z) := by
    simp only [spForm, Bool.true_and, if_true, ite_self]
  rw [hmk, Form.mk_val, ← BitVec.ofNat_mul, ← BitVec.ofNat_add]
  congr 1
  ring

/-! ### SPAWN over a range (R369) -/

/-- The strand of a task that a SPAWN over a range makes. -/
def spawnStrand (s : State) (t : Thread) (lo n : Nat) (a d : W64) : Thread :=
  newThread (s.threadLaunch t) (s.fresh + 2) lo n 0 s.fresh a true (some d)

/-- The group in which it waits to be placed. -/
def spawnGroup (s : State) (g : Group) (t : Thread) (lo n : Nat) (a d : W64) : Group :=
  newGroup (s.fresh + 1) (s.taskPen (s.ctxOf g.pen) (s.task t.task).launch g.pen (spawnTask s t s.fresh).decls) false
    [spawnStrand s t lo n a d]

section
variable {s : State} {g : Group} {r : Run} {t : Thread} {x : FmtQ} {a b d : W64}
  (ha : t.reads g r .int x.a = .u a) (hb : t.reads g r .int x.b = .u b) (hd : t.reads g r .int x.d = .u d)
include ha hb hd

theorem exec_spawnRange (h : Performs s g r t (.spawnRange x) x.gd) (hn : b.toNat % 2 ^ 32 + (b.toNat / 2 ^ 32 + 1) ≤ 2 ^ 32)
    (hok : s.checkTarget (s.ctxOf g.pen) a = .ok ()) :
    exec (.spawnRange x) s = .next ((({ s.bump 3 with
      tasks := s.tasks ++ [spawnTask s t s.fresh]
      groups := s.groups ++ [spawnGroup s g t (b.toNat % 2 ^ 32) (b.toNat / 2 ^ 32 + 1) a d] } : State).addMember
        (.group (s.fresh + 1) true) (spawnTask s t s.fresh).prio).perform g r t.spent) := by
  have hlo : (bits b 31 0).toNat = b.toNat % 2 ^ 32 := by rw [bits_toNat]; omega
  have hhi : (bits b 63 32).toNat = b.toNat / 2 ^ 32 := by rw [bits_toNat]; have := b.isLt; omega
  rw [show exec (.spawnRange x) s = execSpawnRange x s from rfl, execSpawnRange]
  refine drive_qMeaning3 ha hb hd h ?_ rfl
  simp only [qVal_reads ha, qVal_reads hb, qVal_reads hd, hlo, hhi]
  refine (asStop_bind hok _).trans ?_
  rw [if_neg (Nat.not_lt.mpr hn)]
  rfl

end

theorem spawnOverRange : Says.SpawnOverRange := by
  intro s g r t x a b d ha hb hd h
  dsimp only
  intro hn hok
  refine ⟨_, spawnTask s t s.fresh, spawnGroup s g t (b.toNat % 2 ^ 32) (b.toNat / 2 ^ 32 + 1) a d,
    spawnStrand s t (b.toNat % 2 ^ 32) (b.toNat / 2 ^ 32 + 1) a d, _, exec_spawnRange ha hb hd h hn hok, rfl, rfl, rfl, rfl, rfl, rfl,
    fun hdecls hpen => ?_, State.taskPen_launch, rfl, rfl, rfl, rfl, rfl, rfl, rfl, rfl, rfl, rfl, rfl, rfl, rfl, rfl, rfl, rfl, rfl,
    fun j _ => spForm_strand ..⟩
  show s.taskPen _ _ _ (spawnTask s t s.fresh).decls = g.pen
  rw [hdecls]
  exact State.taskPen_own hpen

/-! ### SPAWN of one index, and the bin it goes into (R48, R49, R401) -/

theorem binFind_ctx {y : Die} {c : Nat} {a : W64} {b : Bin} (h : binFind y c a = some b) : b.ctx = c := by
  have hkey := List.find?_some h
  rw [Bool.and_eq_true, beq_iff_eq] at hkey
  exact hkey.1

/-- A bin is held exactly where it is full and its context stopped (log 82). -/
theorem State.binHeld_iff {s : State} {b : Bin} : s.binHeld b = true ↔ 64 ≤ b.spawns.length ∧ (s.ctx b.ctx).stopped = true := by
  rw [State.binHeld, Bool.and_eq_true, decide_eq_true_iff]

/-- A word below 2^32 names one index (R369). -/
theorem bits_index {d : W64} (h : d.toNat < 2 ^ 32) : (bits d 31 0).toNat = d.toNat ∧ (bits d 63 32 != 0) = false := by
  refine ⟨by rw [bits_toNat]; omega, bne_eq_false_iff_eq.mpr (BitVec.eq_of_toNat_eq ?_)⟩
  rw [bits_toNat, Nat.div_eq_of_lt h]
  rfl

/-- The state in which a SPAWN of one index has made its task. -/
def State.withSpawned (s : State) (t : Thread) : State := { s.bump with tasks := s.tasks ++ [spawnTask s t s.fresh] }

/-- Bin y stands on the die in place of the one in use for context c and entry a. -/
def State.binFilled (s : State) (die c : Nat) (a : W64) (y : Bin) : State :=
  s.updDie die (fun e => { e with bins := e.bins.map (fun z => if z.ctx == c && z.entry == a then y else z) })

section
variable {s : State} {g : Group} {r : Run} {t : Thread} {x : FmtQ} {a b d : W64}
  (ha : t.reads g r .int x.a = .u a) (hb : t.reads g r .int x.b = .u b) (hd : t.reads g r .int x.d = .u d)
  (h : Performs s g r t (.spawnSingle x) x.gd) (hlt : d.toNat < 2 ^ 32) (hok : s.checkTarget (s.ctxOf g.pen) a = .ok ())
include ha hb hd h hlt hok

theorem exec_spawnSingle_new (hf : binFind (s.die (s.penDie g.pen)) (s.ctxOf g.pen) a = none)
    (hroom : (s.die (s.penDie g.pen)).bins.length < 128) :
    exec (.spawnSingle x) s = .next (((s.withSpawned t).updDie (s.penDie g.pen) (fun y =>
      { y with bins := y.bins ++ [⟨s.ctxOf g.pen, a, (s.task t.task).launch, s.clk, [⟨d.toNat, b, s.fresh⟩]⟩] })).perform g r t.spent) := by
  have hpen : (envOf g r).pen = g.pen := rfl
  obtain ⟨hidx, hhigh⟩ := bits_index hlt
  rw [show exec (.spawnSingle x) s = execSpawnSingle x s from rfl, execSpawnSingle]
  refine drive_qMeaning3 ha hb hd h ?_ rfl
  simp only [qVal_reads ha, qVal_reads hb, qVal_reads hd, hidx, hhigh, hpen, hf]
  exact (asStop_bind hok _).trans (if_neg (Nat.not_le.mpr hroom))

theorem exec_spawnSingle_joins {y : Bin} (hf : binFind (s.die (s.penDie g.pen)) (s.ctxOf g.pen) a = some y) (hroom : y.spawns.length < 64) :
    let y1 : Bin := { y with spawns := y.spawns ++ [⟨d.toNat, b, s.fresh⟩] }
    let v := (s.withSpawned t).binFilled (s.penDie g.pen) (s.ctxOf g.pen) a y1
    exec (.spawnSingle x) s = .next ((if y1.spawns.length < 64 ∨ (s.ctx (s.ctxOf g.pen)).stopped = true then v
      else v.launchBin (s.penDie g.pen) y1).perform g r t.spent) := by
  intro y1 v
  have hpen : (envOf g r).pen = g.pen := rfl
  obtain ⟨hidx, hhigh⟩ := bits_index hlt
  have hctx : y.ctx = s.ctxOf g.pen := binFind_ctx hf
  have hwaits : (y1.spawns.length < 64 ∨ (s.ctx (s.ctxOf g.pen)).stopped = true)
      ↔ (decide (y1.spawns.length < binSpawns) || v.binHeld y1) = true := by
    rw [Bool.or_eq_true, decide_eq_true_iff, State.binHeld_iff, show v.ctx y1.ctx = s.ctx (s.ctxOf g.pen) from congrArg s.ctx hctx]
    by_cases hfull : y1.spawns.length < 64
    · exact iff_of_true (.inl hfull) (.inl hfull)
    · exact or_congr_right (iff_and_self.mpr fun _ => Nat.not_lt.mp hfull)
  rw [show exec (.spawnSingle x) s = execSpawnSingle x s from rfl, execSpawnSingle]
  refine drive_qMeaning3 ha hb hd h ?_ rfl
  simp only [qVal_reads ha, qVal_reads hb, qVal_reads hd, hidx, hhigh, hpen, hf]
  refine (asStop_bind hok _).trans ?_
  rw [if_neg Bool.false_ne_true]
  refine (if_neg (Nat.not_le.mpr hroom)).trans ?_
  rw [if_congr hwaits rfl rfl]
  rfl

end

/-! ### What a bin launches (R49) -/

/-- A bin whose period has passed, or which is full, launches where its context goes on. -/
theorem exec_binTimerExpiry {s : State} {die c : Nat} {e : W64} {y : Bin} (hf : binFind (s.die die) c e = some y)
    (hgo : (s.ctx c).stopped = false) (hdue : y.first + 100 * (s.ctx c).bintm.toNat ≤ s.clk ∨ 64 ≤ y.spawns.length) :
    exec (.binTimerExpiry die c e) s = .next (s.launchBin die y) := by
  rw [show exec (.binTimerExpiry die c e) s = execBinTimerExpiry die c e s from rfl, execBinTimerExpiry, hf]
  dsimp only
  rw [hgo, if_neg Bool.false_ne_true, if_pos hdue]

theorem State.retryStall_ready {s : State} {gid : Nat} {why : Stall} {ok : Bool} (h : (s.group gid).stall = some why) (hok : ok = true) :
    s.retryStall gid why ok = s.updGroup gid (fun y => { y with stall := none }) := by
  rw [State.retryStall, h, hok, beq_self_eq_true]
  rfl

/-- The lane thread of a spawn, the i-th of those that a bin launches. -/
def binThread (s : State) (y : Bin) (p : Nat × Spawn) : Thread :=
  newThread (s.launch (s.task p.2.task).launch) (s.fresh + 1 + p.1) p.2.idx 1 p.1 p.2.task y.entry false (some p.2.g0)

/-- The lane group that a bin launches. -/
def binGroup (s : State) (y : Bin) : Group :=
  newGroup s.fresh (s.taskPen y.ctx y.launch 0 (y.spawns.flatMap (fun p => (s.task p.task).decls))) true
    (((List.range y.spawns.length).zip y.spawns).map (binThread s y))

theorem State.launchBin_groups (s : State) (die : Nat) (y : Bin) : (s.launchBin die y).groups = s.groups ++ [binGroup s y] := rfl

theorem State.launchBin_members (s : State) (die : Nat) (y : Bin) : ∃ m ∈ (s.launchBin die y).members, m.kind = .group (binGroup s y).id true :=
  ⟨_, List.mem_append_right _ (List.mem_singleton_self _), rfl⟩

theorem binGroup_spawns {α : Type} (s : State) (y : Bin) {f : Thread → α} {k : Spawn → α} (h : ∀ p, f (binThread s y p) = k p.2) :
    (binGroup s y).threads.map f = y.spawns.map k := by
  have hsnd : ((List.range y.spawns.length).zip y.spawns).map Prod.snd = y.spawns := List.map_snd_zip (by rw [List.length_range])
  conv_rhs => rw [← hsnd]
  show List.map f (List.map _ _) = _
  rw [List.map_map, List.map_map]
  exact List.map_congr_left fun p _ => h p

theorem binGroup_lanes (s : State) (y : Bin) : (binGroup s y).threads.map Thread.lane = List.range y.spawns.length := by
  show List.map Thread.lane (List.map _ _) = _
  rw [List.map_map]
  exact List.map_fst_zip (by rw [List.length_range])

theorem binGroup_start {s : State} {y : Bin} {w : Thread} (hw : w ∈ (binGroup s y).threads) : w.n = 1 ∧ w.pc = y.entry := by
  obtain ⟨p, -, rfl⟩ := List.mem_map.mp hw
  exact ⟨rfl, rfl⟩

theorem spawnBins : Says.SpawnBins := by
  intro s g r t x a b d
  refine ⟨fun ha hb hd h hlt hok => ⟨exec_spawnSingle_new ha hb hd h hlt hok, fun y => exec_spawnSingle_joins ha hb hd h hlt hok⟩,
    fun dd ctx e y => exec_binTimerExpiry, fun gid hstall hroom => ?_, fun dd y => ?_⟩
  · exact congrArg Host.Outcome.next (State.retryStall_ready hstall (decide_eq_true hroom))
  · exact ⟨binGroup s y, s.launchBin_groups dd y, rfl, binGroup_spawns s y fun _ => rfl, binGroup_spawns s y fun _ => rfl,
      binGroup_lanes s y, fun _ => binGroup_start, State.taskPen_launch, s.launchBin_members dd y⟩

/-- Settles O46: the strand of a range begins as R189 and R192 say (`exec_spawnRange`, `spForm_strand`); a spawn of one index begins
a bin or joins the one in use, and the lanes of a bin's group are its spawns in their order (`binGroup_spawns`). -/
theorem spawns : Obligations.Spawns := ⟨spawnOverRange, spawnBins⟩

end Sys2Proof.Machine
end

section
namespace Sys2Proof.Machine
set_option Elab.async false

/-! ### A magnitude cut toward zero (R11, R125) -/

theorem rtzScale_eq_floor (m : Nat) (d : Int) : rtzScale m d = ⌊(m : ℝ) * 2 ^ d⌋₊ := by
  obtain ⟨n, rfl | rfl⟩ := Int.eq_nat_or_neg d
  · have hcast : (m : ℝ) * 2 ^ (n : Int) = (m * 2 ^ n : Nat) := by push_cast; rw [zpow_natCast]
    rw [hcast, Nat.floor_natCast, rtzScale, if_pos (Int.natCast_nonneg n), Int.toNat_natCast]
  · have hcast : (m : ℝ) * 2 ^ (-(n : Int)) = m / (2 ^ n : Nat) := by rw [zpow_neg, zpow_natCast, ← div_eq_mul_inv]; push_cast; rfl
    rw [hcast, Nat.floor_div_eq_div, rtzScale]
    split
    next h =>
      obtain rfl : n = 0 := by omega
      simp
    next => rw [neg_neg, Int.toNat_natCast]

theorem ratOf_false_real (m : Nat) (e : Int) : ((ratOf false m e : ℚ) : ℝ) = m * 2 ^ e := by
  rw [ratOf_real, if_neg Bool.false_ne_true, one_mul]

theorem ratOf_le_iff {m k : Nat} {e h : Int} : ratOf false k h ≤ ratOf false m e ↔ (k : ℝ) * 2 ^ h ≤ m * 2 ^ e := by
  rw [← ratOf_false_real, ← ratOf_false_real, Rat.cast_le]

/-- The whole part of a magnitude. -/
theorem rtzScale_bounds (m : Nat) (e : Int) : (rtzScale m e : ℚ) ≤ ratOf false m e ∧ ratOf false m e < rtzScale m e + 1 := by
  have hle : (rtzScale m e : ℝ) ≤ (ratOf false m e : ℚ) := by
    rw [ratOf_false_real, rtzScale_eq_floor]
    exact Nat.floor_le (by positivity)
  have hlt : ((ratOf false m e : ℚ) : ℝ) < rtzScale m e + 1 := by
    rw [ratOf_false_real, rtzScale_eq_floor]
    exact Nat.lt_floor_add_one _
  exact ⟨by exact_mod_cast hle, by exact_mod_cast hlt⟩

section
variable {f : FFmt} {a b : ℝ} {m r k : Nat} {e q p : Int}

/-- A number of units is in its own units. -/
theorem FFmt.inUnits_self (hp : f.qmin ≤ p) (hk : k < 2 ^ (f.mw + 1)) (hge : f.qmin < p → 2 ^ f.mw ≤ k) : f.InUnits (k * 2 ^ p) p k := by
  have hU : (0 : ℝ) < 2 ^ p := by positivity
  refine ⟨hp, ?_, mul_lt_mul_of_pos_right (by exact_mod_cast hk) hU, fun h => mul_le_mul_of_nonneg_right (by exact_mod_cast hge h) hU.le⟩
  rw [mul_div_cancel_right₀ _ hU.ne']
  exact NearestEven.refl k

/-- Larger codes are those of larger magnitudes. -/
theorem FFmt.InUnits.le_of_codeAt_le (h : f.InUnits a q r) (g : f.InUnits b p k) (hc : f.codeAt r q ≤ f.codeAt k p) :
    (r : ℝ) * 2 ^ q ≤ k * 2 ^ p := by
  have hq := h.qmin_le
  have hp := g.qmin_le
  have h2 : 2 ^ (f.mw + 1) = 2 * 2 ^ f.mw := pow_succ' ..
  rw [FFmt.codeAt, FFmt.codeAt] at hc
  rcases lt_trichotomy q p with hlt | rfl | hgt
  · -- r is at most 2^(mw + 1) units, which are at most 2^mw of the larger ones
    have hrR : (r : ℝ) ≤ 2 * 2 ^ f.mw := by exact_mod_cast h2 ▸ h.le
    have hkR : (2 : ℝ) ^ f.mw ≤ k := by exact_mod_cast g.le_units (by omega)
    calc (r : ℝ) * 2 ^ q ≤ 2 * 2 ^ f.mw * 2 ^ q := mul_le_mul_of_nonneg_right hrR (by positivity)
      _ = 2 ^ f.mw * (2 * 2 ^ q) := by ring
      _ ≤ k * 2 ^ p := mul_le_mul hkR (two_zpow_double hlt) (by positivity) (by positivity)
  · exact mul_le_mul_of_nonneg_right (by exact_mod_cast Nat.le_of_add_le_add_right hc) (by positivity)
  · -- the codes can be equal only, at 2^(mw + 1) units of 2^p
    obtain ⟨i, hi⟩ := Int.le.dest hp
    obtain ⟨j, hj⟩ := Int.le.dest hgt.le
    have hr := h.le_units (by omega)
    have hk := g.le
    have hi' : (p - f.qmin).toNat = i := by omega
    have hj' : (q - f.qmin).toNat = i + j := by omega
    rw [hi', hj', Nat.add_mul] at hc
    have hj1 : j = 1 := by
      by_contra hne
      have : 2 * 2 ^ f.mw ≤ j * 2 ^ f.mw := Nat.mul_le_mul_right _ (by omega)
      have : 0 < 2 ^ f.mw := by positivity
      omega
    subst hj1
    have hrk : 2 * r ≤ k := by omega
    rw [← hj, Nat.cast_one, zpow_add_one₀ two_ne_zero]
    have hrkR : (2 : ℝ) * r ≤ k := by exact_mod_cast hrk
    calc (r : ℝ) * (2 ^ p * 2) = 2 * r * 2 ^ p := by ring
      _ ≤ k * 2 ^ p := mul_le_mul_of_nonneg_right hrkR (by positivity)

/-- A finite code of a format with NaN codes is that of its units, up to the largest finite one. -/
theorem FFmt.inUnits_decode (hnan : f.hasNan = true) {c : Nat} {t : Bool} (h : f.decode c = .fin t k p) :
    f.InUnits (k * 2 ^ p) p k ∧ f.codeAt k p ≤ f.maxCode := by
  obtain ⟨hk, hp⟩ := FFmt.decode_fin h
  have h2 : 2 ^ (f.mw + 1) = 2 * 2 ^ f.mw := pow_succ' ..
  unfold FFmt.decode at h
  extract_lets c' s' mag x fr at h
  have hsplit : fr + 2 ^ f.mw * x = mag := Nat.mod_add_div ..
  split at h
  · cases h
  split at h
  · cases h
  next hmax =>
  rw [hnan, Bool.true_and, decide_eq_true_eq, not_lt] at hmax
  split at h
  next hx =>
    injection h with _ hk' hp'
    subst hk' hp'
    refine ⟨FFmt.inUnits_self hp hk fun h => absurd h (lt_irrefl _), ?_⟩
    rw [hx, Nat.mul_zero] at hsplit
    simp only [FFmt.codeAt, sub_self, Int.toNat_zero]
    omega
  next hx =>
    injection h with _ hk' hp'
    subst hk' hp'
    refine ⟨FFmt.inUnits_self hp hk fun _ => Nat.le_add_right .., ?_⟩
    obtain ⟨y, hy⟩ := Nat.exists_eq_succ_of_ne_zero hx
    have hy' : (f.qmin + ((x - 1 : Nat) : Int) - f.qmin).toNat = y := by omega
    rw [FFmt.codeAt, hy']
    rw [hy, Nat.mul_succ, Nat.mul_comm] at hsplit
    omega

/-- The whole units of m · 2^e below it. -/
theorem FFmt.inUnits_cut (f : FFmt) (m : Nat) (e : Int) :
    let r := rtzScale m (e - f.unit m e)
    f.InUnits (r * 2 ^ f.unit m e) (f.unit m e) r ∧ (r : ℝ) * 2 ^ f.unit m e ≤ m * 2 ^ e := by
  intro r
  have hU : (0 : ℝ) < 2 ^ f.unit m e := by positivity
  have h := f.inUnits_unit m e
  have hr : r = ⌊(m : ℝ) * 2 ^ e / 2 ^ f.unit m e⌋₊ := by rw [← mul_zpow_sub_eq_div]; exact rtzScale_eq_floor ..
  have hle : (r : ℝ) * 2 ^ f.unit m e ≤ m * 2 ^ e := by
    rw [← le_div_iff₀ hU, hr]
    exact Nat.floor_le (by positivity)
  refine ⟨FFmt.inUnits_self h.qmin_le ?_ fun hq => ?_, hle⟩
  · have := lt_of_mul_lt_mul_right (hle.trans_lt h.lt) hU.le
    exact_mod_cast this
  · rw [hr]
    refine Nat.le_floor ?_
    rw [le_div_iff₀ hU]
    exact_mod_cast h.ge hq

/-- No value of the format up to m · 2^e is above the whole units. -/
theorem FFmt.le_cut (hk : k < 2 ^ (f.mw + 1)) (hp : f.qmin ≤ p) (hle : (k : ℝ) * 2 ^ p ≤ m * 2 ^ e) :
    (k : ℝ) * 2 ^ p ≤ rtzScale m (e - f.unit m e) * 2 ^ f.unit m e := by
  have hunits := (f.inUnits_cut m e).1
  have hU : (0 : ℝ) < 2 ^ f.unit m e := by positivity
  have hfloor := rtzScale_eq_floor m (e - f.unit m e)
  rw [mul_zpow_sub_eq_div] at hfloor
  generalize f.unit m e = q at *
  rcases le_or_gt q p with hqp | hpq
  · -- a whole number of units
    obtain ⟨n, rfl⟩ := Int.le.dest hqp
    have hshift : (k : ℝ) * 2 ^ (q + n) = (k * 2 ^ n : Nat) * 2 ^ q := by push_cast; rw [zpow_add₀ two_ne_zero, zpow_natCast]; ring
    rw [hshift] at hle ⊢
    refine mul_le_mul_of_nonneg_right ?_ hU.le
    rw [hfloor]
    exact_mod_cast Nat.le_floor ((le_div_iff₀ hU).mpr hle)
  · -- below 2^mw units
    calc (k : ℝ) * 2 ^ p ≤ 2 ^ (f.mw + 1) * 2 ^ p := mul_le_mul_of_nonneg_right (by exact_mod_cast hk.le) (by positivity)
      _ = 2 ^ f.mw * (2 * 2 ^ p) := by ring
      _ ≤ 2 ^ f.mw * 2 ^ q := mul_le_mul_of_nonneg_left (two_zpow_double hpq) (by positivity)
      _ ≤ _ := hunits.ge (by omega)

theorem FFmt.cut_eq (f : FFmt) (s : Bool) (m : Nat) (e : Int) :
    f.cut s m e = withSign f s (min (f.codeAt (rtzScale m (e - f.unit m e)) (f.unit m e)) f.maxCode) := by
  by_cases hm : m = 0
  · subst hm
    have hr : rtzScale 0 (e - f.qmin) = 0 := by unfold rtzScale; simp
    simp [FFmt.cut, FFmt.unit, FFmt.codeAt, hr]
  · simp only [FFmt.cut, FFmt.unit, FFmt.codeAt, if_neg hm]

/-- `FFmt.cut` gives the largest finite value of the format up to the magnitude, with the sign. -/
theorem FFmt.Sound.cut_largest (hf : f.Sound) (hnan : f.hasNan = true) (s : Bool) (m : Nat) (e : Int) :
    ∃ n q, f.decode (f.cut s m e) = .fin s n q ∧ ratOf false n q ≤ ratOf false m e
      ∧ ∀ c t k h, f.decode c = .fin t k h → ratOf false k h ≤ ratOf false m e → ratOf false k h ≤ ratOf false n q := by
  obtain ⟨hunits, hbelow⟩ := f.inUnits_cut m e
  simp only [ratOf_le_iff]
  rw [f.cut_eq]
  rcases le_or_gt (f.codeAt (rtzScale m (e - f.unit m e)) (f.unit m e)) f.maxCode with hle | hgt
  · obtain ⟨n, q, hdec, hval, -⟩ := hunits.decode hf s hle
    rw [Nat.min_eq_left hle, hdec]
    refine ⟨n, q, rfl, hval ▸ hbelow, fun c t k h hc hk => ?_⟩
    obtain ⟨hlt, hh⟩ := FFmt.decode_fin hc
    rw [hval]
    exact FFmt.le_cut hlt hh hk
  · have hnormal : f.maxCode / 2 ^ f.mw ≠ 0 := Nat.div_ne_zero_iff.mpr ⟨by positivity, hf.normal⟩
    have hN := hf.decode_withSign false le_rfl
    have hs := hf.decode_withSign s le_rfl
    rw [if_neg hnormal] at hN hs
    obtain ⟨hmax, hQ, hlo, hhi⟩ := hf.maxCode_eq hN
    have hlargest := FFmt.inUnits_self hQ hhi fun _ => hlo
    rw [Nat.min_eq_right hgt.le]
    refine ⟨_, _, hs, (hlargest.le_of_codeAt_le hunits (hmax ▸ hgt.le)).trans hbelow, fun c t k h hc _ => ?_⟩
    obtain ⟨hk, hcode⟩ := FFmt.inUnits_decode hnan hc
    exact hk.le_of_codeAt_le hlargest (hmax ▸ hcode)

theorem FFmt.Sound.cut_lt (hf : f.Sound) (s : Bool) (m : Nat) (e : Int) : f.cut s m e < 2 ^ f.width := by
  rw [f.cut_eq]
  exact FFmt.withSign_lt ((Nat.min_le_right ..).trans_lt hf.belowSign)

end

/-! ### What DRAIN makes of an element (R125) -/

/-- A value in a format that bounds an infinity and cuts a number. -/
def FFmt.narrowed (f : FFmt) : FVal → Nat
  | .nan _ => f.nan
  | .inf s => withSign f s f.maxCode
  | .fin s m e => f.cut s m e

theorem FFmt.Sound.narrowed_lt {f : FFmt} (hf : f.Sound) (hnan : f.nan < 2 ^ f.width) (v : FVal) : f.narrowed v < 2 ^ f.width := by
  cases v with
  | nan _ => exact hnan
  | inf s => exact FFmt.withSign_lt hf.belowSign
  | fin s m e => exact hf.cut_lt ..

/-- The narrower floating-point formats of DRAIN. -/
def drainFormats : List (DrainV × FFmt) := [(.bf16, BF16), (.f16, F16), (.e4m3, E4M3)]

theorem DrainV.elem_narrow {p : DrainV × FFmt} (hp : p ∈ drainFormats) (x : W32) : DrainV.elem p.1 x = p.2.narrowed (F32.decode x.toNat) := by
  simp only [drainFormats, List.mem_cons, List.not_mem_nil, or_false] at hp
  rcases hp with rfl | rfl | rfl <;> rfl

theorem drainFormats_sound {p : DrainV × FFmt} (hp : p ∈ drainFormats) :
    p.2.Sound ∧ p.2.hasNan = true ∧ p.2.nan < 2 ^ p.2.width ∧ p.2.width = 8 * DrainV.size p.1 := by
  simp only [drainFormats, List.mem_cons, List.not_mem_nil, or_false] at hp
  rcases hp with rfl | rfl | rfl <;> exact ⟨FFmt.sound_of_mem (by decide), by decide⟩

theorem DrainV.elem_narrow_lt {p : DrainV × FFmt} (hp : p ∈ drainFormats) (x : W32) : DrainV.elem p.1 x < 2 ^ p.2.width := by
  obtain ⟨hf, -, hnan, -⟩ := drainFormats_sound hp
  exact DrainV.elem_narrow hp x ▸ hf.narrowed_lt hnan _

theorem DrainV.elem_f32 (x : W32) : DrainV.elem .f32 x = if (F32.decode x.toNat).isNan then 0x7FC00000 else x.toNat := by
  rw [DrainV.elem]
  cases F32.decode x.toNat <;> rfl

theorem DrainV.elem_i8_lt (x : W32) : DrainV.elem .i8 x < 2 ^ 8 := by
  rw [DrainV.elem]
  split
  · decide
  · split <;> decide
  · dsimp only
    omega

theorem drainConverts : Says.DrainConverts := by
  intro x v
  have hv : F32.decode x.toNat = v := rfl
  clear_value v
  refine ⟨hv ▸ DrainV.elem_f32 x, fun p hp => ?_, ?_⟩
  · obtain ⟨hf, hnan, -⟩ := drainFormats_sound hp
    refine ⟨DrainV.elem_narrow_lt hp x, ?_⟩
    rw [DrainV.elem_narrow hp, hv]
    cases v with
    | nan _ => rfl
    | inf s => rfl
    | fin s m e => exact hf.cut_largest hnan s m e
  · cases v with
    | nan _ => simp only [DrainV.elem, hv]
    | inf s => simp only [DrainV.elem, hv]
    | fin s m e =>
      obtain ⟨hle, hlt⟩ := rtzScale_bounds m e
      exact ⟨rtzScale m e, hle, hlt, by simp only [DrainV.elem, hv]⟩

/-- What DRAIN writes for an element fits the format. -/
theorem DrainV.elem_lt (d : DrainV) (x : W32) : DrainV.elem d x < 2 ^ (8 * DrainV.size d) := by
  have hnarrow : ∀ f, (d, f) ∈ drainFormats → DrainV.elem d x < 2 ^ (8 * DrainV.size d) := fun f h => by
    obtain ⟨-, -, -, hw⟩ := drainFormats_sound h
    exact hw ▸ DrainV.elem_narrow_lt h x
  cases d with
  | f32 =>
    rw [DrainV.elem_f32]
    split
    · decide
    · exact x.isLt
  | bf16 => exact hnarrow BF16 (by decide)
  | f16 => exact hnarrow F16 (by decide)
  | e4m3 => exact hnarrow E4M3 (by decide)
  | i8 => exact DrainV.elem_i8_lt x

end Sys2Proof.Machine
end

section
namespace Sys2Proof.Machine
set_option Elab.async false

/-! ### A tile operation is registered and starts (R213, R216, R287, R297, R311; log 7) -/

theorem registration : Says.Registration := by
  intro s o rs
  refine ⟨_, ?_, List.mem_append_right _ (List.mem_singleton_self _), rfl, fun x hx hscr hlen => ?_, fun b hb hne => ?_, rfl⟩
  · show (List.map _ (List.map _ _ ++ _)) = _
    rw [List.map_append, List.map_map]
    refine congrArg (· ++ _) (List.map_congr_left fun q _ => ?_)
    rw [Function.comp]
    split <;> rfl
  · refine ⟨⟨some (o.pen.getD 0), x.addr / 128, (x.addr + x.len - 1) / 128 + 1, x.dst, false⟩, List.mem_flatMap.mpr ⟨x, hx, ?_⟩, rfl, rfl, rfl, rfl⟩
    rw [State.rangeLines, if_neg hlen.ne', if_pos hscr]
    exact List.mem_singleton_self _
  · rcases List.mem_append.mp hb with hb | hb
    · obtain ⟨a, ha, rfl⟩ := List.mem_map.mp hb
      refine ⟨a, ha, ?_⟩
      split <;> rfl
    · exact absurd (congrArg EngOp.id (List.mem_singleton.mp hb)) hne

section
variable {s : State} {o : EngOp} {p : Nat}

/-- An operation that is alone starts just where it may begin. -/
theorem exec_engineOpStart (hf : s.ops.find? (·.id == o.id) = some o) (hj : o.joint = none) :
    exec (.engineOpStart o.id) s = .next (if s.canStart o = true then
      { s.bump with ops := s.ops.map (fun q => if q.id = o.id then s.load q else q) } else s) := by
  show Host.Outcome.next (s.startOps o.id) = _
  simp only [State.startOps, hf, State.jointOps, hj, List.all_cons, List.all_nil, List.any_cons, List.any_nil, Bool.and_true, Bool.or_false,
    beq_iff_eq, eq_comm (a := o.id)]

/-! ### What a start reads (R217, R311 to R313) -/

theorem Memory.load_add (m : Memory) (a i j : Nat) : Memory.load m a (i + j) = Memory.load m a i + 2 ^ (8 * i) * Memory.load m (a + i) j := by
  induction i generalizing a with
  | zero => simp [Memory.load]
  | succ i ih =>
    rw [Nat.succ_add, Memory.load, Memory.load, ih, Nat.add_assoc a 1 i, Nat.add_comm 1 i, Nat.mul_succ 8 i, Nat.pow_add]
    ring

/-- The piece of [a, a + n) in the line k after that of a. -/
def linePiece (a n k : Nat) : Nat × Nat :=
  let lo := max a ((a / 128 + k) * 128)
  (lo, min (a + n) ((a / 128 + k + 1) * 128) - lo)

theorem pieces_lines {a n : Nat} (hn : n ≠ 0) : pieces 128 a n = (List.range' 0 ((a + n - 1) / 128 - a / 128 + 1)).map (linePiece a n) := by
  rw [pieces, if_neg hn, List.range_eq_range']
  rfl

/-- K pieces from line i on, read in order from a scratch none of whose lines is bad, are the bytes up to their end. -/
theorem State.engReads_lines (ho : o.pen = some p) (hbad : (s.pen p).bad = []) {a n : Nat} (K i : Nat)
    (hi : i + K ≤ (a + n - 1) / 128 - a / 128 + 1) :
    s.engReads o true ((List.range' i K).map (linePiece a n))
      = (Memory.load (s.pen p).scratch (linePiece a n i).1 (min (a + n) ((a / 128 + i + K) * 128) - (linePiece a n i).1), none) := by
  induction K generalizing i with
  | zero =>
    rw [show min (a + n) ((a / 128 + i + 0) * 128) - (linePiece a n i).1 = 0 by dsimp only [linePiece]; omega]
    rfl
  | succ K ih =>
    have hloc : o.loc true (linePiece a n i).1 = .scr p (linePiece a n i).1 := by rw [EngOp.loc, if_pos rfl, ho]; rfl
    have hsound : s.soundLoc (.scr p (linePiece a n i).1) (linePiece a n i).2 = true := by rw [State.soundLoc, Pen.sound, hbad]; rfl
    rw [List.range'_succ, List.map_cons, State.engReads, ih (i + 1) (by omega)]
    simp only [hloc, hsound, if_true, State.readLoc]
    refine congrArg (·, none) ?_
    dsimp only [linePiece]
    rcases Nat.eq_zero_or_pos K with rfl | hK
    · rw [show min (a + n) ((a / 128 + (i + 1) + 0) * 128) - max a ((a / 128 + (i + 1)) * 128) = 0 by omega]
      exact Nat.add_zero _
    · rw [show max a ((a / 128 + (i + 1)) * 128) = max a ((a / 128 + i) * 128)
          + (min (a + n) ((a / 128 + i + 1) * 128) - max a ((a / 128 + i) * 128)) by omega, ← Memory.load_add]
      congr 1
      omega

/-- A range read from a scratch none of whose lines is bad gives its bytes. -/
theorem State.engRead_scratch (ho : o.pen = some p) (hbad : (s.pen p).bad = []) (a n : Nat) :
    s.engRead o true a n = (Memory.load (s.pen p).scratch a n, none) := by
  by_cases hn : n = 0
  · subst hn; rfl
  · rw [State.engRead, pieces_lines hn, State.engReads_lines ho hbad _ _ (Nat.zero_add _).le]
    dsimp only [linePiece]
    rw [show max a ((a / 128 + 0) * 128) = a by omega,
      show min (a + n) ((a / 128 + 0 + ((a + n - 1) / 128 - a / 128 + 1)) * 128) - a = n by omega]

theorem tileBytes_elem {n i : Nat} {f : Nat → Nat} (hi : i < 4096) (hf : f i < 2 ^ (8 * n)) : tileBytes n f / 2 ^ (8 * n * i) % 2 ^ (8 * n) = f i :=
  (pack_range_elem f hi).trans (Nat.mod_eq_of_lt hf)

end

/-! ### A tile operation ends (R213, R224, R287; log 7) -/

section
variable {s u v : State} {o : EngOp} {p t : Nat}

/-- An operation of tile t of pen p, not of an MMA, that is alone, has started, and has read no bad line. -/
structure Ending (s : State) (o : EngOp) (p t : Nat) : Prop where
  found : s.ops.find? (·.id == o.id) = some o
  matrix : o.kind.isMatrix = true
  stepless : ∀ m, o.kind ≠ .mma m
  alone : o.joint = none
  started : o.started = true
  cancelled : o.cancelled = false
  resident : s.engResident o = true
  sound : o.bad = none
  pen : o.pen = some p
  tile : o.tile = some t
  known : p ∈ s.pens.map Pen.id

theorem State.pen_updPen_updPen {q : Nat} {f g : Pen → Pen} (hf : ∀ x, (f x).id = x.id) (hg : ∀ x, (g x).id = x.id) (hp : p ∈ s.pens.map Pen.id) :
    ((s.updPen p f).updPen p g).pen q = if q = p then g (f (s.pen q)) else s.pen q := by
  rw [State.pen_updPen hg (by rwa [State.updPen_ids hf]), State.pen_updPen hf hp]
  split <;> rfl

theorem Ending.ended (h : Ending s o p t) (hw : s.engWrites o = (u, none)) (hp : p ∈ u.pens.map Pen.id) :
    MmaEnded u (s.completeOp o.id) o.id p t := by
  have hmatrix := h.matrix
  simp only [State.completeOp, h.found, hw, h.sound, h.tile, h.pen, h.cancelled, Option.orElse_none, Option.isSome_none, Bool.or_false,
    Bool.false_and, Bool.false_eq_true, if_false]
  split
  next hk => rw [hk] at hmatrix; cases hmatrix
  next hk => rw [hk] at hmatrix; cases hmatrix
  refine ⟨rfl, rfl, (State.updPen_ids fun _ => rfl).trans (State.updPen_ids fun _ => rfl), fun q => ?_,
    _, fun y hy => Thread.opDone_exited (by rw [Thread.deliver_status]; exact hy), rfl⟩
  rw [State.pen_updPen_updPen]
  · split <;> rfl
  · exact fun _ => rfl
  · exact fun _ => rfl
  · exact hp

/-- Nothing is left to do before the completion. -/
theorem Ending.complete (h : Ending s o p t) : s.complete o.id = s.completeOp o.id := by
  have hcan : s.canComplete o = true := by
    have hmatrix := h.matrix
    simp only [State.canComplete, h.cancelled, Bool.false_eq_true, if_false]
    split
    next hk => rw [hk] at hmatrix; cases hmatrix
    · simp [State.jointOps, h.alone, h.started, h.resident]
  simp only [State.complete, h.found, hcan, h.cancelled, State.jointOps, h.alone, Bool.not_true, Bool.false_eq_true, if_false, List.foldl_cons,
    List.foldl_nil]
  split
  next m hk => exact absurd hk (h.stepless m)
  next => rfl

/-- The operation ends, and its pen is as its writes have left it, with the tile's last result; a launch that has a thread left goes on. -/
theorem Ending.exec_completion (h : Ending s o p t) {f : Pen → Pen} (hw : s.engWrites o = (s.updPen p f, none)) (hid : ∀ x, (f x).id = x.id)
    (hl : ∀ x, (f x).launch = x.launch)
    (hlive : ∃ q ∈ s.groups, q.pen ∈ s.pens.map Pen.id ∧ (s.pen q.pen).launch = o.launch ∧ ∃ y ∈ q.threads, y.status ≠ .exited) :
    ∃ u : State, Machine.exec (.engineOpCompletion o.id) s = .next u ∧ o.id ∉ u.ops.map EngOp.id ∧ u.mem = s.mem
      ∧ u.pen p = endPen t (f (s.pen p)) := by
  have hids : (s.updPen p f).pens.map Pen.id = s.pens.map Pen.id := State.updPen_ids hid
  have hdone := h.ended hw (hids ▸ h.known)
  have hpen : ∀ q, ((s.completeOp o.id).pen q) = if q = p then endPen t (f (s.pen q)) else s.pen q := fun q => by
    rw [hdone.pen, State.pen_updPen hid h.known]
    split <;> rfl
  have hgoesOn : (s.completeOp o.id).tryFinish o.launch = s.completeOp o.id := by
    obtain ⟨g, hg, hgp, hgl, y, hy, hys⟩ := hlive
    obtain ⟨k, hk, hgroups⟩ := hdone.threads
    refine State.tryFinish_of_thread ⟨{ g with threads := g.threads.map k }, ?_, ?_, ?_, _, List.mem_map_of_mem hy, hk y hys⟩
    · rw [hgroups]
      exact List.mem_map_of_mem (f := fun g : Group => { g with threads := g.threads.map k }) hg
    · rw [hdone.ids, hids]; exact hgp
    · rw [hpen]
      split
      · exact (hl _).trans hgl
      · exact hgl
  refine ⟨s.completeOp o.id, ?_, ?_, hdone.mem, (hpen p).trans (if_pos rfl)⟩
  · show Host.Outcome.next _ = _
    rw [h.found]
    show Host.Outcome.next ((s.complete o.id).tryFinish o.launch) = _
    rw [h.complete, hgoesOn]
  · rw [hdone.ops]; simp

/-! ### What each tile operation writes (R311 to R313) -/

theorem Ending.engWrites_accld (h : Ending s o p t) {scr : Bool} {a : W64} (hk : o.kind = .accld scr a) :
    s.engWrites o = (s.updPen p (fun x => x.setTile t (fun i => BitVec.ofNat 32 (elem 32 i o.data))), none) := by
  simp only [State.engWrites, hk, h.cancelled, h.pen, h.tile, EngOp.wrote, Option.getD_some, Bool.false_and, Bool.false_eq_true, if_false,
    Bool.not_false, Bool.true_or, if_true]

/-- An operation of this kind writes n bytes of scratch from a on. -/
def Stores (k : OpKind) (a : W64) (n : Nat) : Prop := k = .accst true a ∧ n = 16384 ∨ ∃ v, k = .drain v true a ∧ n = 4096 * DrainV.size v

section
variable {k : OpKind} {a : W64} {n n' : Nat}

theorem Stores.exists (h : k = .accst true a ∨ ∃ v, k = .drain v true a) : ∃ n, Stores k a n := by
  rcases h with h | ⟨v, h⟩
  · exact ⟨_, .inl ⟨h, rfl⟩⟩
  · exact ⟨_, .inr ⟨v, h, rfl⟩⟩

theorem Stores.unique (h : Stores k a n) (h' : Stores k a n') : n = n' := by
  rcases h with ⟨rfl, rfl⟩ | ⟨v, rfl, rfl⟩
  · rcases h' with ⟨-, rfl⟩ | ⟨w, hk, -⟩
    · rfl
    · cases hk
  · rcases h' with ⟨hk, -⟩ | ⟨w, hk, rfl⟩
    · cases hk
    · cases hk; rfl

theorem Stores.ne_accld (h : Stores k a n) : k ≠ .accld true a := by
  rcases h with ⟨rfl, -⟩ | ⟨v, rfl, -⟩ <;> exact OpKind.noConfusion

theorem tileMove_isMatrix (h : k = .accld true a ∨ k = .accst true a ∨ ∃ v, k = .drain v true a) :
    k.isMatrix = true ∧ ∀ m, k ≠ .mma m := by
  rcases h with rfl | rfl | ⟨v, rfl⟩ <;> exact ⟨rfl, fun _ => OpKind.noConfusion⟩

end

theorem endPen_last (t : Nat) (x : Pen) : (t, 1) ∈ (endPen t x).last := List.mem_append_right _ (List.mem_singleton_self _)

/-- The pen into whose scratch n bytes of a value have been written. -/
def scratchPen (a n v : Nat) (x : Pen) : Pen :=
  { x with scratch := (lineWrites a n v).foldl (fun m q => Memory.store m q.1 q.2.1 q.2.2) x.scratch }

theorem State.tileOut_scratch (ho : o.pen = some p) (hp : p ∈ s.pens.map Pen.id) (hbad : (s.pen p).bad = []) (hc : o.cancelled = false)
    (hov : o.overlap = false) (a : W64) (n : Nat) : s.tileOut o true a n = (s.updPen p (scratchPen a.toNat (4096 * n) o.data), none) := by
  simp only [State.tileOut, hc, hov, Bool.false_eq_true, if_false]
  rw [State.engWrite_scratch ho hp hbad]
  simp only [List.flatMap_cons, List.flatMap_nil, List.append_nil]
  rfl

theorem Ending.engWrites_stores (h : Ending s o p t) (hbad : (s.pen p).bad = []) (hov : o.overlap = false) {a : W64} {n : Nat}
    (hk : Stores o.kind a n) : s.engWrites o = (s.updPen p (scratchPen a.toNat n o.data), none) := by
  have hout := State.tileOut_scratch h.pen h.known hbad h.cancelled hov a
  rcases hk with ⟨hk, rfl⟩ | ⟨v, hk, rfl⟩ <;>
    simp only [State.engWrites, hk, h.cancelled, Bool.false_and, Bool.false_eq_true, if_false, hout]

/-- The bytes that a tile operation has written, and those it has left. -/
theorem get_scratchPen {x : Pen} (hx : Memory.wf x.scratch = true) (a n v : Nat) :
    (∀ b < n, (Memory.get (scratchPen a n v x).scratch (a + b)).toNat = v / 2 ^ (8 * b) % 2 ^ 8)
      ∧ ∀ b, b < a ∨ a + n ≤ b → Memory.get (scratchPen a n v x).scratch b = Memory.get x.scratch b := by
  have hget : ∀ b, Memory.get (scratchPen a n v x).scratch b = Memory.get (Memory.store x.scratch a n v) b := Memory.get_storePieces hx a n v
  refine ⟨fun b hb => ?_, fun b hb => ?_⟩
  · rw [hget, Memory.get_store_inside hx _ _ _ _ hb, BitVec.toNat_ofNat, show (2 : Nat) ^ (8 * b) = 256 ^ b from Nat.pow_mul 2 8 b]
  · rw [hget, Memory.get_store_outside hx _ _ _ _ hb]

end

theorem engineOperations : Says.EngineOperations := by
  refine ⟨fun s o hf hj hcan => ⟨?_, fun a p hk hp hbad => ?_, fun a p t hk hp ht i hi => ?_, fun v a p t hk hp ht i hi => ?_⟩,
    fun s o p t a hf hj hst hc hres hb hov hp ht hk hpen hbad hlive hm => ?_, fun s o q hf hj hk ht hq hqp hqt => ?_,
    fun s gid => ⟨fun hstall hroom => ?_, fun hstall hroom => ?_⟩⟩
  · rw [exec_engineOpStart hf hj, if_pos hcan]
  · simp only [State.load, hk, State.engRead_scratch hp hbad]
  · simp only [State.load, hk, hp, ht, Option.getD_some]
    exact tileBytes_elem (n := 4) hi (BitVec.isLt _)
  · simp only [State.load, hk, hp, ht, Option.getD_some]
    exact tileBytes_elem hi (DrainV.elem_lt v _)
  · obtain ⟨hmatrix, hno⟩ := tileMove_isMatrix hk
    have hend : Ending s o p t := ⟨hf, hmatrix, hno, hj, hst, hc, hres, hb, hp, ht, hpen⟩
    rcases hk with hk | hk
    · obtain ⟨u, he, hops, hmem, hu⟩ := hend.exec_completion (hend.engWrites_accld hk) (fun _ => rfl) (fun _ => rfl) hlive
      have htile : ∀ k, ∀ i < 4096, (u.pen p).tile k i = if k = t then BitVec.ofNat 32 (elem 32 i o.data) else (s.pen p).tile k i :=
        fun k i hi => hu ▸ Pen.tile_setTile (s.pen p) t _ k hi
      exact ⟨u, he, hops, hmem, hu ▸ endPen_last .., fun _ => ⟨fun i hi => (htile t i hi).trans (if_pos rfl),
        fun k hk i hi => (htile k i hi).trans (if_neg hk), hu ▸ rfl⟩, fun n hn => absurd hk (Stores.ne_accld hn)⟩
    · obtain ⟨n, hn⟩ := Stores.exists hk
      obtain ⟨u, he, hops, hmem, hu⟩ := hend.exec_completion (hend.engWrites_stores hbad hov hn) (fun _ => rfl) (fun _ => rfl) hlive
      obtain ⟨hin, hout⟩ := get_scratchPen (State.Formed.penScratch (p := p) hm) a.toNat n o.data
      refine ⟨u, he, hops, hmem, hu ▸ endPen_last .., fun hacc => absurd hacc hn.ne_accld, fun n' hn' => ?_⟩
      obtain rfl := hn.unique hn'
      rw [hu]
      exact ⟨hin, hout, rfl⟩
  · rw [exec_engineOpStart hf hj, State.canStart_accz hk ht hq hqp hqt, if_neg Bool.false_ne_true]
  · exact congrArg Host.Outcome.next (State.retryStall_ready hstall hroom)
  · exact congrArg Host.Outcome.next (State.retryStall_ready hstall (decide_eq_true hroom))

/-- Settles O36: registration adds the operation (`registration`); a start reads (`State.engRead_scratch`, `tileBytes_elem`) and a completion
writes the tile or the scratch (`Ending.exec_completion`); DRAIN cuts toward zero (`FFmt.Sound.cut_largest`). -/
theorem operationsRun : Obligations.OperationsRun := ⟨registration, engineOperations, drainConverts⟩

end Sys2Proof.Machine
end

section
namespace Sys2Proof.Machine
set_option Elab.async false

/-! ### Read-modify-writes (R231 to R235) -/

/-- A thread whose launch is no gang launch does not stop with one (R408). -/
theorem State.gangStop_of_none {s : State} {t : Thread} (h : (s.threadLaunch t).gang = none) (pen : Nat) (l : Loc) (off : Nat) :
    s.gangStop pen t l off = false := by
  have h : (s.launch (s.task t.task).launch).gang = none := h
  unfold State.gangStop
  simp only [h]

theorem Thread.owing_lane (t : Thread) (s : State) (g : Group) (r : Run) (flg : BitVec 4) (ws : List (Nat × Form)) (fl : Fpx)
    (q : Option W64) : (t.owing s g r flg ws fl q).lane = t.lane := by
  rw [Thread.owing, Thread.owe_eq]

theorem goForms_one (d : Opd) (f : Form) : goForms d [f] = [(Opd.key d, f)] := rfl
theorem goForms_two (d : Opd) (f f' : Form) : goForms d [f, f'] = [(Opd.key d, f), (Opd.key d + 1, f')] := rfl

/-- What a read-modify-write leaves at its location, where it stores a value, or none. -/
def State.storeSome (s : State) (l : Loc) (n : Nat) (v : Option Nat) : State :=
  match v with | some v => s.writeLoc l n v | none => s

theorem State.storeSome_ite (s : State) (l : Loc) (n v : Nat) (p : Prop) [Decidable p] :
    s.storeSome l n (if p then some v else none) = if p then s.writeLoc l n v else s := by
  split <;> rfl

section
variable {s w : State} {g : Group} {r : Run} {t : Thread} {x : FmtQ} {a : W64} {l : Loc} {i : Instr} {n : Nat} {gang : Bool}
  {f : Env → Thread → Nat → Option Nat × Fpx} {out : Nat → List Form}

theorem rmwMeaning_act (ha : t.reads g r .int x.a = .u a) (hgang : (w.threadLaunch t).gang = none)
    (hl : w.threadAccess (envOf g r) t (spaceOfWm x.wm) a n accRmw (some 0) = .ok l) :
    (rmwMeaning x n gang f out).act w (envOf g r) t
      = .ok (oweRes (w.storeSome l n (f (envOf g r) t (w.readLoc l n)).1) (envOf g r) t x.flg (goForms x.d (out (w.readLoc l n)))
          (f (envOf g r) t (w.readLoc l n)).2) := by
  have hval : (baseForm (envOf g r) t x.a).val 0 = a := congrArg (Form.val · 0) ha
  simp only [rmwMeaning, qLoc, hval]
  rw [asStop_bind hl, State.gangStop_of_none hgang, Bool.and_false]
  rfl

/-- One access: what it reads is owed, and what it leaves is written, in the step of the issue (R231; log 6). -/
theorem rmw_owes (ha : t.reads g r .int x.a = .u a) (hgang : (s.threadLaunch t).gang = none) (hl : g.lanes = true)
    (h : Performs s g r t i x.gd) (hr : Reaches s g r t (spaceOfWm x.wm) a n accRmw (some 0) l) :
    drive i (fun _ => false) (rmwMeaning x n gang f out) s
      = (s.bump.storeSome l n (f (envOf g r) t (s.readLoc l n)).1).owes g r t x.flg (goForms x.d (out (s.readLoc l n)))
          (f (envOf g r) t (s.readLoc l n)).2 := by
  obtain ⟨⟨l0, h0⟩, h1⟩ := hr
  have hdrawn : s.drawn g = s.bump := if_pos hl
  rw [hdrawn] at h1
  refine drive_nextAny (m := rmwMeaning x n gang f out) h rfl rfl (fun hs => absurd (hl.symm.trans hs) (by decide)) rfl
    ⟨_, rmwMeaning_act ha hgang h0⟩ ?_ (Thread.owing_lane t _ g r x.flg _ _ none)
  rw [hdrawn]
  exact rmwMeaning_act (w := s.bump) ha hgang h1

end

theorem sextN_toInt (a : W64) : sextN a.toNat 64 = a.toInt := by
  rw [sextN_eq_bmod _ (by decide), BitVec.toInt_eq_toNat_bmod]

/-- The lesser, and the greater, of two words read as signed numbers; of equal ones it is either. -/
theorem signed_min_max (a b : W64) :
    (if a.toInt ≤ b.toInt then a else b) = (if a.slt b then a else b) ∧ (if b.toInt ≤ a.toInt then a else b) = (if a.slt b then b else a) := by
  simp only [BitVec.slt_iff_toInt_lt]
  rcases lt_trichotomy a.toInt b.toInt with h | h | h
  · simp [h, h.le, not_le.mpr h]
  · simp [BitVec.eq_of_toInt_eq h]
  · simp [h.le, not_le.mpr h, not_lt.mpr h.le]

/-- The values of R232, on words. -/
theorem AtomOp.apply_toNat (op : AtomOp) (old b : W64) : AtomOp.apply op old.toNat b.toNat = (atomValue op old b).toNat := by
  cases op with
  | add32 => simp only [AtomOp.apply, atomValue, BitVec.toNat_setWidth, BitVec.toNat_add]; omega
  | mins => simp only [AtomOp.apply, atomValue, sextN_toInt, ← (signed_min_max old b).1, apply_ite BitVec.toNat]
  | maxs => simp only [AtomOp.apply, atomValue, sextN_toInt, ge_iff_le, ← (signed_min_max old b).2, apply_ite BitVec.toNat]
  | minn => simp only [AtomOp.apply, atomValue, apply_ite BitVec.toNat, BitVec.lt_def]; split <;> omega
  | maxn => simp only [AtomOp.apply, atomValue, apply_ite BitVec.toNat, BitVec.lt_def]; split <;> omega
  | _ => rfl

theorem AtomOp.size_le (op : AtomOp) : AtomOp.size op ≤ 8 := by cases op <;> decide

theorem toNat_readLoc {s : State} {l : Loc} {n : Nat} (hn : n ≤ 8) : (BitVec.ofNat 64 (s.readLoc l n)).toNat = s.readLoc l n := by
  rw [BitVec.toNat_ofNat]
  refine Nat.mod_eq_of_lt ((s.readLoc_lt l n).trans_le ?_)
  calc 256 ^ n ≤ 256 ^ 8 := Nat.pow_le_pow_right (by decide) hn
    _ = 2 ^ 64 := by decide

/-- The elements of a pair of 16-bit sums, where they lie (R108, R234). -/
theorem AtomfT.apply_bf16x2 (old b : Nat) : AtomfT.apply .bf16x2 old b
    = ((BF16.add (old % 2 ^ 16) (b % 2 ^ 16)).1 % 2 ^ 16 + 2 ^ 16 * ((BF16.add (old / 2 ^ 16 % 2 ^ 16) (b / 2 ^ 16 % 2 ^ 16)).1 % 2 ^ 16),
      (BF16.add (old % 2 ^ 16) (b % 2 ^ 16)).2 ||| (BF16.add (old / 2 ^ 16 % 2 ^ 16) (b / 2 ^ 16 % 2 ^ 16)).2) := by
  simp [AtomfT.apply, elem, pack]

/-- Settles O25: each of the three is one read-modify-write (`rmw_owes`), of the values of R232 (`AtomOp.apply_toNat`), R233 and R234. -/
theorem atomics : Obligations.Atomics := by
  intro s g r t x a b l ha hgang hl
  refine ⟨fun op h hr hb => ?_, fun w h hr => ?_, fun ty h hr hb => ?_⟩
  · have hval : (baseForm (envOf g r) t x.b).val 0 = b := congrArg (Form.val · 0) hb
    have hnew := AtomOp.apply_toNat op (BitVec.ofNat 64 (s.readLoc l (AtomOp.size op))) b
    rw [toNat_readLoc (AtomOp.size_le op)] at hnew
    rw [show exec (.atom op x) s = execAtom op x s from rfl, execAtom, rmw_owes ha hgang hl h hr]
    simp only [hval, hnew, goForms_one]
    rfl
  · rw [show exec (.cas w x) s = execCas w x s from rfl, execCas, rmw_owes ha hgang hl h hr, State.storeSome_ite]
    cases w with
    | i128 => simp only [CasW.size, if_true, goForms_two, ofNat_mod_word]; rfl
    | i64 => rfl
    | i32 => rfl
  · have hval : typedVal (AtomfT.sty ty) (envOf g r) t x.b 0 = b.toNat := congrArg (fun f => (Form.val f 0).toNat) hb
    rw [show exec (.atomf ty x) s = execAtomf ty x s from rfl, execAtomf, rmw_owes ha hgang hl h hr, hval]
    cases ty with
    | bf16x2 => rw [AtomfT.apply_bf16x2]; rfl
    | f32 => rfl
    | f64 => rfl

end Sys2Proof.Machine
end

section
namespace Sys2Proof.Machine
set_option Elab.async false

/-! ### WAITA and WAKE (R237, R238) -/

section
variable {s : State} {g : Group} {r : Run} {t : Thread} {x : FmtQ} {a b : W64} {l : Loc}

/-- The monitor of a wait that begins in s: the time and the place in the order of waiters are those of the read (R236, R237; log 6). -/
def State.monitor (s : State) (l : Loc) (ea : W64) (sp : Space) (b : W64) : Monitor :=
  { loc := l, ea := ea, space := sp, b := b, order := s.fresh, start := s.clk, op := s.fresh }

theorem exec_waita (ha : t.reads g r .int x.a = .u a) (hb : t.reads g r .int x.b = .u b) (hgang : (s.threadLaunch t).gang = none)
    (h : Performs s g r t (.waita x) x.gd) (hlast : r.pos + 1 = r.words.length)
    (hl : s.threadAccess (envOf g r) t (spaceOfWm x.wm) a 8 accWaita = .ok l) :
    exec (.waita x) s = if s.readLoc l 8 ≠ b.toNat then s.owes g r t x.flg [(Opd.key x.d, .u 0)]
      else .next (s.bump.performLeave g r ((t.owing s g r x.flg [(Opd.key x.d, .u 0)]).waits g r
        (.waita (s.monitor l a (spaceOfWm x.wm) b)))) := by
  have hva : (baseForm (envOf g r) t x.a).val 0 = a := congrArg (Form.val · 0) ha
  have hvb : (baseForm (envOf g r) t x.b).val 0 = b := congrArg (Form.val · 0) hb
  rw [show exec (.waita x) s = execWaita x s from rfl, execWaita]
  by_cases hne : s.readLoc l 8 ≠ b.toNat
  · rw [if_pos hne]
    refine drive_next h (envOf_last hlast) rfl (fun _ => srcA_reads2 ha hb) rfl ?_ (Thread.owing_lane t s g r x.flg [(Opd.key x.d, .u 0)] 0 none)
    simp only [hva, hvb]
    rw [asStop_bind hl, State.gangStop_of_none hgang, if_neg Bool.false_ne_true, if_pos hne]
    rfl
  · rw [if_neg hne]
    refine drive_leave h (envOf_last hlast) rfl (fun _ => srcA_reads2 ha hb) rfl ?_
    simp only [hva, hvb]
    rw [asStop_bind hl, State.gangStop_of_none hgang, if_neg Bool.false_ne_true, if_neg hne]
    rfl

/-- WAKE ends the waits of the oldest waiters, and gives their number. -/
theorem exec_wake (ha : t.reads g r .int x.a = .u a) (hb : t.reads g r .int x.b = .u b) (h : Performs s g r t (.wake x) x.gd)
    (hl : wakeLoc s (envOf g r) t x = .ok l) :
    exec (.wake x) s = .next ((s.wake (s.ctxOf g.pen) l b.toNat).1.perform g r
      (t.result x.d (.u (BitVec.ofNat 64 (min b.toNat (s.waitersAt (s.ctxOf g.pen) l).length))))) := by
  have hvb : (baseForm (envOf g r) t x.b).val 0 = b := congrArg (Form.val · 0) hb
  have hcount : (s.wake (s.ctxOf g.pen) l b.toNat).2 = min b.toNat (s.waitersAt (s.ctxOf g.pen) l).length := List.length_take
  rw [show exec (.wake x) s = execWake x s from rfl, execWake, ← hcount]
  refine drive_next h rfl rfl (fun _ => srcA_reads2 ha hb) rfl ?_ (Thread.result_lane ..)
  simp only [hvb]
  rw [asStop_bind hl]
  rfl

end

/-! ### The end of a wait (R237) -/

section
variable {s : State} {gid lane : Nat} {u : Thread} {m : Monitor}

theorem exec_waitaTimeout (hu : (s.group gid).thread lane = some u) (hm : u.status = .waita m) (hres : (s.group gid).resident s = true)
    (hto : u.wto ≠ 0) (hover : m.start + 1000 * u.wto.toNat ≤ s.clk) :
    exec (.waitaTimeout gid lane) s = .next (s.updThread gid lane (Thread.endWaita · 2)) := by
  rw [show exec (.waitaTimeout gid lane) s = execWaitaTimeout gid lane s from rfl, execWaitaTimeout]
  simp only [hu, hm]
  rw [if_pos ⟨hto, by omega, hres⟩]

theorem exec_waitaDeviceWake (hres : (s.group gid).resident s = true) :
    exec (.waitaDeviceWake gid lane) s = .next (s.updThread gid lane (Thread.endWaita · 3)) :=
  congrArg Host.Outcome.next (if_pos hres)

end

/-- Registers that all take the same value. -/
theorem RegFile.get_foldl_const {f : Form} {ks : List Nat} {k : Nat} (h : k ∈ ks) (r : RegFile) :
    ((ks.map fun j => (j, f)).foldl (fun (r : RegFile) w => r.set w.1 w.2) r).get k = f := by
  induction ks using List.reverseRecOn with
  | nil => cases h
  | append_singleton ks j ih =>
    rw [List.map_append, List.foldl_append]
    show (RegFile.set _ j f).get k = f
    rw [RegFile.get_set]
    split
    next => rfl
    next hj => exact ih ((List.mem_append.mp h).resolve_right fun hk => hj (List.mem_singleton.mp hk).symm)

section
variable {u : Thread} {m : Monitor} {p : Pend} {op : Nat}

/-- The delivery of an operation found in flight whose flag no other names: `Thread.deliver_alone` of the first of its number. -/
theorem Thread.deliver_found (hp : u.pend.find? (fun q => q.op == op) = some p) (hflag : ∀ q ∈ u.pend, q.op ≠ op → q.flag ≠ p.flag)
    (ws : List (Nat × Form)) :
    u.deliver op ws = { u with
      pend := u.pend.filter (fun q => q.op != op), fpx := u.fpx ||| p.fpx
      regs := (u.regs.landAll (u.pend.filter (fun q => q.op != op)) [] op (p.forms ws)).settle p.key
      flags := if p.flag < 12 then u.flags &&& ~~~(BitVec.ofNat 12 (2 ^ p.flag)) else u.flags } := by
  have hsh : (u.pend.filter (fun q => q.op != op)).any (fun q => q.flag == p.flag) = false := by
    simpa using hflag
  rw [Thread.deliver, hp]
  simp only [hsh, Bool.and_false, Bool.false_eq_true, if_false]
  rfl

/-- The status that ends a wait, where the operation owes it (R237). -/
theorem Thread.endWaita_eq (hm : u.status = .waita m) (hp : u.pend.find? (fun q => q.op == m.op) = some p) (st : W64) :
    u.endWaita st = { u.deliver m.op ((p.writes.map Prod.fst).map fun k => (k, .u st)) with status := .ready } := by
  unfold Thread.endWaita
  simp only [hm, hp, List.map_map]
  rfl

theorem Thread.endWaita_get {st : W64} {k : Nat} (hm : u.status = .waita m) (hp : u.pend.find? (fun q => q.op == m.op) = some p)
    (hmixed : p.mixed = none) (hflag : ∀ q ∈ u.pend, q.op ≠ m.op → q.flag ≠ p.flag) (hk : k ∈ p.writes.map Prod.fst)
    (hother : ∀ q ∈ u.pend, q.op ≠ m.op → ∀ v ∈ q.writes, v.1 ≠ k) (hlate : ∀ v ∈ u.regs.late, v.1 ≠ k) :
    (u.endWaita st).regs.get k = .u st := by
  have hforms (ws : List (Nat × Form)) : p.forms ws = ws := by rw [Pend.forms, hmixed]
  have hrest : ∀ q ∈ u.pend.filter (fun q => q.op != m.op), ∀ v ∈ q.writes, v.1 ≠ k := fun q hq =>
    hother q (List.mem_of_mem_filter hq) (by simpa using (List.mem_filter.mp hq).2)
  rw [Thread.endWaita_eq hm hp, Thread.deliver_found hp hflag, hforms]
  obtain ⟨hget, hnil⟩ := RegFile.landAll_free (op := m.op) (ws := (p.writes.map Prod.fst).map fun k => (k, .u st)) hrest
    (RegFile.lateAt_nil_iff.mpr hlate)
  exact (RegFile.sameAt_settle hnil).1.trans (hget.trans (RegFile.get_foldl_const hk u.regs))

end

/-- Settles O26: WAITA owes its result, and waits or does not (`exec_waita`); WAKE, the timeout and the device end waits, and the
status is delivered (`Thread.endWaita_get`). -/
theorem waitAndWake : Obligations.WaitAndWake := by
  intro s g r t x a b l ha hb hgang
  refine ⟨exec_waita ha hb hgang, exec_wake ha hb, fun gid lane u m hu hm hres => ⟨exec_waitaTimeout hu hm hres, exec_waitaDeviceWake hres⟩,
    fun u m p st hm hp hmixed hflag => ⟨?_, fun w hw hother hlate => ?_, ?_⟩⟩
  · rw [Thread.endWaita_eq hm hp]
  · exact Thread.endWaita_get hm hp hmixed hflag (List.mem_map_of_mem hw) hother hlate
  · rw [Thread.endWaita_eq hm hp, Thread.deliver_found hp hflag]

end Sys2Proof.Machine
end

section
namespace Sys2Proof.Machine
set_option Elab.async false

/-! ### Barrier records (R242, R244) -/

/-- The record after an arrival of k indices (R244). -/
def BarRec.after (b : BarRec) (k : Nat) : BarRec :=
  if b.expect ≤ b.arrived + k then ⟨(b.phase + 1) % 2 ^ 32, b.expect, 0⟩ else ⟨b.phase, b.expect, b.arrived + k⟩

/-- Each field fits its bits. -/
def BarRec.Fits (b : BarRec) : Prop := b.phase < 2 ^ 32 ∧ b.expect < 2 ^ 40 ∧ b.arrived < 2 ^ 40

section
variable {b : BarRec} {m k : Nat}

theorem barRec_fits (h : barRec m = some b) : b.Fits := by
  unfold barRec at h
  split at h
  · cases h
  · obtain rfl := Option.some.inj h
    exact ⟨Nat.mod_lt _ (by decide), Nat.mod_lt _ (by decide), Nat.mod_lt _ (by decide)⟩

theorem BarRec.Fits.code_lt (h : b.Fits) : b.code < 2 ^ 112 := by
  obtain ⟨hphase, hexpect, harrived⟩ := h
  unfold BarRec.code
  omega

theorem BarRec.Fits.barRec_code (h : b.Fits) : barRec b.code = some b := by
  have hlt := h.code_lt
  obtain ⟨hphase, hexpect, harrived⟩ := h
  have h112 : b.code / 2 ^ 112 = 0 := Nat.div_eq_of_lt hlt
  have hp : b.code / 2 ^ 80 % 2 ^ 32 = b.phase := by unfold BarRec.code; omega
  have he : b.code / 2 ^ 40 % 2 ^ 40 = b.expect := by unfold BarRec.code; omega
  have ha : b.code % 2 ^ 40 = b.arrived := by unfold BarRec.code; omega
  rw [barRec, if_neg (not_not.mpr h112), hp, he, ha]

theorem BarRec.Fits.after (h : b.Fits) (hk : b.arrived + k < 2 ^ 40) : (b.after k).Fits := by
  obtain ⟨hphase, hexpect, -⟩ := h
  unfold BarRec.after
  split
  · exact ⟨Nat.mod_lt _ (by decide), hexpect, Nat.two_pow_pos _⟩
  · exact ⟨hphase, hexpect, hk⟩

theorem BarRec.arrive_eq (hk : b.arrived + k < 2 ^ 40) : b.arrive k = some (b.phase, b.after k) := by
  rw [BarRec.arrive, if_neg (Nat.not_le.mpr hk), BarRec.after]
  split <;> rfl

/-- An arrival advances the phase exactly where it is full. -/
theorem BarRec.Fits.after_phase_ne (h : b.Fits) : (b.after k).phase ≠ b.phase ↔ b.expect ≤ b.arrived + k := by
  obtain ⟨hphase, -, -⟩ := h
  unfold BarRec.after
  split
  next hfull => exact iff_of_true (by dsimp only; omega) hfull
  next hopen => exact iff_of_false (not_not.mpr rfl) hopen

end

section
variable {s : State} {e : Env} {t : Thread} {sc : BarS} {o : Opd} {a : W64} {l : Loc} {b : BarRec} {k : AccKind}

theorem barLoc_within : Gives (Loc.Within s) (barLoc sc s e a k) := by
  cases sc with
  | pen => exact .check (State.scratchLoc_within (by decide))
  | yard =>
    intro l hl
    obtain ⟨p, off, rfl, hp⟩ := State.teamLoc_scr (by decide) l hl
    exact Loc.within_scr hp

theorem barOf_eq (hl : barLoc sc s e ((baseForm e t o).val 0) k = .ok l) (hb : barRec (s.readLoc l 16) = some b) :
    barOf sc s e t o k = .ok (l, b) := by
  simp only [barOf, hl, hb]

/-- One thread that arrives, alone at its record: it writes the record (R244). -/
theorem barPlan_one (hl : barOf sc s e t o accRmw = .ok (l, b)) (hk : b.arrived + t.n < 2 ^ 40) :
    barPlan sc s e [t] o = [(t.lane, .ok ⟨l, b.phase, some (b.after t.n)⟩)] := by
  simp [barPlan, hl, BarRec.arrive_eq hk]

/-- What is written at a record is read there (R242, R244). -/
theorem State.Formed.barRec_written {b' : BarRec} (h : s.Formed) (hl : l.Within s) (hb : b'.Fits) :
    barRec ((s.writeLoc l 16 b'.code).readLoc l 16) = some b' := by
  rw [State.Formed.readLoc_writeLoc h hl, Nat.mod_eq_of_lt (hb.code_lt.trans_le (by decide))]
  exact hb.barRec_code

end

/-! ### Arrivals and waits (R244, R245) -/

section
variable {s w : State} {g : Group} {r : Run} {t : Thread} {sc : BarS} {x : FmtQ} {a : W64} {l : Loc} {b : BarRec} {i : Instr}
  {m : Meaning} {d : Opd} {p : Nat}

/-- The wait of a thread at a barrier: where a fault of a later read parks it, it stands at the BAR (R245, R389), under the header
that governs the word, which in Dzinum-2 code is the word's own address (R98, R101). -/
def barStatus (g : Group) (r : Run) (l : Loc) (a : W64) (p : Nat) (d : Opd) : Status :=
  .bar l a (BitVec.ofNat 32 p) d (envOf g r).wpc ((envOf g r).hdrAt (envOf g r).wpc)

theorem barStatus_of_dz3 (h : r.dz2 = false) : barStatus g r l a p d = .bar l a (BitVec.ofNat 32 p) d (envOf g r).wpc r.hdr := by
  have he : (envOf g r).dz2 = false := h
  rw [barStatus, Env.hdrAt, he, if_neg Bool.false_ne_true]
  rfl

theorem arrived_none_of_issuers (h : issuers s (envOf g r) t = [t]) : t.arrived = none := by
  have ht : t ∈ issuers s (envOf g r) t := h ▸ List.mem_singleton_self t
  exact Option.isNone_iff_eq_none.mp (List.mem_filter.mp ht).2

/-- An instruction that, last in its clause, reads the record and waits while the phase is p. -/
theorem drive_barWaitRes (h : Performs s g r t i m.gd) (he : m.each = none) (hlay : m.lay s (envOf g r) t = false) (hasc : m.asc = true)
    (hlast : r.pos + 1 = r.words.length) (ha : m.act s (envOf g r) t = .ok (barWaitRes w (envOf g r) t d l a p))
    (hb : barRec (w.readLoc l 16) = some b) :
    drive i (fun e => !e.last) m s = if b.phase ≠ p then w.gives g r { t with arrived := none } d (BitVec.ofNat 64 b.phase)
      else .next (w.performLeave g r (({ t with arrived := none } : Thread).waits g r (barStatus g r l a p d))) := by
  simp only [barWaitRes, hb] at ha
  by_cases hp : b.phase ≠ p
  · rw [if_pos hp, State.gives, orFpx_zero]
    exact drive_next h (envOf_last hlast) he (fun _ => hlay) hasc (ha.trans (congrArg Except.ok (if_pos hp)))
      (Thread.result_lane { t with arrived := none } ..)
  · rw [if_neg hp]
    exact drive_leave h (envOf_last hlast) he (fun _ => hlay) hasc (ha.trans (congrArg Except.ok (if_neg hp)))

theorem arriveMeaning_act {wait : Bool} (hi : issuers s (envOf g r) t = [t]) (hl : barOf sc s (envOf g r) t x.a accRmw = .ok (l, b))
    (hk : b.arrived + t.n < 2 ^ 40) :
    (arriveMeaning sc x wait s).act s (envOf g r) t = .ok (if wait
      then barWaitRes (s.writeLoc l 16 (b.after t.n).code) (envOf g r) t x.d l ((baseForm (envOf g r) t x.a).val 0) b.phase
      else { s := s.writeLoc l 16 (b.after t.n).code, t := t.result x.d (.u (BitVec.ofNat 64 b.phase)) }) := by
  have hnone : (if wait then t.arrived else none) = none := by rw [arrived_none_of_issuers hi, ite_self]
  simp only [arriveMeaning, hnone, hi, barPlan_one hl hk, List.find?_cons, beq_self_eq_true]
  cases wait <;> rfl

variable (ha : t.reads g r .int x.a = .u a) (hrec : barRec (s.readLoc l 16) = some b)
include ha hrec

/-- BARARV: the arrival is written, and gives the phase before (R244, R245). -/
theorem exec_bararv (hi : issuers s (envOf g r) t = [t]) (hl : barLoc sc s (envOf g r) a accRmw = .ok l)
    (hk : b.arrived + t.n < 2 ^ 40) (h : Performs s g r t (.bararv sc x) x.gd) :
    exec (.bararv sc x) s
      = .next ((s.writeLoc l 16 (b.after t.n).code).perform g r (t.result x.d (.u (BitVec.ofNat 64 b.phase)))) := by
  have hval : (baseForm (envOf g r) t x.a).val 0 = a := congrArg (Form.val · 0) ha
  rw [show exec (.bararv sc x) s = execBararv sc x s from rfl, execBararv]
  exact drive_next (m := arriveMeaning sc x false s) h rfl rfl (fun _ => srcA_reads1 ha) rfl
    (arriveMeaning_act hi (barOf_eq (hval.symm ▸ hl) hrec) hk) (Thread.result_lane ..)

/-- BAR with WM 0: a full record gives the new phase; else the thread waits (R244, R245). -/
theorem exec_barArriveWait (hs : s.Formed) (hi : issuers s (envOf g r) t = [t]) (hl : barLoc sc s (envOf g r) a accRmw = .ok l)
    (hk : b.arrived + t.n < 2 ^ 40) (h : Performs s g r t (.barArriveWait sc x) x.gd) (hlast : r.pos + 1 = r.words.length) :
    exec (.barArriveWait sc x) s = if b.expect ≤ b.arrived + t.n
      then (s.writeLoc l 16 (b.after t.n).code).gives g r t x.d (BitVec.ofNat 64 (b.after t.n).phase)
      else .next ((s.writeLoc l 16 (b.after t.n).code).performLeave g r (t.waits g r (barStatus g r l a b.phase x.d))) := by
  have hval : (baseForm (envOf g r) t x.a).val 0 = a := congrArg (Form.val · 0) ha
  have hthread : { t with arrived := none } = t := by rw [← arrived_none_of_issuers hi]
  have hfits := barRec_fits hrec
  have hact := arriveMeaning_act (wait := true) hi (barOf_eq (hval.symm ▸ hl) hrec) hk
  rw [hval, if_pos rfl] at hact
  rw [show exec (.barArriveWait sc x) s = execBarArriveWait sc x s from rfl, execBarArriveWait,
    drive_barWaitRes (m := arriveMeaning sc x true s) h rfl (srcA_reads1 ha) rfl hlast hact
      (hs.barRec_written (barLoc_within l hl) (hfits.after hk)), hthread]
  exact if_congr hfits.after_phase_ne rfl rfl

/-- BAR with WM 1: no arrival; the thread waits while the phase is b[31:0] (R245). -/
theorem exec_barWait {p : W64} (hb : t.reads g r .int x.b = .u p) (hl : barLoc sc s (envOf g r) a accRead = .ok l)
    (h : Performs s g r t (.barWait sc x) x.gd) (hlast : r.pos + 1 = r.words.length) :
    exec (.barWait sc x) s = if b.phase ≠ p.toNat % 2 ^ 32 then s.gives g r { t with arrived := none } x.d (BitVec.ofNat 64 b.phase)
      else .next (s.performLeave g r (({ t with arrived := none } : Thread).waits g r (barStatus g r l a (p.toNat % 2 ^ 32) x.d))) := by
  have hva : (baseForm (envOf g r) t x.a).val 0 = a := congrArg (Form.val · 0) ha
  have hvb : (baseForm (envOf g r) t x.b).val 0 = p := congrArg (Form.val · 0) hb
  rw [show exec (.barWait sc x) s = execBarWait sc x s from rfl, execBarWait]
  refine drive_barWaitRes h rfl (srcA_reads2 ha hb) rfl hlast ?_ hrec
  simp only [hva, hvb]
  rw [asStop_bind (barOf_eq (hva.symm ▸ hl) hrec)]
  rfl

end

/-- A read of the record by a thread that waits ends the wait, or not (R245). -/
theorem exec_barrierWaitEnd {s : State} {gid lane : Nat} {u : Thread} {l : Loc} {ea : W64} {p : W32} {d : Opd} {pc hdr : W64} {b : BarRec}
    (hu : (s.group gid).thread lane = some u) (hst : u.status = .bar l ea p d pc hdr) (hres : (s.group gid).resident s = true)
    (hread : s.barRead l ea = .ok b) :
    exec (.barrierWaitEnd gid lane) s = if b.phase = p.toNat then .next s else .next (s.updThread gid lane
      (fun v => { v.result d (.u (BitVec.ofNat 64 b.phase)) with status := .ready })) := by
  rw [show exec (.barrierWaitEnd gid lane) s = .next (s.retestBar gid lane) from rfl, State.retestBar]
  simp only [hu, hst, hres, hread, Bool.not_true, Bool.false_eq_true, if_false, ne_eq, ite_not]
  exact apply_ite ..

/-! ### A wait in Dzinum-2 code (R98, R101)

The statement has the waiting thread keep the header of its clause. Dzinum-2 code has none: there the thread keeps the address of
the word (`barStatus`), at which a fault of a later read parks it. BAR is a Dzinum-2 opcode (R99). Elsewhere the clauses of the
statement are `exec_bararv`, `exec_barArriveWait`, `exec_barWait`, with `barStatus_of_dz3`, and `exec_barrierWaitEnd`. -/

/-- A lane with g2 = 64 and g3 = 7, in Dzinum-2 code. -/
def dz2Thread : Thread := { fetchThread 1 with regs := { fill := 1, cells := [(2, .u 64), (3, .u 7)] } }
def dz2Run : Run := { fetchRun 0 with dz2 := true }
def dz2Group : Group := { fetchGroup 1 0 with lanes := true, place := .row 0, run := some dz2Run, threads := [dz2Thread] }

/-- It stands at its word, at 0x1008; its scratch holds, at 64, a record of phase 7. -/
def dz2Barrier : State :=
  { State.reset.placeWord 0 with
    cur := some 1, groups := [dz2Group]
    pens := [{ fetchPen with scsz := 0x8000, scratch := Memory.store [] 64 16 (BarRec.code ⟨7, 2, 0⟩) }] }

/-- The wait for the phase to differ from 7. -/
def dz2Bar : FmtQ := ⟨.always, ⟨.g, 1⟩, ⟨.g, 2⟩, ⟨.g, 3⟩, 15, 1⟩

theorem dz2Bar_performs : Performs dz2Barrier dz2Group dz2Run dz2Thread (.barWait .pen dz2Bar) .always where
  cur := rfl
  grp := rfl
  run := rfl
  strand := by decide +kernel
  lane := by decide +kernel
  regs := by decide +kernel
  guard := by rw [GuardTrue, if_pos (by decide +kernel)]; rfl

/-- The header that the thread keeps for the wait. -/
def waitHeader (o : Host.Outcome State Fault Refusal) : Option W64 :=
  match o with
  | .next u => match ((u.group 1).thread 0).map Thread.status with
    | some (.bar _ _ _ _ _ hdr) => some hdr
    | _ => none
  | _ => none

/-- Refutes O27: a lane that waits at a BAR in Dzinum-2 code keeps the address of the word, 0x1008, and not the header of its run. -/
theorem not_barriers : ¬ Obligations.Barriers := by
  intro h
  have hrec : barRec (dz2Barrier.readLoc (.scr 1 64) 16) = some ⟨7, 2, 0⟩ := by decide +kernel
  obtain ⟨-, hwait, -⟩ := h dz2Barrier dz2Group dz2Run dz2Thread .pen dz2Bar 64 (.scr 1 64) _ (by decide +kernel) hrec (by decide +kernel)
  have hsays := hwait 7 (by decide +kernel) (by decide +kernel) dz2Bar_performs rfl
  have hdoes := exec_barWait (a := 64) (p := 7) (by decide +kernel) hrec (by decide +kernel) (by decide +kernel) dz2Bar_performs rfl
  exact absurd (congrArg waitHeader (hdoes.symm.trans hsays)) (by decide +kernel)

end Sys2Proof.Machine
end

section
namespace Sys2Proof.Machine
set_option Elab.async false

/-! ### Gather and scatter (R247 to R250) -/

section
variable {s : State} {g : Group} {r : Run} {t : Thread} {x : FmtG} {l : Loc}

/-- GATHER: the element is read in the step of the issue, and owed (R248; log 6). -/
theorem exec_gather {w : ElemW} {a i : W64} (ha : t.reads g r .int x.base = .u a) (hi : t.reads g r .int x.idx = .u i)
    (h : Performs s g r t (.gather w x) x.gd) (h0 : ∃ l0, elemLoc s (envOf g r) t x (ElemW.size w) accRead 0 = .ok l0)
    (hl : elemLoc (s.drawn g) (envOf g r) t x (ElemW.size w) accRead 0 = .ok l) :
    exec (.gather w x) s = (s.drawn g).owes g r t 15 [(Opd.key x.v, .u (BitVec.ofNat 64 (s.readLoc l (ElemW.size w))))] := by
  obtain ⟨l0, h0⟩ := h0
  have hlay : srcA (envOf g r) t [x.base, x.idx] = false := by
    have ha : baseForm (envOf g r) t x.base = .u a := ha
    have hi : baseForm (envOf g r) t x.idx = .u i := hi
    simp [srcA, ha, hi, Form.isA]
  rw [show exec (.gather w x) s = execGather w x s from rfl, execGather, ← goForms_one, ← s.drawn_readLoc g]
  exact drive_nextAny (m := gatherMeaning w x) h rfl rfl (fun _ => hlay) rfl ⟨_, asStop_bind h0 _⟩ (asStop_bind hl _)
    (Thread.owing_lane t _ g r 15 _ 0 none)

/-- SCATTER by one index (R249). -/
theorem exec_scatter {w : ElemW} (hn : t.n = 1) (h : Performs s g r t (.scatter w x) x.gd)
    (h0 : ∃ l0, elemLoc s (envOf g r) t x (ElemW.size w) accWrite 0 = .ok l0)
    (hl : elemLoc s.bump (envOf g r) t x (ElemW.size w) accWrite 0 = .ok l) :
    exec (.scatter w x) s
      = .next ((s.bump.writeLoc l (ElemW.size w) (storeValue (envOf g r) t x.v (ElemW.size w) 0)).perform g r t) := by
  obtain ⟨l0, h0⟩ := h0
  rw [show exec (.scatter w x) s = execScatter w x s from rfl, execScatter]
  exact drive_each (m := scatterMeaning w x) h rfl rfl (fun _ => rfl) rfl hn ⟨_, asStop_bind h0 _⟩ (asStop_bind hl _) rfl

theorem oweOnce_of_idle {e : Env} {fl : Fpx} (h : t.pend = []) : oweOnce s e t fl = oweRes s e t 15 [] fl := by
  rw [oweOnce, h]
  rfl

/-- SCATA by one index: one read-modify-write of the element, which owes its flags (R250; log 6). -/
theorem exec_scata {ty : ScataT} (hn : t.n = 1) (hpend : t.pend = []) (h : Performs s g r t (.scata ty x) x.gd)
    (h0 : ∃ l0, elemLoc s (envOf g r) t x (ScataT.size ty) accRmw 0 = .ok l0)
    (hl : elemLoc s.bump (envOf g r) t x (ScataT.size ty) accRmw 0 = .ok l) {sum : Nat × Fpx}
    (hsum : ScataT.apply ty (s.readLoc l (ScataT.size ty)) (if ty == .addf32 then typedVal .f32 (envOf g r) t x.v 0
      else storeValue (envOf g r) t x.v (ScataT.size ty) 0) = sum) :
    exec (.scata ty x) s = (s.bump.writeLoc l (ScataT.size ty) sum.1).owes g r t 15 [] sum.2 := by
  obtain ⟨l0, h0⟩ := h0
  subst hsum
  rw [show exec (.scata ty x) s = execScata ty x s from rfl, execScata]
  refine drive_each (m := scataMeaning ty x) h rfl rfl (fun _ => rfl) rfl hn ⟨_, asStop_bind h0 _⟩ ((asStop_bind hl _).trans ?_)
    (Thread.owing_lane t _ g r 15 [] _ none)
  exact congrArg Except.ok (oweOnce_of_idle hpend)

/-- SCATA adds the value that V is read as: the sum takes its low bytes alone. -/
theorem scata_sum {ty : ScataT} {v : W64} (hv : t.reads g r (if ty = .addf32 then .f32 else .int) x.v = .u v) (old : Nat) :
    ScataT.apply ty old (if ty == .addf32 then typedVal .f32 (envOf g r) t x.v 0 else storeValue (envOf g r) t x.v (ScataT.size ty) 0)
      = ScataT.apply ty old v.toNat := by
  have hlow (n : Nat) : (old + v.toNat % n) % n = (old + v.toNat) % n := Nat.add_mod_mod ..
  cases ty with
  | addf32 =>
    have hval : typedVal .f32 (envOf g r) t x.v 0 = v.toNat := congrArg (fun f => (Form.val f 0).toNat) hv
    exact congrArg (ScataT.apply .addf32 old) hval
  | add32 =>
    have hval : storeValue (envOf g r) t x.v 4 0 = v.toNat % 2 ^ 32 := congrArg (fun f => (Form.val f 0).toNat % 2 ^ 32) hv
    exact (congrArg (ScataT.apply .add32 old) hval).trans (congrArg (·, (0 : Fpx)) (hlow _))
  | add64 =>
    have hval : storeValue (envOf g r) t x.v 8 0 = v.toNat % 2 ^ 64 := congrArg (fun f => (Form.val f 0).toNat % 2 ^ 64) hv
    exact (congrArg (ScataT.apply .add64 old) hval).trans (congrArg (·, (0 : Fpx)) (hlow _))

end

theorem gatherScatter : Says.GatherScatter := by
  intro s g r t x l
  exact ⟨fun w a i ha hi => exec_gather ha hi, fun hn w => exec_scatter hn, fun hn hpend ty v hv h h0 hl =>
    exec_scata hn hpend h h0 hl (scata_sum hv _)⟩

/-! ### Remap slots (R254, R255) -/

section
variable {s : State} {g : Group} {r : Run} {t : Thread} {x : FmtA} {a b c : W64}

theorem exec_rmapset (ha : t.reads g r .int x.a = .u a) (hb : t.reads g r .int x.b = .u b) (hc : t.reads g r .int x.c = .u c)
    (hok : remapBad a b c (s.pen g.pen).scsz = none) (h : Performs s g r t (.rmapset x) x.gd) :
    exec (.rmapset x) s
      = .next ((s.updPen g.pen (fun p => { p with remaps := p.remaps.set (a.toNat - 1) ⟨b, c⟩ })).perform g r t) := by
  have hpen : (envOf g r).pen = g.pen := rfl
  have ha : baseForm (envOf g r) t x.a = .u a := ha
  have hb : baseForm (envOf g r) t x.b = .u b := hb
  have hc : baseForm (envOf g r) t x.c = .u c := hc
  rw [show exec (.rmapset x) s = execRmapset x s from rfl, execRmapset]
  refine drive_next h rfl rfl (fun _ => by simp [srcA, ha, hb, hc, Form.isA]) rfl ?_ rfl
  simp only [ha, hb, hc, Form.val, hpen, hok]

end

theorem remapKind_eq (c : W64) : remapKind c = c.toNat % 4 := by
  rw [remapKind, bits_toNat, Nat.pow_zero, Nat.div_one]
  rfl

/-- The bytes of an element of the table of a slot of kind 3 (R255). -/
def tableWidth (cfg : W64) : Nat := if (bits cfg 17 16).toNat = 0 then 4 else 8

section
variable {s : State} {pen k : Nat} {x : W64} {q : Remap} (hq : (s.pen pen).remaps[k]? = some q)
include hq

/-- The slot that an instruction names by k + 1 (R254). -/
theorem remaps_getD : (s.pen pen).remaps.getD (k + 1 - 1) ⟨0, 0⟩ = q := by
  rw [List.getD_eq_getElem?_getD, Nat.add_sub_cancel, hq, Option.getD_some]

theorem State.remap_modulo (hk : q.cfg.toNat % 4 = 1) : s.remap pen (k + 1) x = .ok (BitVec.ofNat 64 (x.toNat % q.par.toNat)) := by
  simp only [State.remap, Nat.add_one_ne_zero, if_false, remaps_getD hq, remapKind_eq, hk]

theorem State.remap_product (hk : q.cfg.toNat % 4 = 2) : s.remap pen (k + 1) x
    = .ok (BitVec.ofNat 64 ((x.toNat * q.par.toNat) % 2 ^ 64 / 2 ^ (64 - (bits q.cfg 14 8).toNat))) := by
  simp only [State.remap, Nat.add_one_ne_zero, if_false, remaps_getD hq, remapKind_eq, hk, BitVec.toNat_mul]

theorem State.remap_table (hk : q.cfg.toNat % 4 = 3) (hlen : x.toNat < (bits q.cfg 44 24).toNat)
    (hlock : s.locked (.scr pen (q.par.toNat + x.toNat * tableWidth q.cfg)) (tableWidth q.cfg) false = false)
    (hsound : (s.pen pen).sound (q.par.toNat + x.toNat * tableWidth q.cfg) (tableWidth q.cfg) = true) :
    s.remap pen (k + 1) x
      = .ok (BitVec.ofNat 64 (Memory.load (s.pen pen).scratch (q.par.toNat + x.toNat * tableWidth q.cfg) (tableWidth q.cfg))) := by
  unfold tableWidth at *
  simp only [State.remap, Nat.add_one_ne_zero, if_false, remaps_getD hq, remapKind_eq, hk, Nat.not_le.mpr hlen, hlock, hsound,
    Bool.not_true, Bool.false_eq_true]
  rfl

theorem State.remap_beyond (hk : q.cfg.toNat % 4 = 3) (hlen : (bits q.cfg 44 24).toNat ≤ x.toNat) :
    ∃ f, s.remap pen (k + 1) x = .error f ∧ f.cause = cPERM := by
  simp only [State.remap, Nat.add_one_ne_zero, if_false, remaps_getD hq, remapKind_eq, hk, hlen, if_true]
  exact ⟨_, rfl, rfl⟩

theorem State.remap_unset (hk : q.cfg.toNat % 4 = 0) : ∃ f, s.remap pen (k + 1) x = .error f ∧ f.cause = cILLFMT := by
  simp only [State.remap, Nat.add_one_ne_zero, if_false, remaps_getD hq, remapKind_eq, hk]
  exact ⟨_, rfl, rfl⟩

end

theorem remapSlots : Says.RemapSlots :=
  ⟨fun _ _ _ _ _ _ _ _ ha hb hc hok h => exec_rmapset ha hb hc hok h, fun _ _ _ _ => ⟨rfl, fun _ hq => ⟨State.remap_modulo hq,
    State.remap_product hq, State.remap_table hq, State.remap_beyond hq, State.remap_unset hq⟩⟩⟩

/-- Settles O30: the access of each instruction (`exec_gather`, `exec_scatter`, `exec_scata`), RMAPSET, and each kind of slot. -/
theorem gatherScatterRemap : Obligations.GatherScatterRemap := ⟨gatherScatter, remapSlots⟩

end Sys2Proof.Machine
end

section
namespace Sys2Proof.Machine
set_option Elab.async false

/-! ### The integer that a value rounds to (R11, R130) -/

/-- A magnitude with a sign. -/
def signed (s : Bool) (n : Nat) : Int := if s then -(n : Int) else n

theorem signed_emod_two (s : Bool) (n : Nat) : signed s n % 2 = (n % 2 : Nat) := by
  cases s <;> simp only [signed] <;> omega

theorem signed_cast (s : Bool) (n : Nat) : (signed s n : ℝ) = (if s then -1 else 1) * n := by
  cases s <;> simp [signed]

/-- A magnitude cut to whole numbers in each mode. -/
def integralMag (md : FrndM) (s : Bool) (m k : Nat) : Nat :=
  let up := m / 2 ^ k + if m % 2 ^ k = 0 then 0 else 1
  match md with
  | .rn => rneShift m k
  | .rz => m / 2 ^ k
  | .rd => if s then up else m / 2 ^ k
  | .ru => if s then m / 2 ^ k else up

theorem toIntegral_neg (md : FrndM) (s : Bool) (m k : Nat) :
    toIntegral md s m (-(k : Int)) = (signed s (integralMag md s m k), decide (m % 2 ^ k = 0)) := by
  rcases k with _ | k
  · cases md <;> simp [toIntegral, integralMag, signed, rneShift, Nat.mod_one]
  · have hk : ¬ (0 : Int) ≤ -((k + 1 : Nat) : Int) := by omega
    simp only [toIntegral, hk, if_false, neg_neg, Int.toNat_natCast, decide_eq_true_eq]
    cases md <;> cases s <;> rfl

theorem toIntegral_natCast (md : FrndM) (s : Bool) (m n : Nat) : toIntegral md s m n = (signed s (m * 2 ^ n), true) := by
  simp only [toIntegral, Int.natCast_nonneg, if_true, Int.toNat_natCast, signed]

theorem toIntegral_rn (s : Bool) (m : Nat) (e : Int) : (toIntegral .rn s m e).1 = signed s (rneScale m e) := by
  obtain ⟨n, rfl | rfl⟩ := Int.eq_nat_or_neg e
  · rw [toIntegral_natCast, rneScale, if_pos (Int.natCast_nonneg n), Int.toNat_natCast]
  · rw [toIntegral_neg]
    refine congrArg (signed s) ?_
    rcases n with _ | n
    · simp [integralMag, rneShift, rneScale]
    · rw [rneScale, if_neg (by omega), neg_neg, Int.toNat_natCast, integralMag]

theorem toIntegral_exact_iff (s : Bool) (m : Nat) (e : Int) : (toIntegral .rn s m e).2 = true ↔ (rneScale m e : ℝ) = m * 2 ^ e := by
  rw [rneScale_eq_iff]
  obtain ⟨n, rfl | rfl⟩ := Int.eq_nat_or_neg e
  · simp [toIntegral_natCast]
  · rcases n with _ | n
    · simp [toIntegral]
    · rw [toIntegral_neg, neg_neg, Int.toNat_natCast, decide_eq_true_eq]
      omega

/-- i is the integer nearest to v, of two the even one. -/
def NearestInt (v : ℚ) (i : Int) : Prop := 2 * |(i : ℚ) - v| ≤ 1 ∧ (2 * |(i : ℚ) - v| = 1 → i % 2 = 0)

theorem signed_sub_ratOf (s : Bool) (n m : Nat) (e : Int) : |((signed s n : ℚ) : ℝ) - ((ratOf s m e : ℚ) : ℝ)| = |(n : ℝ) - m * 2 ^ e| := by
  rw [Rat.cast_intCast, signed_cast, ratOf_real, ← mul_sub, abs_mul]
  cases s <;> simp

theorem toIntegral_nearest (s : Bool) (m : Nat) (e : Int) : NearestInt (ratOf s m e) (toIntegral .rn s m e).1 := by
  obtain ⟨hle, heven⟩ := rneScale_nearest m e
  rw [toIntegral_rn, NearestInt, signed_emod_two]
  have hd : ((|(signed s (rneScale m e) : ℚ) - ratOf s m e| : ℚ) : ℝ) = |(rneScale m e : ℝ) - m * 2 ^ e| := by
    rw [← signed_sub_ratOf]; push_cast; rfl
  refine ⟨?_, fun h => ?_⟩
  · have : ((2 * |(signed s (rneScale m e) : ℚ) - ratOf s m e| : ℚ) : ℝ) ≤ (1 : ℚ) := by rw [Rat.cast_mul, hd]; push_cast; linarith
    exact_mod_cast this
  · have : ((2 * |(signed s (rneScale m e) : ℚ) - ratOf s m e| : ℚ) : ℝ) = (1 : ℚ) := by rw [h]
    rw [Rat.cast_mul, hd] at this
    push_cast at this
    rw [heven (by linarith)]; rfl

theorem toIntegral_exact (s : Bool) (m : Nat) (e : Int) : (toIntegral .rn s m e).2 = decide (((toIntegral .rn s m e).1 : ℚ) = ratOf s m e) := by
  rw [Bool.eq_iff_iff, toIntegral_exact_iff, decide_eq_true_eq, toIntegral_rn, ← sub_eq_zero, ← abs_eq_zero, ← signed_sub_ratOf s,
    abs_eq_zero, sub_eq_zero]
  norm_cast

/-- Toward −∞: the magnitude of a negative number goes up. -/
theorem signed_floor (s : Bool) (m k : Nat) :
    signed s (integralMag .rd s m k) * 2 ^ k ≤ signed s m ∧ signed s m < (signed s (integralMag .rd s m k) + 1) * 2 ^ k := by
  have hdiv : (2 : Int) ^ k * ((m / 2 ^ k : Nat) : Int) + ((m % 2 ^ k : Nat) : Int) = m := by exact_mod_cast Nat.div_add_mod m (2 ^ k)
  have hlt : ((m % 2 ^ k : Nat) : Int) < 2 ^ k := by exact_mod_cast Nat.mod_lt m (by positivity)
  simp only [signed, integralMag]
  generalize m / 2 ^ k = q at *
  generalize m % 2 ^ k = r at *
  cases s
  · simp only [Bool.false_eq_true, if_false]
    exact ⟨by linarith [Int.natCast_nonneg r], by linarith⟩
  · simp only [if_true]
    split
    next hr =>
      subst hr
      push_cast at hdiv hlt ⊢
      exact ⟨by linarith, by linarith⟩
    next hr =>
      have hpos : (1 : Int) ≤ r := by omega
      push_cast
      exact ⟨by linarith, by linarith⟩

theorem integralValues : Says.IntegralValues := by
  intro md s m k v y
  have hy : y = (signed s (integralMag md s m k), decide (m % 2 ^ k = 0)) := toIntegral_neg md s m k
  refine ⟨by rw [hy], ?_⟩
  cases md with
  | rn =>
    have hnear : NearestInt (ratOf s m (-(k : Int))) y.1 := toIntegral_nearest s m _
    have hv : ratOf s m (-(k : Int)) = (v : ℚ) / 2 ^ k := by
      rw [ratOf, zpow_neg, zpow_natCast, div_eq_mul_inv]
      cases s <;> simp [v]
    have hQ : (0 : ℚ) < 2 ^ k := by positivity
    have hd : |(y.1 : ℚ) - ratOf s m (-(k : Int))| = ((|y.1 * 2 ^ k - v| : Int) : ℚ) / 2 ^ k := by
      rw [hv]; push_cast
      rw [← abs_of_pos hQ, ← abs_div, abs_of_pos hQ, sub_div, mul_div_cancel_right₀ _ hQ.ne']
    obtain ⟨hle, heven⟩ := hnear
    rw [hd, ← mul_div_assoc] at hle heven
    rw [div_le_one hQ] at hle
    rw [div_eq_one_iff_eq hQ.ne'] at heven
    exact ⟨by exact_mod_cast hle, fun h => heven (by exact_mod_cast h)⟩
  | rz =>
    rw [hy]
    cases s
    · exact Int.ofNat_tdiv m (2 ^ k)
    · exact (congrArg Neg.neg (Int.ofNat_tdiv m (2 ^ k))).trans (Int.neg_tdiv ..).symm
  | rd =>
    rw [hy]
    exact signed_floor s m k
  | ru =>
    -- upward is downward of the number with the other sign
    rw [hy]
    obtain ⟨hle, hlt⟩ := signed_floor (!s) m k
    have hup : signed (!s) (integralMag .rd (!s) m k) = -signed s (integralMag .ru s m k) := by cases s <;> simp [signed, integralMag]
    have hv : signed (!s) m = -signed s m := by cases s <;> simp [signed]
    rw [hup, hv] at hle hlt
    change signed s m ≤ signed s (integralMag .ru s m k) * 2 ^ k ∧ (signed s (integralMag .ru s m k) - 1) * 2 ^ k < signed s m
    exact ⟨by linarith, by linarith⟩

end Sys2Proof.Machine
end

section
namespace Sys2Proof.Machine
set_option Elab.async false

/-! ### Codes after a modifier, a choice or a clamp (R75, R76, R258) -/

theorem elem_zero (w n : Nat) : elem w 0 n = n % 2 ^ w := by rw [elem, Nat.mul_zero, Nat.pow_zero, Nat.div_one]

theorem elementwise_one (w : Nat) (op : Nat → Nat × Fpx) : elementwise w 1 op = (BitVec.ofNat 64 ((op 0).1 % 2 ^ w), (op 0).2) := by
  simp [elementwise, pack, List.range_succ]

theorem nvOf_two (a b : FVal) : nvOf [a, b] = if a.isSnan || b.isSnan then fxNV else 0 := by
  simp [nvOf, fxIf]

section
variable {f : FFmt}

theorem FFmt.signBit_pos (f : FFmt) : 0 < f.signBit := by rw [FFmt.signBit]; positivity

theorem FFmt.modify_lt (f : FFmt) (m : Mod) (c : Nat) : f.modify m c < 2 ^ f.width := by
  have hmag := Nat.mod_lt (c % 2 ^ f.width) f.signBit_pos
  have hw := f.two_pow_width
  cases m with
  | none => exact Nat.mod_lt _ (by positivity)
  | neg => exact Nat.mod_lt _ (by positivity)
  | abs => simp only [FFmt.modify]; omega
  | negAbs => simp only [FFmt.modify]; omega

/-- The clamp of a code is a code. -/
theorem FFmt.Sound.clamp_lt (hf : f.Sound) (hone : f.bias.toNat * 2 ^ f.mw < f.signBit) (cl : Clamp) {c : Nat} (hc : c < 2 ^ f.width) :
    f.clamp cl c < 2 ^ f.width := by
  have hw := f.two_pow_width
  cases cl with
  | none => exact hc
  | sat =>
    simp only [FFmt.clamp]
    cases f.decode c with
    | nan _ => exact hc
    | inf s => exact FFmt.withSign_lt hf.belowSign
    | fin s m e => exact hc
  | c01 =>
    simp only [FFmt.clamp]
    cases f.decode c with
    | nan _ => positivity
    | inf s => dsimp only; split <;> omega
    | fin s m e => dsimp only; split <;> omega
  | c11 =>
    simp only [FFmt.clamp]
    cases f.decode c with
    | nan _ => positivity
    | inf s => exact FFmt.withSign_lt hone
    | fin s m e => exact FFmt.withSign_lt (by omega)

theorem FFmt.minmax_lt (hnan : f.nan < 2 ^ f.width) (mx : Bool) {p q : Nat} (hp : p < 2 ^ f.width) (hq : q < 2 ^ f.width) :
    (f.minmax mx p q).1 < 2 ^ f.width := by
  simp only [FFmt.minmax]
  split_ifs <;> assumption

end

/-! ### FMIN, FMAX, FCMP, FRND (R263, R264, R267) -/

theorem FP.fmt_sound (ty : FP) : (FP.fmt ty).Sound ∧ (FP.fmt ty).bias.toNat * 2 ^ (FP.fmt ty).mw < (FP.fmt ty).signBit
    ∧ (FP.fmt ty).nan < 2 ^ (FP.fmt ty).width := by
  cases ty
  · exact ⟨FFmt.sound_of_mem (by simp [FP.fmt]), by decide, by decide⟩
  · exact ⟨FFmt.sound_of_mem (by simp [FP.fmt]), by decide, by decide⟩

theorem fminmax_eq (ty : FP) (mx : Bool) (x : FmtA) (a b : W64) : fminmax (FP.fmt ty) mx x [a, b]
    = (BitVec.ofNat 64 ((FP.fmt ty).clamp x.cl ((FP.fmt ty).minmax mx (codeOf ty x.ma a) (codeOf ty x.mb b)).1),
       ((FP.fmt ty).minmax mx (codeOf ty x.ma a) (codeOf ty x.mb b)).2) := by
  obtain ⟨hf, hone, hnan⟩ := FP.fmt_sound ty
  have hlt : (FP.fmt ty).clamp x.cl ((FP.fmt ty).minmax mx (codeOf ty x.ma a) (codeOf ty x.mb b)).1 < 2 ^ (FP.fmt ty).width :=
    hf.clamp_lt hone x.cl (FFmt.minmax_lt hnan mx (FFmt.modify_lt ..) (FFmt.modify_lt ..))
  rw [fminmax, elementwise_one]
  simp only [fsrcElem, elem_zero, arg, List.getD_cons_zero, List.getD_cons_succ, codeOf]
  exact congrArg (fun n => (BitVec.ofNat 64 n, _)) (Nat.mod_eq_of_lt hlt)

/-- What an FCMP finds is as its condition says (R264). -/
theorem compare_iff (f : FFmt) (cc : FcmpCC) (p q : Nat) : (f.compare cc p q).1 = true ↔ match cc with
    | .eq => (f.decode p).isNan = false ∧ (f.decode q).isNan = false ∧ codeEq f p q
    | .ne => (f.decode p).isNan = true ∨ (f.decode q).isNan = true ∨ ¬ codeEq f p q
    | .lt => (f.decode p).isNan = false ∧ (f.decode q).isNan = false ∧ codeLt f p q
    | .le => (f.decode p).isNan = false ∧ (f.decode q).isNan = false ∧ ¬ codeLt f q p
    | .un => (f.decode p).isNan = true ∨ (f.decode q).isNan = true := by
  cases cc <;> simp [FFmt.compare, codeEq, codeLt, and_assoc, or_assoc]

theorem compare_flags (f : FFmt) (cc : FcmpCC) (p q : Nat) : (f.compare cc p q).2 = match cc with
    | .lt | .le => if (f.decode p).isNan || (f.decode q).isNan then fxNV else 0
    | _ => if (f.decode p).isSnan || (f.decode q).isSnan then fxNV else 0 := by
  cases cc <;> simp only [FFmt.compare, nvOf_two] <;> rfl

theorem integral_spec (f : FFmt) (md : FrndM) {p : Nat} (hp : p < 2 ^ f.width) : match f.decode p with
    | .nan sig => (f.integral md p).1 = f.nan ∧ (f.integral md p).2 = if sig then fxNV else 0
    | .inf _ => (f.integral md p).1 = p ∧ (f.integral md p).2 = 0
    | .fin sg m e => (f.integral md p).2 = 0
      ∧ if m = 0 then (f.integral md p).1 = p else (f.integral md p).1 = (f.round sg (toIntegral md sg m e).1.natAbs 0).1 := by
  have hmod := Nat.mod_eq_of_lt hp
  cases h : f.decode p with
  | nan sig => simp only [FFmt.integral, h, fxIf, and_self]
  | inf s => simp only [FFmt.integral, h, hmod, and_self]
  | fin sg m e =>
    by_cases hm : m = 0
    · simp only [FFmt.integral, h, hm, if_true, hmod, and_self]
    · simp only [FFmt.integral, h, hm, if_false, and_self]

section
variable {s : State} {g : Group} {r : Run} {t : Thread} {i : Instr} {q : RegI}

/-- An instruction of class E whose sources, each of its own type, are in U form. -/
theorem regOp_reads (hr : q.rule = eClass) (vs : List W64) (h : Performs s g r t i q.gd)
    (hs : q.srcs.map (fun p => t.reads g r p.1 p.2) = vs.map Form.u) : regOp i q s = s.gives g r t q.d (q.op vs).1 (q.op vs).2 :=
  regOp_eClass hr vs h hs

end

theorem floatChoices : Says.FloatChoices := by
  intro s g r t x ty a b f p q nan snan out
  refine ⟨fun ⟨ha, hb⟩ => ?_, fun md ha h => ?_⟩
  · have hsrc : (fsrcs (FP.sty ty) x 2).map (fun o => t.reads g r o.1 o.2) = [a, b].map Form.u := congrArg₂ (fun f f' => [f, f']) ha hb
    have hflags : ∀ mx, (f.minmax mx p q).2 = snan := fun mx => nvOf_two ..
    refine ⟨fun h => ?_, fun h => ?_, fun cc h hd => ?_⟩
    · refine (regOp_reads (i := .fmin ty x) rfl [a, b] h hsrc).trans ?_
      simp only [fminmax_eq]
      exact congrArg (fun fl => s.gives g r t x.d _ fl) (hflags false)
    · refine (regOp_reads (i := .fmax ty x) rfl [a, b] h hsrc).trans ?_
      simp only [fminmax_eq]
      exact congrArg (fun fl => s.gives g r t x.d _ fl) (hflags true)
    · have htest : ((FP.fmt ty).compare cc (fsrcElem f [x.ma, x.mb] [a, b] 0 0) (fsrcElem f [x.ma, x.mb] [a, b] 1 0)) = f.compare cc p q := by
        simp only [fsrcElem, elem_zero]; rfl
      refine ⟨_, _, cmpOp_makes (i := .fcmp cc ty x) [a, b] h hsrc hd, ?_, ?_⟩
      · dsimp only
        rw [htest]
        cases cc <;> exact compare_iff ..
      · dsimp only
        rw [htest]
        cases cc <;> exact compare_flags ..
  · have hsrc : (fsrcs (FP.sty ty) x 1).map (fun o => t.reads g r o.1 o.2) = [a].map Form.u := congrArg (fun f => [f]) ha
    have hp : fsrcElem f [x.ma] [a] 0 0 = p := by simp only [fsrcElem, elem_zero]; rfl
    refine ⟨(f.integral md p).1, (f.integral md p).2, ?_, integral_spec f md (FFmt.modify_lt ..)⟩
    refine (regOp_reads (i := .frnd md ty x) rfl [a] h hsrc).trans ?_
    simp only [frndOp, ← hp]
    rfl

end Sys2Proof.Machine
end

section
namespace Sys2Proof.Machine
set_option Elab.async false

/-! ### CVT between floating-point formats (R126, R266) -/

/-- The rows of CVT from one format to another. -/
def floatRows : List (CvtV × FFmt × FFmt) :=
  [(.f64f32, F32, F64), (.f32f64, F64, F32), (.bf16f32, F32, BF16), (.f16f32, F32, F16), (.f32f16, F16, F32), (.f32bf16, BF16, F32),
    (.e4m3f32, F32, E4M3), (.e5m2f32, F32, E5M2), (.e2m1f32, F32, E2M1)]

theorem cvtOp_floatRows {p : CvtV × FFmt × FFmt} (hp : p ∈ floatRows) (x : FmtA) (a : W64) : cvtOp p.1 x a
    = (BitVec.ofNat 64 (cvtFF p.2.1 p.2.2 x.sc x.cl (p.2.1.modify x.ma (a.toNat % 2 ^ p.2.1.width))).1,
      (cvtFF p.2.1 p.2.2 x.sc x.cl (p.2.1.modify x.ma (a.toNat % 2 ^ p.2.1.width))).2) := by
  rw [← elem_zero]
  simp only [floatRows, List.mem_cons, List.not_mem_nil, or_false] at hp
  rcases hp with rfl | rfl | rfl | rfl | rfl | rfl | rfl | rfl | rfl <;> rfl

/-- Which destinations have a NaN, or infinities. -/
theorem floatRows_specials {p : CvtV × FFmt × FFmt} (hp : p ∈ floatRows) :
    (p.2.2.hasNan = false ↔ p.1 = .e2m1f32) ∧ (p.2.2.hasInf = false ↔ p.1 = .e4m3f32 ∨ p.1 = .e2m1f32) := by
  revert p
  decide

section
variable {src dst : FFmt} {sc : BitVec 3} {cl : Clamp} {code : Nat}

theorem cvtFF_nan (h : (src.decode code).isNan = true) :
    cvtFF src dst sc cl code = (dst.clamp cl dst.nan, if (src.decode code).isSnan = true ∨ dst.hasNan = false then fxNV else 0) := by
  cases hv : src.decode code with
  | nan q =>
    simp only [cvtFF, hv, FVal.isSnan]
    cases dst.hasNan <;> cases q <;> rfl
  | inf s => rw [hv] at h; cases h
  | fin s m e => rw [hv] at h; cases h

theorem cvtFF_inf {s : Bool} (h : src.decode code = .inf s) : cvtFF src dst sc cl code
    = if dst.hasInf = false then (dst.clamp cl (withSign dst s dst.maxCode), fxOF ||| fxNX) else (dst.clamp cl (withSign dst s dst.inf), 0) := by
  simp only [cvtFF, h]
  cases dst.hasInf <;> rfl

theorem cvtFF_fin {s : Bool} {m : Nat} {e : Int} (h : src.decode code = .fin s m e) :
    cvtFF src dst sc cl code = (dst.clamp cl (dst.round s m (e + sc.toInt)).1, (dst.round s m (e + sc.toInt)).2) := by
  simp only [cvtFF, h, scOf]

end

/-! ### CVT to and from integers (R129) -/

theorem cvtToInt_fin {src : FFmt} {w code : Nat} {s : Bool} {m : Nat} {e : Int} (h : src.decode code = .fin s m e) :
    let i := (toIntegral .rn s m e).1
    cvtToInt src w code = (max (-(2 ^ (w - 1))) (min (2 ^ (w - 1) - 1) i),
      if i < -(2 ^ (w - 1)) ∨ 2 ^ (w - 1) - 1 < i then fxNV else if (toIntegral .rn s m e).2 then 0 else fxNX) := by
  have hpos : (0 : Int) < 2 ^ (w - 1) := by positivity
  simp only [cvtToInt, h]
  generalize (2 : Int) ^ (w - 1) = b at *
  generalize (toIntegral .rn s m e).1 = i
  split
  next hi => rw [if_pos (.inr hi), min_eq_left (by omega), max_eq_right (by omega)]
  split
  next hi hlo => rw [if_pos (.inl hlo), min_eq_right (by omega), max_eq_left (by omega)]
  next hi hlo =>
    rw [if_neg (by omega), min_eq_right (by omega), max_eq_right (by omega)]
    cases (toIntegral .rn s m e).2 <;> rfl

theorem cvtOp_s64f64 (x : FmtA) (a : W64) : cvtOp .s64f64 x a
    = (BitVec.ofInt 64 (cvtToInt F64 64 (F64.modify x.ma a.toNat)).1, (cvtToInt F64 64 (F64.modify x.ma a.toNat)).2) := rfl

theorem cvtOp_s32f32 (x : FmtA) (a : W64) : cvtOp .s32f32 x a
    = (BitVec.ofNat 64 ((cvtToInt F32 32 (F32.modify x.ma (a.toNat % 2 ^ 32))).1 % 2 ^ 32).toNat,
      (cvtToInt F32 32 (F32.modify x.ma (a.toNat % 2 ^ 32))).2) := by
  rw [← elem_zero]; rfl

section
variable {s : State} {g : Group} {r : Run} {t : Thread}

theorem exec_cvt {v : CvtV} {x : FmtA} {a : W64} (ha : t.reads g r (CvtV.sty v) x.a = .u a) (h : Performs s g r t (.cvt v x) x.gd) :
    exec (.cvt v x) s = s.gives g r t x.d (cvtOp v x a).1 (cvtOp v x a).2 :=
  regOp_reads (i := .cvt v x) rfl [a] h (congrArg (fun f => [f]) ha)

end

theorem conversions : Says.Conversions := by
  intro s g r t x v a ha h
  refine ⟨exec_cvt ha h, fun p hp hv sg m e hd => ?_, fun p hp hv => ?_, fun sg m e hd hv => ?_⟩
  · rw [hv, cvtOp_floatRows hp, cvtFF_fin hd]
  · simp only [List.mem_cons, List.not_mem_nil, or_false] at hp
    rcases hp with rfl | rfl | rfl <;> subst hv <;> rfl
  · subst hv
    rw [cvtOp_s64f64, cvtToInt_fin hd]
    simp only [Nat.reduceSub, gt_iff_lt, or_comm]

theorem cvtRows_specials (x : FmtA) (a : W64) {p : CvtV × FFmt × FFmt} (hp : p ∈ floatRows) :
    let v := p.2.1.decode (p.2.1.modify x.ma (a.toNat % 2 ^ p.2.1.width))
    let dst := p.2.2
    (v.isNan = true → cvtOp p.1 x a = (BitVec.ofNat 64 (dst.clamp x.cl dst.nan), if v.isSnan = true ∨ p.1 = .e2m1f32 then fxNV else 0))
    ∧ ∀ s, v = .inf s → cvtOp p.1 x a = if p.1 = .e4m3f32 ∨ p.1 = .e2m1f32
        then (BitVec.ofNat 64 (dst.clamp x.cl (withSign dst s dst.maxCode)), fxOF ||| fxNX)
        else (BitVec.ofNat 64 (dst.clamp x.cl (withSign dst s dst.inf)), 0) := by
  obtain ⟨hnan, hinf⟩ := floatRows_specials hp
  refine ⟨fun h => ?_, fun s h => ?_⟩
  · rw [cvtOp_floatRows hp, cvtFF_nan h]
    simp only [hnan]
  · rw [cvtOp_floatRows hp, cvtFF_inf h]
    simp only [hinf]
    split <;> rfl

theorem cvtRows_s32 (x : FmtA) (a : W64) :
    let out := fun (i : Int) => BitVec.ofNat 64 (i % 2 ^ 32).toNat
    match F32.decode (F32.modify x.ma (a.toNat % 2 ^ 32)) with
    | .nan _ => cvtOp .s32f32 x a = (0, fxNV)
    | .inf s => cvtOp .s32f32 x a = (out (if s then -(2 ^ 31) else 2 ^ 31 - 1), fxNV)
    | .fin s m e => ∃ i : Int, 2 * |(i : ℚ) - ratOf s m e| ≤ 1 ∧ (2 * |(i : ℚ) - ratOf s m e| = 1 → i % 2 = 0)
        ∧ cvtOp .s32f32 x a = (out (max (-(2 ^ 31)) (min (2 ^ 31 - 1) i)),
            if i < -(2 ^ 31) ∨ 2 ^ 31 - 1 < i then fxNV else if (i : ℚ) = ratOf s m e then 0 else fxNX) := by
  rw [cvtOp_s32f32]
  cases h : F32.decode (F32.modify x.ma (a.toNat % 2 ^ 32)) with
  | nan _ => simp only [cvtToInt, h]; rfl
  | inf s => simp only [cvtToInt, h]
  | fin s m e =>
    obtain ⟨hle, heven⟩ := toIntegral_nearest s m e
    refine ⟨_, hle, heven, ?_⟩
    rw [cvtToInt_fin h, toIntegral_exact]
    simp only [Nat.reduceSub, decide_eq_true_eq]

theorem cvtRows_s64 (x : FmtA) (a : W64) :
    match F64.decode (F64.modify x.ma a.toNat) with
    | .nan _ => cvtOp .s64f64 x a = (0, fxNV)
    | .inf s => cvtOp .s64f64 x a = (BitVec.ofInt 64 (if s then -(2 ^ 63) else 2 ^ 63 - 1), fxNV)
    | .fin _ _ _ => True := by
  rw [cvtOp_s64f64]
  cases h : F64.decode (F64.modify x.ma a.toNat) with
  | nan _ => simp only [cvtToInt, h]; rfl
  | inf s => simp only [cvtToInt, h]
  | fin s m e => trivial

end Sys2Proof.Machine
end

section
namespace Sys2Proof.Machine
set_option Elab.async false

/-! ### Rounding a magnitude that lies between two integers of units (R110)

A value that has no finite binary expansion is held as m · 2^e with m odd: it lies strictly between (m − 1) · 2^e and (m + 1) · 2^e, and
no boundary of a rounding to fewer bits lies there, so that m · 2^e rounds as it does. -/

/-- m is odd, and a lies strictly between its neighbours, on units of 2^e. -/
structure Jammed (m : Nat) (e : Int) (a : ℝ) : Prop where
  odd : m % 2 = 1
  gt : ((m : ℝ) - 1) * 2 ^ e < a
  lt : a < ((m : ℝ) + 1) * 2 ^ e

section
variable {f : FFmt} {m r : Nat} {e p q : Int} {a b : ℝ}

theorem Jammed.self (h : m % 2 = 1) (e : Int) : Jammed m e (m * 2 ^ e) where
  odd := h
  gt := mul_lt_mul_of_pos_right (by linarith) (by positivity)
  lt := mul_lt_mul_of_pos_right (by linarith) (by positivity)

/-- An integer of larger units, in units of 2^e, is even. -/
theorem units_even (hp : e < p) (j : ℤ) : ∃ i : ℤ, (j : ℝ) * 2 ^ p = ((2 * i : ℤ) : ℝ) * 2 ^ e := by
  obtain ⟨n, rfl⟩ := Int.le.dest (show e + 1 ≤ p by omega)
  refine ⟨j * 2 ^ n, ?_⟩
  rw [zpow_add₀ two_ne_zero, zpow_add_one₀ two_ne_zero, zpow_natCast]
  push_cast
  ring

theorem Jammed.even_lt_iff (h : Jammed m e a) (i : ℤ) : ((2 * i : ℤ) : ℝ) * 2 ^ e < a ↔ 2 * i < m := by
  have hU : (0 : ℝ) < 2 ^ e := by positivity
  have hodd := h.odd
  constructor
  · intro hlt
    have hlt' : ((2 * i : ℤ) : ℝ) < m + 1 := lt_of_mul_lt_mul_right (hlt.trans h.lt) hU.le
    have : 2 * i < m + 1 := by exact_mod_cast hlt'
    omega
  · intro hlt
    have hle : ((2 * i : ℤ) : ℝ) ≤ m - 1 := by
      have : 2 * i ≤ (m : ℤ) - 1 := by omega
      exact_mod_cast this
    exact (mul_le_mul_of_nonneg_right hle hU.le).trans_lt h.gt

/-- It is no integer of larger units. -/
theorem Jammed.ne (h : Jammed m e a) (hp : e < p) (j : ℤ) : (j : ℝ) * 2 ^ p ≠ a := by
  obtain ⟨i, hi⟩ := units_even hp j
  rw [hi]
  intro he
  have hU : (0 : ℝ) < 2 ^ e := by positivity
  have hgt := h.gt
  have hlt := h.lt
  rw [← he] at hgt hlt
  have h1 : (m : ℝ) - 1 < (2 * i : ℤ) := lt_of_mul_lt_mul_right hgt hU.le
  have h2 : ((2 * i : ℤ) : ℝ) < m + 1 := lt_of_mul_lt_mul_right hlt hU.le
  have h1' : (m : ℤ) - 1 < 2 * i := by exact_mod_cast h1
  have h2' : 2 * i < (m : ℤ) + 1 := by exact_mod_cast h2
  have hodd := h.odd
  omega

/-- Two magnitudes that are held as one lie on one side of every integer of larger units. -/
theorem Jammed.lt_iff (h : Jammed m e a) (h' : Jammed m e b) (hp : e < p) (j : ℤ) : (j : ℝ) * 2 ^ p < a ↔ (j : ℝ) * 2 ^ p < b := by
  obtain ⟨i, hi⟩ := units_even hp j
  rw [hi, h.even_lt_iff, h'.even_lt_iff]

theorem Jammed.gt_iff (h : Jammed m e a) (h' : Jammed m e b) (hp : e < p) (j : ℤ) : a < (j : ℝ) * 2 ^ p ↔ b < (j : ℝ) * 2 ^ p := by
  rw [← not_iff_not, not_lt, not_lt, (h.ne hp j).le_iff_lt, (h'.ne hp j).le_iff_lt, h.lt_iff h' hp]

/-- Half a unit, in units half as large. -/
theorem abs_sub_div_iff (r : Nat) (a : ℝ) (q : Int) :
    (|(r : ℝ) - a / 2 ^ q| ≤ 1 / 2 ↔ ((2 * r - 1 : ℤ) : ℝ) * 2 ^ (q - 1) ≤ a ∧ a ≤ ((2 * r + 1 : ℤ) : ℝ) * 2 ^ (q - 1))
    ∧ (|(r : ℝ) - a / 2 ^ q| < 1 / 2 ↔ ((2 * r - 1 : ℤ) : ℝ) * 2 ^ (q - 1) < a ∧ a < ((2 * r + 1 : ℤ) : ℝ) * 2 ^ (q - 1)) := by
  have hU : (0 : ℝ) < 2 ^ (q - 1) := by positivity
  have hq : (2 : ℝ) ^ q = 2 * 2 ^ (q - 1) := by rw [zpow_sub_one₀ two_ne_zero]; ring
  obtain ⟨y, rfl⟩ : ∃ y, a = 2 * y * 2 ^ (q - 1) := ⟨a / 2 ^ q, by rw [hq]; field_simp⟩
  have hy : 2 * y * (2 : ℝ) ^ (q - 1) / 2 ^ q = y := by rw [hq]; field_simp
  rw [hy, abs_le, abs_lt, mul_le_mul_iff_left₀ hU, mul_le_mul_iff_left₀ hU, mul_lt_mul_iff_left₀ hU, mul_lt_mul_iff_left₀ hU]
  push_cast
  exact ⟨⟨fun ⟨h1, h2⟩ => ⟨by linarith, by linarith⟩, fun ⟨h1, h2⟩ => ⟨by linarith, by linarith⟩⟩,
    ⟨fun ⟨h1, h2⟩ => ⟨by linarith, by linarith⟩, fun ⟨h1, h2⟩ => ⟨by linarith, by linarith⟩⟩⟩

theorem Jammed.nearest (h : Jammed m e a) (hq : e + 1 < q) : NearestEven (a / 2 ^ q) (rneScale m (e - q)) := by
  have hb := Jammed.self h.odd e
  have hp : e < q - 1 := by omega
  have hnear := (rneScale_nearest m (e - q)).1
  rw [mul_zpow_sub_eq_div, (abs_sub_div_iff _ _ _).1, (hb.ne hp _).le_iff_lt, (hb.ne hp _).symm.le_iff_lt, hb.lt_iff h hp, hb.gt_iff h hp,
    ← (abs_sub_div_iff _ _ _).2] at hnear
  exact ⟨hnear.le, fun heq => absurd heq hnear.ne⟩

/-- The unit of the format is more than twice that of m. -/
theorem FFmt.unit_gt (hm : 2 ^ (f.mw + 2) < m) (e : Int) : e + 1 < f.unit m e := by
  have hm0 : m ≠ 0 := (Nat.zero_lt_of_lt hm).ne'
  have hlog : f.mw + 2 ≤ m.log2 := (Nat.le_log2 hm0).mpr hm.le
  rw [FFmt.unit, if_neg hm0, blen, if_neg hm0]
  push_cast
  omega

section
variable (h : Jammed m e a) (hm : 2 ^ (f.mw + 2) < m)
include h hm

/-- It is rounded to as many units of the format as m · 2^e is. -/
theorem Jammed.inUnits : f.InUnits a (f.unit m e) (rneScale m (e - f.unit m e)) := by
  have hb := Jammed.self h.odd e
  have hq := FFmt.unit_gt hm e
  have hp : e < f.unit m e := by omega
  have hunits := f.inUnits_unit m e
  refine ⟨hunits.qmin_le, h.nearest hq, ?_, fun hmin => ?_⟩
  · have := (hb.gt_iff h hp (2 ^ (f.mw + 1))).mp (by exact_mod_cast hunits.lt)
    exact_mod_cast this
  · have := (hb.lt_iff h hp (2 ^ f.mw)).mp (lt_of_le_of_ne (by exact_mod_cast hunits.ge hmin) (hb.ne hp _))
    exact_mod_cast this.le

theorem Jammed.inexact : (rneScale m (e - f.unit m e) : ℝ) * 2 ^ f.unit m e ≠ a ∧ f.inexact m e = true := by
  have hp : e < f.unit m e := by have := FFmt.unit_gt hm e; omega
  have hne := fun {a : ℝ} (h : Jammed m e a) => h.ne hp (rneScale m (e - f.unit m e) : ℕ)
  refine ⟨by exact_mod_cast hne h, ?_⟩
  rw [← Bool.not_eq_false, f.inexact_eq_false_iff]
  exact_mod_cast hne (Jammed.self h.odd e)

theorem Jammed.tiny_iff : f.tiny m e = true ↔ a < (2 ^ (f.mw + 2) - 1) * 2 ^ (f.qmin - 2) := by
  have hb := Jammed.self h.odd e
  rw [f.tiny_iff (Nat.zero_lt_of_lt hm).ne']
  have hcast : ((2 ^ (f.mw + 2) - 1 : ℤ) : ℝ) * 2 ^ (f.qmin - 2) = (2 ^ (f.mw + 2) - 1) * 2 ^ (f.qmin - 2) := by push_cast; rfl
  rcases lt_or_ge e (f.qmin - 2) with he | he
  · rw [← hcast]
    exact hb.gt_iff h he _
  · -- both are above the smallest normal value
    have hlarge : ∀ b : ℝ, Jammed m e b → ¬ b < (2 ^ (f.mw + 2) - 1) * 2 ^ (f.qmin - 2) := fun b hb hlt => by
      have hm' : (2 : ℝ) ^ (f.mw + 2) ≤ m - 1 := by
        have : (2 : ℝ) ^ (f.mw + 2) + 1 ≤ m := by exact_mod_cast hm
        linarith
      have hU : (2 : ℝ) ^ (f.qmin - 2) ≤ 2 ^ e := zpow_le_zpow_right₀ one_le_two he
      have hV : (0 : ℝ) < 2 ^ (f.qmin - 2) := by positivity
      have hbig : (2 : ℝ) ^ (f.mw + 2) * 2 ^ (f.qmin - 2) ≤ (m - 1) * 2 ^ e := mul_le_mul hm' hU hV.le (le_trans (by positivity) hm')
      have hgt := hb.gt
      nlinarith
    exact iff_of_false (hlarge _ hb) (hlarge _ h)

end

/-- A magnitude with a sign. -/
def signedReal (s : Bool) (a : ℝ) : ℝ := if s then -a else a

theorem abs_ratOf_sub_signedReal (s t : Bool) (n : Nat) (p : Int) (a : ℝ) :
    |((ratOf t n p : ℚ) : ℝ) - signedReal s a| = |((ratOf (s != t) n p : ℚ) : ℝ) - a| := by
  rw [ratOf_real, ratOf_real, signedReal]
  cases s
  · simp
  · rw [← abs_neg]
    congr 1
    cases t <;> simp <;> ring

/-- The code of the units to which a positive magnitude is rounded inexactly is its rounding. -/
theorem FFmt.InUnits.roundsTo (hf : f.Sound) (h : f.InUnits a q r) (ha : 0 < a) (hne : (r : ℝ) * 2 ^ q ≠ a) (s : Bool) {tiny : Bool}
    (ht : tiny = true ↔ a < (2 ^ (f.mw + 2) - 1) * 2 ^ (f.qmin - 2)) (z : Bool) :
    RoundsTo f z (signedReal s a) (if f.maxCode < f.codeAt r q then (withSign f s (if f.hasInf then f.inf else f.maxCode), fxOF ||| fxNX)
      else (withSign f s (f.codeAt r q), fxNX ||| fxIf tiny fxUF)) := by
  have hN := hf.decode_withSign false le_rfl
  rw [if_neg (Nat.div_ne_zero_iff.mpr ⟨by positivity, hf.normal⟩)] at hN
  have habs : |signedReal s a| = a := by cases s <;> simp [signedReal, abs_of_pos ha]
  refine ⟨s, _, _, ?_, hN, ?_⟩
  · cases s
    · simp [signedReal, not_lt.mpr ha.le, ha.ne']
    · simp [signedReal, ha]
  · have hmax := h.maxCode_lt_iff hf hN
    generalize 2 ^ f.mw + f.maxCode % 2 ^ f.mw = N at hmax ⊢
    generalize f.qmin + ((f.maxCode / 2 ^ f.mw - 1 : Nat) : Int) = Q at hmax ⊢
    have hedge : ((ratOf false (2 * N + 1) (Q - 1) : ℚ) : ℝ) = ((N : ℝ) + 1 / 2) * 2 ^ Q := by
      rw [ratOf_false_real, zpow_sub_one₀ two_ne_zero]; push_cast; ring
    have hsmall : ((ratOf false (2 ^ (f.mw + 2) - 1) (f.qmin - 2) : ℚ) : ℝ) = (2 ^ (f.mw + 2) - 1) * 2 ^ (f.qmin - 2) := by
      rw [ratOf_false_real, Nat.cast_sub Nat.one_le_two_pow]; simp
    intro edge beyond small
    have hbeyond : beyond ↔ f.maxCode < f.codeAt r q := by rw [hmax, ← hedge, ← habs]
    have hsmall' : small ↔ tiny = true := by rw [ht, ← hsmall, ← habs]
    refine ⟨fun hb => if_pos (hbeyond.mp hb), fun hb => ?_⟩
    rw [hbeyond] at hb
    rw [if_neg hb]
    have hle := not_lt.mp hb
    obtain ⟨n, p, hdec, hval, hpar⟩ := h.decode hf s hle
    have hd : |((ratOf s n p : ℚ) : ℝ) - signedReal s a| = |(r : ℝ) * 2 ^ q - a| := by
      rw [abs_ratOf_sub_signedReal, bne_self_eq_false, ratOf_false_real, hval]
    refine ⟨FFmt.withSign_lt (hle.trans_lt hf.belowSign), n, p, hdec, fun c t k g hc => ?_, fun h0 => ?_, fun _ => ⟨fun hs => ?_, fun hs => ?_⟩⟩
    · obtain ⟨hk, hg⟩ := FFmt.decode_fin hc
      have hv : ((ratOf (s != t) k g : ℚ) : ℝ) = k * 2 ^ g ∨ ((ratOf (s != t) k g : ℚ) : ℝ) = -(k * 2 ^ g) := by
        rw [ratOf_real]; cases s != t <;> simp
      obtain ⟨hnear, heven⟩ := h.nearest hv hk hg
      rw [hd, hpar, abs_ratOf_sub_signedReal]
      refine ⟨hnear, fun he hother => heven he fun hsame => hother ?_⟩
      have hcast : ((ratOf t k g : ℚ) : ℝ) = ((ratOf s n p : ℚ) : ℝ) := by
        rw [← hval, ratOf_real] at hsame
        rw [ratOf_real, ratOf_real]
        cases s <;> cases t <;> simp at hsame ⊢ <;> linarith
      exact_mod_cast hcast
    · rw [hd, abs_eq_zero, sub_eq_zero] at h0
      exact absurd h0 hne
    · rw [hsmall'.mp hs]; rfl
    · rw [Bool.eq_false_iff.mpr (mt hsmall'.mpr hs)]; rfl

/-- One rounding of ±m · 2^e is that of the value it stands for (R110). -/
theorem Jammed.roundsTo (hf : f.Sound) (h : Jammed m e a) (hm : 2 ^ (f.mw + 2) < m) (s z : Bool) :
    RoundsTo f z (signedReal s a) (f.round s m e) := by
  obtain ⟨hne, hinexact⟩ := h.inexact hm
  have hpos : 0 < a := by
    have hm1 : (1 : ℝ) ≤ m := by exact_mod_cast Nat.one_le_of_lt hm
    exact lt_of_le_of_lt (mul_nonneg (by linarith) (by positivity)) h.gt
  have := FFmt.InUnits.roundsTo hf (h.inUnits hm) hpos hne s (h.tiny_iff hm) z
  rw [f.round_eq, hinexact, Bool.and_true]
  exact this

end

end Sys2Proof.Machine
end

section
namespace Sys2Proof.Machine
set_option Elab.async false

/-! ### Powers of 2^(1/4) (R107, R127) -/

/-- Two to a whole part t of an n-th, raised to the n-th power. -/
theorem two_rpow_div_pow (t : Int) {n : Nat} (hn : n ≠ 0) : ((2 : ℝ) ^ ((t : ℝ) / n)) ^ n = 2 ^ t := by
  rw [← Real.rpow_natCast, ← Real.rpow_mul two_pos.le, div_mul_cancel₀ _ (by exact_mod_cast hn), Real.rpow_intCast]

theorem mul_zpow_pow (m : Nat) (e : Int) (n : Nat) (t : Int) : ((m : ℝ) * 2 ^ e) ^ n = m ^ n * 2 ^ (n * e - t) * 2 ^ t := by
  rw [mul_pow, ← zpow_natCast ((2 : ℝ) ^ e), ← zpow_mul, mul_assoc, ← zpow_add₀ two_ne_zero, mul_comm e, sub_add_cancel]

theorem two_rpow_le_iff (m : Nat) (e t : Int) {n : Nat} (hn : n ≠ 0) :
    (2 : ℝ) ^ ((t : ℝ) / n) ≤ m * 2 ^ e ↔ 1 ≤ (m : ℝ) ^ n * 2 ^ (n * e - t) := by
  rw [← pow_le_pow_iff_left₀ (by positivity) (by positivity) hn, two_rpow_div_pow t hn, mul_zpow_pow m e n t,
    le_mul_iff_one_le_left (by positivity)]

theorem two_rpow_eq_iff (m : Nat) (e t : Int) {n : Nat} (hn : n ≠ 0) :
    (m : ℝ) * 2 ^ e = (2 : ℝ) ^ ((t : ℝ) / n) ↔ (m : ℝ) ^ n * 2 ^ (n * e - t) = 1 := by
  rw [← pow_left_inj₀ (by positivity) (by positivity) hn, two_rpow_div_pow t hn, mul_zpow_pow m e n t, mul_eq_right₀ (by positivity)]

/-- A product with a power of two, on whole numbers: the power goes to the side on which it is one. -/
theorem mul_zpow_cases (N : Nat) (d : Int) :
    (0 ≤ d ∧ (N : ℝ) * 2 ^ d = (N * 2 ^ d.toNat : ℕ)) ∨ (¬ 0 ≤ d ∧ (N : ℝ) * 2 ^ d = N / (2 ^ (-d).toNat : ℕ)) := by
  obtain ⟨n, rfl | rfl⟩ := Int.eq_nat_or_neg d
  · exact .inl ⟨Int.natCast_nonneg n, by push_cast; rw [zpow_natCast]; rfl⟩
  · rcases n with _ | n
    · exact .inl ⟨le_rfl, by simp⟩
    · exact .inr ⟨by omega, by rw [zpow_neg, zpow_natCast, ← div_eq_mul_inv, neg_neg, Int.toNat_natCast]; push_cast; rfl⟩

theorem geEighth_iff (m : Nat) (e t : Int) : geEighth m e t = true ↔ (2 : ℝ) ^ ((t : ℝ) / 8) ≤ m * 2 ^ e := by
  have h := two_rpow_le_iff m e t (n := 8) (by decide)
  rw [← Nat.cast_pow] at h
  push_cast at h
  rw [h, geEighth, ← Nat.cast_pow]
  rcases mul_zpow_cases (m ^ 8) (8 * e - t) with ⟨hd, hval⟩ | ⟨hd, hval⟩
  · simp only [hd, if_true, decide_eq_true_eq, hval, Nat.one_le_cast]
  · simp only [hd, if_false, decide_eq_true_eq, hval]
    rw [one_le_div (by positivity), Nat.cast_le]

theorem eqQuarter_iff (m : Nat) (e t : Int) : eqQuarter m e t = true ↔ (m : ℝ) * 2 ^ e = (2 : ℝ) ^ ((t : ℝ) / 4) := by
  have h := two_rpow_eq_iff m e t (n := 4) (by decide)
  push_cast at h
  rw [h, eqQuarter, ← Nat.cast_pow]
  rcases mul_zpow_cases (m ^ 4) (4 * e - t) with ⟨hd, hval⟩ | ⟨hd, hval⟩
  · simp only [hd, if_true, decide_eq_true_eq, hval, Nat.cast_eq_one]
  · simp only [hd, if_false, decide_eq_true_eq, hval]
    rw [div_eq_one_iff_eq (by positivity), Nat.cast_inj]

/-! ### CVT to lns6 (R127, R266) -/

/-- The code of sign s and magnitude m, under the clamp. -/
theorem lnsClamp_eq (x : FmtA) (s : Bool) {m : Nat} (hm : m < 32) :
    BitVec.ofNat 64 (lnsClamp x.cl false ((if s then 32 else 0) + m)) = lnsGives x s m := by
  have hdiv : ((if s then 32 else 0) + m) / 32 = 1 ↔ s = true := by cases s <;> simp <;> omega
  have hmod : ((if s then 32 else 0) + m) % 32 = m := by cases s <;> simp <;> omega
  cases hcl : x.cl <;> simp only [lnsGives, lnsClamp, hcl, hdiv, hmod, Bool.decide_eq_true, Bool.false_or, Bool.false_eq_true, if_false]

theorem length_filter_lt_range (k n : Nat) : ((List.range n).filter (fun j => decide (j < k))).length = min k n := by
  induction n with
  | zero => simp
  | succ n ih =>
    rw [List.range_succ, List.filter_append, List.length_append, ih]
    by_cases h : n < k
    · simp [h]; omega
    · simp [h]; omega

/-- How many of the boundaries 2^((2j − 29)/8), for j below 30, a value reaches. -/
theorem boundaries_reached {v : ℝ} {P : Nat → Bool} (hP : ∀ j : Nat, P j = true ↔ (2 : ℝ) ^ (((2 * j - 29 : ℤ) : ℝ) / 8) ≤ v) {k : Nat} (hk : k ≤ 30)
    (hge : k ≠ 0 → (2 : ℝ) ^ (((2 * k - 31 : ℤ) : ℝ) / 8) ≤ v) (hlt : v < (2 : ℝ) ^ (((2 * k - 29 : ℤ) : ℝ) / 8)) :
    ((List.range 30).filter P).length = k := by
  have hmono : ∀ a b : ℤ, a ≤ b → (2 : ℝ) ^ ((a : ℝ) / 8) ≤ 2 ^ ((b : ℝ) / 8) := fun a b hab =>
    Real.rpow_le_rpow_of_exponent_le one_le_two (by have : (a : ℝ) ≤ b := by exact_mod_cast hab
                                                    linarith)
  have hj : P = fun j => decide (j < k) := funext fun j => by
    rw [Bool.eq_iff_iff, hP, decide_eq_true_eq]
    constructor
    · intro h
      by_contra hjk
      exact absurd ((hmono (2 * k - 29) (2 * j - 29) (by omega)).trans h) (not_le.mpr hlt)
    · intro h
      exact (hmono (2 * j - 29) (2 * k - 31) (by omega)).trans (hge (by omega))
  rw [hj, length_filter_lt_range, min_eq_left hk]

section
variable {x : FmtA} {a : W64} {s : Bool} {m : Nat} {e : Int}

theorem cvtOp_lns (x : FmtA) (a : W64) : cvtOp .lns6f32 x a = (BitVec.ofNat 64 (cvtToLns x.sc x.cl (F32.modify x.ma (a.toNat % 2 ^ 32))).1,
    (cvtToLns x.sc x.cl (F32.modify x.ma (a.toNat % 2 ^ 32))).2) := by
  rw [← elem_zero]; rfl

/-- Below the first boundary, 2^−4, no code but the zero's. -/
theorem below_eighth_iff (m : Nat) (e : Int) : geEighth m e (-32) = false ↔ (m : ℝ) * 2 ^ e < 2 ^ (-4 : ℤ) := by
  have h : (2 : ℝ) ^ (((-32 : ℤ) : ℝ) / 8) = 2 ^ (-4 : ℤ) := by
    rw [show ((-32 : ℤ) : ℝ) / 8 = ((-4 : ℤ) : ℝ) by norm_num, Real.rpow_intCast]
  rw [← Bool.not_eq_true, geEighth_iff, not_le, h]

section
variable (h : F32.decode (F32.modify x.ma (a.toNat % 2 ^ 32)) = .fin s m e)
include h

theorem cvtLns_zero (hv : (m : ℝ) * 2 ^ (e + x.sc.toInt) = 0) : cvtOp .lns6f32 x a = (lnsGives x s 0, 0) := by
  have hm : m = 0 := by simpa [zpow_ne_zero] using hv
  rw [cvtOp_lns, ← lnsClamp_eq x s (by decide)]
  simp only [cvtToLns, h, hm, if_true, Nat.add_zero]

theorem cvtLns_small (h0 : 0 < (m : ℝ) * 2 ^ (e + x.sc.toInt)) (hv : (m : ℝ) * 2 ^ (e + x.sc.toInt) < 2 ^ (-4 : ℤ)) :
    cvtOp .lns6f32 x a = (lnsGives x s 0, fxUF ||| fxNX) := by
  have hm : m ≠ 0 := by rintro rfl; simp at h0
  have hlow : geEighth m (e + scOf x.sc) (-32) = false := (below_eighth_iff ..).mpr hv
  rw [cvtOp_lns, ← lnsClamp_eq x s (by decide)]
  simp only [cvtToLns, h, hm, hlow, if_false, Bool.not_false, if_true, Nat.add_zero]

theorem cvtLns_large (hv : (2 : ℝ) ^ (((31 : ℤ) : ℝ) / 8) ≤ m * 2 ^ (e + x.sc.toInt)) :
    cvtOp .lns6f32 x a = (lnsGives x s 31, fxOF ||| fxNX) := by
  have hm : m ≠ 0 := by
    rintro rfl
    have : (0 : ℝ) < 2 ^ (((31 : ℤ) : ℝ) / 8) := by positivity
    simp at hv
    linarith
  have hhigh : geEighth m (e + scOf x.sc) 31 = true := (geEighth_iff ..).mpr hv
  have hlow : geEighth m (e + scOf x.sc) (-32) = true := by
    rw [geEighth_iff]
    exact (Real.rpow_le_rpow_of_exponent_le one_le_two (by norm_num)).trans hv
  rw [cvtOp_lns, ← lnsClamp_eq x s (by decide)]
  simp only [cvtToLns, h, hm, hlow, hhigh, if_false, Bool.not_true, Bool.false_eq_true, if_true]

/-- A value between the boundaries of code k + 1. -/
theorem cvtLns_between {k : Nat} (hk : k ≤ 30) (hfirst : (2 : ℝ) ^ (-4 : ℤ) ≤ m * 2 ^ (e + x.sc.toInt))
    (hge : k ≠ 0 → (2 : ℝ) ^ (((2 * k - 31 : ℤ) : ℝ) / 8) ≤ m * 2 ^ (e + x.sc.toInt))
    (hlt : (m : ℝ) * 2 ^ (e + x.sc.toInt) < (2 : ℝ) ^ (((2 * k - 29 : ℤ) : ℝ) / 8)) :
    cvtOp .lns6f32 x a = (lnsGives x s (k + 1), fxIf (!eqQuarter m (e + x.sc.toInt) (((k + 1 : Nat) : Int) - 16)) fxNX) := by
  have hm : m ≠ 0 := by
    rintro rfl
    simp at hfirst
    linarith
  have hlow : geEighth m (e + scOf x.sc) (-32) = true := by
    rw [← Bool.not_eq_false, below_eighth_iff, not_lt]
    exact hfirst
  have hhigh : geEighth m (e + scOf x.sc) 31 = false := by
    rw [← Bool.not_eq_true, geEighth_iff, not_le]
    refine hlt.trans_le (Real.rpow_le_rpow_of_exponent_le one_le_two ?_)
    have : (k : ℝ) ≤ 30 := by exact_mod_cast hk
    push_cast
    linarith
  have hcount : ((List.range 30).filter (fun (j : Nat) => geEighth m (e + scOf x.sc) (2 * ((j : Int) + 1 - 16) + 1))).length = k := by
    refine boundaries_reached (fun j => ?_) hk hge hlt
    rw [geEighth_iff, show 2 * ((j : Int) + 1 - 16) + 1 = 2 * j - 29 by ring]
    rfl
  rw [cvtOp_lns, ← lnsClamp_eq x s (by omega)]
  simp only [cvtToLns, h, hm, hlow, hhigh, hcount, if_false, Bool.not_true, Bool.false_eq_true]
  rw [Nat.add_comm 1 k]
  rfl

end

theorem inexactFlag_eq (m : Nat) (e t : Int) :
    fxIf (!eqQuarter m e t) fxNX = if (m : ℝ) * 2 ^ e = (2 : ℝ) ^ ((t : ℝ) / 4) then 0 else fxNX := by
  simp only [← eqQuarter_iff]
  cases eqQuarter m e t <;> rfl

end

theorem cvtLns_nan {x : FmtA} {a : W64} {q : Bool} (h : F32.decode (F32.modify x.ma (a.toNat % 2 ^ 32)) = .nan q) :
    cvtOp .lns6f32 x a = (0, fxNV) := by
  rw [cvtOp_lns]
  simp only [cvtToLns, h]
  cases hcl : x.cl <;> simp [lnsClamp]

theorem cvtLns_inf {x : FmtA} {a : W64} {s : Bool} (h : F32.decode (F32.modify x.ma (a.toNat % 2 ^ 32)) = .inf s) :
    cvtOp .lns6f32 x a = (lnsGives x s 31, fxOF ||| fxNX) := by
  rw [cvtOp_lns, ← lnsClamp_eq x s (by decide)]
  simp only [cvtToLns, h]
  cases s <;> rfl

/-- Each magnitude goes to the code in whose interval it lies (R127). -/
theorem cvtLns_fin {x : FmtA} {a : W64} {s : Bool} {m : Nat} {e : Int} (h : F32.decode (F32.modify x.ma (a.toNat % 2 ^ 32)) = .fin s m e) :
    let v : ℝ := ((ratOf false m e : ℚ) : ℝ) * 2 ^ x.sc.toInt
    let at' := fun (k : ℝ) => (2 : ℝ) ^ ((k - 16) / 4)
    (v = 0 → cvtOp .lns6f32 x a = (lnsGives x s 0, 0))
    ∧ (0 < v → v < 2 ^ (-4 : ℤ) → cvtOp .lns6f32 x a = (lnsGives x s 0, fxUF ||| fxNX))
    ∧ (at' 31.5 ≤ v → cvtOp .lns6f32 x a = (lnsGives x s 31, fxOF ||| fxNX))
    ∧ ∀ k : Nat, 1 ≤ k → k ≤ 31 → (if k = 1 then 2 ^ (-4 : ℤ) else at' (k - 1 / 2)) ≤ v → v < at' (k + 1 / 2) →
        (v = at' k → cvtOp .lns6f32 x a = (lnsGives x s k, 0)) ∧ (v ≠ at' k → cvtOp .lns6f32 x a = (lnsGives x s k, fxNX)) := by
  intro v at'
  have hv : v = m * 2 ^ (e + x.sc.toInt) := by
    rw [zpow_add₀ two_ne_zero, ← mul_assoc, ← ratOf_false_real]
  have hat : ∀ (k : ℝ) (t : ℤ), 2 * k - 32 = t → at' k = (2 : ℝ) ^ ((t : ℝ) / 8) := fun k t ht => by
    change (2 : ℝ) ^ ((k - 16) / 4) = _
    rw [← ht]
    congr 1
    ring
  rw [hv]
  refine ⟨cvtLns_zero h, cvtLns_small h, fun hge => ?_, fun k h1 h31 hge hlt => ?_⟩
  · rw [hat 31.5 31 (by norm_num)] at hge
    exact cvtLns_large h hge
  · obtain ⟨j, rfl⟩ := Nat.exists_eq_add_of_le' h1
    rw [hat _ (2 * j - 29) (by push_cast; ring)] at hlt
    have hfirst : (2 : ℝ) ^ (-4 : ℤ) ≤ m * 2 ^ (e + x.sc.toInt) := by
      refine le_trans ?_ hge
      split
      · rfl
      next hne =>
        have hj : (1 : ℝ) ≤ j := by exact_mod_cast (show 1 ≤ j by omega)
        rw [← Real.rpow_intCast]
        refine Real.rpow_le_rpow_of_exponent_le one_le_two ?_
        push_cast
        linarith
    have hlower : j ≠ 0 → (2 : ℝ) ^ (((2 * j - 31 : ℤ) : ℝ) / 8) ≤ m * 2 ^ (e + x.sc.toInt) := fun hj => by
      rwa [if_neg (by omega), hat _ (2 * j - 31) (by push_cast; ring)] at hge
    have hflag : ((((j + 1 : Nat) : Int) - 16 : ℤ) : ℝ) / 4 = (((j + 1 : Nat) : ℝ) - 16) / 4 := by push_cast; ring
    rw [cvtLns_between h (by omega) hfirst hlower hlt, inexactFlag_eq, hflag]
    exact ⟨fun he => by rw [if_pos he], fun hne => by rw [if_neg hne]⟩

/-! ### CVT from lns6 (R107, R127) -/

/-- The whole part of a fourth root. -/
theorem fourth_root (N : Nat) : N.sqrt.sqrt ^ 4 ≤ N ∧ N < (N.sqrt.sqrt + 1) ^ 4 := by
  constructor
  · calc N.sqrt.sqrt ^ 4 = (N.sqrt.sqrt ^ 2) ^ 2 := by rw [← pow_mul]
      _ ≤ N.sqrt ^ 2 := Nat.pow_le_pow_left (Nat.sqrt_le' _) 2
      _ ≤ N := Nat.sqrt_le' _
  · calc N < (N.sqrt + 1) ^ 2 := Nat.lt_succ_sqrt' _
      _ ≤ ((N.sqrt.sqrt + 1) ^ 2) ^ 2 := Nat.pow_le_pow_left (Nat.lt_succ_sqrt' _) 2
      _ = _ := by rw [← pow_mul]

/-- No fourth power is 2^n but for the multiples n of 4. -/
theorem pow_four_ne {w n : Nat} (hn : n % 4 ≠ 0) : w ^ 4 ≠ 2 ^ n := by
  intro h
  obtain ⟨j, -, hj⟩ := (Nat.dvd_prime_pow Nat.prime_two).mp (h ▸ dvd_pow_self w (by decide))
  rw [hj, ← pow_mul] at h
  have := Nat.pow_right_injective le_rfl h
  omega

/-- 2^(r/4), for r no multiple of 4, on 201 fraction bits, the last of which is set. -/
theorem jammed_quarter {r : Nat} (hr : r % 4 ≠ 0) (i : Int) :
    Jammed (2 * (2 ^ (r + 800)).sqrt.sqrt + 1) (i - 201) (2 ^ (((4 * i + r : ℤ) : ℝ) / 4)) := by
  obtain ⟨hle, hlt⟩ := fourth_root (2 ^ (r + 800))
  have hne := pow_four_ne (w := (2 ^ (r + 800)).sqrt.sqrt) (n := r + 800) (by omega)
  have hpow := two_rpow_div_pow (4 * i + r) (n := 4) (by decide)
  have hunit : (2 : ℝ) ^ (i - 201) * 2 = 2 ^ (i - 200) := by rw [← zpow_add_one₀ two_ne_zero]; congr 1; ring
  have hU : ((2 ^ (r + 800) : ℕ) : ℝ) * (2 ^ (i - 200)) ^ 4 = 2 ^ (4 * i + r : ℤ) := by
    rw [Nat.cast_pow, Nat.cast_ofNat, ← zpow_natCast, ← zpow_natCast ((2 : ℝ) ^ (i - 200)), ← zpow_mul, ← zpow_add₀ two_ne_zero]
    congr 1
    push_cast
    ring
  generalize 2 ^ (r + 800) = N at *
  generalize N.sqrt.sqrt = w at *
  have hcmp : ∀ v : ℕ, ((v : ℝ) * 2 ^ (i - 200)) ^ 4 = (v ^ 4 : ℕ) * (2 ^ (i - 200)) ^ 4 := fun v => by push_cast; ring
  refine ⟨by omega, ?_, ?_⟩
  · rw [show (((2 * w + 1 : ℕ) : ℝ) - 1) * 2 ^ (i - 201) = w * 2 ^ (i - 200) by rw [← hunit]; push_cast; ring,
      ← pow_lt_pow_iff_left₀ (by positivity) (by positivity) (show 4 ≠ 0 by decide), hcmp]
    refine lt_of_lt_of_eq ?_ hpow.symm
    rw [← hU]
    exact mul_lt_mul_of_pos_right (by exact_mod_cast lt_of_le_of_ne hle hne) (by positivity)
  · rw [show (((2 * w + 1 : ℕ) : ℝ) + 1) * 2 ^ (i - 201) = (w + 1 : ℕ) * 2 ^ (i - 200) by rw [← hunit]; push_cast; ring,
      ← pow_lt_pow_iff_left₀ (by positivity) (by positivity) (show 4 ≠ 0 by decide), hcmp]
    refine lt_of_eq_of_lt hpow ?_
    rw [← hU]
    exact mul_lt_mul_of_pos_right (by exact_mod_cast hlt) (by positivity)

theorem two_pow_le_fourth_root {k n : Nat} (h : k * (2 * 2) ≤ n) : 2 ^ k ≤ (2 ^ n).sqrt.sqrt := by
  rw [Nat.le_sqrt', Nat.le_sqrt', ← pow_mul, ← pow_mul]
  exact Nat.pow_le_pow_right two_pos h

/-- More bits than a rounding to binary32 looks at. -/
theorem quarter_bits (r : Nat) : 2 ^ (F32.mw + 2) < 2 * (2 ^ (r + 800)).sqrt.sqrt + 1 := by
  have h : 2 ^ (F32.mw + 2) ≤ (2 ^ (r + 800)).sqrt.sqrt := two_pow_le_fourth_root (by rw [show F32.mw = 23 from rfl]; omega)
  omega

theorem two_rpow_quarter_mul (i r c : ℤ) : (2 : ℝ) ^ (((4 * i + r : ℤ) : ℝ) / 4) * 2 ^ c = 2 ^ (((4 * (i + c) + r : ℤ) : ℝ) / 4) := by
  rw [← Real.rpow_intCast, ← Real.rpow_add two_pos]
  congr 1
  push_cast
  ring

/-- An lns6 code whose exponent is i + r/4. -/
theorem lnsValue_eq {n : Nat} (hm : n % 32 ≠ 0) {i : Int} {r : Nat} (hr : r < 4) (h : 4 * i + r = (n % 32 : Nat) - 16) :
    lnsValue n = if r = 0 then .num (decide (n / 32 % 2 = 1)) 1 i
      else .num (decide (n / 32 % 2 = 1)) (2 * (2 ^ (r + 800)).sqrt.sqrt + 1) (i - 201) := by
  have hi : (((n % 32 : Nat) : Int) - 16) / 4 = i := by omega
  have hr : ((((n % 32 : Nat) : Int) - 16) % 4).toNat = r := by omega
  simp only [lnsValue, hm, if_false, hi, hr]

/-- The value of an lns6 code, scaled and rounded once (R107, R110). -/
theorem lnsValue_roundsTo (n : Nat) (sc : BitVec 3) :
    let s := decide (n / 32 % 2 = 1)
    ∃ q e, lnsValue n = .num s q e ∧ RoundsTo F32 s (if n % 32 = 0 then 0
      else (if s then -1 else 1) * (2 : ℝ) ^ (((n % 32 : Nat) - 16 : ℝ) / 4) * 2 ^ sc.toInt) (F32.round s q (e + sc.toInt)) := by
  intro s
  by_cases hm : n % 32 = 0
  · refine ⟨0, 0, by simp only [lnsValue, hm, if_true, s], ?_⟩
    rw [if_pos hm]
    have := f32_sound.round_roundsTo s 0 (0 + sc.toInt)
    rwa [ratOf_real, Nat.cast_zero, zero_mul, mul_zero] at this
  · obtain ⟨i, r, hr, h⟩ : ∃ (i : Int) (r : Nat), r < 4 ∧ 4 * i + r = (n % 32 : Nat) - 16 :=
      ⟨(((n % 32 : Nat) : Int) - 16) / 4, ((((n % 32 : Nat) : Int) - 16) % 4).toNat, by omega, by omega⟩
    have hx : (if s then -1 else 1) * (2 : ℝ) ^ (((n % 32 : Nat) - 16 : ℝ) / 4) * 2 ^ sc.toInt
        = signedReal s (2 ^ (((4 * (i + sc.toInt) + r : ℤ) : ℝ) / 4)) := by
      rw [← two_rpow_quarter_mul, h, signedReal, Int.cast_sub, Int.cast_natCast, Int.cast_ofNat]
      split <;> ring
    rw [if_neg hm, hx, lnsValue_eq hm hr h]
    by_cases hr0 : r = 0
    · refine ⟨1, i, if_pos hr0, ?_⟩
      have hval : signedReal s (2 ^ (((4 * (i + sc.toInt) + r : ℤ) : ℝ) / 4)) = ((ratOf s 1 (i + sc.toInt) : ℚ) : ℝ) := by
        rw [hr0, Nat.cast_zero, add_zero, Int.cast_mul, Int.cast_ofNat, mul_div_cancel_left₀ _ (by norm_num), Real.rpow_intCast, ratOf_real,
          signedReal, Nat.cast_one, one_mul]
        cases s <;> simp
      rw [hval]
      exact f32_sound.round_roundsTo s 1 _
    · refine ⟨_, i - 201, if_neg hr0, ?_⟩
      rw [show i - 201 + sc.toInt = i + sc.toInt - 201 by ring]
      exact (jammed_quarter (by omega) _).roundsTo f32_sound (quarter_bits r) s s

theorem cvtRows_fromLns (x : FmtA) (a : W64) :
    let s := a.getLsbD 5
    let m := a.toNat % 32
    ∃ y, cvtOp .f32lns6 x a = (BitVec.ofNat 64 (F32.clamp x.cl y.1), y.2)
      ∧ RoundsTo F32 s (if m = 0 then 0 else (if s then -1 else 1) * (2 : ℝ) ^ (((m : ℝ) - 16) / 4) * 2 ^ x.sc.toInt) y := by
  intro s m
  obtain ⟨q, e, hval, hround⟩ := lnsValue_roundsTo (a.toNat % 2 ^ 6) x.sc
  have hs : decide (a.toNat % 2 ^ 6 / 32 % 2 = 1) = s := by
    rw [show s = a.getLsbD 5 from rfl, ← BitVec.testBit_toNat, Nat.testBit_eq_decide_div_mod_eq]
    congr 1
    exact propext (by omega)
  have hm : a.toNat % 2 ^ 6 % 32 = m := by omega
  rw [hs, hm] at hround
  rw [hs] at hval
  refine ⟨_, ?_, hround⟩
  have hop : cvtOp .f32lns6 x a = (BitVec.ofNat 64 ((lnsValue (a.toNat % 2 ^ 6)).finish F32 x.sc x.cl).1,
      ((lnsValue (a.toNat % 2 ^ 6)).finish F32 x.sc x.cl).2) := by rw [← elem_zero]; rfl
  rw [hop, hval]
  rfl

theorem conversionRows : Says.ConversionRows := by
  intro x a single scale
  refine ⟨fun p hp => cvtRows_specials x a hp, ?_, cvtRows_fromLns x a, cvtRows_s32 x a, cvtRows_s64 x a⟩
  cases h : F32.decode single with
  | nan q => exact cvtLns_nan h
  | inf s => exact cvtLns_inf h
  | fin s m e => exact cvtLns_fin h

/-- Settles O33: FMIN, FMAX, FCMP and FRND by what `FFmt.minmax`, `FFmt.compare` and `FFmt.integral` say of two codes, the integers by
`toIntegral_nearest`, and CVT row by row: of lns6 codes, by the boundaries that a value reaches (`boundaries_reached`) and by powers of
2^(1/4) held with a set last bit, which round as the power does (`Jammed.roundsTo`). -/
theorem floatChoicesAndIntegers : Obligations.FloatChoicesAndIntegers := ⟨floatChoices, integralValues, conversions, conversionRows⟩

end Sys2Proof.Machine
end

section
namespace Sys2Proof.Machine
set_option Elab.async false

/-! ### Elements of a register (R108, R131) -/

/-- Element k of a result of n elements that fill the register. -/
theorem elementwise_elem {w n k : Nat} (op : Nat → Nat × Fpx) (hw : w * n ≤ 64) (hk : k < n) :
    (elementwise w n op).1.toNat / 2 ^ (w * k) % 2 ^ w = (op k).1 % 2 ^ w := by
  have hlt : pack w (((List.range n).map op).map (·.1)) < 2 ^ 64 :=
    (pack_lt w _).trans_le (Nat.pow_le_pow_right (by decide) (by simpa using hw))
  rw [elementwise, BitVec.toNat_ofNat, Nat.mod_eq_of_lt hlt, List.map_map]
  exact pack_range_elem (fun j => (op j).1) hk

theorem elementwise_two (w : Nat) (op : Nat → Nat × Fpx) :
    elementwise w 2 op = (BitVec.ofNat 64 ((op 0).1 % 2 ^ w + 2 ^ w * ((op 1).1 % 2 ^ w)), (op 0).2 ||| (op 1).2) := by
  simp [elementwise, pack, List.range_succ]

/-! ### BSPACK and BSUNPK (R277, R278) -/

theorem elem_high (a : W64) : elem 32 1 a.toNat = a.toNat / 2 ^ 32 := Nat.mod_eq_of_lt (by have := a.isLt; omega)

/-- The fields of c, but for two that are replaced. -/
theorem bspackOp_elem (f : BsF) (a b c : W64) {k : Nat} (hk : k < 64 / BsF.width f) :
    (bspackOp f [a, b, c]).1.toNat / 2 ^ (BsF.width f * k) % 2 ^ BsF.width f
      = if k = 2 * BsF.pos f b then (BsF.quant f b (a.toNat % 2 ^ 32)).1 % 2 ^ BsF.width f
        else if k = 2 * BsF.pos f b + 1 then (BsF.quant f b (a.toNat / 2 ^ 32)).1 % 2 ^ BsF.width f
        else c.toNat / 2 ^ (BsF.width f * k) % 2 ^ BsF.width f := by
  have hfill : BsF.width f * (64 / BsF.width f) = 64 := by cases f <;> rfl
  have hlt {l : List Nat} (hl : l.length = 64 / BsF.width f) : pack (BsF.width f) l < 2 ^ 64 :=
    (pack_lt _ l).trans_eq (by rw [hl, hfill])
  simp only [bspackOp, arg, List.getD_cons_zero, List.getD_cons_succ, BitVec.toNat_ofNat]
  rw [Nat.mod_eq_of_lt (hlt (by simp)), pack_range_elem _ hk, elem_zero, elem_high, elem]
  split
  · rfl
  split
  · rfl
  · exact Nat.mod_mod ..

theorem bspackOp_flags (f : BsF) (a b c : W64) :
    (bspackOp f [a, b, c]).2 = (BsF.quant f b (a.toNat % 2 ^ 32)).2 ||| (BsF.quant f b (a.toNat / 2 ^ 32)).2 := by
  simp only [bspackOp, arg, List.getD_cons_zero, List.getD_cons_succ, elem_zero, elem_high]

/-- The two elements of the pair, as binary32 values side by side. -/
theorem bsunpkOp_eq (f : BsF) (a b : W64) : bsunpkOp f [a, b] =
    let e := fun (k : Nat) => unquant f b (a.toNat / 2 ^ (BsF.width f * (2 * BsF.pos f b + k)) % 2 ^ BsF.width f)
    (BitVec.ofNat 64 ((e 0).1 % 2 ^ 32 + 2 ^ 32 * ((e 1).1 % 2 ^ 32)), (e 0).2 ||| (e 1).2) :=
  elementwise_two 32 _

/-! ### LMUL (R280) -/

theorem lmulElem_eq (a b : Nat) : (lmulElem a b).1 = let m := (a % 32 : Int) + b % 32 - 16
    32 * ((a / 32 + b / 32) % 2) + if a % 32 = 0 ∨ b % 32 = 0 then 0 else if 31 < m then 31 else if m < 1 then 0 else m.toNat := by
  have hsign : (a / 32 % 2) ^^^ (b / 32 % 2) = (a / 32 + b / 32) % 2 := by
    rcases Nat.mod_two_eq_zero_or_one (a / 32) with h | h <;> rcases Nat.mod_two_eq_zero_or_one (b / 32) with h' | h' <;>
      simp [h, h', Nat.add_mod]
  simp only [lmulElem, hsign]
  split
  · rfl
  · split_ifs <;> omega

theorem lmulElem_lt (a b : Nat) : (lmulElem a b).1 < 2 ^ 8 := by
  rw [lmulElem_eq]
  dsimp only
  split_ifs <;> omega

theorem lmul_byte (a b : W64) {j : Nat} (hj : j < 8) :
    (elementwise 8 8 (fun j => lmulElem (elem 8 j (arg [a, b] 0).toNat) (elem 8 j (arg [a, b] 1).toNat))).1.toNat / 256 ^ j % 256
      = (lmulElem (a.toNat / 256 ^ j % 256) (b.toNat / 256 ^ j % 256)).1 := by
  have h256 : 256 ^ j = 2 ^ (8 * j) := (Nat.pow_mul 2 8 j).symm
  rw [h256]
  exact (elementwise_elem _ (by decide) hj).trans (Nat.mod_eq_of_lt (lmulElem_lt ..))

/-! ### Sums of eight products (R281, R283) -/

theorem dotOp_eq (x : FmtA) (prod : Nat → Nat → Int) (a b c : W64) : dotOp x prod [a, b, c] =
    (let y := c.toInt + ((List.range 8).map (fun j => prod (a.toNat / 256 ^ j % 256) (b.toNat / 256 ^ j % 256))).sum
     (BitVec.ofInt 64 (if x.cl = .sat then max (-(2 ^ 63)) (min y (2 ^ 63 - 1)) else y), 0)) := by
  have h256 (j : Nat) : 256 ^ j = 2 ^ (8 * j) := (Nat.pow_mul 2 8 j).symm
  have hsat (y : Int) : satInt 64 y = max (-(2 ^ 63)) (min y (2 ^ 63 - 1)) := by simp only [satInt]; omega
  simp only [dotOp, arg, List.getD_cons_zero, List.getD_cons_succ, elem, h256, hsat, beq_iff_eq, word64]
  rfl

theorem sextN_eq_ofNat (n : Nat) {w : Nat} (hw : 1 ≤ w) : sextN n w = (BitVec.ofNat w n).toInt := by
  rw [sextN_eq_bmod n hw]
  exact (BitVec.toInt_ofNat ..).symm

/-! ### BPLANE (R282) -/

theorem elem_one_testBit (k n : Nat) : elem 1 k n = (n.testBit k).toNat := by
  rw [elem, Nat.one_mul, Nat.toNat_testBit, pow_one]

theorem bplaneOp_bit (v : PlaneW) (a : W64) {p j : Nat} (hp : p < PlaneW.n v) (hj : j < 64 / PlaneW.n v) :
    (bplaneOp v a).getLsbD (64 / PlaneW.n v * p + j) = a.getLsbD (PlaneW.n v * j + p) := by
  have hk : 64 / PlaneW.n v * p + j < 64 := by cases v <;> simp only [PlaneW.n] at * <;> omega
  have hj0 : (64 / PlaneW.n v * p + j) % (64 / PlaneW.n v) = j := by rw [Nat.mul_add_mod, Nat.mod_eq_of_lt hj]
  have hp0 : (64 / PlaneW.n v * p + j) / (64 / PlaneW.n v) = p := by rw [Nat.mul_add_div (by omega), Nat.div_eq_of_lt hj, Nat.add_zero]
  have hval : (bplaneOp v a).toNat = pack 1 ((List.range 64).map (fun k => elem 1 (PlaneW.n v * (k % (64 / PlaneW.n v)) + k / (64 / PlaneW.n v)) a.toNat)) :=
    Nat.mod_eq_of_lt (pack_lt 1 _)
  have helem := pack_range_elem (w := 1) (fun k => elem 1 (PlaneW.n v * (k % (64 / PlaneW.n v)) + k / (64 / PlaneW.n v)) a.toNat) hk
  rw [← hval, hj0, hp0] at helem
  change elem 1 _ (bplaneOp v a).toNat = _ at helem
  rw [elem_one_testBit, elem_one_testBit, BitVec.testBit_toNat, BitVec.testBit_toNat] at helem
  cases h : (bplaneOp v a).getLsbD (64 / PlaneW.n v * p + j) <;> cases h' : a.getLsbD (PlaneW.n v * j + p) <;> simp_all

theorem packingAndDots : Says.PackingAndDots := by
  intro s g r t x a b c
  refine ⟨fun f ha hb hc h => ⟨(bspackOp f [a, b, c]).1, ?_, fun k hk => bspackOp_elem f a b c hk⟩, fun f hs h => ?_, fun hs h => ?_,
    fun hs => ⟨fun h => ?_, fun h => ?_, fun h => ?_⟩, fun w hs h => ?_⟩
  · rw [← bspackOp_flags f a b c]
    exact regOp_reads (i := .bspack f x) rfl [a, b, c] h (by simp only [List.map_cons, List.map_nil, ha, hb, hc])
  · exact regOp_e2 rfl rfl h hs (bsunpkOp_eq f a b)
  · refine ⟨_, _, regOp_e2 rfl rfl h hs rfl, fun j hj => ?_⟩
    exact (lmul_byte a b hj).trans (lmulElem_eq ..)
  · refine regOp_e3 (i := .lacc x) rfl rfl h hs ?_
    exact dotOp_eq x lnsProd a b c
  · refine regOp_e3 (i := .qdot .s x) rfl rfl h hs ?_
    simp only [← sextN_eq_ofNat _ (show 1 ≤ 8 by decide)]
    exact dotOp_eq x (fun p q => sextN p 8 * sextN q 8) a b c
  · refine regOp_e3 (i := .qdot .n x) rfl rfl h hs ?_
    exact dotOp_eq x (fun p q => (p : Int) * q) a b c
  · exact ⟨_, regOp_e1 rfl rfl h hs rfl, fun p hp j hj => by cases w <;> exact bplaneOp_bit _ a hp hj⟩

end Sys2Proof.Machine
end

section
namespace Sys2Proof.Machine
set_option Elab.async false

/-! ### The elements that BSPACK makes (R116, R118, R277; log 37, 99) -/

theorem scaleE_eq (b : W64) : scaleE b = b.toNat % 256 := by rw [scaleE, bits_toNat]; omega

/-- An integer bounded to the range of w bits, as a code; a bound raises NV. -/
def boundedElem (w : Nat) (i : Int) (fl : Fpx) : Nat × Fpx :=
  ((max (-(2 ^ (w - 1))) (min (2 ^ (w - 1) - 1) i) % 2 ^ w).toNat, fl ||| if i < -(2 ^ (w - 1)) ∨ 2 ^ (w - 1) - 1 < i then fxNV else 0)

theorem boundedElem_eq (w : Nat) (i : Int) (fl : Fpx) :
    (let r := if i > 2 ^ (w - 1) - 1 then ((2 : Int) ^ (w - 1) - 1, fl ||| fxNV) else if i < -(2 ^ (w - 1)) then (-(2 ^ (w - 1)), fl ||| fxNV) else (i, fl)
     ((r.1 % 2 ^ w).toNat, r.2)) = boundedElem w i fl := by
  have hpos : (0 : Int) < 2 ^ (w - 1) := by positivity
  simp only [boundedElem]
  generalize (2 : Int) ^ (w - 1) = h at *
  split
  next hi => rw [if_pos (.inr (by omega)), min_eq_left (by omega), max_eq_right (by omega)]
  split
  next hi hlo => rw [if_pos (.inl hlo), min_eq_right (by omega), max_eq_left (by omega)]
  next hi hlo => rw [if_neg (by omega), min_eq_right (by omega), max_eq_right (by omega)]; exact congrArg _ (BitVec.or_zero).symm

section
variable {b : W64} {code : Nat} (w : Nat)

theorem quantInt_void (h : scaleE b = 255 ∨ (F32.decode code).isNan = true) : quantInt w b code = boundedElem w (scaleZ b) fxNV := by
  simp only [quantInt]
  split
  · exact boundedElem_eq ..
  next hE =>
    cases hx : F32.decode code with
    | nan _ => exact boundedElem_eq ..
    | inf s => rw [hx] at h; simp [hE, FVal.isNan] at h
    | fin s m e => rw [hx] at h; simp [hE, FVal.isNan] at h

theorem quantInt_inf {s : Bool} (hE : scaleE b ≠ 255) (h : F32.decode code = .inf s) :
    quantInt w b code = boundedElem w (if s then -(2 ^ (w - 1)) else 2 ^ (w - 1) - 1) fxNV := by
  simp only [quantInt, hE, h, if_false]
  exact boundedElem_eq ..

theorem quantInt_fin {s : Bool} {m : Nat} {e : Int} (hE : scaleE b ≠ 255) (h : F32.decode code = .fin s m e) :
    quantInt w b code = boundedElem w ((toIntegral .rn s m (e + 127 - scaleE b)).1 + scaleZ b)
      (if ((toIntegral .rn s m (e + 127 - scaleE b)).1 : ℚ) = ratOf s m (e + 127 - scaleE b) then 0 else fxNX) := by
  have hfl : fxIf (!(toIntegral .rn s m (e + 127 - scaleE b)).2) fxNX
      = if ((toIntegral .rn s m (e + 127 - scaleE b)).1 : ℚ) = ratOf s m (e + 127 - scaleE b) then 0 else fxNX := by
    rw [toIntegral_exact]
    split <;> simp [fxIf, *]
  simp only [quantInt, hE, h, if_false, hfl]
  exact boundedElem_eq ..

end

theorem quantF_void {f : FFmt} {b : W64} {code : Nat} (h : scaleE b = 255 ∨ (F32.decode code).isNan = true) :
    quantF f b code = (f.nan, if (F32.decode code).isSnan = true ∨ f.hasNan = false then fxNV else 0) := by
  have hnan : F32.decode F32.nan = .nan false := by decide +kernel
  simp only [quantF]
  split
  · simp only [cvtFF, hnan, nvOf, List.any_cons, List.any_nil, Bool.or_false]
    cases f.hasNan <;> cases (F32.decode code).isSnan <;> rfl
  next hE =>
    cases hx : F32.decode code with
    | nan q =>
      simp only [cvtFF, hx, FVal.isSnan]
      cases f.hasNan <;> cases q <;> rfl
    | inf s => rw [hx] at h; simp [hE, FVal.isNan] at h
    | fin s m e => rw [hx] at h; simp [hE, FVal.isNan] at h

theorem quantF_inf {f : FFmt} {b : W64} {code : Nat} {s : Bool} (hf : f.hasInf = false) (hE : scaleE b ≠ 255) (h : F32.decode code = .inf s) :
    quantF f b code = (withSign f s f.maxCode, fxOF ||| fxNX) := by
  simp only [quantF, hE, h, if_false, cvtFF, hf]
  rfl

theorem quantF_fin {f : FFmt} {b : W64} {code : Nat} {s : Bool} {m : Nat} {e : Int} (hE : scaleE b ≠ 255) (h : F32.decode code = .fin s m e) :
    quantF f b code = f.round s m (e + 127 - scaleE b) := by
  simp only [quantF, hE, h, if_false]

/-! ### The values that BSUNPK makes (R278) -/

theorem unquant_void {b : W64} (h : scaleE b = 255) (f : BsF) (q : Nat) : unquant f b q = (0x7FC00000, 0) := by
  rw [unquant, if_pos h]; rfl

theorem unquant_int {p : BsF × Nat} (hp : p ∈ [(BsF.i8, 8), (.i4, 4)]) {b : W64} (h : scaleE b ≠ 255) (q : Nat) :
    unquant p.1 b q = F32.round (decide ((BitVec.ofNat p.2 q).toInt - scaleZ b < 0)) ((BitVec.ofNat p.2 q).toInt - scaleZ b).natAbs (scaleE b - 127) := by
  simp only [List.mem_cons, List.not_mem_nil, or_false] at hp
  rcases hp with rfl | rfl
  · rw [← sextN_eq_ofNat q (by decide), unquant, if_neg h]
  · rw [← sextN_eq_ofNat q (by decide), unquant, if_neg h]

theorem unquant_float {p : BsF × FFmt} (hp : p ∈ [(BsF.e4m3, E4M3), (.e2m1, E2M1)]) {b : W64} (h : scaleE b ≠ 255) (q : Nat) :
    (∀ g, p.2.decode q = .nan g → unquant p.1 b q = (0x7FC00000, 0))
    ∧ ∀ s m e, p.2.decode q = .fin s m e → unquant p.1 b q = F32.round s m (e + scaleE b - 127) := by
  simp only [List.mem_cons, List.not_mem_nil, or_false] at hp
  rcases hp with rfl | rfl
  · exact ⟨fun g hq => by rw [unquant, if_neg h]; simp only [hq]; rfl, fun s m e hq => by rw [unquant, if_neg h]; simp only [hq]⟩
  · exact ⟨fun g hq => by rw [unquant, if_neg h]; simp only [hq]; rfl, fun s m e hq => by rw [unquant, if_neg h]; simp only [hq]⟩

/-- An integer times 2^e, rounded once. -/
theorem round_int_roundsTo (v e : Int) : RoundsTo F32 false (((v : ℚ) * 2 ^ e : ℚ) : ℝ) (F32.round (decide (v < 0)) v.natAbs e) := by
  have hval : ratOf (decide (v < 0)) v.natAbs e = v * 2 ^ e := by
    rcases lt_or_ge v 0 with h | h
    · have : ((v.natAbs : Nat) : ℚ) = -v := by rw [Nat.cast_natAbs, abs_of_neg h]; push_cast; rfl
      simp [ratOf, h, this]
    · have : ((v.natAbs : Nat) : ℚ) = v := by rw [Nat.cast_natAbs, abs_of_nonneg h]
      simp [ratOf, not_lt.mpr h, this]
  rw [← hval]
  refine RoundsTo.of_sign (f32_sound.round_roundsTo _ _ _) fun h0 => ?_
  have h0 : ratOf (decide (v < 0)) v.natAbs e = 0 := by exact_mod_cast h0
  rw [ratOf_eq_zero, Int.natAbs_eq_zero] at h0
  subst h0; rfl

theorem quantised : Says.Quantised := by
  intro b code _ E Z x
  have hE : E = (scaleE b : Int) := congrArg Nat.cast (scaleE_eq b).symm
  have hE255 : ((scaleE b : Nat) : Int) = 255 ↔ scaleE b = 255 := by omega
  simp only [hE, ne_eq, hE255]
  refine ⟨fun p hp => ?_, fun p hp => ?_, fun h f => unquant_void h f code, fun h => ⟨fun p hp => ?_, fun p hp => ?_⟩⟩
  · have hq : BsF.quant p.1 b code = quantInt p.2 b code := by
      simp only [List.mem_cons, List.not_mem_nil, or_false] at hp
      rcases hp with rfl | rfl <;> rfl
    rw [hq]
    exact ⟨quantInt_void p.2, fun h s hx => quantInt_inf p.2 h hx,
      fun h s m e hx => ⟨_, (toIntegral_nearest s m _).1, (toIntegral_nearest s m _).2, quantInt_fin p.2 h hx⟩⟩
  · have hq : BsF.quant p.1 b code = quantF p.2 b code ∧ p.2.Sound ∧ p.2.hasInf = false ∧ (p.2.hasNan = false ↔ p.1 = .e2m1) := by
      simp only [List.mem_cons, List.not_mem_nil, or_false] at hp
      rcases hp with rfl | rfl
      · exact ⟨rfl, FFmt.sound_of_mem (by simp), rfl, by decide⟩
      · exact ⟨rfl, FFmt.sound_of_mem (by simp), rfl, by decide⟩
    obtain ⟨hq, hf, hinf, hnan⟩ := hq
    simp only [hq, ← hnan]
    exact ⟨quantF_void, fun h s hx => quantF_inf hinf h hx, fun h s m e hx => quantF_fin h hx ▸ hf.round_roundsTo s m _⟩
  · rw [unquant_int hp h]
    exact round_int_roundsTo ..
  · obtain ⟨hnan, hfin⟩ := unquant_float hp h code
    exact ⟨hnan, fun s m e hx => hfin s m e hx ▸ f32_sound.round_roundsTo s m _⟩

end Sys2Proof.Machine
end

section
namespace Sys2Proof.Machine
set_option Elab.async false

/-! ### The products of lns6 codes (R121) -/

/-- 2^(r/4), for r below 4, on 15 fraction bits. -/
def quarterPower (r : Nat) : Nat := [0x8000, 0x9838, 0xB505, 0xD745].getD r 0

theorem quarterPower_pos {r : Nat} (h : r < 4) : 0 < quarterPower r := by
  interval_cases r <;> decide

/-- The magnitude of the product of codes whose exponents have the sum n: four more double it. -/
def lnsMag (n : Nat) : Nat := quarterPower (n % 4) * 2 ^ (n / 4)

theorem lnsMag_pos (n : Nat) : 0 < lnsMag n := Nat.mul_pos (quarterPower_pos (Nat.mod_lt _ (by decide))) (by positivity)

theorem lnsMag_add_four (n : Nat) : lnsMag (n + 4) = 2 * lnsMag n := by
  rw [lnsMag, lnsMag, Nat.add_mod_right, Nat.add_div_right _ (by decide), Nat.pow_succ]; ring

def lnsSign (a b : Nat) : Int := if a / 32 % 2 = b / 32 % 2 then 1 else -1

section
variable {a b : Nat}

theorem lnsProd_of_zero (h : a % 32 = 0 ∨ b % 32 = 0) : lnsProd a b = 0 := by simp only [lnsProd, h, if_true]

theorem lnsProd_of_ne_zero (h : ¬ (a % 32 = 0 ∨ b % 32 = 0)) : lnsProd a b = lnsSign a b * lnsMag (a % 32 + b % 32) := by
  have hr : ((((a % 32 : Nat) : Int) + (b % 32 : Nat) - 32) % 4).toNat = (a % 32 + b % 32) % 4 := by omega
  have hi : ((((a % 32 : Nat) : Int) + (b % 32 : Nat) - 32) / 4 + 8).toNat = (a % 32 + b % 32) / 4 := by omega
  have hsign : ((a / 32 % 2 == 1) != (b / 32 % 2 == 1)) = !decide (a / 32 % 2 = b / 32 % 2) := by
    rcases Nat.mod_two_eq_zero_or_one (a / 32) with h | h <;> rcases Nat.mod_two_eq_zero_or_one (b / 32) with h' | h' <;> simp [h, h']
  have hfour : (a % 32 + b % 32) % 4 < 4 := Nat.mod_lt _ (by decide)
  simp only [lnsProd, h, if_false, hr, hi, hsign, lnsSign, lnsMag]
  generalize (a % 32 + b % 32) % 4 = r at hfour ⊢
  generalize (a % 32 + b % 32) / 4 = i
  by_cases hs : a / 32 % 2 = b / 32 % 2
  · simp only [hs, decide_true, Bool.not_true, Bool.false_eq_true, if_false, if_true, one_mul]
    interval_cases r <;> simp [quarterPower]
  · simp only [hs, decide_false, Bool.not_false, if_true, if_false, neg_one_mul]
    interval_cases r <;> simp [quarterPower]

theorem logProduct_of_zero (h : a % 32 = 0 ∨ b % 32 = 0) : logProduct a b = 0 := by simp only [logProduct, h, if_true]

theorem logProduct_of_ne_zero (h : ¬ (a % 32 = 0 ∨ b % 32 = 0)) : logProduct a b * 2 ^ 23 = lnsSign a b * lnsMag (a % 32 + b % 32) := by
  have hr : ((((a % 32 + b % 32 : Nat) : Int) - 32) % 4).toNat = (a % 32 + b % 32) % 4 := by omega
  have hi : (((a % 32 + b % 32 : Nat) : Int) - 32) / 4 = ((a % 32 + b % 32) / 4 : Nat) - (8 : Nat) := by omega
  simp only [logProduct, h, if_false, hr, hi, lnsSign, lnsMag, zpow_sub₀ (two_ne_zero (α := ℚ)), zpow_natCast, quarterPower]
  push_cast
  ring

end

theorem logProducts : Says.LogProducts := by
  intro a b ha hb
  have hflip : (a + 32) % 64 % 32 = a % 32 := by omega
  by_cases h : a % 32 = 0 ∨ b % 32 = 0
  · have hswap : b % 32 = 0 ∨ a % 32 = 0 := h.symm
    refine ⟨by rw [lnsProd_of_zero h, logProduct_of_zero h]; simp, by simp [lnsProd_of_zero h, h], ?_, ?_, fun h1 h4 => ?_⟩
    · rw [lnsProd_of_zero h, lnsProd_of_zero hswap]
    · rw [lnsProd_of_zero h, lnsProd_of_zero (by rw [hflip]; exact h)]; rfl
    · rw [lnsProd_of_zero h, lnsProd_of_zero (.inr (by omega))]; rfl
  · have hne := lnsProd_of_ne_zero h
    have hpos := lnsMag_pos (a % 32 + b % 32)
    refine ⟨by rw [hne, logProduct_of_ne_zero h]; push_cast; ring, ?_, ?_, ?_, fun h1 h4 => ?_⟩
    · refine iff_of_false ?_ h
      rw [hne, lnsSign]
      split <;> omega
    · rw [hne, lnsProd_of_ne_zero (fun h' => h h'.symm), Nat.add_comm (b % 32), lnsSign, lnsSign]
      simp only [eq_comm]
    · have hs : lnsSign ((a + 32) % 64) b = -lnsSign a b := by
        simp only [lnsSign]
        split_ifs <;> omega
      rw [hne, lnsProd_of_ne_zero (by rw [hflip]; exact h), hflip, hs, neg_mul]
    · have h4' : (a + 4) % 32 = a % 32 + 4 := by omega
      have hs : lnsSign (a + 4) b = lnsSign a b := by rw [lnsSign, lnsSign, show (a + 4) / 32 = a / 32 by omega]
      rw [hne, lnsProd_of_ne_zero (by rw [h4']; omega), h4', hs, show a % 32 + 4 + b % 32 = a % 32 + b % 32 + 4 by omega, lnsMag_add_four]
      push_cast
      ring

/-- Settles O34: BSPACK replaces fields (`bspackOp_elem`) by elements rounded to an integer and bounded (`quantInt_fin`) or rounded once
(`quantF_fin`); products and planes element by element; the product of lns6 codes by its sign and its quarter powers (`lnsProd_of_ne_zero`). -/
theorem packingAndProducts : Obligations.PackingAndProducts := ⟨packingAndDots, quantised, logProducts⟩

end Sys2Proof.Machine
end

section
namespace Sys2Proof.Machine
set_option Elab.async false

/-! ### 1/√x of a magnitude beyond 2^400 (R132)

`exRsq` takes 2^400 / m in whole numbers before the root, which leaves the bits of one rounding where m is the significand of a code
(at most 2^53). The statement asks it of every m. -/

/-- 2^404, far above every significand, leaves a quotient of 0 and with it the lowest bit alone: 2^−201, where 1/√x is 2^−202. -/
theorem exRsq_two_pow_404 : exRsq (.fin false (2 ^ 404) 0) = .num false 1 (-201) := by decide +kernel

theorem sqrt_two_pow_404 : 1 / Real.sqrt ((ratOf false (2 ^ 404) 0 : ℚ) : ℝ) = 2 ^ (-202 : ℤ) := by
  have h : ((ratOf false (2 ^ 404) 0 : ℚ) : ℝ) = ((2 : ℝ) ^ 202) ^ 2 := by rw [ratOf_false_real, zpow_zero, mul_one, Nat.cast_pow, Nat.cast_ofNat, ← pow_mul]
  rw [h, Real.sqrt_sq (by positivity), zpow_neg, one_div]
  norm_cast

/-- A result without flags is the number itself. -/
theorem RoundsTo.eq_of_no_flag {f : FFmt} {z : Bool} {x : ℝ} {y : Nat × Fpx} (h : RoundsTo f z x y) (hfl : y.2 = 0) :
    ∃ s n q, f.decode y.1 = .fin s n q ∧ ((ratOf s n q : ℚ) : ℝ) = x := by
  obtain ⟨s, N, Q, -, -, hbeyond, hnear⟩ := h
  have hne : ∀ fl : Fpx, fl ≠ 0 → y.2 ≠ fl := fun fl h0 h => h0 (h.symm.trans hfl)
  obtain ⟨-, n, q, hdec, -, -, hflag⟩ := hnear fun hb => hne (fxOF ||| fxNX) (by decide) (congrArg Prod.snd (hbeyond hb))
  refine ⟨s, n, q, hdec, ?_⟩
  by_contra hx
  obtain ⟨htiny, hnormal⟩ := hflag (abs_ne_zero.mpr (sub_ne_zero.mpr hx))
  by_cases ht : |x| < ((ratOf false (2 ^ (f.mw + 2) - 1) (f.qmin - 2) : ℚ) : ℝ)
  · exact hne _ (by decide) (htiny ht)
  · exact hne _ (by decide) (hnormal ht)

/-- Refutes O32: of x = 2^404 the exact result of FRSQ is 2^−201, which is no rounding of 1/√x = 2^−202. -/
theorem not_floatArithmetic : ¬ Obligations.FloatArithmetic := by
  rintro ⟨-, ⟨hrounds, -, -⟩, -⟩
  obtain ⟨-, -, -, -, -, -, hrsq⟩ := hrounds F64 (by simp) 0 false false false (2 ^ 404) 0 0 0 0 0
  have h : RoundsTo F64 false (1 / Real.sqrt ((ratOf false (2 ^ 404) 0 : ℚ) : ℝ) * 2 ^ (0 : BitVec 3).toInt)
    ((exRsq (.fin false (2 ^ 404) 0)).finish F64 0 .none) := hrsq (by positivity) rfl
  rw [exRsq_two_pow_404, sqrt_two_pow_404] at h
  obtain ⟨s, n, q, hdec, hval⟩ := RoundsTo.eq_of_no_flag h (by decide +kernel)
  have hcode : F64.decode ((Ex.num false 1 (-201)).finish F64 0 .none).1 = .fin false (2 ^ 52) (-253) := by decide +kernel
  rw [hcode] at hdec
  injection hdec with hs hn hq
  subst hs hn hq
  rw [ratOf_false_real, show (0 : BitVec 3).toInt = 0 from rfl] at hval
  norm_num at hval

end Sys2Proof.Machine
end

section
namespace Sys2Proof.Machine
set_option Elab.async false

/-! ### The participants of a convergent operation (R44, R268)

`issuers` leaves out a thread whose arrival at a BAR has been performed (R389), which the statement counts among the participants. -/

/-- A lane with g2 = 5, whose arrival at a BAR has been performed. -/
def arrivedThread : Thread := { fetchThread 1 with regs := { fill := 1, cells := [(2, .u 5)] }, arrived := some 0 }
def arrivedGroup : Group := { fetchGroup 1 0 with lanes := true, place := .row 0, threads := [arrivedThread] }
def arrivedState : State := { State.reset.placeWord 0 with cur := some 1, groups := [arrivedGroup] }
/-- g1 = the lanes whose g2 is not 0. -/
def voteG2 : FmtA := ⟨.always, ⟨.g, 1⟩, ⟨.g, 2⟩, ⟨.g, 0⟩, ⟨.g, 0⟩, .none, .none, .none, .none, 0⟩

theorem arrived_convenes : Convenes arrivedState arrivedGroup (fetchRun 0) (.vote .count voteG2) where
  cur := rfl
  grp := rfl
  run := rfl
  lanes := rfl
  first := ⟨rfl, rfl⟩
  regs := by decide +kernel
  sel := by decide +kernel
  rising := by decide +kernel
  bound := by decide +kernel
  all := by decide +kernel

/-- g1 of the lane. -/
def voted (o : Host.Outcome State Fault Refusal) : Option Form :=
  match o with
  | .next u => ((u.group 1).thread 0).map (fun t => t.regs.get 1)
  | _ => none

/-- Refutes O35: VOTE.count over one lane, whose g2 is not 0, gives it 0 where its arrival at a BAR has been performed. -/
theorem not_convergentOperations : ¬ Obligations.ConvergentOperations := by
  rintro ⟨-, hlanes⟩
  obtain ⟨-, -, -, -, hvote, -⟩ := hlanes arrivedState arrivedGroup (fetchRun 0) voteG2 (by decide)
  have hdoes : voted (exec (.vote .count voteG2) arrivedState) = some (.u 0) := by decide +kernel
  rw [hvote .count arrived_convenes] at hdoes
  exact absurd hdoes (by decide +kernel)

end Sys2Proof.Machine
end
